-- ==== Sys2Proof/Word.lean ====
section
/-! DEFINITION. The word types of the block and their plainest arithmetic (R5: registers are 32 bits wide). -/
namespace Sys2Proof

/-- A byte of memory or of a table. -/
abbrev Byte := BitVec 8
/-- A register of the block (R5). -/
abbrev Word := BitVec 32
/-- A 64-bit quantity: a pilot register, a command word, a generator word. -/
abbrev DWord := BitVec 64

/-- Bits [hi:lo] of a number. -/
abbrev bits (x : Nat) (hi lo : Nat) : Nat := (x >>> lo) % 2 ^ (hi + 1 - lo)

/-- Bit i of a number. -/
abbrev bit (x : Nat) (i : Nat) : Bool := x.testBit i

/-- 1 for true and 0 for false. -/
abbrev b2n (b : Bool) : Nat := if b then 1 else 0

end Sys2Proof
end

