-- ==== Sys2Proof/Syntax.lean ====
section
/-! DEFINITION. The commands of the block and the data they carry: one constructor of `Instr` for each row of
spec/opcode_table.json. A row is one whole, indivisible step (file 95 of the spec). The table gives no operands and no bits; the
operands here are what the row's rules say the step takes from outside the block: the master and the data of an access, the
fetched copy of a pilot command, a packet that arrived, a reading of a sensor (log entry 1). -/
namespace Sys2Proof

/-- The masters that reach registers (R5): a port's physical function, a partition's virtual function, the management
path, and the RDC path of a core's pilot. -/
inductive Master where
  | pf (k : Nat)
  | vf (p : Nat)
  | mgmt
  | rdc (n : Nat)
  deriving DecidableEq, Repr

/-- The 32 bytes of a pilot command, W0 to W3 (R208): the fetched copy that the pilot executes (R205). -/
structure Cmd where
  w0 : DWord
  w1 : DWord
  w2 : DWord
  w3 : DWord
  deriving DecidableEq, Repr

/-- The opcode of a pilot command (R208). -/
def Cmd.op (c : Cmd) : Nat := bits c.w0.toNat 7 0

/-- What the error correction of a line finds at a read (R258 to R260): nothing; 1 to 3 symbols corrected, with the low bits of the
syndrome; an uncorrectable error, with its syndrome and the data as read; or an error in 6 or more symbols that the code takes for a
correctable one, with the data that it makes of it. -/
inductive Ecc where
  | clean
  | ce (symbols syndrome : Nat)
  | ue (syndrome : Nat) (data : List Byte)
  | wrong (symbols syndrome : Nat) (data : List Byte)
  deriving DecidableEq, Repr

/-- Who asks at a memory controller (the SOURCE of R273). -/
inductive MemSource where
  | demand | narrow | adder | merge | paging | scrub | migration
  deriving DecidableEq, Repr

/-- A request at a line's controller (R249): a read, a write of bytes from an offset of the line, or an add. -/
inductive MemReq where
  | read (src : MemSource) (line : Nat)
  | write (line off : Nat) (data : List Byte) (poison : Bool)
  | add (line off ty amount : Nat) (poison : Bool)
  deriving DecidableEq, Repr

/-- A packet of the fabric (R318). `rsv` says that a reserved bit was not zero. -/
structure Packet where
  lseq : Nat
  vc : Nat
  typ : Nat
  dest : Nat
  src : Nat
  part : Nat
  ttl : Nat
  cls : Nat
  group : Nat
  incarn : Nat
  sseq : Nat
  target : Nat
  payload : List Byte
  rsv : Bool
  deriving DecidableEq, Repr

/-- The KIND of a collective packet (R361); none where TARGET carries an address. -/
def Packet.kind (k : Packet) : Option Nat := if k.target.testBit 63 then some (bits k.target 62 60) else none

/-- A flit (R317): its 56 bytes of BODY and its fields; `top` is the two bits [31:30]. -/
structure Flit where
  body : List Byte
  ack : Nat
  cpool : Nat
  ccount : Nat
  nak : Bool
  sop : Bool
  idle : Bool
  top : Nat
  crc : Nat
  deriving DecidableEq, Repr

/-- What the FEC has met since the last flit or frame (R309, R344): symbols corrected, and codewords that it could not correct. -/
structure Fec where
  corrected : Nat
  lost : Nat
  deriving DecidableEq, Repr

/-- A flit as it comes in, with what the FEC has met on the way (R317, R344). -/
structure FlitIn where
  flit : Flit
  fec : Fec
  deriving DecidableEq, Repr

/-- An Ethernet-mode frame (R334): the outcome of its FCS, its destination address and its packets. -/
structure EthFrame where
  fcsOk : Bool
  dst : Nat
  etherType : Nat
  pkts : List Packet
  fec : Fec
  deriving DecidableEq, Repr

/-- A configuration block of CONFIG (R312, R324, R342): the mode, the block version, the sender's device and link number, and the sizes of
its credit pools. -/
structure ConfigBlock where
  valid : Bool
  ethernet : Bool
  version : Nat
  dev : Nat
  link : Nat
  pools : List Nat
  deriving DecidableEq, Repr

/-- A Meridian response (R368): t1 and t4 of the requester, t2 and t3 of the responder, its master and its hops. -/
structure MerResponse where
  t1 : Nat
  t2 : Nat
  t3 : Nat
  t4 : Nat
  prio : Nat
  dev : Nat
  hops : Nat
  deriving DecidableEq, Repr

/-- What IDENTIFY reads of a module (R316, R342): the host interfaces that it advertises as rate in 0.1 Gb/s per lane and lanes, and bytes of
its memory map. `busFails` says that the free-bus test and recovery failed (R476). -/
structure ModuleRead where
  answers : Bool
  busFails : Bool
  seg : Nat
  trunk : Bool
  ident : Nat
  hosts : List (Nat × Nat)
  length : Nat
  power : Nat
  pclass : Nat
  deriving DecidableEq, Repr

/-- The outcome of training (R311, R314): the lanes that trained, the mask of usable lanes that the peer's training frames carry, the lanes
received inverted, and whether the order was permuted. -/
structure TrainResult where
  trained : Nat
  peer : Nat
  polInv : Nat
  remapped : Bool
  deriving DecidableEq, Repr

/-- The IEEE 802.3dj options of a link (R310). -/
inductive LinkOption where
  | gaui | cr4 | kr4
  deriving DecidableEq, Repr

/-- The outcome of a margining run (R268, R275). -/
structure MarginResult where
  low : Int
  high : Int
  fail0 : Bool
  deriving DecidableEq, Repr

/-- A place in a core's protected storage (R406): a line of core store, a tile of an array, a bank of an array, an entry of the tile queue
or of the converter buffers behind it, a mailbox slot, and the pilot registers with the command fetch buffer. -/
inductive SramSite where
  | coreStore (line : Nat)
  | tile (a t : Nat)
  | bank (a b : Nat)
  | queue (i : Nat)
  | mailbox (i : Nat)
  | pilot
  deriving DecidableEq, Repr

/-- An error that a core's storage shows while a command runs (R406): its place, its SRAM word index (R419), and whether it is uncorrectable. -/
structure SramErr where
  site : SramSite
  word : Nat
  ue : Bool
  deriving DecidableEq, Repr

/-- An error in the hub's storage (R406): the KIND and UNIT that its record names (R415), its SRAM word index, and whether it is
uncorrectable. -/
structure HubErr where
  kind : Nat
  unit : Nat
  word : Nat
  ue : Bool
  deriving DecidableEq, Repr

/-- What a page-in reads from host memory (R289): the lines whose host read failed. -/
structure HostPage where
  failed : List Nat
  deriving DecidableEq, Repr

/-- The times of a stage record (R501), in Meridian nanoseconds after ISSUE, and its counts. -/
structure StageTimes where
  issue : Nat
  cc : Nat
  opcode : Nat
  status : Nat
  tag : Nat
  flags : Nat
  start : Nat
  first : Nat
  last : Nat
  done : Nat
  stallMem : Nat
  stallArb : Nat
  rdBytes : Nat
  wrBytes : Nat
  deriving DecidableEq, Repr

/-- The measurements of one iteration of the governor (R482): pa and c in mW, m in mW, the largest core current in mA,
whether 100 µs have passed since the last raise, and what the on-die monitors of rails 0 to 2 read in mV (R492). `pa` is the estimate before
calibration (R481). -/
structure GovernorInput where
  pa : Nat
  c : Nat
  m : Nat
  icc : Nat
  raiseDue : Bool
  mv : List Nat
  deriving DecidableEq, Repr

/-- What is lost at a clock halt (R463): SYS_REFCLK, or the lock of a PLL or of a stack's divider. -/
inductive ClockLoss where
  | sysRef
  | hubPll
  | corePll (d : Nat)
  | divider (st : Nat)
  deriving DecidableEq, Repr

/-- An MCTP control message (R439). -/
inductive MctpReq where
  | setEndpointId (eid : Nat)
  | getEndpointId
  | getMessageTypes
  deriving DecidableEq, Repr

/-- A PLDM base message (R439). -/
inductive PldmReq where
  | getTypes
  | getVersion (ty : Nat)
  deriving DecidableEq, Repr

/-- A JTAG instruction (R455). -/
inductive JtagInstr where
  | bypass | idcode | samplePreload | extest
  | priv (code : Nat)
  deriving DecidableEq, Repr

/-- A partition of the partition plan (R276, R277). -/
structure PlanPart where
  part : Nat
  port : Nat
  mgmt : Bool
  deadlock : Bool
  seed : DWord
  cores : Nat
  frames : Nat
  mapped : Nat
  objects : Nat
  groups : Nat
  slots : Nat
  linkShare : Nat
  queues : Nat
  ceiling : Nat
  swapBytes : Nat
  /-- The base of the swap area in the memory of the port's host (R276). -/
  swapBase : Nat
  deriving DecidableEq, Repr

/-- What the sections of an image say (R442). The layout of the sections is the toolchain's; their contents stand here as
the values the spec says they carry (log entry 9). -/
structure Sections where
  holdEnabled : Bool
  envelope : Nat
  quorum : Nat
  plan : List PlanPart
  /-- The fill values of codebooks the image gives: register offset in the core block and word (R45, R48). -/
  codebooks : List (Nat × Word)
  codebooksOnGrid : Bool
  codebookBytes : List Byte
  /-- Values of register fields marked "image": BAR0 offset and word (R6). -/
  regs : List (Nat × Word)
  digest : List Byte
  /-- The segment of the module bus of each cage, by link (R475). -/
  cageSeg : List Nat
  /-- By link: the option of R310, the CMIS identifiers that the cage takes and its limit for copper assemblies (R316). -/
  options : List LinkOption
  idents : List (List Nat)
  copperMax : List Nat
  /-- The sizes of the 8 credit pools of a receive buffer (R324). -/
  pools : List Nat
  /-- Where in the flash the Almanac's five sectors begin (R417). -/
  almanacAt : Nat
  /-- The base-two logarithm of each port's BAR2 size (R434). -/
  bar2Size : List Nat
  deriving DecidableEq, Repr

/-- An image in a flash slot: its header and sections as bytes before the signature block, the signature block (R442,
R443), whether the section CRCs hold, and what the sections say. -/
structure Image where
  body : List Byte
  keySlot : Nat
  pubKey : List Byte
  sig : List Byte
  crcsOk : Bool
  sections : Sections
  deriving DecidableEq, Repr

/-- What a device start meets that only the part or the board knows (R446): whether the PLLs lock, the stacks that fail training (R246), and
the fresh nonce (R454). -/
structure StartFacts where
  pllOk : Bool
  stackFail : List Nat
  nonce : DWord
  deriving DecidableEq, Repr

/-- The commands of the block: one constructor for each row of spec/opcode_table.json, with its operands. -/
inductive Instr where
  /-- NOP (R210): Pilot command that does nothing but advance the command counter. -/
  | nop (n : Nat) (c : Cmd)
  /-- COPY (R218): Copies a tensor between device memory and core store, with the class map entries, glint records and fall-back records of narrow tensors. -/
  | copy (n : Nat) (c : Cmd)
  /-- CSCOPY (R213): Copies bytes from core store to the core store of another core of the partition over the mesh. -/
  | cscopy (n : Nat) (c : Cmd)
  /-- GATHER (R252): Reads table entries by an index list through the narrow random-access path into core store. -/
  | gather (n : Nat) (c : Cmd)
  /-- SCATADD (R254): Adds rows into device memory by an index list, using the memory-side adders. -/
  | scatadd (n : Nat) (c : Cmd)
  /-- ATOMIC (R254): Performs one memory-side atomic add and returns the old value to a register. -/
  | atomic (n : Nat) (c : Cmd)
  /-- FILL (R213): Fills a destination tensor with a constant element value. -/
  | fill (n : Nat) (c : Cmd)
  /-- RFILL (R192): Fills a destination with uniform, raw, normal or Bernoulli random values from the lane generators. -/
  | rfill (n : Nat) (c : Cmd)
  /-- CBLOAD (R214): Loads a Q4C or Q8C codebook of the core from a source address, in command-list order. -/
  | cbload (n : Nat) (c : Cmd)
  /-- WLOAD (R85): Loads a weight block into the next bank of each array, stalling at cell rows that are not yet free. -/
  | wload (n : Nat) (c : Cmd) (errs : List SramErr)
  /-- PASS (R75): Runs activation rows against a loaded weight block into accumulator rows, in overwrite or accumulate mode. -/
  | pass (n : Nat) (c : Cmd) (errs : List SramErr)
  /-- CPASS (R93): Runs a pass over a Constellation rectangle once every core of the rectangle has issued it. -/
  | cpass (n : Nat) (c : Cmd)
  /-- TREAD (R150): Copies one accumulator tile, raw or compensated, to core store or device memory, with an optional header. -/
  | tread (n : Nat) (c : Cmd)
  /-- TWRITE (R150): Copies a 4,096-byte tile and an optional header word into an accumulator tile. -/
  | twrite (n : Nat) (c : Cmd)
  /-- CONVERT (R157): Finishes a run of accumulator tiles into the tile queue toward a destination descriptor, with an optional micro-program. -/
  | convert (n : Nat) (c : Cmd)
  /-- SXSTEP (R128): Sextant step: zeroes COUNTS and EVENTS of a statistics record and turns PENDING into PROMOTE. -/
  | sxstep (n : Nat) (c : Cmd)
  /-- REDUCE (R156): Sum, maximum or minimum reduction of rows or columns, written as an 8-byte record to core store or a register. -/
  | reduce (n : Nat) (c : Cmd)
  /-- ROWSTAT (R174): Computes row statistics, normalisations or softmax over rows of up to 65,536 elements. -/
  | rowstat (n : Nat) (c : Cmd)
  /-- VMAP (R160): Runs a micro-program over FP32 or BF16 tiles from core store. -/
  | vmap (n : Nat) (c : Cmd)
  /-- VPLOAD (R168): Loads micro-program instructions into a bank, stopping as program bank busy when the bank is running. -/
  | vpload (n : Nat) (c : Cmd)
  /-- VPSEL (R169): Waits until earlier tiles have left the vector engine, then flips RUN_BANK to the named bank if needed. -/
  | vpsel (n : Nat) (c : Cmd)
  /-- SEED (R189): Waits for all earlier draws of the core, then reseeds the 256 lane generators and the sampler generator. -/
  | seed (n : Nat) (c : Cmd)
  /-- SAMPLE (R195): Samples one index per row of scores with temperature, top-k and top-p cuts and writes a record per row. -/
  | sample (n : Nat) (c : Cmd)
  /-- SWAIT (R230): Blocks the pilot until a synchronisation object's counter reaches a threshold. -/
  | swait (n : Nat) (c : Cmd)
  /-- SSIGNAL (R230): Adds an amount to a synchronisation object, saturating. -/
  | ssignal (n : Nat) (c : Cmd)
  /-- SSET (R230): Sets a synchronisation object's counter to a value. -/
  | sset (n : Nat) (c : Cmd)
  /-- MSEND (R226): Sends 8 to 256 bytes with a tag to the mailbox of a core of the partition; completes at acknowledgement. -/
  | msend (n : Nat) (c : Cmd)
  /-- MRECV (R228): Takes the oldest matching mailbox message, or blocks until one arrives, and frees its slot. -/
  | mrecv (n : Nat) (c : Cmd) (errs : List SramErr)
  /-- FENCE (R207): Waits for every earlier command to complete, optionally discarding fetched commands. -/
  | fence (n : Nat) (c : Cmd)
  /-- DOORBELL (R436): Raises a doorbell event to the partition's host with a register value. -/
  | doorbell (n : Nat) (c : Cmd)
  /-- COLLPOST (R354): Posts a collective descriptor to a group queue and stays in flight until it retires. -/
  | collpost (n : Nat) (c : Cmd)
  /-- BEACON (R365): Runs a small-payload collective on the Beacon path of a group. -/
  | beacon (n : Nat) (c : Cmd)
  /-- DISPATCH (R374): Sends token rows to the expert slots named in the Chart and writes placement records. -/
  | dispatch (n : Nat) (c : Cmd)
  /-- COMBINE (R377): Reads placed expert output rows and forms gate-weighted sums back into tokens. -/
  | combine (n : Nat) (c : Cmd)
  /-- UPDATE (R386): Fused optimiser update of master, moments and narrow working copies, tile by tile. -/
  | update (n : Nat) (c : Cmd)
  /-- LOSSW (R391): Applies a loss sample to the partition's loss-spike watch and returns a verdict. -/
  | lossw (n : Nat) (c : Cmd)
  /-- CKPT (R395): Keeps activations by converting tiles into a Q8C destination. -/
  | ckpt (n : Nat) (c : Cmd)
  /-- REPLAY (R396): Starts recording, stops recording, or re-issues a recorded forward segment, by mode. -/
  | replay (n : Nat) (c : Cmd)
  /-- HALT (R216): Ends the core's list and reports a completion code to Helm. -/
  | halt (n : Nat) (c : Cmd)
  /-- RETX (R223): Returns from an exception, restoring registers and CP from the shadow frame. -/
  | retx (n : Nat) (c : Cmd)
  /-- LI (R212): Loads an immediate into a scalar register. -/
  | li (n : Nat) (c : Cmd)
  /-- MOV (R212): Copies a scalar register. -/
  | mov (n : Nat) (c : Cmd)
  /-- ADD (R212): 64-bit scalar addition. -/
  | add (n : Nat) (c : Cmd)
  /-- SUB (R212): 64-bit scalar subtraction. -/
  | sub (n : Nat) (c : Cmd)
  /-- MUL (R212): 64-bit scalar multiplication, low 64 bits. -/
  | mul (n : Nat) (c : Cmd)
  /-- ADDI (R212): Adds an immediate to a scalar register. -/
  | addi (n : Nat) (c : Cmd)
  /-- AND (R212): Bitwise AND of scalar registers. -/
  | and (n : Nat) (c : Cmd)
  /-- OR (R212): Bitwise OR of scalar registers. -/
  | or (n : Nat) (c : Cmd)
  /-- XOR (R212): Bitwise XOR of scalar registers. -/
  | xor (n : Nat) (c : Cmd)
  /-- SHL (R212): Logical shift left. -/
  | shl (n : Nat) (c : Cmd)
  /-- SHR (R212): Logical shift right. -/
  | shr (n : Nat) (c : Cmd)
  /-- SRA (R212): Arithmetic shift right. -/
  | sra (n : Nat) (c : Cmd)
  /-- SLT (R212): Signed set-less-than. -/
  | slt (n : Nat) (c : Cmd)
  /-- BEQ (R212): Branches when two registers are equal. -/
  | beq (n : Nat) (c : Cmd)
  /-- BNE (R212): Branches when two registers differ. -/
  | bne (n : Nat) (c : Cmd)
  /-- BLT (R212): Branches when ra is less than rb, signed. -/
  | blt (n : Nat) (c : Cmd)
  /-- BGE (R212): Branches when ra is at least rb, signed. -/
  | bge (n : Nat) (c : Cmd)
  /-- JMP (R212): Sets CP to an immediate target. -/
  | jmp (n : Nat) (c : Cmd)
  /-- CALL (R212): Pushes the next CP to the core store stack at x63 and jumps. -/
  | call (n : Nat) (c : Cmd)
  /-- RET (R212): Pops CP from the core store stack at x63. -/
  | ret (n : Nat) (c : Cmd)
  /-- LOOP (R212): Decrements a register and branches while it is non-zero. -/
  | loop (n : Nat) (c : Cmd)
  /-- LD (R212): Loads 8 bytes from core store or device memory into a register. -/
  | ld (n : Nat) (c : Cmd)
  /-- ST (R212): Stores 8 bytes of a register to core store or device memory. -/
  | st (n : Nat) (c : Cmd)
  /-- RDC (R212): Reads a core block register into a scalar register. -/
  | rdc (n : Nat) (c : Cmd)
  /-- VEC_NOP (R164): Micro-program instruction that does nothing for one core cycle. -/
  | vecNop (n : Nat) (i : DWord)
  /-- VEC_MOV (R164): Micro-program move of a source into a lane register. -/
  | vecMov (n : Nat) (i : DWord)
  /-- VEC_ADD (R164): FP32 addition in every lane. -/
  | vecAdd (n : Nat) (i : DWord)
  /-- VEC_SUB (R164): FP32 subtraction in every lane. -/
  | vecSub (n : Nat) (i : DWord)
  /-- VEC_MUL (R164): FP32 multiplication in every lane. -/
  | vecMul (n : Nat) (i : DWord)
  /-- FMA (R164): Fused multiply-add with one rounding in every lane. -/
  | fma (n : Nat) (i : DWord)
  /-- MIN (R164): Lesser of two values per lane, NaN propagating as canonical NaN. -/
  | min (n : Nat) (i : DWord)
  /-- MAX (R164): Greater of two values per lane, NaN propagating as canonical NaN. -/
  | max (n : Nat) (i : DWord)
  /-- ABS (R164): Absolute value per lane. -/
  | abs (n : Nat) (i : DWord)
  /-- NEG (R164): Negation per lane. -/
  | neg (n : Nat) (i : DWord)
  /-- SEL (R164): Selects a or b per lane according to c. -/
  | sel (n : Nat) (i : DWord)
  /-- CMPLT (R164): Per-lane less-than comparison giving 1.0 or +0. -/
  | cmplt (n : Nat) (i : DWord)
  /-- DIV (R164): Correctly rounded FP32 division per lane. -/
  | div (n : Nat) (i : DWord)
  /-- SQRT (R164): Correctly rounded FP32 square root per lane. -/
  | sqrt (n : Nat) (i : DWord)
  /-- SFN (R170): Evaluates the special function selected by FUNC in fast or precise mode. -/
  | sfn (n : Nat) (i : DWord)
  /-- RAND (R192): Draws a uniform value in [0, 1) from the lane's Twilight generator. -/
  | rand (n : Nat) (i : DWord)
  /-- ROT (R164): Rotates values across the 256 lanes. -/
  | rot (n : Nat) (i : DWord)
  /-- ROWSUM (R153): Gives every lane of a tile row the ordered sum over the row's 32 lanes. -/
  | rowsum (n : Nat) (i : DWord)
  /-- ROWMAX (R155): Gives every lane of a tile row the ordered maximum over the row's 32 lanes. -/
  | rowmax (n : Nat) (i : DWord)
  /-- CVTB (R164): Rounds a value to the nearest BF16, held in FP32. -/
  | cvtb (n : Nat) (i : DWord)
  /-- GROUP_BOUNDARY (R159): A vector engine group finishes and the next group of the tile queue head begins. -/
  | groupBoundary (n : Nat)
  /-- TILE_CONVERSION (R111): The output edge converter takes a tile from the tile queue and runs the ten steps to write it in the destination format. -/
  | tileConversion (n : Nat) (errs : List SramErr)
  /-- LIGHTHOUSE_SAMPLE (R425): An array's tile-pass interval expires and the sampled pass is re-executed on a partner array and compared. -/
  | lighthouseSample (n a t next : Nat) (agree : Bool)
  /-- EXCEPTION_ENTRY (R222): After a command fails and commands in flight drain, the pilot writes the shadow frame and jumps to the handler. -/
  | exceptionEntry (n : Nat)
  /-- JOB_ABORT (R410): After a poison consumption drains, Helm ends the job, aborts its work queue and resets its cores. -/
  | jobAbort (p q : Nat)
  /-- JOB_COMPLETION (R292): Every core of a job's rectangle has halted; Helm writes CODE and applies the DONE_OBJ add. -/
  | jobCompletion (p q : Nat)
  /-- SWAIT_RELEASE (R231): An object update satisfies a wait and the hub releases the blocked pilot. -/
  | swaitRelease (n : Nat)
  /-- MESSAGE_PLACEMENT (R227): A mailbox message arrives and is placed in a slot and acknowledged, or answered with a retry response. -/
  | messagePlacement (dst src : Nat)
  /-- CORE_ALLOC (R284): Helm request allocating a rectangle of cores, optionally a Constellation rectangle. -/
  | coreAlloc (p : Nat)
  /-- CORE_FREE (R291): Helm request freeing a core rectangle unless a job runs or is saved on it. -/
  | coreFree (p : Nat)
  /-- MAP (R286): Helm request mapping 2 MiB or 64 KiB pages with attributes. -/
  | map (p : Nat)
  /-- UNMAP (R287): Helm request unmapping pages after translation caches drop them and uses end. -/
  | unmap (p : Nat)
  /-- PROTECT (R287): Helm request replacing the W, H and P attributes of pages. -/
  | protect (p : Nat)
  /-- SYNC_ALLOC (R285): Helm request allocating the lowest run of free synchronisation objects. -/
  | syncAlloc (p : Nat)
  /-- SYNC_FREE (R283): Helm request freeing synchronisation objects. -/
  | syncFree (p : Nat)
  /-- GROUP_ALLOC (R283): Helm request allocating a collective group with reduction-store slots. -/
  | groupAlloc (p : Nat)
  /-- GROUP_FREE (R349): Helm request freeing a collective group. -/
  | groupFree (p : Nat)
  /-- LINK_SHARE (R298): Helm request setting the partition's VC 0 and VC 1 link shares. -/
  | linkShare (p : Nat)
  /-- WQ_CREATE (R294): Helm request creating a work queue with priority and time slice. -/
  | wqCreate (p : Nat)
  /-- WQ_DESTROY (R283): Helm request destroying a work queue. -/
  | wqDestroy (p : Nat)
  /-- HELM_WQ_TAIL_WRITE (R291): Host advances a work-queue TAIL, making a job arrive at a scheduling point. -/
  | helmWqTailWrite (m : Master) (p q : Nat) (v : Word)
  /-- TIME_SLICE_EXPIRY (R294): A job's time slice expires, making a scheduling point. -/
  | timeSliceExpiry (p q : Nat)
  /-- PREEMPTION (R295): After in-flight work drains, Helm saves each core's context to the save area and frees the cores. -/
  | preemption (p q : Nat)
  /-- PAGE_IN (R290): A command reaches a paged-out page and Helm brings it back over PCIe, paging out a victim if needed. -/
  | pageIn (p va : Nat) (h : HostPage) (lines : List (Nat × Ecc))
  /-- ACCESS_COUNTER_HALVING (R290): Every 1 ms the page access counters are halved. -/
  | accessCounterHalving
  /-- FRAME_MIGRATION (R422): A held frame with a permanent HBM location is copied to a free frame once out of use, and the old frame retired. -/
  | frameMigration (pa : Nat) (lines : List (Nat × Ecc))
  /-- CENSUS (R300): Every 1 ms Helm snapshots every pool and checks the conservation equations. -/
  | census
  /-- DEADLOCK_WINDOW (R234): The 1 ms deadlock window of a partition expires with all conditions held. -/
  | deadlockWindow (p : Nat)
  /-- SYNC_OBJECT_SET (R230): Host write to HELM_SYNC_COUNT sets an object's counter. -/
  | syncObjectSet (m : Master) (k : Nat) (v : Word)
  /-- SYNC_OBJECT_ADD (R243): Host write of a non-zero value to HELM_SYNC_ADD adds to an object. -/
  | syncObjectAdd (m : Master) (k : Nat) (v : Word)
  /-- SWITCH (R167): Write of 1 to VEC_CTL.SWITCH requests a bank change at the next group boundary. -/
  | switch (m : Master) (n : Nat) (v : Word)
  /-- PROGRAM_STAGE (R183): Write to VEC_PROG_LO stages a low instruction word for its slot. -/
  | programStage (m : Master) (n b k : Nat) (v : Word)
  /-- PROGRAM_COMMIT (R168): Write to VEC_PROG_HI commits an instruction, or is refused for the running bank. -/
  | programCommit (m : Master) (n b k : Nat) (v : Word)
  /-- CODEBOOK_REGISTER_WRITE (R51): Write to a codebook register, held while a command reading that codebook is in progress. -/
  | codebookRegisterWrite (m : Master) (off : Nat) (v : Word)
  /-- CORE_RESET (R460): Write to CORE_RESET resets a core, ending any job that runs on it. -/
  | coreReset (m : Master) (n : Nat)
  /-- HELM_EVQ_POP (R457): Write of POP removes the oldest entry of the partition's event queue. -/
  | helmEvqPop (m : Master) (p : Nat)
  /-- MSIX_HOLDOFF_END (R438): A vector's holdoff interval ends and one message is sent for the requests in between. -/
  | msixHoldoffEnd (p v : Nat)
  /-- CHART_READ (R382): CHART_CMD.READ copies the selected Chart or slot entry into CHART_DATA. -/
  | chartRead (m : Master) (v : Word)
  /-- CHART_WRITE (R382): CHART_CMD.WRITE copies CHART_DATA into the entry, or sets DENIED. -/
  | chartWrite (m : Master) (v : Word)
  /-- FORM (R349): Write of FORM starts formation of a group from IDLE or BROKEN. -/
  | form (m : Master) (g : Nat) (v : Word)
  /-- GROUP_ABORT (R353): Write of ABORT breaks a READY group with REASON 11. -/
  | groupAbort (m : Master) (g : Nat) (v : Word)
  /-- CARD_SEND (R350): Every 1 ms a FORMING member sends its group card to every other member. -/
  | cardSend (g : Nat)
  /-- FORMATION_TIMEOUT (R351): Not all cards arrived within FORM_TO; formation is aborted with REASON 5. -/
  | formationTimeout (g : Nat)
  /-- SYNC_REQ_WAIT_END (R352): After SYNC_REQ, Meridian LOCKED or 10 ms ends the wait and the card is resent. -/
  | syncReqWaitEnd (g : Nat)
  /-- GROUP_CARD (R351): A group card is received and compared, leading to refusal, resynchronisation or READY. -/
  | groupCard (l : Nat) (k : Packet)
  /-- ABORT_PACKET (R351): An abort from a member returns a FORMING group to IDLE or breaks a READY group. -/
  | abortPacket (l : Nat) (k : Packet)
  /-- CHUNK_DATA (R359): A collective chunk packet is staged in a reduction-store slot. -/
  | chunkData (l : Nat) (k : Packet) (errs : List HubErr)
  /-- CHUNK_END (R362): A chunk end is received; the CRC-32C is checked and the chunk added or a retry requested. -/
  | chunkEnd (l : Nat) (k : Packet)
  /-- CHUNK_RETRY_REQUEST (R362): A retry request makes the sender resend a chunk, breaking the group after 3 retries. -/
  | chunkRetryRequest (l : Nat) (k : Packet)
  /-- SLOT_CLAIM (R374): A slot claim adds 1 to the slot cursor and returns the old value. -/
  | slotClaim (l : Nat) (k : Packet)
  /-- SLOT_ROW (R361): A slot-row write or read moves a token or expert output row. -/
  | slotRow (l : Nat) (k : Packet)
  /-- BEACON_PACKET (R366): A Beacon value is received and combined in ring-position or tree order. -/
  | beaconPacket (l : Nat) (k : Packet)
  /-- FLIT_RECEIVE (R320): A flit arrives; its CRC, ACK, NAK and credit return are taken and in-order packets accepted. -/
  | flitReceive (l : Nat) (f : FlitIn)
  /-- REPLAY_TIMEOUT (R321): 10 µs without ACK progress makes the sender resend from ACK + 1. -/
  | replayTimeout (l : Nat)
  /-- WRITE_PACKET (R330): A WRITE request is accepted once under the duplicate window and performed. -/
  | writePacket (l : Nat) (k : Packet)
  /-- READ_PACKET (R319): A READ request is executed and answered with READ_RSP. -/
  | readPacket (l : Nat) (k : Packet)
  /-- READ_RSP (R319): A read response is taken by its requester, later copies discarded. -/
  | readRsp (l : Nat) (k : Packet)
  /-- ATOMIC_PACKET (R332): An ATOMIC request is applied once, duplicates answered from the response store. -/
  | atomicPacket (l : Nat) (k : Packet)
  /-- ATOMIC_RSP (R319): An atomic response delivers the old value to its requester. -/
  | atomicRsp (l : Nat) (k : Packet)
  /-- REDUCE_PACKET (R256): A REDUCE request is applied once by the memory-side adders. -/
  | reducePacket (l : Nat) (k : Packet)
  /-- SYNC_ADD_PACKET (R231): A SYNC_ADD request adds once to a synchronisation object. -/
  | syncAddPacket (l : Nat) (k : Packet)
  /-- ACK_PACKET (R331): An end-to-end acknowledgement retires up to 64 requests. -/
  | ackPacket (l : Nat) (k : Packet)
  /-- UNREACH (R329): An UNREACH names a failed request, which fails at its source. -/
  | unreach (l : Nat) (k : Packet)
  /-- END_TO_END_RESEND (R333): A request unacknowledged for 200 µs is resent, and after 8 resends treated as unroutable. -/
  | endToEndResend (dest sseq : Nat)
  /-- ETHERNET_FRAME (R334): An Ethernet-mode frame is received and its native packets delivered, or discarded. -/
  | ethernetFrame (l : Nat) (f : EthFrame)
  /-- PRIORITY_FLOW_CONTROL (R335): A PFC pause stalls or resumes the VC of a priority. -/
  | priorityFlowControl (l pcp : Nat) (pause : Bool)
  /-- CREDIT_CENSUS (R325): Every 1 ms a link end records its credits and sends a census marker. -/
  | creditCensus (l : Nat)
  /-- CENSUS_MARKER (R325): The receiver records occupied and unreturned credits and sends an echo. -/
  | censusMarker (l : Nat)
  /-- CENSUS_ECHO (R325): The sender checks the credit equation and records any mismatch. -/
  | censusEcho (l : Nat) (counts : List Nat)
  /-- CONFIGURATION_BLOCK (R312): A CONFIG block is received, taking the link to UP or FAULT. -/
  | configurationBlock (l : Nat) (b : ConfigBlock)
  /-- MERIDIAN_EXCHANGE (R368): Every 1 ms a link end sends a Meridian request. -/
  | meridianExchange (l : Nat)
  /-- MERIDIAN_REQUEST (R368): A responder timestamps a Meridian request and sends the response. -/
  | meridianRequest (l : Nat)
  /-- MERIDIAN_RESPONSE (R369): The requester computes θ, chooses master and parent and corrects its time. -/
  | meridianResponse (l : Nat) (r : MerResponse)
  /-- LINK_ENABLE (R312): Write of ENABLE = 1 takes a DISABLED link to IDENTIFY or DETECT. -/
  | linkEnable (m : Master) (l : Nat) (v : Word)
  /-- LINK_DISABLE (R313): Write of ENABLE = 0 takes the link through DOWN to DISABLED. -/
  | linkDisable (m : Master) (l : Nat) (v : Word)
  /-- RETRAIN (R313): Write of RETRAIN takes an UP link to DOWN. -/
  | retrain (m : Master) (l : Nat) (v : Word)
  /-- FI_MATCH_WRITE (R345): Write to LNK_FI_MATCH restarts the rule's match count. -/
  | fiMatchWrite (m : Master) (l r : Nat) (v : Word)
  /-- MODULE_IDENTIFY (R316): The module's CMIS memory is read and the module accepted, refused or marked absent. -/
  | moduleIdentify (l : Nat) (r : ModuleRead)
  /-- ABSENT_POLL (R312): Once per second an ABSENT link polls the module's identity memory. -/
  | absentPoll (l : Nat) (answers : Bool)
  /-- IDENTITY_MEMORY_CHANGE (R312): The identity memory changes, taking a REFUSED or FAULT link to IDENTIFY. -/
  | identityMemoryChange (l : Nat)
  /-- RECEIVER_DETECT (R314): Receiver detect on every lane leads to TRAIN, FAULT or another DETECT after 100 ms. -/
  | receiverDetect (l usable : Nat) (crossed : Bool)
  /-- DETECT_RETRY (R312): 100 ms without a usable lane repeats DETECT. -/
  | detectRetry (l : Nat)
  /-- TRAINING_DONE (R311): Training ends, fixing width, polarity and lane order, and enters CONFIG or UP. -/
  | trainingDone (l : Nat) (t : TrainResult)
  /-- TRAIN_TIMEOUT (R312): Training not done within 500 ms returns to DETECT. -/
  | trainTimeout (l : Nat)
  /-- CONFIG_TIMEOUT (R312): No valid configuration block within 10 ms sends the link to FAULT. -/
  | configTimeout (l : Nat)
  /-- FEC_LOCK_LOSS (R313): FEC lock lost for 1 µs takes an UP link to DOWN. -/
  | fecLockLoss (l : Nat)
  /-- DOWN_TIMEOUT (R312): After 1 ms in DOWN the link enters DETECT. -/
  | downTimeout (l : Nat)
  /-- MEMORY_REQUEST (R249): A request reaches a line's controller and takes effect in arrival order. -/
  | memoryRequest (q : MemReq) (e : Ecc) (errs : List HubErr)
  /-- WRITE_COMBINING_AGE_OUT (R251): An entry 1,024 hub cycles old leaves by read-modify-write. -/
  | writeCombiningAgeOut (line : Nat) (e : Ecc)
  /-- PATROL_SCRUB_READ (R263): The scrub timer reads the next line of every pseudo-channel of a stack. -/
  | patrolScrubRead (st : Nat) (errs : List (Nat × Ecc))
  /-- HBM_TEMPERATURE_READOUT (R245): Every 1 ms a stack's temperature is read and refresh rate adjusted. -/
  | hbmTemperatureReadout (st temp : Nat)
  /-- MARGIN_START (R267): Write of MEM_MARGIN_CTL.START starts a margining run, or sets REFUSED outside the hold. -/
  | marginStart (m : Master) (st : Nat) (v : Word)
  /-- MARGIN_RUN_DONE (R269): A margining run ends, restores trained settings and refills the pseudo-channel. -/
  | marginRunDone (st : Nat) (r : MarginResult)
  /-- ALMANAC_COMMIT (R418): A commit of the Almanac starts, within 10 s of a change or at once for a permanent entry. -/
  | almanacCommit
  /-- ALMANAC_COMMIT_DONE (R418): A commit finishes its read-back check and the next queued commit may begin. -/
  | almanacCommitDone
  /-- TAG_INTERVAL (R500): The tag interval count expires and the next tensor command is tagged. -/
  | tagInterval (n interval : Nat)
  /-- STAGE_RECORD (R501): A tagged command ends and its stage record is written to the ring. -/
  | stageRecord (n : Nat) (r : StageTimes)
  /-- PERIODIC_DUMP (R503): A dump falls due and the partition's counters are strobed and written in three phases. -/
  | periodicDump (p : Nat)
  /-- OWNER_WRITE (R495): Write to a hub counter's OWNER zeroes the counter and its event code. -/
  | ownerWrite (m : Master) (k : Nat) (v : Word)
  /-- DUMP_ENABLE (R505): Write of PERF_DUMP_CTL.ENABLE, ignored with ERR when the buffer is unsuitable. -/
  | dumpEnable (m : Master) (p : Nat) (v : Word)
  /-- GOVERNOR_LOOP (R482): Every 10 µs the governor adjusts frequency target and pace. -/
  | governorLoop (g : GovernorInput)
  /-- GOVERNOR_CALIBRATION (R481): Every 10 ms the power estimate is calibrated against rail telemetry. -/
  | governorCalibration (watts : Nat)
  /-- CORE_CLOCK_STEP (R467): A 25 MHz core PLL step completes and the next step toward the target begins. -/
  | coreClockStep (d : Nat)
  /-- AVS_TRANSITION_DONE (R479): The regulator reports a voltage transition done, allowing a frequency raise. -/
  | avsTransitionDone (d : Nat)
  /-- AVS_TIMEOUT (R479): A transition not done in 100 µs sets AVS_FAULT and lowers the die's frequency. -/
  | avsTimeout (d confirmedMv : Nat)
  /-- THERMAL_SAMPLE (R485): Every 20 µs the temperature sensors are sampled, raising a trip at 105 °C. -/
  | thermalSample (u hot : Nat) (temp : Int)
  /-- THERMAL_CEILING_STEP (R486): The die's thermal ceiling drops every 100 µs or rises every 1 ms. -/
  | thermalCeilingStep (d : Nat)
  /-- THERMAL_PACE_STEP (R486): The thermal pace drops or rises by 4 every 1 ms. -/
  | thermalPaceStep
  /-- THERMAL_TRIP (R487): An analogue comparator fires; THERM_TRIP_N goes low and the clocks halt. -/
  | thermalTrip (u : Nat)
  /-- PWR_BRAKE_FALL (R484): PWR_BRAKE_N falls; both dies step toward FLOOR and pace is set to 16. -/
  | pwrBrakeFall
  /-- PWR_BRAKE_RISE (R484): PWR_BRAKE_N rises; the governor loop resumes. -/
  | pwrBrakeRise
  /-- PMBUS_POLL (R478): Every 10 ms the regulators' voltage, current and temperature are read. -/
  | pmbusPoll (r mv curr : Nat) (ok : Bool)
  /-- PMB_ALERT (R478): PMB_ALERT_N goes low; responders' STATUS_WORD are read, recorded and cleared. -/
  | pmbAlert (status : List (Nat × Nat))
  /-- CLOCK_STRETCH_TIMEOUT (R475): A module bus target stretches SCL for 25 ms and the transaction ends. -/
  | clockStretchTimeout (cage seg : Nat) (freed : Bool)
  /-- SEGMENT_RETEST (R477): Every 60 s an isolated segment is retested. -/
  | segmentRetest (seg : Nat) (passed : Bool)
  /-- SIDEBAND_STUCK (R480): A sideband line is declared stuck low or high after its time. -/
  | sidebandStuck (line : Nat) (high : Bool)
  /-- CLOCK_HALT (R464): Loss of SYS_REFCLK or a PLL lock stops core clocks and memory and disables links. -/
  | clockHalt (k : ClockLoss)
  /-- CRYSTAL_LOSS (R463): The crystal fails and housekeeping moves to SYS_REFCLK ÷ 4. -/
  | crystalLoss
  /-- SDS_REFCLK_LOSS (R463): A SerDes reference is lost and its eight links go DOWN until it returns. -/
  | sdsRefclkLoss (q : Nat)
  /-- PCIE_REFCLK_LOSS (R463): A PCIe reference is lost and the affected ports take a port reset. -/
  | pcieRefclkLoss (k : Nat)
  /-- POWER_ON (R472): All power-good inputs are high for 1 ms and the power-on reset ends. -/
  | powerOn (straps : Nat)
  /-- DEVICE_START (R446): The device runs its start-up steps from boot ROM to Active partitions. -/
  | deviceStart (f : StartFacts)
  /-- INITIAL_FILL_DONE (R265): The initial fill of every stack ends and memory accepts other requests. -/
  | initialFillDone
  /-- BOARD_RESET (R448): SYS_RST_N low for at least 10 µs resets the whole device. -/
  | boardReset (straps : Nat)
  /-- MAIN_PWRGD_FALL (R473): MAIN_PWRGD falls with HUB_PWRGD high; the device halts and sets MAIN_OFF. -/
  | mainPwrgdFall
  /-- HUB_PWRGD_FALL (R473): HUB_PWRGD or AUX_PWRGD falls and every output is released. -/
  | hubPwrgdFall
  /-- PCIE_PERST (R448): A port's PCIE_PERST_N resets its functions and its partitions. -/
  | pciePerst (k : Nat)
  /-- PCIE_LINK_DOWN (R448): A port's PCIe link goes down, causing a port reset. -/
  | pcieLinkDown (k : Nat)
  /-- FUNCTION_LEVEL_RESET (R448): FLR of a partition's VF starts a partition reset. -/
  | functionLevelReset (f : Master)
  /-- VF_ENABLE_CLEAR (R450): Clearing VF Enable holds the port's partitions in Resetting. -/
  | vfEnableClear (k : Nat)
  /-- PARTITION_RESET_DONE (R450): A partition reset ends; the partition becomes Active and cause 13 is raised. -/
  | partitionResetDone (p : Nat)
  /-- BAR2_READ (R435): A host read through BAR2 of a partition virtual address. -/
  | bar2Read (p va len : Nat)
  /-- BAR2_WRITE (R435): A host write through BAR2 to a partition virtual address. -/
  | bar2Write (p va : Nat) (data : List Byte) (poison : Bool)
  /-- PARTIAL_BAR0_ACCESS (R531): A BAR0 TLP covering part of a register acts on no register. -/
  | partialBar0Access (m : Master) (off : Nat) (write : Bool)
  /-- LOW_WORD_READ (R5): A read of the low word of a 64-bit pair latches the high word for that master. -/
  | lowWordRead (m : Master) (off : Nat)
  /-- READ_CLEAR (R9): A read of an rc field returns its value and clears it. -/
  | readClear (m : Master) (off : Nat)
  /-- REGISTER_WRITE (R7): A write to a register that has no row of its own, per its access codes. -/
  | registerWrite (m : Master) (off : Nat) (v : Word)
  /-- LC_RESET_VOTE (R449): A management partition casts its port's vote; at quorum a warm device reset starts. -/
  | lcResetVote (p : Nat)
  /-- VOTE_LAPSE (R449): A vote lapses 1 s after its write. -/
  | voteLapse (k : Nat)
  /-- LC_SEAL (R453): Write of the seal key moves Maker to Sealed. -/
  | lcSeal (v : Word)
  /-- MGMT_REGISTER_READ (R440): Management path command reading a BAR0 register of any partition. -/
  | mgmtRegisterRead (off : Nat)
  /-- MGMT_REGISTER_WRITE (R440): Management path command writing a BAR0 register. -/
  | mgmtRegisterWrite (off : Nat) (v : Word)
  /-- WARM_DEVICE_RESET (R448): Management command resetting the device from step 2 of start-up. -/
  | warmDeviceReset
  /-- RELEASE_BRING_UP_HOLD (R267): Management command ending the bring-up hold, refused outside it. -/
  | releaseBringUpHold
  /-- READ_NONCE (R454): Management command returning LC_UID and a fresh nonce. -/
  | readNonce (nonce : DWord)
  /-- SUBMIT_UNLOCK_TOKEN (R454): Management command checking an unlock token and moving the part to Return. -/
  | submitUnlockToken (token : List Byte) (nonce : DWord)
  /-- CLEAR_FATAL_SLOT (R414): Management command clearing the Logbook fatal slot. -/
  | clearFatalSlot
  /-- REVOKE_KEY_SLOT (R453): Management command revoking an owner key slot, never the last. -/
  | revokeKeySlot (slot : Nat)
  /-- MCTP_CONTROL (R439): MCTP control message for endpoint discovery and ID assignment. -/
  | mctpControl (k : MctpReq)
  /-- PLDM_DISCOVERY (R439): PLDM base message discovering types and versions. -/
  | pldmDiscovery (k : PldmReq)
  /-- PLDM_PLATFORM (R439): PLDM platform monitoring message reading sensors. -/
  | pldmPlatform (sensor : Nat)
  /-- PLDM_FIRMWARE_UPDATE (R441): PLDM firmware update writes the inactive slot, verifies it and marks it PENDING. -/
  | pldmFirmwareUpdate (img : Image)
  /-- VF_ENABLE_SET (R450): Setting VF Enable again releases the port's partitions from the Resetting state that a cleared VF Enable holds them in. -/
  | vfEnableSet (k : Nat)
  /-- VENDOR_PROVISIONING (R453): Vendor provisioning fuses key slots and moves the life-cycle state from Blank to Maker. -/
  | vendorProvisioning (keys : List (Nat × List Byte))
  /-- JTAG_INSTRUCTION (R455): An IEEE 1149.1 instruction is shifted in on the JTAG pins and runs, with private instructions acting as BYPASS outside full debug. -/
  | jtagInstruction (k : JtagInstr)
  /-- INVALID_OPCODE (R210): The pilot issues a command whose OP is in neither opcode table and refuses it with status 0x01. -/
  | invalidOpcode (n : Nat) (c : Cmd)
  /-- HBM_REFRESH (R245): The refresh timer of a stack expires and a per-bank refresh takes the highest-priority channel slot, at double rate above 85 °C. -/
  | hbmRefresh (st : Nat)
  /-- SDS_REFCLK_RETURN (R463): A lost SerDes reference returns, so its eight links can leave DETECT again. -/
  | sdsRefclkReturn (q : Nat)
  /-- PCIE_REFCLK_RETURN (R463): A lost PCIe reference returns and the PCIe domain PLL relocks. -/
  | pcieRefclkReturn (k : Nat)
  /-- PCIE_PERST_RELEASE (R519): A port's PCIE_PERSTk_N rises and the port's receivers present termination and may train. -/
  | pciePerstRelease (k : Nat)
  /-- PCIE_LINK_UP (R432): A port's PCIe link trains up at its rate and width and LC_PORT shows it up. -/
  | pcieLinkUp (k rate width : Nat) (flit : Bool)
  /-- CONFIGURATION_REQUEST (R446): A host configuration request reaches a port, answered with Request Retry Status until step 4 of start-up ends and normally afterwards. -/
  | configurationRequest (k : Nat)
  deriving DecidableEq, Repr

end Sys2Proof
end

