-- ==== Sys2Proof/Decode.lean ====
section
/-! DEFINITION. The table gives no row any bits (its "fields" are empty for all 246 rows), so no word spells a command. -/
namespace Sys2Proof

/-- The command that a word spells by the table's bits: none, since the table gives no bits to any row. -/
def decodeTableWord (_nbits _w : Nat) : Option Instr := none

end Sys2Proof
end

