-- ==== Sys2Proof/Config.lean ====
section
/-! DEFINITION. What the spec leaves open: free values. Each is an opaque constant without a body, so nothing can be proved of its
value (log entries 6 to 8). -/
namespace Sys2Proof.Config

/-- The result of special function `func` in precise mode on a finite FP32 argument: R173 bounds the error and gives no coefficients
(log entry 6). -/
opaque sfn (func : Nat) (x : BitVec 32) : BitVec 32

/-- Breakpoint k and the slope of segment k of special function `func` in fast mode: R172 and R173 leave them to the stepping (log entry
6). -/
opaque sfnBreak (func k : Nat) : BitVec 32
opaque sfnSlope (func k : Nat) : BitVec 32

/-- Whether a tiny result of the same evaluation is inexact, which UF asks (R166, log entry 6). -/
opaque sfnInexact (func : Nat) (precise : Bool) (x : BitVec 32) : Bool

/-- The transform of a normal pair on FP32 A and B and the two 24-bit fractions u1 and u2: R193 bounds each value by 8 ulp and gives no
method; `second` names the sine value (log entry 6). -/
opaque normal (a b : BitVec 32) (u1 u2 : Nat) (second : Bool) : BitVec 32

/-- The scale that FILL gives the blocks of a narrow tensor whose code is not 0, by format and code: R213 states none (log entry 7). -/
opaque fillScale (fmt code : Nat) : BitVec 8

/-- A fresh word for each value of the state's counter `free` (log entry 7). -/
opaque freeWord (k : Nat) : BitVec 32

/-- The Ubfetas public key, X‖Y, by which an unlock token is checked: R454 names it and gives no value (log entry 8). -/
opaque ubfetasKey : List (BitVec 8)

/-- The version that PLDM discovery gives for a type: R439 gives none (log entry 8). -/
opaque pldmVersion (ty : Nat) : BitVec 32

/-- The version of this device's configuration blocks: R312 compares versions and gives none (log entry 8). -/
opaque blockVersion : Nat

end Sys2Proof.Config
end

