-- ==== Sys2Proof/Machine/RegMap.lean ====
section
/-! DEFINITION. The register map: every register of the spec with its block, offset, count and fields (access code and reset
value), as the field tables of files 02 to 16 give them (R5 to R7, R434). An entry "image" or "fuses" resets to 0 here until
start-up loads it (log entry 3). -/
namespace Sys2Proof.Machine

/-- The access codes of R7. -/
inductive Acc where
  | ro | rw | w1c | w1s | wo | rc | rsv
  deriving DecidableEq, Repr

/-- A field: its bits, its access code, its reset value and whether the image gives its value (R6). -/
structure Fld where
  hi : Nat
  lo : Nat
  acc : Acc
  reset : Nat
  image : Bool
  deriving DecidableEq, Repr

/-- The blocks of BAR0 (R434). -/
inductive Blk where
  | glob | core | link | stack | coll | perf
  deriving DecidableEq, Repr

def Blk.base : Blk → Nat
  | .glob => 0
  | .core => 0x01000000
  | .link => 0x02000000
  | .stack => 0x03000000
  | .coll => 0x04000000
  | .perf => 0x05000000

/-- The instances of a block, 0x1_0000 apart; the other blocks have one. -/
def Blk.count : Blk → Nat
  | .core => 192
  | .link => 32
  | .stack => 12
  | _ => 1

/-- A register: block, offset, two index counts with their strides, and fields from the most significant down. -/
structure RegSpec where
  blk : Blk
  off : Nat
  n1 : Nat
  s1 : Nat
  n2 : Nat
  s2 : Nat
  fields : List Fld
  deriving DecidableEq, Repr

/-- The registers by name. -/
inductive Reg where
  | arrEpoch
  | arrFree
  | arrOvf
  | arrConst
  | arrHdr
  | convCb4
  | convCb8
  | convCtl
  | convSextantThresh
  | convFb
  | convEscLo
  | convEscHi
  | vecCtl
  | vecStatus
  | vecFlags
  | vecProgLo
  | vecProgHi
  | smpSeedLo
  | smpSeedHi
  | smpStatus
  | smpCount
  | coreStatus
  | coreCpLo
  | coreCpHi
  | coreCcLo
  | coreCcHi
  | coreFlags
  | coreExc
  | coreExcVecLo
  | coreExcVecHi
  | coreWait
  | coreWaitThresh
  | coreReset
  | helmSyncCount
  | helmSyncAdd
  | helmSyncIrq
  | helmSyncCtl
  | memStatus
  | memCeCount
  | memUeCount
  | memErrAddrLo
  | memErrAddrHi
  | memErrInfo
  | memScrubCtl
  | memScrubPos
  | memMarginCtl
  | memMarginResult
  | helmPart
  | helmCensus
  | helmCensusPool
  | helmReqCmd
  | helmReqStatus
  | helmReqArg
  | helmReqRes
  | helmWqTail
  | helmWqHead
  | lnkCtl
  | lnkStatus
  | lnkPeer
  | lnkModule
  | lnkVcWeight
  | lnkCredit
  | lnkCnt
  | lnkFiMatch
  | lnkFiAct
  | lnkFiStat
  | lnkDevid
  | lnkFabric
  | lnkMacBaseLo
  | lnkMacBaseHi
  | lnkGcnt
  | lnkRoutePri
  | lnkRouteAlt
  | collGroup
  | collGroupCfg
  | collGroupMembLo
  | collGroupMembHi
  | collGroupQLo
  | collGroupQHi
  | collGroupElo
  | collGroupEhi
  | collGroupShape
  | collGroupQstat
  | collGroupKey
  | collGroupErr
  | collMerLo
  | collMerHi
  | collMerStatus
  | collMerCfg
  | chartSel
  | chartCmd
  | chartData
  | helmLossCtl
  | helmLossK
  | helmLossMean
  | helmLossVar
  | helmLossN
  | helmLossSpikes
  | helmLossLast
  | helmNfCnt
  | helmNfTrap
  | helmNfCcLo
  | helmNfCcHi
  | helmNfDescLo
  | helmNfDescHi
  | helmNfRow
  | helmNfCol
  | helmNfWinLo
  | helmNfWinHi
  | helmReckon
  | helmSig
  | logStatus
  | logHead
  | logLhCtl
  | logLhSamples
  | logLhMism
  | logFatal
  | logRd
  | logData
  | almStatus
  | almSeq
  | almStarts
  | almSel
  | almData
  | helmIrqStatus
  | helmIrqMask
  | helmIrqHoldoff
  | helmEvqStatus
  | helmEvqData
  | helmEvqPop
  | lcStatus
  | lcImage
  | lcReset
  | lcSeal
  | lcUidLo
  | lcUidHi
  | lcPort
  | clkCore
  | clkLimit
  | clkStatus
  | pwrCtl
  | pwrStatus
  | pwrIcc
  | pwrEnergyLo
  | pwrEnergyHi
  | pwrTherm
  | pwrRail
  | pwrTemp
  | pwrSbStatus
  | pwrSbSeg
  | perfCoreCtl
  | perfCoreEvt
  | perfCoreCntLo
  | perfCoreCntHi
  | perfHubEvt
  | perfHubCntLo
  | perfHubCntHi
  | perfWinLo
  | perfWinHi
  | perfDumpCtl
  | perfDumpBaseLo
  | perfDumpBaseHi
  | perfDumpSkip
  | perfRingBaseLo
  | perfRingBaseHi
  | perfRingCtl
  | perfRingHead
  | perfRingTail
  | perfRingLost
  deriving DecidableEq, Repr

def ro (h l : Nat) : Fld := ⟨h, l, .ro, 0, false⟩
def rw (h l : Nat) : Fld := ⟨h, l, .rw, 0, false⟩
def rc (h l : Nat) : Fld := ⟨h, l, .rc, 0, false⟩
def wo (h l : Nat) : Fld := ⟨h, l, .wo, 0, false⟩
def w1c (h l : Nat) : Fld := ⟨h, l, .w1c, 0, false⟩
def rsv (h l : Nat) : Fld := ⟨h, l, .rsv, 0, false⟩
/-- A read-only or read-write field whose value the image or the fuses give (R6). -/
def roI (h l : Nat) : Fld := ⟨h, l, .ro, 0, true⟩
def rwI (h l : Nat) : Fld := ⟨h, l, .rw, 0, true⟩

/-- The register tables of the spec. -/
def Reg.spec : Reg → RegSpec
  -- R101 R102
  | .arrEpoch => ⟨.core, 0x2000, 1, 0x4, 1, 0x4, [ro 31 31, rsv 30 21, ro 20 16, rsv 15 15, ro 14 14, ro 13 10, ⟨9, 9, .ro, 0x1, false⟩, ro 8 8, ro 7 0]⟩
  -- R103
  | .arrFree => ⟨.core, 0x2010, 4, 0x4, 1, 0x4, [⟨31, 0, .ro, 0xffffffff, false⟩]⟩
  -- R104
  | .arrOvf => ⟨.core, 0x2040, 4, 0x4, 1, 0x4, [rsv 31 16, rc 15 0]⟩
  -- R105
  | .arrConst => ⟨.core, 0x2060, 1, 0x4, 1, 0x4, [rsv 31 27, ro 26 19, ro 18 15, ro 14 11, ro 10 7, ro 6 3, ro 2 2, ro 1 1, ro 0 0]⟩
  -- R178 R148
  | .arrHdr => ⟨.core, 0x2100, 4, 0x40, 16, 0x4, [ro 31 16, rsv 15 8, ro 7 0]⟩
  -- R48 R49
  | .convCb4 => ⟨.core, 0x8000, 16, 0x10, 4, 0x4, [rsv 31 30, rwI 29 24, rsv 23 22, rwI 21 16, rsv 15 14, rwI 13 8, rsv 7 6, rwI 5 0]⟩
  -- R48 R50
  | .convCb8 => ⟨.core, 0x9000, 4, 0x200, 128, 0x4, [rsv 31 26, rwI 25 16, rsv 15 10, rwI 9 0]⟩
  -- R142
  | .convCtl => ⟨.core, 0x3000, 1, 0x4, 1, 0x4, [rsv 31 11, rwI 10 1, rwI 0 0]⟩
  -- R143
  | .convSextantThresh => ⟨.core, 0x3010, 4, 0x10, 4, 0x4, [rwI 31 0]⟩
  -- R144
  | .convFb => ⟨.core, 0x3050, 4, 0x4, 1, 0x4, [rc 31 0]⟩
  -- R145
  | .convEscLo => ⟨.core, 0x3060, 1, 0x4, 1, 0x4, [ro 31 5, rsv 4 2, w1c 1 1, w1c 0 0]⟩
  -- R145
  | .convEscHi => ⟨.core, 0x3064, 1, 0x4, 1, 0x4, [rsv 31 20, ro 19 0]⟩
  -- R180
  | .vecCtl => ⟨.core, 0x4000, 1, 0x4, 1, 0x4, [rsv 31 6, rwI 5 4, rsv 3 2, ⟨1, 1, .w1s, 0x0, false⟩, ro 0 0]⟩
  -- R181
  | .vecStatus => ⟨.core, 0x4004, 1, 0x4, 1, 0x4, [rsv 31 28, ro 27 23, ro 22 21, ro 20 16, rsv 15 4, w1c 3 3, ro 2 2, ro 1 1, ⟨0, 0, .ro, 0x1, false⟩]⟩
  -- R182
  | .vecFlags => ⟨.core, 0x4008, 1, 0x4, 1, 0x4, [rsv 31 5, w1c 4 4, w1c 3 3, w1c 2 2, w1c 1 1, w1c 0 0]⟩
  -- R183
  | .vecProgLo => ⟨.core, 0x4400, 2, 0x100, 32, 0x8, [rw 31 0]⟩
  -- R183
  | .vecProgHi => ⟨.core, 0x4404, 2, 0x100, 32, 0x8, [rw 31 0]⟩
  -- R200
  | .smpSeedLo => ⟨.core, 0x5000, 1, 0x4, 1, 0x4, [roI 31 0]⟩
  -- R200
  | .smpSeedHi => ⟨.core, 0x5004, 1, 0x4, 1, 0x4, [roI 31 0]⟩
  -- R201
  | .smpStatus => ⟨.core, 0x5008, 1, 0x4, 1, 0x4, [rsv 31 9, w1c 8 8, rsv 7 6, ro 5 4, rsv 3 2, ro 1 1, ro 0 0]⟩
  -- R202
  | .smpCount => ⟨.core, 0x500C, 1, 0x4, 1, 0x4, [rc 31 0]⟩
  -- R238
  | .coreStatus => ⟨.core, 0x0, 1, 0x4, 1, 0x4, [rsv 31 30, ro 29 23, ro 22 16, rsv 15 14, ro 13 8, rsv 7 7, ro 6 6, ro 5 5, ro 4 4, ro 3 3, ro 2 2, ⟨1, 1, .ro, 0x1, false⟩, ro 0 0]⟩
  -- R239
  | .coreCpLo => ⟨.core, 0x8, 1, 0x4, 1, 0x4, [ro 31 0]⟩
  -- R239
  | .coreCpHi => ⟨.core, 0xC, 1, 0x4, 1, 0x4, [rsv 31 16, ro 15 0]⟩
  -- R239
  | .coreCcLo => ⟨.core, 0x10, 1, 0x4, 1, 0x4, [ro 31 0]⟩
  -- R239
  | .coreCcHi => ⟨.core, 0x14, 1, 0x4, 1, 0x4, [ro 31 0]⟩
  -- R240
  | .coreFlags => ⟨.core, 0x18, 1, 0x4, 1, 0x4, [rsv 31 10, w1c 9 0]⟩
  -- R241
  | .coreExc => ⟨.core, 0x1C, 1, 0x4, 1, 0x4, [w1c 31 31, rsv 30 22, ro 21 16, ro 15 8, ro 7 0]⟩
  -- R239
  | .coreExcVecLo => ⟨.core, 0x20, 1, 0x4, 1, 0x4, [rwI 31 5, rsv 4 0]⟩
  -- R239
  | .coreExcVecHi => ⟨.core, 0x24, 1, 0x4, 1, 0x4, [rsv 31 16, rwI 15 0]⟩
  -- R242
  | .coreWait => ⟨.core, 0x28, 1, 0x4, 1, 0x4, [ro 31 30, rsv 29 25, ro 24 24, ro 23 16, rsv 15 14, ro 13 0]⟩
  -- R242
  | .coreWaitThresh => ⟨.core, 0x2C, 1, 0x4, 1, 0x4, [ro 31 0]⟩
  -- R460
  | .coreReset => ⟨.core, 0x30, 1, 0x4, 1, 0x4, [rsv 31 1, wo 0 0]⟩
  -- R243
  | .helmSyncCount => ⟨.glob, 0x400000, 16384, 0x10, 1, 0x4, [rw 31 0]⟩
  -- R243
  | .helmSyncAdd => ⟨.glob, 0x400004, 16384, 0x10, 1, 0x4, [wo 31 0]⟩
  -- R243
  | .helmSyncIrq => ⟨.glob, 0x400008, 16384, 0x10, 1, 0x4, [rw 31 0]⟩
  -- R243
  | .helmSyncCtl => ⟨.glob, 0x40000C, 16384, 0x10, 1, 0x4, [rsv 31 7, ro 6 4, ro 3 3, w1c 2 2, w1c 1 1, rw 0 0]⟩
  -- R271
  | .memStatus => ⟨.stack, 0x0, 1, 0x4, 1, 0x4, [rsv 31 24, ro 23 16, rsv 15 5, ro 4 4, ro 3 3, ro 2 2, ro 1 1, ro 0 0]⟩
  -- R272
  | .memCeCount => ⟨.stack, 0x10, 1, 0x4, 1, 0x4, [rc 31 0]⟩
  -- R272
  | .memUeCount => ⟨.stack, 0x14, 1, 0x4, 1, 0x4, [rc 31 0]⟩
  -- R273
  | .memErrAddrLo => ⟨.stack, 0x18, 1, 0x4, 1, 0x4, [ro 31 6, rsv 5 0]⟩
  -- R273
  | .memErrAddrHi => ⟨.stack, 0x1C, 1, 0x4, 1, 0x4, [rsv 31 20, ro 19 0]⟩
  -- R273
  | .memErrInfo => ⟨.stack, 0x20, 1, 0x4, 1, 0x4, [w1c 31 31, ro 30 30, w1c 29 29, ro 28 26, ro 25 21, ro 20 20, ro 19 16, ro 15 0]⟩
  -- R274
  | .memScrubCtl => ⟨.stack, 0x30, 1, 0x4, 1, 0x4, [rsv 31 9, rwI 8 8, rwI 7 0]⟩
  -- R274
  | .memScrubPos => ⟨.stack, 0x34, 1, 0x4, 1, 0x4, [ro 31 24, ro 23 0]⟩
  -- R275
  | .memMarginCtl => ⟨.stack, 0x40, 1, 0x4, 1, 0x4, [wo 31 31, rsv 30 28, rw 27 26, rw 25 21, rw 20 20, rsv 19 14, ⟨13, 13, .rw, 0x1, false⟩, rw 12 8, rsv 7 0]⟩
  -- R275
  | .memMarginResult => ⟨.stack, 0x44, 1, 0x4, 1, 0x4, [ro 31 31, ro 30 30, ro 29 29, rsv 28 16, ro 15 8, ro 7 0]⟩
  -- R304
  | .helmPart => ⟨.glob, 0x10000, 8, 0x10, 1, 0x4, [roI 31 30, roI 29 28, roI 27 27, roI 26 26, rsv 25 24, ro 23 16, rsv 15 15, ro 14 8, ro 7 0]⟩
  -- R308
  | .helmCensus => ⟨.glob, 0x10100, 1, 0x4, 1, 0x4, [ro 31 31, ro 30 0]⟩
  -- R308
  | .helmCensusPool => ⟨.glob, 0x10104, 1, 0x4, 1, 0x4, [ro 31 28, rsv 27 18, ro 17 0]⟩
  -- R305
  | .helmReqCmd => ⟨.glob, 0x20000, 8, 0x100, 1, 0x4, [rsv 31 9, wo 8 8, wo 7 0]⟩
  -- R305
  | .helmReqStatus => ⟨.glob, 0x20004, 8, 0x100, 1, 0x4, [ro 31 31, w1c 30 30, w1c 29 29, rsv 28 16, ro 15 8, ro 7 0]⟩
  -- R306
  | .helmReqArg => ⟨.glob, 0x20010, 8, 0x100, 8, 0x4, [rw 31 0]⟩
  -- R306
  | .helmReqRes => ⟨.glob, 0x20030, 8, 0x100, 4, 0x4, [ro 31 0]⟩
  -- R307
  | .helmWqTail => ⟨.glob, 0x30000, 8, 0x200, 64, 0x8, [rsv 31 16, rw 15 0]⟩
  -- R307
  | .helmWqHead => ⟨.glob, 0x30004, 8, 0x200, 64, 0x8, [rsv 31 17, ro 16 16, ro 15 0]⟩
  -- R340
  | .lnkCtl => ⟨.link, 0x0, 1, 0x4, 1, 0x4, [rwI 31 31, rwI 30 30, rwI 29 29, wo 28 28, rwI 27 24, rwI 23 12, roI 11 11, rsv 10 8, roI 7 0]⟩
  -- R341
  | .lnkStatus => ⟨.link, 0x4, 1, 0x4, 1, 0x4, [ro 31 28, ro 27 26, ro 25 22, ro 21 18, ro 17 17, ro 16 14, w1c 13 13, ro 12 12, rsv 11 0]⟩
  -- R342
  | .lnkPeer => ⟨.link, 0x8, 1, 0x4, 1, 0x4, [ro 31 31, ro 30 26, rsv 25 12, ro 11 0]⟩
  -- R342
  | .lnkModule => ⟨.link, 0xC, 1, 0x4, 1, 0x4, [ro 31 24, ro 23 16, ro 15 8, ro 7 5, ro 4 4, rsv 3 0]⟩
  -- R343
  | .lnkVcWeight => ⟨.link, 0x10, 1, 0x4, 1, 0x4, [rwI 31 0]⟩
  -- R343
  | .lnkCredit => ⟨.link, 0x20, 8, 0x4, 1, 0x4, [rsv 31 27, ro 26 16, rsv 15 11, ro 10 0]⟩
  -- R344
  | .lnkCnt => ⟨.link, 0x40, 8, 0x4, 1, 0x4, [rc 31 0]⟩
  -- R345
  | .lnkFiMatch => ⟨.link, 0x100, 8, 0x10, 1, 0x4, [rw 31 31, rw 30 29, rw 28 25, rw 24 24, rw 23 12, rw 11 11, rw 10 3, rsv 2 0]⟩
  -- R345
  | .lnkFiAct => ⟨.link, 0x104, 8, 0x10, 1, 0x4, [rw 31 30, rw 29 24, rw 23 12, rw 11 0]⟩
  -- R345
  | .lnkFiStat => ⟨.link, 0x108, 8, 0x10, 1, 0x4, [rc 31 0]⟩
  -- R346
  | .lnkDevid => ⟨.glob, 0x50000, 1, 0x4, 1, 0x4, [rsv 31 28, ro 27 12, roI 11 0]⟩
  -- R346
  | .lnkFabric => ⟨.glob, 0x50004, 1, 0x4, 1, 0x4, [roI 31 16, rsv 15 12, roI 11 0]⟩
  -- R346
  | .lnkMacBaseLo => ⟨.glob, 0x50008, 1, 0x4, 1, 0x4, [roI 31 0]⟩
  -- R346
  | .lnkMacBaseHi => ⟨.glob, 0x5000C, 1, 0x4, 1, 0x4, [rsv 31 16, roI 15 0]⟩
  -- R344
  | .lnkGcnt => ⟨.glob, 0x50010, 4, 0x4, 1, 0x4, [rc 31 0]⟩
  -- R346
  | .lnkRoutePri => ⟨.glob, 0x60000, 4096, 0x8, 1, 0x4, [rwI 31 31, rsv 30 29, rwI 28 24, rsv 23 22, rwI 21 17, rsv 16 12, rwI 11 0]⟩
  -- R346
  | .lnkRouteAlt => ⟨.glob, 0x60004, 4096, 0x8, 1, 0x4, [rwI 31 31, rsv 30 29, rwI 28 24, rsv 23 22, rwI 21 17, rsv 16 12, rwI 11 0]⟩
  -- R379 R380
  | .collGroup => ⟨.coll, 0x0, 256, 0x40, 1, 0x4, [ro 31 29, ro 28 25, ro 24 24, rsv 23 3, wo 2 2, wo 1 1, rw 0 0]⟩
  -- R379 R380
  | .collGroupCfg => ⟨.coll, 0x4, 256, 0x40, 1, 0x4, [rw 31 20, rw 19 12, rw 11 8, rw 7 7, rsv 6 0]⟩
  -- R379 R380
  | .collGroupMembLo => ⟨.coll, 0x8, 256, 0x40, 1, 0x4, [rw 31 2, rsv 1 0]⟩
  -- R379 R380
  | .collGroupMembHi => ⟨.coll, 0xC, 256, 0x40, 1, 0x4, [rsv 31 16, rw 15 0]⟩
  -- R379 R380
  | .collGroupQLo => ⟨.coll, 0x10, 256, 0x40, 1, 0x4, [rw 31 16, rsv 15 0]⟩
  -- R379 R380
  | .collGroupQHi => ⟨.coll, 0x14, 256, 0x40, 1, 0x4, [rsv 31 16, rw 15 0]⟩
  -- R379 R380
  | .collGroupElo => ⟨.coll, 0x18, 256, 0x40, 1, 0x4, [rw 31 0]⟩
  -- R379 R380
  | .collGroupEhi => ⟨.coll, 0x1C, 256, 0x40, 1, 0x4, [rw 31 0]⟩
  -- R379 R380
  | .collGroupShape => ⟨.coll, 0x20, 256, 0x40, 1, 0x4, [rsv 31 16, rw 15 13, rw 12 12, rw 11 0]⟩
  -- R379 R380
  | .collGroupQstat => ⟨.coll, 0x24, 256, 0x40, 1, 0x4, [rsv 31 27, ro 26 16, ro 15 0]⟩
  -- R379 R380
  | .collGroupKey => ⟨.coll, 0x28, 256, 0x40, 1, 0x4, [rw 31 0]⟩
  -- R379 R380
  | .collGroupErr => ⟨.coll, 0x2C, 256, 0x40, 1, 0x4, [rc 31 16, rc 15 0]⟩
  -- R381
  | .collMerLo => ⟨.coll, 0x8000, 1, 0x4, 1, 0x4, [ro 31 0]⟩
  -- R381
  | .collMerHi => ⟨.coll, 0x8004, 1, 0x4, 1, 0x4, [ro 31 0]⟩
  -- R381
  | .collMerStatus => ⟨.coll, 0x8008, 1, 0x4, 1, 0x4, [ro 31 30, ro 29 29, ro 28 24, ro 23 17, w1c 16 16, ro 15 0]⟩
  -- R381
  | .collMerCfg => ⟨.coll, 0x800C, 1, 0x4, 1, 0x4, [rsv 31 8, roI 7 0]⟩
  -- R382
  | .chartSel => ⟨.coll, 0x10000, 1, 0x4, 1, 0x4, [rsv 31 17, rw 16 16, rw 15 0]⟩
  -- R382
  | .chartCmd => ⟨.coll, 0x10004, 1, 0x4, 1, 0x4, [ro 31 31, rsv 30 2, wo 1 1, wo 0 0]⟩
  -- R382
  | .chartData => ⟨.coll, 0x10010, 6, 0x4, 1, 0x4, [rw 31 0]⟩
  -- R403
  | .helmLossCtl => ⟨.glob, 0x70000, 8, 0x20, 1, 0x4, [rw 31 31, rw 30 30, rsv 29 28, rw 27 24, rsv 23 16, rw 15 0]⟩
  -- R403
  | .helmLossK => ⟨.glob, 0x70004, 8, 0x20, 1, 0x4, [rw 31 0]⟩
  -- R403
  | .helmLossMean => ⟨.glob, 0x70008, 8, 0x20, 1, 0x4, [rw 31 0]⟩
  -- R403
  | .helmLossVar => ⟨.glob, 0x7000C, 8, 0x20, 1, 0x4, [rw 31 0]⟩
  -- R403
  | .helmLossN => ⟨.glob, 0x70010, 8, 0x20, 1, 0x4, [rsv 31 16, rw 15 0]⟩
  -- R403
  | .helmLossSpikes => ⟨.glob, 0x70014, 8, 0x20, 1, 0x4, [rc 31 0]⟩
  -- R403
  | .helmLossLast => ⟨.glob, 0x70018, 8, 0x20, 1, 0x4, [ro 31 0]⟩
  -- R404
  | .helmNfCnt => ⟨.glob, 0x71000, 8, 0x100, 4, 0x4, [rc 31 0]⟩
  -- R404
  | .helmNfTrap => ⟨.glob, 0x71010, 8, 0x100, 1, 0x4, [w1c 31 31, rwI 30 27, rsv 26 26, ro 25 24, ro 23 16, ro 15 0]⟩
  -- R404
  | .helmNfCcLo => ⟨.glob, 0x71014, 8, 0x100, 1, 0x4, [ro 31 0]⟩
  -- R404
  | .helmNfCcHi => ⟨.glob, 0x71018, 8, 0x100, 1, 0x4, [ro 31 0]⟩
  -- R404
  | .helmNfDescLo => ⟨.glob, 0x7101C, 8, 0x100, 1, 0x4, [ro 31 0]⟩
  -- R404
  | .helmNfDescHi => ⟨.glob, 0x71020, 8, 0x100, 1, 0x4, [rsv 31 16, ro 15 0]⟩
  -- R404
  | .helmNfRow => ⟨.glob, 0x71024, 8, 0x100, 1, 0x4, [ro 31 0]⟩
  -- R404
  | .helmNfCol => ⟨.glob, 0x71028, 8, 0x100, 1, 0x4, [ro 31 0]⟩
  -- R404
  | .helmNfWinLo => ⟨.glob, 0x71040, 8, 0x100, 8, 0x8, [rw 31 31, rw 30 29, rw 28 27, rw 26 0]⟩
  -- R404
  | .helmNfWinHi => ⟨.glob, 0x71044, 8, 0x100, 8, 0x8, [rsv 31 27, rw 26 0]⟩
  -- R405
  | .helmReckon => ⟨.glob, 0x72000, 8, 0x4, 1, 0x4, [rsv 31 1, rwI 0 0]⟩
  -- R405
  | .helmSig => ⟨.glob, 0x72100, 8, 0x20, 8, 0x4, [ro 31 0]⟩
  -- R430
  | .logStatus => ⟨.glob, 0x80000, 1, 0x4, 1, 0x4, [w1c 31 31, rsv 30 16, rc 15 0]⟩
  -- R430
  | .logHead => ⟨.glob, 0x80004, 1, 0x4, 1, 0x4, [ro 31 0]⟩
  -- R430
  | .logLhCtl => ⟨.glob, 0x80008, 1, 0x4, 1, 0x4, [rwI 31 31, rsv 30 4, rwI 3 0]⟩
  -- R430
  | .logLhSamples => ⟨.glob, 0x8000C, 1, 0x4, 1, 0x4, [rc 31 0]⟩
  -- R430
  | .logLhMism => ⟨.glob, 0x80010, 1, 0x4, 1, 0x4, [rc 31 0]⟩
  -- R430
  | .logFatal => ⟨.glob, 0x80040, 16, 0x4, 1, 0x4, [ro 31 0]⟩
  -- R430
  | .logRd => ⟨.glob, 0x81000, 8, 0x100, 1, 0x4, [w1c 31 31, rsv 30 12, rw 11 0]⟩
  -- R430
  | .logData => ⟨.glob, 0x81040, 8, 0x100, 16, 0x4, [ro 31 0]⟩
  -- R431
  | .almStatus => ⟨.glob, 0x90000, 1, 0x4, 1, 0x4, [ro 31 31, ro 30 30, ro 29 29, rsv 28 27, ro 26 16, rsv 15 9, ro 8 0]⟩
  -- R431
  | .almSeq => ⟨.glob, 0x90004, 1, 0x4, 1, 0x4, [ro 31 0]⟩
  -- R431
  | .almStarts => ⟨.glob, 0x90008, 1, 0x4, 1, 0x4, [ro 31 0]⟩
  -- R431
  | .almSel => ⟨.glob, 0x9000C, 1, 0x4, 1, 0x4, [rsv 31 11, rw 10 0]⟩
  -- R431
  | .almData => ⟨.glob, 0x90040, 16, 0x4, 1, 0x4, [ro 31 0]⟩
  -- R457
  | .helmIrqStatus => ⟨.glob, 0xA0000, 8, 0x40, 1, 0x4, [rsv 31 16, w1c 15 0]⟩
  -- R457
  | .helmIrqMask => ⟨.glob, 0xA0004, 8, 0x40, 1, 0x4, [rsv 31 16, ⟨15, 0, .rw, 0xffff, false⟩]⟩
  -- R457
  | .helmIrqHoldoff => ⟨.glob, 0xA0008, 8, 0x40, 1, 0x4, [rsv 31 16, rw 15 0]⟩
  -- R457
  | .helmEvqStatus => ⟨.glob, 0xA000C, 8, 0x40, 1, 0x4, [rc 31 16, rsv 15 9, ro 8 0]⟩
  -- R457
  | .helmEvqData => ⟨.glob, 0xA0010, 8, 0x40, 4, 0x4, [ro 31 0]⟩
  -- R457
  | .helmEvqPop => ⟨.glob, 0xA0020, 8, 0x40, 1, 0x4, [rsv 31 1, wo 0 0]⟩
  -- R458
  | .lcStatus => ⟨.glob, 0xB0000, 1, 0x4, 1, 0x4, [ro 31 28, ro 27 26, rsv 25 24, ro 23 16, rsv 15 14, ro 13 12, ro 11 11, ro 10 10, ro 9 9, ro 8 8, rsv 7 4, ro 3 0]⟩
  -- R458
  | .lcImage => ⟨.glob, 0xB0004, 1, 0x4, 1, 0x4, [roI 31 0]⟩
  -- R459
  | .lcReset => ⟨.glob, 0xB0008, 1, 0x4, 1, 0x4, [wo 31 31, rsv 30 7, roI 6 4, ro 3 0]⟩
  -- R459
  | .lcSeal => ⟨.glob, 0xB000C, 1, 0x4, 1, 0x4, [wo 31 0]⟩
  -- R459
  | .lcUidLo => ⟨.glob, 0xB0010, 1, 0x4, 1, 0x4, [ro 31 0]⟩
  -- R459
  | .lcUidHi => ⟨.glob, 0xB0014, 1, 0x4, 1, 0x4, [ro 31 0]⟩
  -- R460
  | .lcPort => ⟨.glob, 0xB0020, 4, 0x4, 1, 0x4, [ro 31 31, ro 30 28, ro 27 23, ro 22 22, ro 21 21, rsv 20 16, rc 15 8, rc 7 0]⟩
  -- R489
  | .clkCore => ⟨.glob, 0xC0000, 2, 0x4, 1, 0x4, [ro 31 22, ro 21 21, ro 20 20, ro 19 16, rsv 15 15, ro 14 8, rsv 7 7, ro 6 0]⟩
  -- R489
  | .clkLimit => ⟨.glob, 0xC0008, 1, 0x4, 1, 0x4, [rsv 31 23, roI 22 16, rsv 15 15, roI 14 8, rsv 7 7, rwI 6 0]⟩
  -- R490
  | .clkStatus => ⟨.glob, 0xC000C, 1, 0x4, 1, 0x4, [rsv 31 22, ro 21 18, ro 17 17, ro 16 16, ro 15 4, ro 3 3, ro 2 2, ro 1 1, ro 0 0]⟩
  -- R491
  | .pwrCtl => ⟨.glob, 0xD0000, 1, 0x4, 1, 0x4, [roI 31 20, rwI 19 8, rsv 7 0]⟩
  -- R491
  | .pwrStatus => ⟨.glob, 0xD0004, 1, 0x4, 1, 0x4, [ro 31 20, ⟨19, 13, .ro, 0x40, false⟩, rsv 12 7, ro 6 6, w1c 5 5, ro 4 4, ro 3 3, ro 2 2, ro 1 1, ro 0 0]⟩
  -- R491
  | .pwrIcc => ⟨.glob, 0xD0008, 1, 0x4, 1, 0x4, [rsv 31 11, roI 10 0]⟩
  -- R492
  | .pwrEnergyLo => ⟨.glob, 0xD0010, 1, 0x4, 1, 0x4, [ro 31 0]⟩
  -- R492
  | .pwrEnergyHi => ⟨.glob, 0xD0014, 1, 0x4, 1, 0x4, [ro 31 0]⟩
  -- R492
  | .pwrTherm => ⟨.glob, 0xD0018, 1, 0x4, 1, 0x4, [ro 31 31, ro 30 30, rsv 29 16, ⟨15, 8, .ro, 0x69, false⟩, rwI 7 0]⟩
  -- R492
  | .pwrRail => ⟨.glob, 0xD0040, 10, 0x4, 1, 0x4, [ro 31 16, ro 15 0]⟩
  -- R492
  | .pwrTemp => ⟨.glob, 0xD0080, 3, 0x4, 1, 0x4, [rsv 31 24, ro 23 16, ro 15 0]⟩
  -- R493
  | .pwrSbStatus => ⟨.glob, 0xD00C0, 1, 0x4, 1, 0x4, [ro 31 31, rsv 30 26, w1c 25 0]⟩
  -- R493
  | .pwrSbSeg => ⟨.glob, 0xD00C4, 1, 0x4, 1, 0x4, [ro 31 0]⟩
  -- R509
  | .perfCoreCtl => ⟨.perf, 0x0, 192, 0x100, 1, 0x4, [rw 31 31, rw 30 30, rw 29 29, rw 28 25, rsv 24 0]⟩
  -- R509
  | .perfCoreEvt => ⟨.perf, 0x20, 192, 0x100, 8, 0x4, [rsv 31 18, rw 17 16, rw 15 15, rw 14 12, rw 11 8, rw 7 0]⟩
  -- R509
  | .perfCoreCntLo => ⟨.perf, 0x40, 192, 0x100, 8, 0x8, [rw 31 0]⟩
  -- R509
  | .perfCoreCntHi => ⟨.perf, 0x44, 192, 0x100, 8, 0x8, [rw 31 0]⟩
  -- R509
  | .perfHubEvt => ⟨.perf, 0x10000, 32, 0x4, 1, 0x4, [⟨31, 28, .rw, 0xf, false⟩, rw 27 27, rw 26 24, rw 23 20, rw 19 16, ⟨15, 8, .rw, 0xff, false⟩, rw 7 0]⟩
  -- R509
  | .perfHubCntLo => ⟨.perf, 0x10100, 32, 0x8, 1, 0x4, [rw 31 0]⟩
  -- R509
  | .perfHubCntHi => ⟨.perf, 0x10104, 32, 0x8, 1, 0x4, [rw 31 0]⟩
  -- R509
  | .perfWinLo => ⟨.perf, 0x20000, 8, 0x100, 8, 0x8, [rw 31 31, rsv 30 29, rw 28 27, rw 26 0]⟩
  -- R509
  | .perfWinHi => ⟨.perf, 0x20004, 8, 0x100, 8, 0x8, [rsv 31 27, rw 26 0]⟩
  -- R509
  | .perfDumpCtl => ⟨.perf, 0x30000, 8, 0x40, 1, 0x4, [rw 31 31, w1c 30 30, rsv 29 16, rw 15 0]⟩
  -- R509
  | .perfDumpBaseLo => ⟨.perf, 0x30004, 8, 0x40, 1, 0x4, [rw 31 7, rsv 6 0]⟩
  -- R509
  | .perfDumpBaseHi => ⟨.perf, 0x30008, 8, 0x40, 1, 0x4, [rsv 31 16, rw 15 0]⟩
  -- R509
  | .perfDumpSkip => ⟨.perf, 0x3000C, 8, 0x40, 1, 0x4, [rc 31 0]⟩
  -- R509
  | .perfRingBaseLo => ⟨.perf, 0x30010, 8, 0x40, 1, 0x4, [rw 31 6, rsv 5 0]⟩
  -- R509
  | .perfRingBaseHi => ⟨.perf, 0x30014, 8, 0x40, 1, 0x4, [rsv 31 16, rw 15 0]⟩
  -- R509
  | .perfRingCtl => ⟨.perf, 0x30018, 8, 0x40, 1, 0x4, [rw 31 31, rsv 30 5, ⟨4, 0, .rw, 0x6, false⟩]⟩
  -- R509
  | .perfRingHead => ⟨.perf, 0x3001C, 8, 0x40, 1, 0x4, [rw 31 0]⟩
  -- R509
  | .perfRingTail => ⟨.perf, 0x30020, 8, 0x40, 1, 0x4, [ro 31 0]⟩
  -- R509
  | .perfRingLost => ⟨.perf, 0x30024, 8, 0x40, 1, 0x4, [rc 31 0]⟩

/-- Every register. -/
def Reg.all : List Reg := [
    .arrEpoch, .arrFree, .arrOvf, .arrConst, .arrHdr, .convCb4, .convCb8, .convCtl,
    .convSextantThresh, .convFb, .convEscLo, .convEscHi, .vecCtl, .vecStatus, .vecFlags, .vecProgLo,
    .vecProgHi, .smpSeedLo, .smpSeedHi, .smpStatus, .smpCount, .coreStatus, .coreCpLo, .coreCpHi,
    .coreCcLo, .coreCcHi, .coreFlags, .coreExc, .coreExcVecLo, .coreExcVecHi, .coreWait, .coreWaitThresh,
    .coreReset, .helmSyncCount, .helmSyncAdd, .helmSyncIrq, .helmSyncCtl, .memStatus, .memCeCount, .memUeCount,
    .memErrAddrLo, .memErrAddrHi, .memErrInfo, .memScrubCtl, .memScrubPos, .memMarginCtl, .memMarginResult, .helmPart,
    .helmCensus, .helmCensusPool, .helmReqCmd, .helmReqStatus, .helmReqArg, .helmReqRes, .helmWqTail, .helmWqHead,
    .lnkCtl, .lnkStatus, .lnkPeer, .lnkModule, .lnkVcWeight, .lnkCredit, .lnkCnt, .lnkFiMatch,
    .lnkFiAct, .lnkFiStat, .lnkDevid, .lnkFabric, .lnkMacBaseLo, .lnkMacBaseHi, .lnkGcnt, .lnkRoutePri,
    .lnkRouteAlt, .collGroup, .collGroupCfg, .collGroupMembLo, .collGroupMembHi, .collGroupQLo, .collGroupQHi, .collGroupElo,
    .collGroupEhi, .collGroupShape, .collGroupQstat, .collGroupKey, .collGroupErr, .collMerLo, .collMerHi, .collMerStatus] ++ [
    .collMerCfg, .chartSel, .chartCmd, .chartData, .helmLossCtl, .helmLossK, .helmLossMean, .helmLossVar,
    .helmLossN, .helmLossSpikes, .helmLossLast, .helmNfCnt, .helmNfTrap, .helmNfCcLo, .helmNfCcHi, .helmNfDescLo,
    .helmNfDescHi, .helmNfRow, .helmNfCol, .helmNfWinLo, .helmNfWinHi, .helmReckon, .helmSig, .logStatus,
    .logHead, .logLhCtl, .logLhSamples, .logLhMism, .logFatal, .logRd, .logData, .almStatus,
    .almSeq, .almStarts, .almSel, .almData, .helmIrqStatus, .helmIrqMask, .helmIrqHoldoff, .helmEvqStatus,
    .helmEvqData, .helmEvqPop, .lcStatus, .lcImage, .lcReset, .lcSeal, .lcUidLo, .lcUidHi,
    .lcPort, .clkCore, .clkLimit, .clkStatus, .pwrCtl, .pwrStatus, .pwrIcc, .pwrEnergyLo,
    .pwrEnergyHi, .pwrTherm, .pwrRail, .pwrTemp, .pwrSbStatus, .pwrSbSeg, .perfCoreCtl, .perfCoreEvt,
    .perfCoreCntLo, .perfCoreCntHi, .perfHubEvt, .perfHubCntLo, .perfHubCntHi, .perfWinLo, .perfWinHi, .perfDumpCtl,
    .perfDumpBaseLo, .perfDumpBaseHi, .perfDumpSkip, .perfRingBaseLo, .perfRingBaseHi, .perfRingCtl, .perfRingHead, .perfRingTail,
    .perfRingLost]

/-- The BAR0 offset of register r of block number b with indices i and j (R434). -/
def Reg.addr (r : Reg) (b i j : Nat) : Nat :=
  r.spec.blk.base + b * 0x10000 + r.spec.off + i * r.spec.s1 + j * r.spec.s2

/-- A register with its block number and indices. -/
structure RegAt where
  reg : Reg
  b : Nat
  i : Nat
  j : Nat
  deriving DecidableEq, Repr

def RegAt.addr (r : RegAt) : Nat := r.reg.addr r.b r.i r.j

/-- The indices of `r` that the offset names, if it is one of r's. -/
def Reg.at? (r : Reg) (a : Nat) : Option RegAt :=
  let sp := r.spec
  if a < sp.blk.base then none else
  let d0 := a - sp.blk.base
  let b := if sp.blk.count == 1 then 0 else d0 / 0x10000
  let d1 := if sp.blk.count == 1 then d0 else d0 % 0x10000
  if b ≥ sp.blk.count || d1 < sp.off then none else
  let d := d1 - sp.off
  let i := d / sp.s1
  let k := d % sp.s1
  let j := k / sp.s2
  if i < sp.n1 && j < sp.n2 && k % sp.s2 == 0 && (sp.n2 != 1 || k == 0) then some ⟨r, b, i, j⟩ else none

/-- The register at a BAR0 offset; none for a reserved offset. -/
def regFind (a : Nat) : Option RegAt := Reg.all.findSome? (fun r => r.at? a)

/-- The reset value of a register: its fields' reset values in place (R6). -/
def RegSpec.resetVal (s : RegSpec) : Word :=
  BitVec.ofNat 32 (s.fields.foldl (fun a f => a + f.reset <<< f.lo) 0)

/-- The mask of the bits [hi:lo]. -/
def fieldMask (hi lo : Nat) : Nat := (2 ^ (hi + 1 - lo) - 1) <<< lo

/-- The value of bits [hi:lo] of w. -/
def getBits (w : Word) (hi lo : Nat) : Nat := bits w.toNat hi lo
/-- w with bits [hi:lo] replaced by v. -/
def setBits (w : Word) (hi lo v : Nat) : Word :=
  (w &&& ~~~ (BitVec.ofNat 32 (fieldMask hi lo))) ||| BitVec.ofNat 32 ((v % 2 ^ (hi + 1 - lo)) <<< lo)

/-- One field of a register write (R7, R10 with log entry 4): the new contents of the register. -/
def writeFld (v : Word) (w : Word) (f : Fld) : Word :=
  let x := getBits v f.hi f.lo
  let old := getBits w f.hi f.lo
  match f.acc with
  | .rw => setBits w f.hi f.lo x
  | .w1c => setBits w f.hi f.lo (old &&& (2 ^ (f.hi + 1 - f.lo) - 1 - x))
  | .w1s => setBits w f.hi f.lo (old ||| x)
  | _ => w

/-- A register write by the access codes (R7). -/
def RegSpec.write (s : RegSpec) (old v : Word) : Word := s.fields.foldl (writeFld v) old

/-- What a read returns: rsv and wo fields read 0 (R7). -/
def RegSpec.read (s : RegSpec) (w : Word) : Word :=
  s.fields.foldl (fun a f => match f.acc with
    | .rsv => setBits a f.hi f.lo 0
    | .wo => setBits a f.hi f.lo 0
    | _ => a) w

/-- What a read leaves: rc fields clear (R7, R9). -/
def RegSpec.afterRead (s : RegSpec) (w : Word) : Word :=
  s.fields.foldl (fun a f => match f.acc with
    | .rc => setBits a f.hi f.lo 0
    | _ => a) w

/-- Load a value into the fields that the image gives (R6, R446 step 9). -/
def RegSpec.loadImage (s : RegSpec) (old v : Word) : Word :=
  s.fields.foldl (fun a f => if f.image then setBits a f.hi f.lo (getBits v f.hi f.lo) else a) old

/-- Whether a register has an rc field. -/
def RegSpec.hasRc (s : RegSpec) : Bool := s.fields.any (fun f => f.acc == .rc)

/-- The high word's register of a 64-bit pair whose low word is r (R5). -/
def Reg.hiOf : Reg → Option Reg
  | .convEscLo => some .convEscHi
  | .smpSeedLo => some .smpSeedHi
  | .coreCpLo => some .coreCpHi
  | .coreCcLo => some .coreCcHi
  | .coreExcVecLo => some .coreExcVecHi
  | .memErrAddrLo => some .memErrAddrHi
  | .lnkMacBaseLo => some .lnkMacBaseHi
  | .collGroupMembLo => some .collGroupMembHi
  | .collGroupQLo => some .collGroupQHi
  | .collMerLo => some .collMerHi
  | .helmNfCcLo => some .helmNfCcHi
  | .helmNfDescLo => some .helmNfDescHi
  | .lcUidLo => some .lcUidHi
  | .pwrEnergyLo => some .pwrEnergyHi
  | .perfCoreCntLo => some .perfCoreCntHi
  | .perfHubCntLo => some .perfHubCntHi
  | .perfDumpBaseLo => some .perfDumpBaseHi
  | .perfRingBaseLo => some .perfRingBaseHi
  | .vecProgLo => some .vecProgHi
  | _ => none

end Sys2Proof.Machine
end

