-- ==== Sys2Proof/Machine/Float.lean ====
section
/-! DEFINITION. Exact dyadic numbers, the float formats of R31 and R37 to R41, rounding to nearest even, and
the FP32 operations of the vector lanes, the accumulators and the adders with the flags of R166. -/
namespace Sys2Proof.Machine

/-! ### Exact dyadics -/

/-- The exact number m · 2^e. Sums and products of finite floats stay exact here. -/
structure Dy where
  m : Int
  e : Int
  deriving DecidableEq, Repr

def Dy.zero : Dy := ⟨0, 0⟩
def Dy.one : Dy := ⟨1, 0⟩
def Dy.ofNat (n : Nat) : Dy := ⟨n, 0⟩
/-- 2^k. -/
def Dy.pow2 (k : Int) : Dy := ⟨1, k⟩
def Dy.isZero (x : Dy) : Bool := x.m == 0
/-- The significand of x at the exponent e, which is at most x's own. -/
def Dy.at (x : Dy) (e : Int) : Int := x.m * (2 ^ (x.e - e).toNat : Nat)
def Dy.add (x y : Dy) : Dy :=
  if x.m == 0 then y else if y.m == 0 then x else
  let e := min x.e y.e
  ⟨x.at e + y.at e, e⟩
def Dy.neg (x : Dy) : Dy := ⟨-x.m, x.e⟩
def Dy.sub (x y : Dy) : Dy := x.add y.neg
def Dy.mul (x y : Dy) : Dy := if x.m == 0 || y.m == 0 then Dy.zero else ⟨x.m * y.m, x.e + y.e⟩
def Dy.abs (x : Dy) : Dy := ⟨x.m.natAbs, x.e⟩
def Dy.sq (x : Dy) : Dy := x.mul x
/-- x · 2^k. -/
def Dy.scale (x : Dy) (k : Int) : Dy := ⟨x.m, x.e + k⟩
def Dy.lt (x y : Dy) : Bool := decide ((x.sub y).m < 0)
def Dy.le (x y : Dy) : Bool := decide ((x.sub y).m ≤ 0)
def Dy.eq (x y : Dy) : Bool := (x.sub y).m == 0
def Dy.isNeg (x : Dy) : Bool := decide (x.m < 0)
def Dy.max (x y : Dy) : Dy := if x.lt y then y else x
/-- floor(log2 |x|), for x ≠ 0. -/
def Dy.log2 (x : Dy) : Int := (Nat.log2 x.m.natAbs : Int) + x.e
/-- floor(x ÷ 2^k), toward minus infinity (the two floors of R74 and R75). -/
def Dy.floorAt (x : Dy) (k : Int) : Int :=
  if k ≤ x.e then x.at k else x.m / ((2 ^ (k - x.e).toNat : Nat) : Int)
def Dy.sum (l : List Dy) : Dy := l.foldl Dy.add Dy.zero

/-! ### Formats -/

/-- The value of a float code. -/
inductive FV where
  | nan (neg : Bool) (payload : Nat)
  | inf (neg : Bool)
  | fin (neg : Bool) (m : Nat) (e : Int)
  deriving DecidableEq, Repr

/-- A binary float format: the mantissa bits stored, the bias, the code of the largest finite magnitude, the code of
infinity (none for E4M3, R38) and the canonical NaN (R39). -/
structure Fmt where
  width : Nat
  mb : Nat
  bias : Nat
  maxFin : Nat
  infCode : Option Nat
  nanCode : Nat
  deriving DecidableEq, Repr

def fp32 : Fmt := ⟨32, 23, 127, 0x7F7FFFFF, some 0x7F800000, 0x7FC00000⟩
def bf16 : Fmt := ⟨16, 7, 127, 0x7F7F, some 0x7F80, 0x7FC0⟩
def fp16 : Fmt := ⟨16, 10, 15, 0x7BFF, some 0x7C00, 0x7E00⟩
def e4m3 : Fmt := ⟨8, 3, 7, 0x7E, none, 0x7F⟩
def e5m2 : Fmt := ⟨8, 2, 15, 0x7B, some 0x7C, 0x7E⟩

/-- The sign bit of a code. -/
def Fmt.sign (f : Fmt) (c : Nat) : Bool := c.testBit (f.width - 1)
/-- The exponent of the least significant bit of the subnormals. -/
def Fmt.qmin (f : Fmt) : Int := 1 - (f.bias : Int) - f.mb

/-- What a code of the format stands for (R37, R38). -/
def Fmt.decode (f : Fmt) (c : Nat) : FV :=
  let neg := f.sign c
  let mag := c % 2 ^ (f.width - 1)
  if mag ≤ f.maxFin then
    let ex := mag >>> f.mb
    let mant := mag % 2 ^ f.mb
    if ex == 0 then .fin neg mant f.qmin else .fin neg (mant + 2 ^ f.mb) (f.qmin + ex - 1)
  else if f.infCode == some mag then .inf neg
  else .nan neg (mag % 2 ^ f.mb)

/-- The exact value of a finite code; 0 otherwise. -/
def FV.dy : FV → Dy
  | .fin neg m e => ⟨if neg then -(m : Int) else m, e⟩
  | _ => Dy.zero

def FV.isNaN : FV → Bool
  | .nan _ _ => true
  | _ => false
def FV.isInf : FV → Bool
  | .inf _ => true
  | _ => false
def FV.isFin : FV → Bool
  | .fin _ _ _ => true
  | _ => false
def FV.neg : FV → Bool
  | .nan n _ => n
  | .inf n => n
  | .fin n _ _ => n

/-- Round the positive number (m + ε) · 2^e, with 0 < ε < 1 when `sticky`, to p bits of significand with the least
exponent qmin: the significand and its exponent. Ties go to even (R37). -/
def roundMag (p : Nat) (qmin : Int) (m : Nat) (e : Int) (sticky : Bool) : Nat × Int :=
  if m == 0 then (0, qmin) else
  let q := max ((Nat.log2 m : Int) + e - (p - 1)) qmin
  if q ≤ e then (m * 2 ^ (e - q).toNat, q)
  else
    let sh := (q - e).toNat
    let n := m >>> sh
    let r := m % 2 ^ sh
    let half := 2 ^ (sh - 1)
    let up := decide (r > half) || (r == half && (sticky || n % 2 == 1))
    (if up then n + 1 else n, q)

/-- Whether the rounding of `roundMag` loses anything. -/
def roundInexact (p : Nat) (qmin : Int) (m : Nat) (e : Int) (sticky : Bool) : Bool :=
  if m == 0 then sticky else
  let q := max ((Nat.log2 m : Int) + e - (p - 1)) qmin
  sticky || (decide (e < q) && m % 2 ^ (q - e).toNat != 0)

/-- Tiny after rounding as if the exponent were unbounded (R37). -/
def roundTiny (f : Fmt) (m : Nat) (e : Int) (sticky : Bool) : Bool :=
  if m == 0 then false else
  let r := roundMag (f.mb + 1) ((Nat.log2 m : Int) + e - f.mb) m e sticky
  decide ((Nat.log2 r.1 : Int) + r.2 < f.qmin + f.mb)

/-- The code of the rounded magnitude with its sign. Overflow gives infinity, or the largest finite code where the
format has none or where `sat` (R60, R61). -/
def Fmt.encode (f : Fmt) (sat : Bool) (neg : Bool) (m : Nat) (e : Int) (sticky : Bool) : Nat :=
  let r := roundMag (f.mb + 1) f.qmin m e sticky
  let mag := ((r.2 - f.qmin).toNat <<< f.mb) + r.1
  let mag := if mag ≤ f.maxFin then mag else
    match f.infCode with
    | some c => if sat then f.maxFin else c
    | none => f.maxFin
  mag + (if neg then 2 ^ (f.width - 1) else 0)

/-- An exact dyadic rounded to nearest even in the format; the sign of an exact zero is `zneg`. -/
def Fmt.ofDy (f : Fmt) (zneg : Bool) (x : Dy) : Nat :=
  if x.m == 0 then (if zneg then 2 ^ (f.width - 1) else 0) else f.encode false x.isNeg x.m.natAbs x.e false

/-- rne of an exact dyadic to FP32, a zero being +0. -/
def rne32 (x : Dy) : Word := BitVec.ofNat 32 (fp32.ofDy false x)
/-- rne of an exact dyadic to a BF16 code. -/
def rneBf16 (x : Dy) : Nat := bf16.ofDy false x

def Fmt.infOf (f : Fmt) (neg : Bool) : Nat :=
  (match f.infCode with | some c => c | none => f.maxFin) + (if neg then 2 ^ (f.width - 1) else 0)

/-- The value of an FP32 word. -/
def fv (w : Word) : FV := fp32.decode w.toNat
def w32 (n : Nat) : Word := BitVec.ofNat 32 n
/-- The canonical quiet NaN of FP32 (R39). -/
def cnan : Word := 0x7FC00000#32
def pinf : Word := 0x7F800000#32
def ninf : Word := 0xFF800000#32
def isNaN32 (w : Word) : Bool := (fv w).isNaN
def isInf32 (w : Word) : Bool := (fv w).isInf
def isFin32 (w : Word) : Bool := (fv w).isFin
def nonFinite32 (w : Word) : Bool := !isFin32 w
/-- The exact value of a finite FP32 word. -/
def dy32 (w : Word) : Dy := (fv w).dy
def neg32 (w : Word) : Bool := w.getLsbD 31

/-! ### Conversions (R39, R60 to R63) -/

/-- A conversion between two wide formats or to an FP8 format: `quiet` keeps payload bits of a NaN (R39). -/
def Fmt.convert (src dst : Fmt) (c : Nat) : Nat :=
  let sgn (n : Bool) := if n then 2 ^ (dst.width - 1) else 0
  match src.decode c with
  | .nan n pl =>
    if dst.width == 8 then dst.nanCode + sgn n
    else
      let keep := if src.mb ≥ dst.mb then pl >>> (src.mb - dst.mb) else pl <<< (dst.mb - src.mb)
      let inf := dst.infCode.getD 0
      inf ||| 2 ^ (dst.mb - 1) ||| keep + sgn n
  | .inf n => dst.infOf n
  | .fin n m e => if m == 0 then sgn n else dst.encode false n m e false

/-- A float value rounded to an integer of `w` bits in two's complement, saturating; a NaN gives 0 (R62). -/
def FV.toInt (w : Nat) : FV → Int
  | .nan _ _ => 0
  | .inf n => if n then -(2 ^ (w - 1) : Nat) else (2 ^ (w - 1) : Nat) - 1
  | .fin n m e =>
    let r := roundMag ((Nat.log2 m + 2) + e.toNat) 0 m e false
    let v : Int := r.1 * (2 ^ r.2.toNat : Nat)
    let v := if n then -v else v
    max (-(2 ^ (w - 1) : Nat)) (min v ((2 ^ (w - 1) : Nat) - 1))

/-- An integer as FP32 (R63). -/
def intTo32 (x : Int) : Word := rne32 ⟨x, 0⟩

/-! ### FP32 operations, each with the flags IV, DZ, OF, UF, NI in bits 0 to 4 (R166, R182) -/

/-- The flags of R166 as one number: IV 1, DZ 2, OF 4, UF 8, NI 16. -/
abbrev VFlags := Nat

/-- The flags of the delivery of an exact non-zero result. -/
def deliverFlags (m : Nat) (e : Int) (sticky : Bool) (code : Nat) : VFlags :=
  let of_ := if code % 2 ^ 31 == 0x7F800000 then 4 else 0
  let uf := if roundTiny fp32 m e sticky && roundInexact 24 fp32.qmin m e sticky then 8 else 0
  of_ ||| uf

/-- Deliver the number (−1)^neg · (m + ε) · 2^e as FP32. -/
def deliver (neg : Bool) (m : Nat) (e : Int) (sticky : Bool) : Word × VFlags :=
  let c := fp32.encode false neg m e sticky
  (w32 c, deliverFlags m e sticky c)

/-- Deliver an exact dyadic, a zero having the sign given. -/
def deliverDy (zneg : Bool) (x : Dy) : Word × VFlags :=
  if x.m == 0 then (w32 (if zneg then 2 ^ 31 else 0), 0) else deliver x.isNeg x.m.natAbs x.e false

def niOf (l : List Word) : VFlags := if l.any isNaN32 then 16 else 0

def fadd (a b : Word) : Word × VFlags :=
  match fv a, fv b with
  | .nan _ _, _ => (cnan, 16)
  | _, .nan _ _ => (cnan, 16)
  | .inf n, .inf k => if n == k then (a, 0) else (cnan, 1)
  | .inf _, _ => (a, 0)
  | _, .inf _ => (b, 0)
  | x, y => deliverDy (x.neg && y.neg) (x.dy.add y.dy)

def fneg (a : Word) : Word := a ^^^ 0x80000000#32
def fabs (a : Word) : Word := a &&& 0x7FFFFFFF#32

/-- a − b, which treats a NaN b as it stands. -/
def fsub (a b : Word) : Word × VFlags := if isNaN32 b then (cnan, 16) else fadd a (fneg b)

def fmul (a b : Word) : Word × VFlags :=
  match fv a, fv b with
  | .nan _ _, _ => (cnan, 16)
  | _, .nan _ _ => (cnan, 16)
  | .inf n, .inf k => (if n == k then pinf else ninf, 0)
  | .inf n, .fin k m _ => if m == 0 then (cnan, 1) else (if n == k then pinf else ninf, 0)
  | .fin k m _, .inf n => if m == 0 then (cnan, 1) else (if n == k then pinf else ninf, 0)
  | x, y => deliverDy (x.neg != y.neg) (x.dy.mul y.dy)

def ffma (a b c : Word) : Word × VFlags :=
  if isNaN32 a || isNaN32 b || isNaN32 c then
    -- 0 × infinity beside a NaN addend still delivers the canonical NaN from a NaN operand
    (cnan, 16)
  else match fv a, fv b, fv c with
  | .fin n1 m1 e1, .fin n2 m2 e2, .fin n3 m3 e3 =>
    let p := (FV.fin n1 m1 e1).dy.mul (FV.fin n2 m2 e2).dy
    deliverDy ((n1 != n2) && n3) (p.add (FV.fin n3 m3 e3).dy)
  | .fin _ _ _, .fin _ _ _, _ => (c, 0)
  | _, _, z =>
    let p := fmul a b
    if isNaN32 p.1 then (cnan, 1) else
    match z with
    | .inf k => if k == neg32 p.1 then (p.1, 0) else (cnan, 1)
    | _ => (p.1, 0)

/-- The quotient of two finite non-zero numbers as a significand with at least 30 bits, an exponent and a sticky bit. -/
def divParts (a b : Dy) : Nat × Int × Bool :=
  let n := a.m.natAbs
  let d := b.m.natAbs
  let k := (Nat.log2 d + 34) - Nat.log2 n
  let q := (n <<< k) / d
  (q, a.e - b.e - k, (n <<< k) % d != 0)

def fdiv (a b : Word) : Word × VFlags :=
  match fv a, fv b with
  | .nan _ _, _ => (cnan, 16)
  | _, .nan _ _ => (cnan, 16)
  | .inf _, .inf _ => (cnan, 1)
  | .inf n, .fin k _ _ => (if n == k then pinf else ninf, 0)
  | .fin n _ _, .inf k => (w32 (if n == k then 0 else 2 ^ 31), 0)
  | .fin n m e, .fin k m' e' =>
    if m' == 0 then (if m == 0 then (cnan, 1) else (if n == k then pinf else ninf, 2))
    else if m == 0 then (w32 (if n == k then 0 else 2 ^ 31), 0)
    else
      let p := divParts ⟨m, e⟩ ⟨m', e'⟩
      deliver (n != k) p.1 p.2.1 p.2.2

/-- floor(√n), by bisection over the bits from 2^i down. -/
def isqrtFrom (n : Nat) : Nat → Nat → Nat
  | 0, r => if (r + 1) * (r + 1) ≤ n then r + 1 else r
  | i + 1, r =>
    let r' := r + 2 ^ (i + 1)
    isqrtFrom n i (if r' * r' ≤ n then r' else r)

def isqrt (n : Nat) : Nat := isqrtFrom n (Nat.log2 n / 2 + 1) 0

/-- The square root of a positive dyadic: significand, exponent, sticky. -/
def sqrtParts (a : Dy) : Nat × Int × Bool :=
  let n := a.m.natAbs
  -- an even shift that leaves at least 66 bits under the root
  let k := 66 + (if (a.e - 66) % 2 == 0 then 0 else 1)
  let v := n <<< k
  let r := isqrt v
  (r, (a.e - k) / 2, r * r != v)

def fsqrt (a : Word) : Word × VFlags :=
  match fv a with
  | .nan _ _ => (cnan, 16)
  | .inf n => if n then (cnan, 1) else (pinf, 0)
  | .fin n m e => if m == 0 then (a, 0) else if n then (cnan, 1) else
      let p := sqrtParts ⟨m, e⟩
      deliver false p.1 p.2.1 p.2.2

/-- a < b under R40; false when either is NaN. -/
def flt (a b : Word) : Bool :=
  match fv a, fv b with
  | .nan _ _, _ => false
  | _, .nan _ _ => false
  | .inf n, .inf k => n && !k
  | .inf n, _ => n
  | _, .inf k => !k
  | x, y => x.dy.lt y.dy

def fmin (a b : Word) : Word × VFlags :=
  if isNaN32 a || isNaN32 b then (cnan, 16) else (if flt b a then b else a, 0)
def fmax (a b : Word) : Word × VFlags :=
  if isNaN32 a || isNaN32 b then (cnan, 16) else (if flt a b then b else a, 0)

/-- FP32 to the nearest BF16, held in FP32 (CVTB, R39, R60). -/
def cvtb (a : Word) : Word × VFlags :=
  let c := fp32.convert bf16 a.toNat
  let r := w32 (c <<< 16)
  match fv a with
  | .nan _ _ => (r, 16)
  | .fin _ m e =>
    if m == 0 then (r, 0) else
    ((r), (if c % 2 ^ 15 == 0x7F80 then 4 else 0) |||
      (if roundTiny bf16 m e false && roundInexact 8 bf16.qmin m e false then 8 else 0))
  | _ => (r, 0)

/-- The FP32 code of a wide or FP8 code (exact, R63). -/
def widen (f : Fmt) (c : Nat) : Word := w32 (f.convert fp32 c)

/-- rne(stored × 2^k) for the compensated forms of R131 and the rescaling of R130. A NaN becomes canonical. -/
def scale32 (w : Word) (k : Int) : Word :=
  match fv w with
  | .nan _ _ => cnan
  | .inf _ => w
  | .fin n _ _ => if k == 0 then w else w32 (fp32.ofDy n ((fv w).dy.scale k))

/-- The element types of the memory-side adders (R254). -/
inductive AddTy where
  | fp32 | bf16 | int32 | int64
  deriving DecidableEq, Repr

def AddTy.bytes : AddTy → Nat
  | .fp32 => 4
  | .bf16 => 2
  | .int32 => 4
  | .int64 => 8
def AddTy.ofCode : Nat → AddTy
  | 0 => .fp32
  | 1 => .bf16
  | 2 => .int32
  | _ => .int64

/-- One add in a format with its own rounding (BF16 and FP32 accumulate formats of R255 and R360). -/
def addBf16 (a b : Nat) : Nat :=
  match bf16.decode a, bf16.decode b with
  | .nan _ _, _ => 0x7FC0
  | _, .nan _ _ => 0x7FC0
  | .inf n, .inf k => if n == k then a else 0x7FC0
  | .inf _, _ => a
  | _, .inf _ => b
  | x, y => bf16.ofDy (x.neg && y.neg) (x.dy.add y.dy)

/-- The stored value of a memory-side add (R255). -/
def memAdd (t : AddTy) (old amount : Nat) : Nat :=
  match t with
  | .fp32 => (fadd (w32 old) (w32 amount)).1.toNat
  | .bf16 => addBf16 (old % 2 ^ 16) (amount % 2 ^ 16)
  | .int32 => (old + amount) % 2 ^ 32
  | .int64 => (old + amount) % 2 ^ 64

end Sys2Proof.Machine
end

