-- ==== Sys2Proof/Machine/Codes.lean ====
section
/-! DEFINITION. The internal operand grids, the codebooks, the block scales, the encoders of R64 to R66 and R137, the
Prism rotation of R112, and the slab layouts of R56 to R58, R108, R117, R122 and R123 (files 02 and 04 of the spec). -/
namespace Sys2Proof.Machine

/-! ### Operand grids (R33 to R36) -/

/-- The value of an operand A code of 6 bits (R33). -/
def opA (c : Nat) : Dy :=
  let ex := bits c 4 2
  let m := bits c 1 0
  let mag : Dy := if ex == 0 then ⟨m, -4⟩ else ⟨(m + 4 : Nat), (ex : Int) - 5⟩
  if c.testBit 5 then mag.neg else mag

/-- The value of an operand B code of 10 bits (R35). -/
def opB (c : Nat) : Dy :=
  let ex := bits c 8 4
  let m := bits c 3 0
  let mag : Dy := if ex == 0 then ⟨m, -18⟩ else ⟨(m + 16 : Nat), (ex : Int) - 19⟩
  if c.testBit 9 then mag.neg else mag

/-- An operand A code widened to operand B without change (R36). -/
def widenAB (c : Nat) : Nat :=
  let sgn := if c.testBit 5 then 512 else 0
  let ex := bits c 4 2
  let m := bits c 1 0
  sgn + (if ex == 0 then
      (match m with | 0 => 0 | 1 => 11 * 16 | 2 => 12 * 16 | _ => 12 * 16 + 8)
    else (ex + 12) * 16 + m * 4)

/-! ### Codebooks (R42 to R47) -/

/-- The default Q4C codebook, the E2M1 set, on operand A (R46). -/
def e2m1Code (k : Nat) : Nat :=
  let mag := match k % 8 with
    | 0 => 0x00 | 1 => 0x08 | 2 => 0x0C | 3 => 0x0E | 4 => 0x10 | 5 => 0x12 | 6 => 0x14 | _ => 0x16
  if k % 16 ≥ 8 then mag + 0x20 else mag

def e2m1 (k : Nat) : Dy := opA (e2m1Code k)

/-- The default Q8C codebook on operand B (R47, with the mapping that follows it). -/
def defaultQ8 (k : Nat) : Nat :=
  let s := if k % 256 ≥ 128 then 512 else 0
  let mag := k % 128
  if mag == 0x7F then s + 0x17E else
  let ex := mag / 8
  let m := mag % 8
  if ex > 0 then s + (ex + 8) * 16 + m * 2
  else if m > 0 then
    let p := Nat.log2 m
    s + (p + 6) * 16 + (m <<< (4 - p)) % 16
  else s

/-- An E4M3 code as an operand B code (exact, R36), NaN excluded by the caller. -/
def e4m3ToB (k : Nat) : Nat :=
  if k % 128 == 0x7F then 0 else defaultQ8 k

/-! ### Scales (R53, R54) -/

/-- A Q4C or Q8C scale byte: its value, or none when it is invalid (R53). -/
def scaleE4 (b : Nat) : Option Dy :=
  if b ≤ 0x7E then some (e4m3.decode b).dy else none

/-- A Q4P scale byte (R54). -/
def scaleE8 (b : Nat) : Option Dy := if b ≤ 0xFE then some (Dy.pow2 ((b : Int) - 127)) else none

/-! ### The encoder (R64 to R66) -/

/-- The entries of a codebook that a rung encodes with: code and value. -/
abbrev Entries := List (Nat × Dy)

/-- The better of two candidates for y under R64: the nearer; on a tie the code with bit 0 clear; else the lower. -/
def betterEntry (y : Dy) (scale : Dy) (a b : Nat × Dy) : Nat × Dy :=
  let da := (y.sub (a.2.mul scale)).abs
  let db := (y.sub (b.2.mul scale)).abs
  if da.lt db then a else if db.lt da then b
  else if a.1 % 2 == 0 && b.1 % 2 == 1 then a
  else if b.1 % 2 == 0 && a.1 % 2 == 1 then b
  else if a.1 ≤ b.1 then a else b

/-- The code nearest to x ÷ scale (R64), where scale = block scale × tensor scale is positive. -/
def encodeNearest (es : Entries) (scale x : Dy) : Nat :=
  match es with
  | [] => 0
  | e :: t => (t.foldl (betterEntry x scale) e).1

/-- The stochastic code of R137 for x ÷ scale with the 24-bit draw u. -/
def encodeStochastic (es : Entries) (scale x : Dy) (u : Nat) : Nat :=
  let below := es.filter (fun e => (e.2.mul scale).le x)
  let above := es.filter (fun e => x.le (e.2.mul scale))
  let lo := below.foldl (fun (a : Option Dy) e => some (match a with | none => e.2 | some v => v.max e.2)) none
  let hi := above.foldl (fun (a : Option Dy) e => some (match a with | none => e.2 | some v => if e.2.lt v then e.2 else v)) none
  let chosen : Option Dy := match lo, hi with
    | some l, some h =>
      if l.eq h then some l
      else if ((Dy.ofNat u).mul ((h.sub l).mul scale)).lt ((x.sub (l.mul scale)).scale 24) then some h else some l
    | some l, none => some l
    | none, h => h
  match chosen with
  | none => 0
  | some v => encodeNearest (es.filter (fun e => e.2.eq v)) scale (v.mul scale)

/-- The largest entry magnitude (emax of R65). -/
def entriesMax (es : Entries) : Dy := es.foldl (fun a e => a.max e.2.abs) Dy.zero

/-- The smallest E4M3 scale byte whose value v has v × d ≥ n, searched upward from byte b with fuel (R65). -/
def scaleSearch (n d : Dy) : Nat → Nat → Option Nat
  | 0, _ => none
  | k + 1, b => if n.le (((e4m3.decode b).dy).mul d) then some b else scaleSearch n d k (b + 1)

/-- The Q4C or Q8C block scale byte of R65 for a block of largest magnitude `amax`; none when it is not
representable. A codebook of zeros alone has no scale. -/
def blockScaleE4 (ts emax amax : Dy) : Option Nat :=
  if amax.isZero then some 0 else if emax.isZero then none
  else scaleSearch amax (ts.mul emax) 0x7E 1

/-- The least k with 2^k × d ≥ n, for positive n and d: ⌈log2(n ÷ d)⌉. -/
def ceilLog2Div (n d : Dy) : Int :=
  let k := n.log2 - d.log2 - 1
  if n.le (d.scale k) then k else if n.le (d.scale (k + 1)) then k + 1 else k + 2

/-- The Q4P scale byte of R66. -/
def blockScaleE8 (ts amax : Dy) : Nat :=
  if amax.isZero then 0 else
  (max 0 (min 254 (127 + ceilLog2Div amax (ts.mul (Dy.ofNat 6))))).toNat

/-! ### Prism (R112, R113) -/

/-- One butterfly stage of span h over a run, with the addition of the caller. -/
def butterfly {α : Type} (add sub : α → α → α) (h : Nat) (t : List α) (d : α) : List α :=
  (List.range t.length).map (fun j =>
    if j &&& h == 0 then add (t.getD j d) (t.getD (j + h) d) else sub (t.getD (j - h) d) (t.getD j d))

def butterflies {α : Type} (add sub : α → α → α) (d : α) : Nat → Nat → List α → List α
  | 0, _, t => t
  | k + 1, h, t => butterflies add sub d k (2 * h) (butterfly add sub h t d)

/-- 24 significant bits without exponent bounds: the raised range of R131. -/
def rne24 (x : Dy) : Dy :=
  if x.m == 0 then Dy.zero else
  let r := roundMag 24 ((Nat.log2 x.m.natAbs : Int) + x.e - 23) x.m.natAbs x.e false
  ⟨if x.m < 0 then -(r.1 : Int) else r.1, r.2⟩

/-- Round to FP32's finite grid, answering none on overflow (step 3 of R111 sends such a tile to BF16). -/
def rneGrid (x : Dy) : Option Dy :=
  if x.m == 0 then some Dy.zero else
  let w := rne32 x
  if isFin32 w then some (dy32 w) else none

/-- c_n of R112: rne_fp32(n^(−1/2)). -/
def prismC (n : Nat) : Dy :=
  match n with
  | 16 => ⟨1, -2⟩
  | 64 => ⟨1, -3⟩
  | 32 => dy32 0x3E3504F3#32
  | 128 => dy32 0x3DB504F3#32
  | _ => Dy.one

/-- The Prism size n of a descriptor's field (R110). -/
def prismSize : Nat → Nat
  | 1 => 16
  | 2 => 32
  | 3 => 64
  | 4 => 128
  | _ => 0

/-- Rotate one run (R112). `raised` says that the roundings take the raised range of R131. None: an overflow in FP32. -/
def prismRun (n : Nat) (raised : Bool) (signs : List Bool) (x : List Dy) : Option (List Dy) :=
  let t : List (Option Dy) := (x.zip signs).map (fun p => some (if p.2 then p.1.neg else p.1))
  let rnd (v : Dy) : Option Dy := if raised then some (rne24 v) else rneGrid v
  let lift (f : Dy → Dy → Dy) (a b : Option Dy) : Option Dy :=
    match a, b with | some p, some q => rnd (f p q) | _, _ => none
  let t := butterflies (lift Dy.add) (lift Dy.sub) (some Dy.zero) (Nat.log2 n) 1 t
  t.mapM (fun a => match a with | some v => rnd ((prismC n).mul v) | none => none)

/-! ### Slabs (R56 to R58, R108, R117, R122, R123) -/

/-- The formats of R31. -/
inductive Format where
  | q4c | q4p | q8c | e4m3 | e5m2 | bf16 | fp16 | fp32 | int8 | int32
  deriving DecidableEq, Repr

/-- The format of a descriptor's code; none for 0xA to 0xF (R31). -/
def Format.ofCode : Nat → Option Format
  | 0 => some .q4c
  | 1 => some .q4p
  | 2 => some .q8c
  | 3 => some .e4m3
  | 4 => some .e5m2
  | 5 => some .bf16
  | 6 => some .fp16
  | 7 => some .fp32
  | 8 => some .int8
  | 9 => some .int32
  | _ => none

/-- Formats stored as slabs (R56, R57). -/
def Format.isSlab : Format → Bool
  | .q4c => true
  | .q4p => true
  | .q8c => true
  | _ => false
def Format.isQ4 : Format → Bool
  | .q4c => true
  | .q4p => true
  | _ => false
def Format.isFp8 : Format → Bool
  | .e4m3 => true
  | .e5m2 => true
  | _ => false
/-- The formats whose tensor scale must be 1.0 (R32). -/
def Format.unitScale : Format → Bool
  | .bf16 => true
  | .fp16 => true
  | .fp32 => true
  | .int8 => true
  | .int32 => true
  | _ => false
/-- Bytes of one element of a plain format. -/
def Format.bytes : Format → Nat
  | .bf16 => 2
  | .fp16 => 2
  | .fp32 => 4
  | .int32 => 4
  | _ => 1
/-- Bytes of a slab (R56, R57). -/
def Format.slabBytes : Format → Nat
  | .q8c => 544
  | _ => 288
/-- Operand A formats run at the single rate when both sides are on operand A (R71). -/
def Format.onA : Format → Bool
  | .q4c => true
  | .q4p => true
  | _ => false
/-- Whether the array accepts the format as an operand (R32). -/
def Format.isOperand : Format → Bool
  | .fp32 => false
  | .int32 => false
  | _ => true

/-- The float format behind a plain float tensor format. -/
def Format.fmt : Format → Fmt
  | .e4m3 => Sys2Proof.Machine.e4m3
  | .e5m2 => Sys2Proof.Machine.e5m2
  | .bf16 => Sys2Proof.Machine.bf16
  | .fp16 => Sys2Proof.Machine.fp16
  | _ => Sys2Proof.Machine.fp32

/-- Slabs per row (R58). -/
def slabsPerRow (cols : Nat) : Nat := (cols + 511) / 512
/-- The slab that holds element (r, k) (R58). -/
def slabNo (cols r k : Nat) : Nat := r * slabsPerRow cols + k / 512
/-- Byte and shift of the code of element e in a slab (R56, R57). -/
def codePos (f : Format) (e : Nat) : Nat × Nat :=
  match f with
  | .q8c => (e, 0)
  | _ => (e / 2, 4 * (e % 2))
/-- Byte of the scale of block b in a slab. -/
def scalePos (f : Format) (b : Nat) : Nat :=
  match f with
  | .q8c => 512 + b
  | _ => 256 + b
/-- The tile number T of R123 for slab n of a tensor of K columns, segment g. -/
def tileNo (cols n g : Nat) : Nat :=
  let sr := slabsPerRow cols
  ((n / sr / 32) * sr + n % sr) * 16 + g

/-- A glint slot (R117): value code, index, validity. -/
def glintSlot (w : Nat) : Option (Nat × Nat) :=
  if w.testBit 25 then some (bits w 24 16, bits w 15 0) else none
def glintWord (idx val : Nat) : Nat := val + idx * 2 ^ 16 + 2 ^ 25

end Sys2Proof.Machine
end

