-- ==== Sys2Proof/Machine/State.lean ====
section
/-! DEFINITION. The state of the block as plain data, the reasons a step can stop, and the state after reset. Registers are one
sparse table keyed by BAR0 offset (R434); every other table lists only what differs from its default. -/
namespace Sys2Proof.Machine

/-- A sparse table: keys strictly rising, no entry equal to the default its reader uses. -/
abbrev Tab (α : Type) := List (Nat × α)

/-! ### Core -/

/-- A tensor descriptor as read when its command starts (R217, R110). -/
structure Desc where
  addr : Nat
  base : Nat
  rows : Nat
  cols : Nat
  pitch : Nat
  tscale : Word
  fmt : Format
  codebook : Nat
  fbBook : Nat
  prism : Nat
  glint : Nat
  stoch : Bool
  thr : Nat
  trans : Bool
  loc : Bool
  seed : Nat
  poolCap : Nat
  classMap : Nat
  glintBase : Nat
  fbDir : Nat
  fbPool : Nat
  stats : Nat
  promoted : Nat
  residual : Nat
  deriving DecidableEq, Repr

/-- A failed command that waits for its exception (R222). -/
structure Failure where
  cmd : Cmd
  cp : Nat
  next : Nat
  cc : Nat
  status : Nat
  flags : Nat
  faddr : Nat
  /-- False for a command that failed before its issue: it comes after every issued command in list order. -/
  issued : Bool
  deriving DecidableEq, Repr

/-- What the micro-program of a command takes at its start (R160, R161, R215). -/
structure VecOperands where
  prog : Nat
  tile2 : Option (Nat × Bool)
  colVec : Option (Nat × Bool)
  rowVec : Option (Nat × Bool)
  latch : List Word
  deriving DecidableEq, Repr

/-- A tile of a conversion: array, tile, and where its element (0, 0) goes in the destination (R214, R109). -/
structure TileJob where
  a : Nat
  t : Nat
  row : Nat
  col : Nat
  deriving DecidableEq, Repr

/-- A conversion command in flight (R157, R111): its destination, the Sextant thresholds (R143) and SFN_FORCE (R180) taken at its
start, its micro-program, the tiles that have not yet entered the queue, its counts of R127, and whether its first group has begun (R165). -/
structure Conversion where
  cmd : Cmd
  cp : Nat
  cc : Nat
  desc : Desc
  resid : Option Desc
  thr : List Word
  sfn : Nat
  trans : Bool
  ckpt : Bool
  vec : Option VecOperands
  feed : List TileJob
  left : Nat
  emitted : Nat
  fallen : Nat
  flags : Nat
  begun : Bool
  deriving DecidableEq, Repr

/-- An entry of the tile queue (R157): a copy of the tile with its header, its place, and its command by CC. -/
structure TileEntry where
  cc : Nat
  job : TileJob
  elems : Tab Word
  hdr : Word
  vecLeft : Bool
  flags : Nat
  deriving DecidableEq, Repr

/-- The vector engine's group in progress (R159, R160, R181): lane registers keyed lane × 16 + register. -/
structure Engine where
  active : Bool
  group : Nat
  pc : Nat
  ended : Bool
  bank : Nat
  regs : Tab Word
  flags : Nat
  deriving DecidableEq, Repr

/-- A slab as the arrays hold it (R70): operand values before the block scales, scales, the indices of non-finite
elements (R69), class map entry, glints (index, VAL), poison. -/
structure SlabData where
  vals : List Dy
  scales : List Dy
  nonfin : List Nat
  cls : Nat
  glints : List (Nat × Nat)
  poison : Bool
  deriving DecidableEq, Repr

/-- The block in one bank of one array (R70, R85): where it came from and its 32 columns. -/
structure Bank where
  desc : Desc
  row0 : Nat
  slab : Nat
  cols : List SlabData
  ready : Bool
  poison : Bool
  deriving DecidableEq, Repr

/-- A message in a mailbox slot (R226). -/
structure Msg where
  src : Nat
  tag : Nat
  data : List Byte
  poison : Bool
  deriving DecidableEq, Repr

/-- An outstanding send (R226, R227): its message, its command, the place of its retry response among those of the destination,
and whether the destination has called it back for a freed slot. -/
structure Send where
  dst : Nat
  msg : Msg
  cmd : Cmd
  cc : Nat
  retried : Option Nat
  called : Bool
  deriving DecidableEq, Repr

/-- What the pilot does (R203, R228, R230, R238). -/
inductive Pilot where
  | halted
  | running
  /-- `met`: an update of the object has satisfied the wait, and the hub is about to release the pilot (R231). -/
  | waitSync (obj thr : Nat) (met : Bool)
  | waitMsg (src tag : Nat) (anyTag : Bool)
  deriving DecidableEq, Repr

/-- A recording in progress (R396): buffer and whether it is in core store, capacity and entries so far. -/
structure Recording where
  loc : Bool
  buf : Nat
  cap : Nat
  count : Nat
  beyond : Bool
  deriving DecidableEq, Repr

/-- A replay in progress (R397): its command, the next entry, its flags, and the generator states that its end restores. -/
structure Replay where
  cmd : Cmd
  cp : Nat
  cc : Nat
  loc : Bool
  buf : Nat
  idx : Nat
  count : Nat
  flags : Nat
  saved : Tab (DWord × DWord)
  deriving DecidableEq, Repr

/-- A command in flight that a later step completes: a posted collective or a BEACON on a group (R354, R365), a DISPATCH or
COMBINE that waits for responses (R374, R377), or a CPASS, with the values of its registers, that waits for its rectangle (R213). -/
structure Flight where
  cmd : Cmd
  cp : Nat
  cc : Nat
  vals : List Nat
  group : Nat
  id : Nat
  deriving DecidableEq, Repr

/-- One core (R12, R203). Accumulator elements are keyed array × 16,384 + row × 32 + column. -/
structure Core where
  x : Tab DWord
  tags : List Nat
  cp : Nat
  cc : Nat
  occupied : Bool
  pilot : Pilot
  blocked : Option Cmd
  stopIssue : Bool
  frozen : Bool
  fatal : Bool
  haltCode : Option Nat
  failures : List Failure
  queued : List Failure
  flights : List Flight
  recording : Option Recording
  replay : Option Replay
  cs : List Host.Cell
  csPoison : List Nat
  acc : Tab Word
  banks : Tab Bank
  staged : Tab Word
  engine : Engine
  tileq : List TileEntry
  convs : List Conversion
  cbHeld : List (Nat × Word)
  seed : DWord
  /-- Whether the generators have been seeded; until then SMP_SEED shows the image's value (R6, R200). -/
  seeded : Bool
  np : Nat
  lanes : Tab (DWord × DWord)
  mailbox : List Msg
  sends : List Send
  lhNext : Tab Nat
  lhTurn : Tab Nat
  tagCount : Nat
  tagArmed : Bool
  reckon : Bool
  /-- Whether the core has issued or completed a command, or its partition has had a signal, in the window of R234. -/
  stirred : Bool
  deriving DecidableEq, Repr

/-! ### Memory -/

/-- An entry of a write-combining buffer (R250), oldest first in the list that holds it. -/
structure WcEntry where
  line : Nat
  bytes : List Host.Cell
  poison : Bool
  deriving DecidableEq, Repr

/-- The stacked memory (file 08). -/
structure Mem where
  bytes : List Host.Cell
  poison : List Nat
  wc : List WcEntry
  control : List Nat
  /-- Lines written and read-modify-writes of the buffer so far: what hub events 0x43 and 0x44 count (R497). -/
  wrote : Nat
  merged : Nat
  deriving DecidableEq, Repr

/-! ### Helm -/

/-- A core rectangle (R284). -/
structure Rect where
  handle : Nat
  w : Nat
  h : Nat
  origin : Nat
  const : Bool
  deriving DecidableEq, Repr

/-- A mapped page (R286, R290): `frame` is its physical base while resident; `slot` otherwise its place in the swap area, in units of 64 KiB. -/
structure Page where
  va : Nat
  small : Bool
  w : Bool
  h : Bool
  p : Bool
  frame : Option Nat
  slot : Nat
  counter : Nat
  bumped : Option Nat
  deriving DecidableEq, Repr

/-- A page in the swap area (R289): its place, its bytes, keyed by offset, and the bitmap of its poisoned lines. -/
structure SwapPage where
  slot : Nat
  bytes : List Host.Cell
  poison : List Nat
  deriving DecidableEq, Repr

/-- The state of the job at the head of a queue (R294, R295). -/
inductive JobState where
  | waiting
  | running
  | preempting
  | saved
  deriving DecidableEq, Repr

/-- A job entry as Helm takes it from the ring (R291), with its saved contexts (R296). -/
structure Job where
  idx : Nat
  start : Nat
  handle : Nat
  save : Nat
  doneObj : Nat
  doneEn : Bool
  doneAdd : Nat
  st : JobState
  sliceDone : Bool
  since : Nat
  contexts : Tab Core
  regsSaved : Tab (Tab Word)
  deriving DecidableEq, Repr

/-- A work queue (R291, R294). -/
structure Queue where
  q : Nat
  base : Nat
  entries : Nat
  prio : Nat
  slice : Nat
  head : Option Job
  deriving DecidableEq, Repr

/-- An entry of an event queue (R436). -/
structure Event where
  cause : Nat
  unit : Nat
  tag : Nat
  value : Nat
  deriving DecidableEq, Repr

/-- A partition (R276 to R279). -/
structure Part where
  plan : Option PlanPart
  rects : List Rect
  queues : List Queue
  pages : List Page
  frames : List Nat
  freeFrames : List Nat
  swap : List SwapPage
  objects : List Nat
  groups : List Nat
  request : Option (Nat × Bool × List Nat)
  /-- Link shares by link: VC 0 and VC 1 (R298). -/
  shares : Tab (Nat × Nat)
  evq : List Event
  msixHold : List Nat
  msixPend : List Nat
  /-- BAR2 writes that wait for a page-in, and what the function wrote there after them (R435): address, data, poison. -/
  bar2Held : List (Nat × List Byte × Bool)
  hostTouched : Bool
  deriving DecidableEq, Repr

/-! ### Fabric -/

/-- A deficit round robin (R298, R323, R363): the flow whose turn it is, whether it has its quantum of this turn still to come, and the
deficits by flow. -/
structure Arb where
  turn : Nat
  fresh : Bool
  deficit : Tab Nat
  deriving DecidableEq, Repr

/-- A packet that waits for a link, with the entry of the device table by which it was routed (R326, R334). -/
structure Queued where
  pkt : Packet
  via : Word
  deriving DecidableEq, Repr

/-- A link beyond its registers (R320 to R336). `ctl` is the LNK_CTL that the last entry to DETECT took (R340), `lanes` the host lanes of the
module (R316). Lists of eight are by credit pool: of the receive buffer the slots free, occupied, and freed with their credits not yet
returned, and `spent` the credits of the sender in packets that await return (R301, R324). -/
structure Link where
  ctl : Word
  lanes : Nat
  /-- The lanes that the last receiver detect found, and the logical lanes that carry traffic (R311). -/
  detected : Nat
  active : List Nat
  nextLseq : Nat
  expect : Nat
  naking : Bool
  acked : Nat
  /-- The ACK that the last flit sent carried (R321). -/
  told : Nat
  /-- The bytes of a packet whose last flit has not come (R317). -/
  partly : List Byte
  replay : List (Packet × Nat)
  /-- Packets failed over to this link, which go ahead of every other (R327), and those that wait their turn. -/
  ahead : List Queued
  waiting : List Queued
  /-- The arbiters by level: 0 the virtual channels, 1 and 2 the partitions in VC 0 and VC 1, 16 + p the groups of partition p. -/
  arbs : Tab Arb
  spent : List Nat
  free : List Nat
  occupied : List Nat
  owed : List Nat
  markA : Option (List Nat)
  markR : List Nat
  /-- What an echo that has not left will carry (R325). -/
  echo : Option (List Nat)
  fiMatch : Tab Nat
  /-- Packets held back by a reorder, with the packets that must leave first (R336). -/
  held : List (Queued × Nat)
  /-- The PCPs that the neighbour has paused, and those that this device has (R335). -/
  paused : List Nat
  pausing : List Nat
  refLost : Bool
  /-- The pool whose credit equation the last census found false, with both sides (R325). -/
  badPool : Option (Nat × Nat × Nat)
  deriving DecidableEq, Repr

/-- A request that waits for its acknowledgement or response (R331, R333), with its resends and the local group it serves. -/
structure Unacked where
  pkt : Packet
  resends : Nat
  group : Option Nat
  deriving DecidableEq, Repr

/-- Requests to a destination (R330, R331, R333): the next SSEQ, the unacknowledged requests, and those that wait in the hub. -/
structure Dest where
  next : Nat
  unacked : List Unacked
  waiting : List Unacked
  deriving DecidableEq, Repr

/-- The duplicate window of a source and the stored atomic responses (R330, R332). -/
structure Src where
  seen : Bool
  inc : Nat
  high : Nat
  marks : List Nat
  atomics : List (Nat × Nat × Bool)
  deriving DecidableEq, Repr

/-- A group card (R350). -/
structure Card where
  key : Nat
  version : Nat
  digest : List Byte
  signature : List Byte
  meridian : Nat
  elo : Nat
  ehi : Nat
  membersM1 : Nat
  shape : Nat
  rank : Nat
  localGroup : Nat
  reckon : Bool
  syncReq : Bool
  deriving DecidableEq, Repr

/-- A chunk sent and kept until its chunk end is acknowledged (R362): destination rank, chunk, bytes as sent, whether Q8 coded, and
the SSEQ of its chunk end. -/
structure Kept where
  rank : Nat
  chunk : Nat
  bytes : List Byte
  coded : Bool
  sseq : Nat
  deriving DecidableEq, Repr

/-- A posted collective descriptor (R354, R355): its start, the running sums of its chunks with the children added (R358), the chunks that
have arrived by (rank, chunk), the chunks kept, the retries of incoming chunks, the chunks in all of each rank once its last has come (R357), and the
status so far. -/
structure Posted where
  core : Nat
  cc : Nat
  addr : Nat
  dseq : Nat
  desc : List Byte
  started : Bool
  sums : List (Nat × Nat × List Word)
  arrived : List (Nat × Nat)
  kept : List Kept
  retries : List ((Nat × Nat) × Nat)
  total : Tab Nat
  status : Nat
  /-- The chunks whose running sum is poisoned (R406). -/
  tainted : List Nat
  deriving DecidableEq, Repr

/-- A chunk being received (R359): source rank, DSEQ, chunk, bytes by offset, and whether its slot's chunk is poisoned (R406). -/
structure Staged where
  rank : Nat
  dseq : Nat
  chunk : Nat
  data : List (Nat × Byte)
  poison : Bool
  deriving DecidableEq, Repr

/-- A BEACON (R365, R366): its number in the group, whether it is one of the four in flight, its command, destination and operation, its
value so far, and the dimension it is at (3: a tree, towards the root; 4: from it). -/
structure Beacon where
  seq : Nat
  live : Bool
  core : Nat
  cmd : Cmd
  cc : Nat
  dst : Nat
  dstLoc : Bool
  op : Nat
  root : Nat
  value : List Byte
  dim : Nat
  deriving DecidableEq, Repr

/-- Claim counts that a member has sent for an ordered DISPATCH (R375): the number of the DISPATCH in the group, the member's rank, how many
experts the counts name in all, and expert and count as far as they have come. -/
structure ClaimCount where
  seq : Nat
  rank : Nat
  total : Nat
  pairs : List (Nat × Nat)
  deriving DecidableEq, Repr

/-- A collective group beyond its registers (R347 to R366). -/
structure Group where
  part : Nat
  slots : Nat
  members : List (Nat × Nat)
  cards : List (Nat × Card)
  /-- The ranks whose last card disagreed on Meridian time when it came (R352). -/
  apart : List Nat
  syncReq : Bool
  syncWait : Bool
  epoch : Nat
  queue : List Posted
  nextDseq : Nat
  staged : List Staged
  beacons : List Beacon
  nextBeacon : Nat
  /-- Values of BEACONs that have arrived, in order of arrival: number, step and ring position or rank, value (R366). -/
  values : List (Nat × Nat × Nat × List Byte)
  /-- BEACON packets sent, newest first, at most 1,024: device and SSEQ, by which an UNREACH names them. -/
  sent : List (Nat × Nat)
  counts : List ClaimCount
  nextOrder : Nat
  /-- COLLPOSTs that wait for a free entry of the queue (R236), oldest first: the descriptor as it runs, without its DSEQ, and its bytes. -/
  stalled : List (Posted × List Byte)
  deriving DecidableEq, Repr

/-- What a candidate of a routing row leads to (R372 to R374), as the Chart stood when the command started: its expert and gate, and the
device, slot and capacity. -/
inductive Lead where
  | absent
  | invalid
  | slot (dev slot cap : Nat)
  deriving DecidableEq, Repr

structure Route where
  tok : Nat
  cand : Nat
  expert : Nat
  gate : Word
  lead : Lead
  deriving DecidableEq, Repr

/-- A choice of a DISPATCH or COMBINE (R374 to R377): token and choice, the candidate that it uses, its outstanding requests (device, SSEQ,
byte offset in the row), and its status and row of R376 once they are known. -/
structure Choice where
  tok : Nat
  ch : Nat
  cand : Nat
  wait : List (Nat × Nat × Nat)
  done : Option (Nat × Nat)
  deriving DecidableEq, Repr

/-- A DISPATCH or COMBINE in flight (R373 to R377): its command by core and CC, its operands, its flags, how far an ordered DISPATCH
is (R375: 0 its counts are to be sent, 1 they are sent, 2 its rows are admitted), and for COMBINE the pieces of rows that have arrived, in order of arrival: token, choice, byte offset, bytes. -/
structure Expert where
  core : Nat
  cc : Nat
  combine : Bool
  group : Nat
  toks : Desc
  out : Option Desc
  place : Nat
  count : Nat
  k : Nat
  c : Nat
  policy : Bool
  q8 : Bool
  renorm : Bool
  flags : Nat
  ordered : Bool
  seq : Nat
  stage : Nat
  routes : List Route
  choices : List Choice
  pieces : List (Nat × Nat × Nat × List Byte)
  deriving DecidableEq, Repr

/-- The fabric side of the block. -/
structure Fabric where
  links : Tab Link
  dests : Tab Dest
  srcs : Tab Src
  groups : Tab Group
  /-- Own requests found unroutable and not yet failed: destination and SSEQ (R329). -/
  lost : List (Nat × Nat)
  experts : List Expert
  chart : Tab (List Word)
  slotTab : Tab (List Word)
  merNs : Nat
  merFrac : Nat
  merRatePpm : Int
  merPrio : Nat
  merDev : Nat
  merOffers : Tab (Nat × Nat × Nat)
  merGood : Nat
  deriving DecidableEq, Repr

/-! ### Reliability, host side, power -/

/-- A Logbook record (R413). -/
structure LogRec where
  mtime : Nat
  seq : Nat
  cls : Nat
  kind : Nat
  part : Nat
  unit : Nat
  sub : Nat
  opcode : Nat
  status : Nat
  tag : Nat
  temp : Nat
  cc : Nat
  addr : Nat
  syndrome : Nat
  mv : Nat
  flags : Nat
  repeats : Nat
  detail : Nat
  deriving DecidableEq, Repr

/-- An Almanac entry (R419). -/
structure AlmEntry where
  kind : Nat
  cls : Nat
  st : Nat
  partners : Nat
  unit : Nat
  sub : Nat
  location : Nat
  count : Nat
  first : Nat
  last : Nat
  deriving DecidableEq, Repr

/-- A copy of the Almanac in flash (R417): its header, whether the magic word and the CRC-32C are right, and its entries (log entry 144). -/
structure AlmCopy where
  magicOk : Bool
  seq : Nat
  count : Nat
  base : Nat
  crcOk : Bool
  entries : List AlmEntry
  deriving DecidableEq, Repr

/-- The five sectors of an Almanac (R417, R420): copies A and B, BASE where words 0 and 1 of sector 4 hold it with its complement, and the count
words programmed. -/
structure AlmSectors where
  copies : List (Option AlmCopy)
  countBase : Option Nat
  countUsed : Nat
  deriving DecidableEq, Repr

/-- The configuration flash (R441), with the Almanac's sectors by their place in it (R417). -/
structure Flash where
  dirs : List (Option (Nat × Nat × Option Nat))
  slots : List (Option Image)
  almanacs : Tab AlmSectors
  deriving DecidableEq, Repr

/-- Fuses (R15, R453, R454, R468). -/
structure Fuses where
  lifecycle : Nat
  uid : Nat
  keys : List (Nat × List Byte)
  revoked : List Nat
  deadRows : List (Nat × Nat)
  vmin : List Nat
  deriving DecidableEq, Repr

/-- The Logbook and the Almanac in hub SRAM (R413 to R423). -/
structure Reliab where
  ring : Tab LogRec
  seq : Nat
  fatal : Option LogRec
  /-- The records that wait for the BMC, as they stood when they were written (R428). -/
  bmcQueue : List LogRec
  entries : List AlmEntry
  inUse : Nat
  copySeq : Nat
  base : Nat
  starts : Nat
  dirty : Bool
  /-- The location whose error has begun an error reset, with the start count of that error: kind, class, unit, SUB, location (R421, log entry
  143). -/
  owed : Option (Nat × Nat × Nat × Nat × Nat × Nat)
  /-- The copy that a commit in progress is writing (R418). -/
  writing : Option AlmCopy
  service : Bool
  retired : List Nat
  withheld : List Nat
  rowMaps : List (List Nat)
  deriving DecidableEq, Repr

/-- The power governor and the thermal loops beyond their registers (R467 to R487): the governor's f and pace, the power that it last took
without calibration, the calibration in mW, the CEIL that its last iteration took (R489), the thermal ceilings and pace, the brake, the voltages confirmed in mV and the frequency caps
of a failed transition by die (R479), whether a step in progress goes up, the units that throttle, whether telemetry is stale, the polls that
each rail's regulator has missed, and the energy below 1 mJ. -/
structure Power where
  f : Nat
  pace : Nat
  raw : Nat
  calib : Int
  ceil : Nat
  ceiling : List Nat
  thermalPace : Nat
  brake : Bool
  confirmed : List Nat
  cap : List (Option Nat)
  stepUp : List Bool
  /-- The partition for whose Constellation rectangle Helm is bringing both dies to one clock (R21). -/
  joining : Option Nat
  hotUnits : List Nat
  stale : Bool
  missed : Tab Nat
  energyFrac : Nat
  deriving DecidableEq, Repr

/-- What a start-up in progress has settled (R444, R446). -/
structure Start where
  image : Option Image
  resetWait : Option Nat
  deriving DecidableEq, Repr

/-- The pins the block drives or samples (R471, R474, R519) and its clock inputs (R461). -/
structure Pins where
  auxPwrgd : Bool
  hubPwrgd : Bool
  mainPwrgd : Bool
  sysRstN : Bool
  fabReadyN : Bool
  thermTripN : Bool
  muxRstN : Bool
  perstN : List Bool
  xtal : Bool
  sysRef : Bool
  sdsRef : List Bool
  pcieRef : List Bool
  deriving DecidableEq, Repr

/-- What the block has put on its wires, oldest first: the model's own record of its outputs (log entry 5). -/
inductive Out where
  | msix (fn : Master) (vector : Nat)
  | readData (m : Master) (off : Nat) (w : Word)
  | unsupported (fn : Master) (addr : Nat)
  | bar2Data (p : Nat) (data : List Byte)
  | bar2Poisoned (p len : Nat)
  /-- Flits leave by a native link: a packet, a NAK or a credit return (R317). -/
  | flits (link : Nat) (fs : List Flit)
  /-- A packet of this device for itself, which the hub delivers (R326). -/
  | toSelf (k : Packet)
  /-- A frame leaves by an Ethernet-mode link (R334), one bit of it inverted where `bad` (R336). -/
  | frame (link dst src pcp vid etherType : Nat) (k : Packet) (bad : Bool)
  /-- A priority flow control frame: pause or resume of a PCP (R335). -/
  | pfc (link pcp : Nat) (pause : Bool)
  /-- The mask of usable lanes in this device's training frames (R311), and its own configuration block (R312, R324). -/
  | training (link usable : Nat)
  | config (link : Nat) (b : ConfigBlock)
  | mgmt (code : Nat) (ok : Bool) (data : List Nat)
  | mctp (data : List Nat)
  /-- A PLDM platform event message with a Logbook record as its data (R428). -/
  | pldmEvent (record : List Byte)
  | configRetry (port : Nat)
  /-- The answer to a configuration request: the port, its virtual functions, and the logarithm of their BAR2 size (R433, R434). -/
  | configAnswer (port totalVfs bar2Log : Nat)
  | jtag (data : Nat)
  /-- Helm's reads and writes of the swap area in a port's host memory (R289): partition, physical address in the host memory window (R247),
  length, and the bytes written that are not 0, by offset. -/
  | hostRead (p pa len : Nat)
  | hostWrite (p pa len : Nat) (data : List Host.Cell)
  /-- What a memory controller answers a read or an add of a line with (R249, R254, R260). -/
  | memData (line : Nat) (data : List Byte) (poison : Bool)
  | pmbClear
  deriving DecidableEq, Repr

/-- The two grades of R1. -/
inductive Grade where
  | mfc4412 | mfc4408
  deriving DecidableEq, Repr

/-- The whole device (R12), and the queue of commands that wait, first in, first out. -/
structure State where
  grade : Grade
  regs : Tab Word
  latches : List (Master × Nat × Word)
  cores : Tab Core
  mem : Mem
  parts : Tab Part
  /-- The partition whose turn it is among the requests (R281). -/
  reqTurn : Nat
  addIssued : Tab Nat
  addApplied : Tab Nat
  fabric : Fabric
  rel : Reliab
  flash : Flash
  fuses : Fuses
  power : Power
  start : Start
  pins : Pins
  clockHalt : Bool
  votes : List Nat
  /-- Ports whose VF Enable was cleared and not set again (R450). -/
  vfHeld : List Nat
  nonce : DWord
  mctpEid : Nat
  msixTab : Tab Word
  dumps : Tab Nat
  tagged : List (Nat × Nat)
  hubCycles : Nat
  free : Nat
  out : List Out
  pending : List Instr
  deriving DecidableEq, Repr

/-- Why a step stops with a fault. -/
inductive Fault where
  /-- Raised by every meaning for a command that `Instr.wf` refuses: a core, link, stack, port or partition number that no part
  has, or a pilot command whose OP is not the row's. No such command can reach the block, so this stop is safe. -/
  | illFormed
  deriving DecidableEq, Repr

/-- Why a step is refused. -/
inductive Refusal where
  /-- Raised by an arm of exec whose command has no meaning yet: safe. -/
  | notModelled (mnemonic : String)
  /-- Raised by a private JTAG instruction where full debug is allowed: R455 names core debug, internal scan and the IEEE
  1500 wrappers and gives no effect of theirs. Safe. -/
  | privateDebug
  deriving DecidableEq, Repr

/-! ### Defaults and reset -/

def Engine.idle : Engine := ⟨false, 0, 0, false, 0, [], 0⟩

/-- A core after device start and before anything has run on it: everything zero (R91, R147, R204). -/
def Core.init : Core where
  x := []
  tags := []
  cp := 0
  cc := 0
  occupied := false
  pilot := .halted
  blocked := none
  stopIssue := false
  frozen := false
  fatal := false
  haltCode := none
  failures := []
  queued := []
  flights := []
  recording := none
  replay := none
  cs := []
  csPoison := []
  acc := []
  banks := []
  staged := []
  engine := Engine.idle
  tileq := []
  convs := []
  cbHeld := []
  seed := 0#64
  seeded := false
  np := 0
  lanes := []
  mailbox := []
  sends := []
  lhNext := []
  lhTurn := []
  tagCount := 0
  tagArmed := false
  reckon := false
  stirred := false

/-- Erased sectors of an Almanac. -/
def AlmSectors.erased : AlmSectors := ⟨[none, none], none, 0⟩

def Mem.init : Mem := ⟨[], [], [], [], 0, 0⟩

/-- An absent partition (R276). -/
def Part.init : Part := ⟨none, [], [], [], [], [], [], [], [], none, [], [], [], [], [], false⟩

def Arb.init : Arb := ⟨0, true, []⟩

def Link.init : Link where
  ctl := 0#32
  lanes := 4
  detected := 0
  active := []
  nextLseq := 0
  expect := 0
  naking := false
  acked := 0xFFFF
  told := 0xFFFF
  partly := []
  replay := []
  ahead := []
  waiting := []
  arbs := []
  spent := List.replicate 8 0
  free := List.replicate 8 0
  occupied := List.replicate 8 0
  owed := List.replicate 8 0
  markA := none
  markR := []
  echo := none
  fiMatch := []
  held := []
  paused := []
  pausing := []
  refLost := false
  badPool := none

def Dest.init : Dest := ⟨0, [], []⟩
def Src.init : Src := ⟨false, 0, 0, [], []⟩
def Group.init : Group := ⟨0, 0, [], [], [], false, false, 0, [], 0, [], [], 0, [], [], [], 0, []⟩

def Fabric.init : Fabric where
  links := []
  dests := []
  srcs := []
  groups := []
  lost := []
  experts := []
  chart := []
  slotTab := []
  merNs := 0
  merFrac := 0
  merRatePpm := 0
  merPrio := 0
  merDev := 0
  merOffers := []
  merGood := 0

def Reliab.init : Reliab where
  ring := []
  seq := 0
  fatal := none
  bmcQueue := []
  entries := []
  inUse := 0
  copySeq := 0
  base := 0
  starts := 0
  dirty := false
  owed := none
  writing := none
  service := false
  retired := []
  withheld := []
  rowMaps := []

def Power.init : Power where
  f := 64
  pace := 64
  raw := 0
  calib := 0
  ceil := 64
  ceiling := [64, 64]
  thermalPace := 64
  brake := false
  confirmed := [750, 750]
  cap := [none, none]
  stepUp := [false, false]
  joining := none
  hotUnits := []
  stale := false
  missed := []
  energyFrac := 0

/-- The device right after the power-on reset has begun: boot ROM phase, every register at its reset value, memory with
nothing listed, the flash erased and the fuses blank (log entries 2 and 3). -/
def State.reset : State where
  grade := .mfc4412
  regs := []
  latches := []
  cores := []
  mem := Mem.init
  parts := []
  reqTurn := 0
  addIssued := []
  addApplied := []
  fabric := Fabric.init
  rel := Reliab.init
  flash := ⟨[none, none], [none, none], []⟩
  fuses := ⟨0, 0, [], [], [], List.replicate 49 600⟩
  power := Power.init
  start := ⟨none, none⟩
  pins := ⟨true, true, true, true, true, true, true, [true, true, true, true], true, true, [true, true, true, true], [true, true, true, true]⟩
  clockHalt := false
  votes := []
  vfHeld := []
  nonce := 0#64
  mctpEid := 0
  msixTab := []
  dumps := []
  tagged := []
  hubCycles := 0
  free := 0
  out := []
  pending := []

end Sys2Proof.Machine
end

