-- ==== Sys2Proof/WellFormed.lean ====
section
/-! DEFINITION. The commands that can reach the block at all: numbers within the largest part (R1), an OP that is the row's, packet
fields within their widths (R318). A command outside these is no command of the block, and exec faults on it. -/
namespace Sys2Proof

/-- The opcodes of R210 and R212. -/
def opKnown (op : Nat) : Bool :=
  decide (op ≤ 0x08) || (decide (0x10 ≤ op) && decide (op ≤ 0x12)) || (decide (0x18 ≤ op) && decide (op ≤ 0x1E)) ||
  (decide (0x20 ≤ op) && decide (op ≤ 0x23)) || (decide (0x28 ≤ op) && decide (op ≤ 0x2E)) ||
  (decide (0x30 ≤ op) && decide (op ≤ 0x37)) || (decide (0x3E ≤ op) && decide (op ≤ 0x57))

/-- A command of row `op` on core `n` (R210, R212). -/
def pilotWf (op n : Nat) (c : Cmd) : Bool := decide (n < 192) && c.op == op

/-- A micro-program instruction of opcode `op` on core `n` (R164). -/
def vecWf (op n : Nat) (i : DWord) : Bool := decide (n < 192) && bits i.toNat 63 58 == op

/-- A master of R5. -/
def Master.wf : Master → Bool
  | .pf k => decide (k < 4)
  | .vf p => decide (p < 8)
  | .mgmt => true
  | .rdc n => decide (n < 192)

/-- A packet whose fields fit (R318). -/
def Packet.wf (k : Packet) : Bool :=
  decide (k.lseq < 65536) && decide (k.vc < 4) && decide (k.typ < 64) && decide (k.dest < 4096) && decide (k.src < 4096) &&
  decide (k.part < 8) && decide (k.ttl < 32) && decide (k.cls < 2) && decide (k.group < 256) && decide (k.incarn < 65536) &&
  decide (k.sseq < 2 ^ 32) && decide (k.target < 2 ^ 64) && decide (k.payload.length ≤ 256) && k.payload.length % 8 == 0

/-- A flit whose fields fit (R317). -/
def Flit.wf (f : Flit) : Bool :=
  f.body.length == 56 && decide (f.ack < 65536) && decide (f.cpool < 8) && decide (f.ccount < 256) && decide (f.top < 4) && decide (f.crc < 2 ^ 32)

/-- What a code that corrects up to 3 symbols reports of a line of 64 bytes (R258). -/
def Ecc.wf : Ecc → Bool
  | .clean => true
  | .ce k syn => decide (1 ≤ k) && decide (k ≤ 3) && decide (syn < 2 ^ 64)
  | .ue syn data => data.length == 64 && decide (syn < 2 ^ 64)
  | .wrong k syn data => decide (1 ≤ k) && decide (k ≤ 3) && data.length == 64 && decide (syn < 2 ^ 64)

/-- A sweep outward from 0 within its range (R268). -/
def MarginResult.wf (r : MarginResult) : Bool := decide (-32 ≤ r.low) && decide (r.low ≤ 0) && decide (0 ≤ r.high) && decide (r.high ≤ 32)

/-- A packet that came by a link, or from the hub itself (32). -/
def packetWf (l : Nat) (k : Packet) : Bool := decide (l ≤ 32) && k.wf && !k.rsv

/-- Whether a storage corrects errors, or only finds them by parity (R406). -/
def SramSite.secded : SramSite → Bool
  | .coreStore _ | .tile .. | .mailbox _ => true
  | .bank .. | .queue _ | .pilot => false

/-- A place that a core has: 4 MiB of core store, 16 tiles and 2 banks in each of 4 arrays, 16 tiles in the queue, 64 mailbox slots. -/
def SramSite.wf : SramSite → Bool
  | .coreStore l => decide (l < 65536)
  | .tile a t => decide (a < 4) && decide (t < 16)
  | .bank a b => decide (a < 4) && decide (b < 2)
  | .queue i => decide (i < 16)
  | .mailbox i => decide (i < 64)
  | .pilot => true

/-- An error that R406 knows: only a storage with a correcting code corrects one. -/
def SramErr.wf (e : SramErr) : Bool := e.site.wf && decide (e.word < 2 ^ 64) && (e.ue || e.site.secded)

/-- An error of the hub's control state: its record names Helm or the hub router, which have no unit numbers. -/
def HubErr.ofControl (e : HubErr) : Bool := (e.kind == 3 || e.kind == 6) && e.unit == 0 && decide (e.word < 2 ^ 64)

/-- An error of the reduction store: its record names one of 128 slots. -/
def HubErr.ofStore (e : HubErr) : Bool := e.kind == 4 && decide (e.unit < 128) && decide (e.word < 2 ^ 64)

/-- The well-formed commands. -/
def Instr.wf : Instr → Bool
  | .nop n c => pilotWf 0x0 n c
  | .copy n c => pilotWf 0x1 n c
  | .cscopy n c => pilotWf 0x2 n c
  | .gather n c => pilotWf 0x3 n c
  | .scatadd n c => pilotWf 0x4 n c
  | .atomic n c => pilotWf 0x5 n c
  | .fill n c => pilotWf 0x6 n c
  | .rfill n c => pilotWf 0x7 n c
  | .cbload n c => pilotWf 0x8 n c
  | .wload n c errs => pilotWf 0x10 n c && errs.all SramErr.wf
  | .pass n c errs => pilotWf 0x11 n c && errs.all SramErr.wf
  | .cpass n c => pilotWf 0x12 n c
  | .tread n c => pilotWf 0x18 n c
  | .twrite n c => pilotWf 0x19 n c
  | .convert n c => pilotWf 0x1a n c
  | .sxstep n c => pilotWf 0x1b n c
  | .reduce n c => pilotWf 0x1c n c
  | .rowstat n c => pilotWf 0x1d n c
  | .vmap n c => pilotWf 0x1e n c
  | .vpload n c => pilotWf 0x20 n c
  | .vpsel n c => pilotWf 0x21 n c
  | .seed n c => pilotWf 0x22 n c
  | .sample n c => pilotWf 0x23 n c
  | .swait n c => pilotWf 0x28 n c
  | .ssignal n c => pilotWf 0x29 n c
  | .sset n c => pilotWf 0x2a n c
  | .msend n c => pilotWf 0x2b n c
  | .mrecv n c errs => pilotWf 0x2c n c && errs.all SramErr.wf
  | .fence n c => pilotWf 0x2d n c
  | .doorbell n c => pilotWf 0x2e n c
  | .collpost n c => pilotWf 0x30 n c
  | .beacon n c => pilotWf 0x31 n c
  | .dispatch n c => pilotWf 0x32 n c
  | .combine n c => pilotWf 0x33 n c
  | .update n c => pilotWf 0x34 n c
  | .lossw n c => pilotWf 0x35 n c
  | .ckpt n c => pilotWf 0x36 n c
  | .replay n c => pilotWf 0x37 n c
  | .halt n c => pilotWf 0x3e n c
  | .retx n c => pilotWf 0x3f n c
  | .li n c => pilotWf 0x40 n c
  | .mov n c => pilotWf 0x41 n c
  | .add n c => pilotWf 0x42 n c
  | .sub n c => pilotWf 0x43 n c
  | .mul n c => pilotWf 0x44 n c
  | .addi n c => pilotWf 0x45 n c
  | .and n c => pilotWf 0x46 n c
  | .or n c => pilotWf 0x47 n c
  | .xor n c => pilotWf 0x48 n c
  | .shl n c => pilotWf 0x49 n c
  | .shr n c => pilotWf 0x4a n c
  | .sra n c => pilotWf 0x4b n c
  | .slt n c => pilotWf 0x4c n c
  | .beq n c => pilotWf 0x4d n c
  | .bne n c => pilotWf 0x4e n c
  | .blt n c => pilotWf 0x4f n c
  | .bge n c => pilotWf 0x50 n c
  | .jmp n c => pilotWf 0x51 n c
  | .call n c => pilotWf 0x52 n c
  | .ret n c => pilotWf 0x53 n c
  | .loop n c => pilotWf 0x54 n c
  | .ld n c => pilotWf 0x55 n c
  | .st n c => pilotWf 0x56 n c
  | .rdc n c => pilotWf 0x57 n c
  | .vecNop n i => vecWf 0x0 n i
  | .vecMov n i => vecWf 0x1 n i
  | .vecAdd n i => vecWf 0x2 n i
  | .vecSub n i => vecWf 0x3 n i
  | .vecMul n i => vecWf 0x4 n i
  | .fma n i => vecWf 0x5 n i
  | .min n i => vecWf 0x6 n i
  | .max n i => vecWf 0x7 n i
  | .abs n i => vecWf 0x8 n i
  | .neg n i => vecWf 0x9 n i
  | .sel n i => vecWf 0xa n i
  | .cmplt n i => vecWf 0xb n i
  | .div n i => vecWf 0xc n i
  | .sqrt n i => vecWf 0xd n i
  | .sfn n i => vecWf 0xe n i
  | .rand n i => vecWf 0xf n i
  | .rot n i => vecWf 0x10 n i
  | .rowsum n i => vecWf 0x11 n i
  | .rowmax n i => vecWf 0x12 n i
  | .cvtb n i => vecWf 0x13 n i
  | .groupBoundary n => decide (n < 192)
  | .tileConversion n errs => decide (n < 192) && errs.all SramErr.wf
  | .lighthouseSample n a t _ _ => decide (n < 192) && decide (a < 4) && decide (t < 16)
  | .exceptionEntry n => decide (n < 192)
  | .jobAbort p q => decide (p < 8) && decide (q < 64)
  | .jobCompletion p q => decide (p < 8) && decide (q < 64)
  | .swaitRelease n => decide (n < 192)
  | .messagePlacement _ _ => true
  | .coreAlloc p => decide (p < 8)
  | .coreFree p => decide (p < 8)
  | .map p => decide (p < 8)
  | .unmap p => decide (p < 8)
  | .protect p => decide (p < 8)
  | .syncAlloc p => decide (p < 8)
  | .syncFree p => decide (p < 8)
  | .groupAlloc p => decide (p < 8)
  | .groupFree p => decide (p < 8)
  | .linkShare p => decide (p < 8)
  | .wqCreate p => decide (p < 8)
  | .wqDestroy p => decide (p < 8)
  | .helmWqTailWrite m p q _ => m.wf && decide (p < 8) && decide (q < 64)
  | .timeSliceExpiry p q => decide (p < 8) && decide (q < 64)
  | .preemption p q => decide (p < 8) && decide (q < 64)
  | .pageIn p _ _ es => decide (p < 8) && es.all (fun x => x.2.wf)
  | .accessCounterHalving => true
  | .frameMigration _ es => es.all (fun x => x.2.wf)
  | .census => true
  | .deadlockWindow p => decide (p < 8)
  | .syncObjectSet m k _ => m.wf && decide (k < 16384)
  | .syncObjectAdd m k _ => m.wf && decide (k < 16384)
  | .switch m n v => m.wf && decide (n < 192) && v.getLsbD 1
  | .programStage m n b k _ => m.wf && decide (n < 192) && decide (b < 2) && decide (k < 32)
  | .programCommit m n b k _ => m.wf && decide (n < 192) && decide (b < 2) && decide (k < 32)
  | .codebookRegisterWrite m _ _ => m.wf
  | .coreReset m n => m.wf && decide (n < 192)
  | .helmEvqPop m p => m.wf && decide (p < 8)
  | .msixHoldoffEnd p v => decide (p < 8) && decide (v < 16)
  | .chartRead m v => m.wf && v.getLsbD 0
  | .chartWrite m v => m.wf && v.getLsbD 1
  | .form m g v => m.wf && decide (g < 256) && v.getLsbD 1
  | .groupAbort m g v => m.wf && decide (g < 256) && v.getLsbD 2
  | .cardSend g => decide (g < 256)
  | .formationTimeout g => decide (g < 256)
  | .syncReqWaitEnd g => decide (g < 256)
  | .groupCard l k => packetWf l k && k.typ == 0x01 && k.kind == some 1
  | .abortPacket l k => packetWf l k && k.typ == 0x01 && k.kind == some 4
  | .chunkData l k errs => packetWf l k && (k.typ == 0x01 || k.typ == 0x06) && k.kind == some 0 && errs.all HubErr.ofStore
  | .chunkEnd l k => packetWf l k && k.typ == 0x01 && k.kind == some 2
  | .chunkRetryRequest l k => packetWf l k && k.typ == 0x01 && k.kind == some 3
  | .slotClaim l k => packetWf l k && k.typ == 0x04 && k.kind == some 5
  | .slotRow l k => packetWf l k && (k.typ == 0x01 || k.typ == 0x02) && k.kind == some 6
  | .beaconPacket l k => packetWf l k && k.typ == 0x0B
  | .flitReceive l f => decide (l < 32) && f.flit.wf
  | .replayTimeout l => decide (l < 32)
  | .writePacket l k => packetWf l k && k.typ == 0x01
  | .readPacket l k => packetWf l k && k.typ == 0x02
  | .readRsp l k => packetWf l k && k.typ == 0x03
  | .atomicPacket l k => packetWf l k && k.typ == 0x04
  | .atomicRsp l k => packetWf l k && k.typ == 0x05
  | .reducePacket l k => packetWf l k && k.typ == 0x06
  | .syncAddPacket l k => packetWf l k && k.typ == 0x07
  | .ackPacket l k => packetWf l k && k.typ == 0x09
  | .unreach l k => packetWf l k && k.typ == 0x0A
  | .endToEndResend _ _ => true
  | .ethernetFrame l _ => decide (l < 32)
  | .priorityFlowControl l pcp _ => decide (l < 32) && decide (pcp < 8)
  | .creditCensus l => decide (l < 32)
  | .censusMarker l => decide (l < 32)
  | .censusEcho l _ => decide (l < 32)
  | .configurationBlock l _ => decide (l < 32)
  | .meridianExchange l => decide (l < 32)
  | .meridianRequest l => decide (l < 32)
  | .meridianResponse l _ => decide (l < 32)
  | .linkEnable m l v => m.wf && decide (l < 32) && v.getLsbD 31
  | .linkDisable m l v => m.wf && decide (l < 32) && !v.getLsbD 31
  | .retrain m l v => m.wf && decide (l < 32) && v.getLsbD 28
  | .fiMatchWrite m l r _ => m.wf && decide (l < 32) && decide (r < 8)
  | .moduleIdentify l _ => decide (l < 32)
  | .absentPoll l _ => decide (l < 32)
  | .identityMemoryChange l => decide (l < 32)
  | .receiverDetect l _ _ => decide (l < 32)
  | .detectRetry l => decide (l < 32)
  | .trainingDone l _ => decide (l < 32)
  | .trainTimeout l => decide (l < 32)
  | .configTimeout l => decide (l < 32)
  | .fecLockLoss l => decide (l < 32)
  | .downTimeout l => decide (l < 32)
  | .memoryRequest _ e errs => e.wf && errs.all HubErr.ofControl
  | .writeCombiningAgeOut _ e => e.wf
  | .patrolScrubRead sk es => decide (sk < 12) && es.all (fun x => x.2.wf)
  | .hbmTemperatureReadout sk _ => decide (sk < 12)
  | .marginStart m sk _ => m.wf && decide (sk < 12)
  | .marginRunDone sk r => decide (sk < 12) && r.wf
  | .almanacCommit => true
  | .almanacCommitDone => true
  | .tagInterval n _ => decide (n < 192)
  | .stageRecord n _ => decide (n < 192)
  | .periodicDump p => decide (p < 8)
  | .ownerWrite m k _ => m.wf && decide (k < 32)
  | .dumpEnable m p _ => m.wf && decide (p < 8)
  | .governorLoop _ => true
  | .governorCalibration _ => true
  | .coreClockStep d => decide (d < 2)
  | .avsTransitionDone d => decide (d < 2)
  | .avsTimeout d _ => decide (d < 2)
  | .thermalSample u _ _ => decide (u < 3)
  | .thermalCeilingStep d => decide (d < 2)
  | .thermalPaceStep => true
  | .thermalTrip u => decide (u < 3)
  | .pwrBrakeFall => true
  | .pwrBrakeRise => true
  | .pmbusPoll r _ _ _ => decide (r < 10)
  | .pmbAlert _ => true
  | .clockStretchTimeout _ seg _ => decide (seg < 32)
  | .segmentRetest seg _ => decide (seg < 32)
  | .sidebandStuck line _ => decide (line < 13)
  | .clockHalt k => match k with
    | .corePll d => decide (d < 2)
    | .divider sk => decide (sk < 12)
    | _ => true
  | .crystalLoss => true
  | .sdsRefclkLoss q => decide (q < 4)
  | .pcieRefclkLoss k => decide (k < 4)
  | .powerOn _ => true
  | .deviceStart _ => true
  | .initialFillDone => true
  | .boardReset _ => true
  | .mainPwrgdFall => true
  | .hubPwrgdFall => true
  | .pciePerst k => decide (k < 4)
  | .pcieLinkDown k => decide (k < 4)
  | .functionLevelReset f => match f with
    | .vf p => decide (p < 8)
    | .pf k => decide (k < 4)
    | _ => false
  | .vfEnableClear k => decide (k < 4)
  | .partitionResetDone p => decide (p < 8)
  | .bar2Read p _ _ => decide (p < 8)
  | .bar2Write p _ _ _ => decide (p < 8)
  | .partialBar0Access m _ _ => m.wf
  | .lowWordRead m _ => m.wf
  | .readClear m _ => m.wf
  | .registerWrite m _ _ => m.wf
  | .lcResetVote p => decide (p < 8)
  | .voteLapse k => decide (k < 4)
  | .lcSeal _ => true
  | .mgmtRegisterRead _ => true
  | .mgmtRegisterWrite _ _ => true
  | .warmDeviceReset => true
  | .releaseBringUpHold => true
  | .readNonce _ => true
  | .submitUnlockToken _ _ => true
  | .clearFatalSlot => true
  | .revokeKeySlot _ => true
  | .mctpControl _ => true
  | .pldmDiscovery _ => true
  | .pldmPlatform _ => true
  | .pldmFirmwareUpdate _ => true
  | .vfEnableSet k => decide (k < 4)
  | .vendorProvisioning _ => true
  | .jtagInstruction _ => true
  | .invalidOpcode n c => decide (n < 192) && !opKnown c.op
  | .hbmRefresh sk => decide (sk < 12)
  | .sdsRefclkReturn q => decide (q < 4)
  | .pcieRefclkReturn k => decide (k < 4)
  | .pciePerstRelease k => decide (k < 4)
  | .pcieLinkUp k _ _ _ => decide (k < 4)
  | .configurationRequest k => decide (k < 4)
end Sys2Proof
end

