-- ==== Sys2Proof/Machine/Ops.lean ====
section
/-! DEFINITION. The named operations over tables, bytes, registers, events, the Logbook, stacked memory, core store and page
tables, which every meaning shares. -/
namespace Sys2Proof.Machine

/-! ### Tables, sets and bytes -/

/-- The entry of a key, if the table lists it. -/
def tabFind {α : Type} : Tab α → Nat → Option α
  | [], _ => none
  | (k, a) :: t, i => if k = i then some a else tabFind t i

/-- The table with the entry of a key set, keys kept rising. -/
def tabInsert {α : Type} (i : Nat) (b : α) : Tab α → Tab α
  | [] => [(i, b)]
  | (k, a) :: t => if k < i then (k, a) :: tabInsert i b t else (i, b) :: (if k = i then t else (k, a) :: t)

/-- The table with the entry of a key replaced (`some`) or removed (`none`). -/
def tabPut {α : Type} (t : Tab α) (i : Nat) (v : Option α) : Tab α :=
  match v with
  | some b => tabInsert i b t
  | none => t.filter (fun x => x.1 != i)

/-- What a table holds at a key: the default where it lists nothing. -/
def tabGet {α : Type} (t : Tab α) (k : Nat) (d : α) : α := (tabFind t k).getD d

/-- A table with a key set, in canonical form: the default is not listed. -/
def tabSet {α : Type} [DecidableEq α] (t : Tab α) (k : Nat) (d v : α) : Tab α := tabPut t k (if v = d then none else some v)

/-- A set of numbers as a rising list, with one added. -/
def setAdd : List Nat → Nat → List Nat
  | [], i => [i]
  | k :: t, i => if k < i then k :: setAdd t i else if k = i then k :: t else i :: k :: t

def setDel (l : List Nat) (i : Nat) : List Nat := l.filter (fun k => k != i)
def setTo (l : List Nat) (i : Nat) (on : Bool) : List Nat := if on then setAdd l i else setDel l i

/-- A list with element i replaced. -/
def listSet {α : Type} : List α → Nat → α → List α
  | [], _, _ => []
  | _ :: t, 0, v => v :: t
  | a :: t, i + 1, v => a :: listSet t i v

/-- Insert by a key, after the entries of equal key; and the stable sort that it makes. -/
def insertOn {α : Type} (key : α → Nat) (x : α) : List α → List α
  | [] => [x]
  | a :: t => if key x < key a then x :: a :: t else a :: insertOn key x t
def sortOn {α : Type} (key : α → Nat) (l : List α) : List α := l.foldl (fun a x => insertOn key x a) []

/-- n as `len` little-endian bytes (R5). -/
def leBytes (n : Nat) : Nat → List Byte
  | 0 => []
  | len + 1 => BitVec.ofNat 8 n :: leBytes (n / 256) len

/-- The number that little-endian bytes hold. -/
def leNat : List Byte → Nat
  | [] => 0
  | b :: t => b.toNat + 256 * leNat t

/-- Bytes [off, off + len) of a list as a number. -/
def leAt (l : List Byte) (off len : Nat) : Nat := leNat ((l.drop off).take len)

/-- The bytes at [a, a + len) of a memory whose unlisted bytes read 0. -/
def cellsRead (m : List Host.Cell) (a : Nat) : Nat → List Byte
  | 0 => []
  | len + 1 => tabGet m a 0#8 :: cellsRead m (a + 1) len

/-- The memory with bytes written from address a on. -/
def cellsWrite (m : List Host.Cell) (a : Nat) : List Byte → List Host.Cell
  | [] => m
  | b :: t => cellsWrite (tabSet m a 0#8 b) (a + 1) t

/-- The memory with [a, a + len) at zero: nothing listed there. -/
def cellsZero (m : List Host.Cell) (a len : Nat) : List Host.Cell := m.filter (fun c => c.1 < a || c.1 ≥ a + len)

/-- Cut [a, a + len) at the multiples of `size` within it: pieces of start and length, at most `fuel` of them. -/
def pieces (size a : Nat) : Nat → Nat → List (Nat × Nat)
  | 0, _ => []
  | fuel + 1, len =>
    if len = 0 then [] else
    let l := min len (size - a % size)
    (a, l) :: pieces size (a + l) fuel (len - l)

/-- The pieces of a range by 64-byte line. -/
def linePieces (a len : Nat) : List (Nat × Nat) := pieces 64 a (len / 64 + 2) len

/-- The 64-byte lines of a range. -/
def linesOf (a len : Nat) : List Nat := if len = 0 then [] else (List.range ((a + len - 1) / 64 - a / 64 + 1)).map (· + a / 64)

/-! ### The two grades (R1, R2) -/

def Grade.cores : Grade → Nat
  | .mfc4412 => 192
  | .mfc4408 => 176
def Grade.rows : Grade → Nat
  | .mfc4412 => 12
  | .mfc4408 => 11
def Grade.stacks : Grade → Nat
  | .mfc4412 => 12
  | .mfc4408 => 8
def Grade.watts : Grade → Nat
  | .mfc4412 => 2000
  | .mfc4408 => 1700
/-- Bytes of device memory (R247). -/
def Grade.capacity : Grade → Nat
  | .mfc4412 => 0x9000000000
  | .mfc4408 => 0x6000000000
/-- The grade field of an image (R442). -/
def Grade.code : Grade → Nat
  | .mfc4412 => 0x4412
  | .mfc4408 => 0x4408

/-! ### Registers -/

/-- What a register holds before anything has written it: its reset value, and the default sets of R46 and R47 in the codebooks. -/
def Reg.resetAt (r : Reg) (j : Nat) : Word :=
  match r with
  | .convCb4 => w32 (e2m1Code (4 * j) + e2m1Code (4 * j + 1) * 2 ^ 8 + e2m1Code (4 * j + 2) * 2 ^ 16 + e2m1Code (4 * j + 3) * 2 ^ 24)
  | .convCb8 => w32 (defaultQ8 (2 * j) + defaultQ8 (2 * j + 1) * 2 ^ 16)
  | _ => r.spec.resetVal

/-- A register's contents. -/
def State.rd (s : State) (r : Reg) (b : Nat := 0) (i : Nat := 0) (j : Nat := 0) : Word :=
  tabGet s.regs (r.addr b i j) (r.resetAt j)

/-- A register's contents replaced. -/
def State.wr (s : State) (r : Reg) (b i j : Nat) (v : Word) : State :=
  { s with regs := tabSet s.regs (r.addr b i j) (r.resetAt j) v }

/-- Bits [hi:lo] of a register. -/
def State.fld (s : State) (r : Reg) (b i j hi lo : Nat) : Nat := getBits (s.rd r b i j) hi lo

/-- A register with bits [hi:lo] replaced. -/
def State.setFld (s : State) (r : Reg) (b i j hi lo v : Nat) : State := s.wr r b i j (setBits (s.rd r b i j) hi lo v)

/-- A register with bits ORed in. -/
def State.orReg (s : State) (r : Reg) (b i j v : Nat) : State := s.wr r b i j (s.rd r b i j ||| BitVec.ofNat 32 v)

/-- A counting field raised by k, saturating at all ones. -/
def State.countFld (s : State) (r : Reg) (b i j hi lo k : Nat) : State :=
  s.setFld r b i j hi lo (min (s.fld r b i j hi lo + k) (2 ^ (hi + 1 - lo) - 1))

/-- The 64-bit quantity of a register pair (R5). -/
def State.rd64 (s : State) (lo hi : Reg) (b : Nat := 0) (i : Nat := 0) (j : Nat := 0) : Nat :=
  (s.rd lo b i j).toNat + (s.rd hi b i j).toNat * 2 ^ 32

def State.wr64 (s : State) (lo hi : Reg) (b i j v : Nat) : State :=
  (s.wr lo b i j (BitVec.ofNat 32 v)).wr hi b i j (BitVec.ofNat 32 (v >>> 32))

/-! ### Parts of the state by number -/

def State.core (s : State) (n : Nat) : Core := tabGet s.cores n Core.init
def State.setCore (s : State) (n : Nat) (c : Core) : State := { s with cores := tabSet s.cores n Core.init c }
def State.onCore (s : State) (n : Nat) (f : Core → Core) : State := s.setCore n (f (s.core n))
def State.part (s : State) (p : Nat) : Part := tabGet s.parts p Part.init
def State.setPart (s : State) (p : Nat) (x : Part) : State := { s with parts := tabSet s.parts p Part.init x }
def State.onPart (s : State) (p : Nat) (f : Part → Part) : State := s.setPart p (f (s.part p))
def State.onFabric (s : State) (f : Fabric → Fabric) : State := { s with fabric := f s.fabric }
def State.link (s : State) (l : Nat) : Link := tabGet s.fabric.links l Link.init
def State.onLink (s : State) (l : Nat) (f : Link → Link) : State :=
  s.onFabric (fun x => { x with links := tabSet x.links l Link.init (f (tabGet x.links l Link.init)) })
def State.group (s : State) (g : Nat) : Group := tabGet s.fabric.groups g Group.init
def State.onGroup (s : State) (g : Nat) (f : Group → Group) : State :=
  s.onFabric (fun x => { x with groups := tabSet x.groups g Group.init (f (tabGet x.groups g Group.init)) })
def State.onRel (s : State) (f : Reliab → Reliab) : State := { s with rel := f s.rel }
def State.onPower (s : State) (f : Power → Power) : State := { s with power := f s.power }
def State.emit (s : State) (o : Out) : State := { s with out := s.out ++ [o] }
def State.nCores (s : State) : Nat := s.grade.cores
def State.nStacks (s : State) : Nat := s.grade.stacks

/-- A fresh free value (log entry 7). -/
def State.takeFree (s : State) : State := { s with free := s.free + 1 }

/-- The state of a partition in HELM_PART (R279, R304): 0 absent, 1 active, 2 frozen, 3 resetting. -/
def State.partState (s : State) (p : Nat) : Nat := s.fld .helmPart 0 p 0 31 30
def State.partPort (s : State) (p : Nat) : Nat := s.fld .helmPart 0 p 0 29 28
def State.partMgmt (s : State) (p : Nat) : Bool := s.fld .helmPart 0 p 0 27 27 == 1

/-- The cores of a rectangle, in increasing core number (R2, R284). -/
def Rect.cores (r : Rect) : List Nat :=
  (List.range r.h).flatMap (fun i => (List.range r.w).map (fun j => r.origin + 16 * i + j))
def Part.cores (x : Part) : List Nat := x.rects.flatMap Rect.cores

/-- The partition that holds a core (R278), and the rectangle. -/
def State.holder (s : State) (n : Nat) : Option Nat := (s.parts.find? (fun x => x.2.cores.contains n)).map (·.1)
def State.rectOf (s : State) (n : Nat) : Option Rect :=
  (s.parts.flatMap (fun x => x.2.rects)).find? (fun r => r.cores.contains n)
def Part.rectNo (x : Part) (h : Nat) : Option Rect := x.rects.find? (fun r => r.handle == h)

/-- A core that is withheld (R17, R423) or lies in no mapped row. -/
def State.withheld (s : State) (n : Nat) : Bool := s.rel.withheld.contains n

/-- The queue whose head job runs, preempts or is saved on a core, with the partition. -/
def State.jobOn (s : State) (n : Nat) : Option (Nat × Queue × Job) :=
  s.parts.findSome? (fun x => x.2.queues.findSome? (fun q => match q.head with
    | some j => match x.2.rectNo j.handle with
      | some r => if r.cores.contains n && (j.st == .running || j.st == .preempting) then some (x.1, q, j) else none
      | none => none
    | none => none))

/-! ### Events and MSI-X (R436 to R438) -/

/-- The key of a function's MSI-X block in `msixTab`: ports 0 to 3, then partitions 0 to 7. -/
def fnNo : Master → Nat
  | .pf k => k
  | .vf p => 4 + p
  | _ => 12

/-- The reset contents of the MSI-X block: mask bits set (log entry 13). -/
def msixDefault (off : Nat) : Word := if off < 0x8000 && off % 16 == 12 then 1#32 else 0#32
def State.msixRd (s : State) (fn : Master) (off : Nat) : Word := tabGet s.msixTab (fnNo fn * 0x10000 + off) (msixDefault off)
def State.msixWr (s : State) (fn : Master) (off : Nat) (v : Word) : State :=
  { s with msixTab := tabSet s.msixTab (fnNo fn * 0x10000 + off) (msixDefault off) v }

/-- Send a vector's message, or set its pending bit while it is masked (R438). -/
def State.sendMsix (s : State) (fn : Master) (v : Nat) : State :=
  if (s.msixRd fn (16 * v + 12)).getLsbD 0 then
    s.msixWr fn 0x8000 (s.msixRd fn 0x8000 ||| BitVec.ofNat 32 (2 ^ v))
  else s.emit (.msix fn v)

/-- A request for vector v of partition p under HOLDOFF (R438): inside the interval it is remembered. -/
def State.requestVector (s : State) (p v : Nat) : State :=
  let x := s.part p
  if x.msixHold.contains v then s.setPart p { x with msixPend := setAdd x.msixPend v }
  else
    let s := if s.fld .helmIrqHoldoff 0 p 0 15 0 == 0 then s else s.setPart p { x with msixHold := setAdd x.msixHold v }
    s.sendMsix (.vf p) v

/-- The vector of an event cause (R436). -/
def causeVector : Nat → Nat
  | 0 => 0 | 1 => 0 | 2 => 1 | 3 => 2 | 4 => 3 | 5 => 4 | 6 => 5 | 7 => 6
  | 8 => 7 | 9 => 7 | 10 => 7 | 11 => 8 | 12 => 8 | 13 => 9 | 14 => 9 | _ => 0

/-- Set a cause bit and request its vector where the mask allows it. -/
def State.setCause (s : State) (p cause : Nat) : State :=
  let s := s.orReg .helmIrqStatus 0 p 0 (2 ^ cause)
  if (s.rd .helmIrqMask 0 p).getLsbD cause then s else s.requestVector p (causeVector cause)

def State.evqFull (s : State) (p : Nat) : Bool := decide ((s.part p).evq.length ≥ 256)

/-- An event of partition p (R436, R437). -/
def State.raise (s : State) (p cause unit tag value : Nat) : State :=
  if s.evqFull p then
    let lost := s.fld .helmEvqStatus 0 p 0 31 16
    let s := (s.setCause p cause).countFld .helmEvqStatus 0 p 0 31 16 1
    if lost == 0 then s.setCause p 15 else s
  else
    (s.onPart p (fun x => { x with evq := x.evq ++ [⟨cause, unit, tag, value⟩] })).setCause p cause

/-! ### Logbook (R413 to R416, R428) -/

/-- Meridian time as the Logbook and the counters take it. -/
def State.now (s : State) : Nat := s.fabric.merNs

/-- A record with the fields that are not named at 0, SUB at 0xFFFF. -/
def LogRec.base (cls kind part unit : Nat) : LogRec :=
  ⟨0, 0, cls, kind, part, unit, 0xFFFF, 0, 0, 0, 0, 0, 0, 0, 0, 0, 0, 0⟩

/-- TEMP of R413: the temperature of the die that holds the unit, where a unit of KIND 8 below 2 is a die itself, or the stack's for KIND 1, in
units of 0.125 °C. -/
def State.unitTemp (s : State) (kind unit : Nat) : Nat :=
  match kind with
  | 0 => s.fld .pwrTemp 0 (if unit % 16 < 8 then 0 else 1) 0 15 0
  | 1 => 8 * s.fld .memStatus unit 0 0 23 16
  | 8 => s.fld .pwrTemp 0 (Nat.min unit 2) 0 15 0
  | _ => s.fld .pwrTemp 0 2 0 15 0

/-- MV of R413 and R415. -/
def State.unitMv (s : State) (kind unit : Nat) : Nat :=
  match kind with
  | 0 => s.fld .pwrRail 0 (if unit % 16 < 8 then 0 else 1) 0 31 16
  | 1 => s.fld .pwrRail 0 4 0 31 16
  | _ => s.fld .pwrRail 0 2 0 31 16

/-- The newest record of the ring. -/
def State.newest (s : State) : Option LogRec := if s.rel.seq = 0 then none else tabFind s.rel.ring ((s.rel.seq - 1) % 4096)

def LogRec.sameAs (a b : LogRec) : Bool :=
  a.cls == b.cls && a.kind == b.kind && a.unit == b.unit && a.sub == b.sub && a.addr == b.addr

/-- The offer of a record to the BMC's queue of 64 (R428). -/
def State.offerBmc (s : State) (x : LogRec) : State :=
  if s.rel.bmcQueue.length < 64 then s.onRel (fun r => { r with bmcQueue := r.bmcQueue ++ [x] })
  else s.countFld .logStatus 0 0 0 15 0 1

/-- Write a record into the Logbook, or merge it into the newest (R413, R416, R428). -/
def State.log (s : State) (r : LogRec) : State :=
  let r := { r with mtime := s.now, seq := s.rel.seq % 2 ^ 32, temp := s.unitTemp r.kind r.unit, mv := s.unitMv r.kind r.unit }
  let fresh :=
    let s := s.onRel (fun x => { x with ring := tabPut x.ring (x.seq % 4096) (some r), seq := x.seq + 1 })
    let s := s.offerBmc r
    if r.part < 8 then (s.orReg .logRd 0 r.part 0 0x80000000).raise r.part 11 0 r.tag r.seq else s
  match s.newest with
  | some w =>
    if w.sameAs r && decide (w.mtime ≤ s.now) && decide (s.now ≤ w.mtime + 1000000) then
      let w := { w with repeats := Nat.min (w.repeats + 1 + r.repeats) 0xFFFFFFFF }
      s.onRel (fun x => { x with ring := tabPut x.ring ((x.seq - 1) % 4096) (some w) })
    else fresh
  | none => fresh

/-! ### Physical addresses (R247) -/

/-- The ranges of the physical address space: stacked memory, the reduction store of 128 MiB, and the host memory window. -/
inductive PhysRange where
  | memory | reduction | host | absent
  deriving DecidableEq, Repr

def reductionStore : Nat := 0x8000000000000
def hostWindow : Nat := 0xC000000000000

def Grade.physRange (g : Grade) (pa : Nat) : PhysRange :=
  if pa < g.capacity then .memory
  else if reductionStore ≤ pa ∧ pa < reductionStore + 0x8000000 then .reduction
  else if hostWindow ≤ pa ∧ pa < 2 ^ 52 then .host
  else .absent

/-! ### Stacked memory (R244 to R262) -/

/-- A frame of device memory, 2 MiB (R286). -/
def frameSize : Nat := 0x200000

def stackOf (g : Grade) (pa : Nat) : Nat := (pa >>> 12) % g.stacks
/-- The channel of a physical address (R248). -/
def chanOf (g : Grade) (pa : Nat) : Nat :=
  let h := (pa >>> 12) / g.stacks
  (((pa >>> 8) % 16) ||| ((h % 2) <<< 4)) ^^^ ((h >>> 1) % 32)
def pcOf (pa : Nat) : Nat := (pa >>> 6) % 2
/-- The channel pair, numbered over the device, whose write-combining buffer holds a line (R250). -/
def pairOf (g : Grade) (line : Nat) : Nat := stackOf g (line * 64) * 16 + chanOf g (line * 64) / 2

/-- Write a merged entry back (R251, R262): a plain write when all 64 bytes are valid, otherwise a read-modify-write. -/
def Mem.leave (m : Mem) (e : WcEntry) : Mem :=
  { m with
    bytes := e.bytes.foldl (fun b c => tabSet b (e.line * 64 + c.1) 0#8 c.2) m.bytes
    poison := setTo m.poison e.line (e.poison || (decide (e.bytes.length < 64) && m.poison.contains e.line))
    wc := m.wc.filter (fun x => x.line != e.line)
    wrote := m.wrote + 1
    merged := m.merged + b2n (decide (e.bytes.length < 64)) }

/-- The entry of a line, if any, leaves the buffer (R251). -/
def Mem.forceOut (m : Mem) (line : Nat) : Mem :=
  match m.wc.find? (fun e => e.line == line) with
  | some e => m.leave e
  | none => m

/-- Every entry of a range of lines leaves (R251, paging). -/
def Mem.forceRange (m : Mem) (line0 lines : Nat) : Mem :=
  (m.wc.filter (fun e => decide (line0 ≤ e.line) && decide (e.line < line0 + lines))).foldl (fun m e => m.leave e) m

/-- A plain write of a whole line (R262). -/
def Mem.plain (m : Mem) (line : Nat) (data : List Byte) (poison : Bool) : Mem :=
  { m with bytes := cellsWrite m.bytes (line * 64) data, poison := setTo m.poison line poison, wrote := m.wrote + 1 }

/-- The bytes of an entry with data written over them from offset `off`. -/
def wcMerge (b : List Host.Cell) (off : Nat) : List Byte → List Host.Cell
  | [] => b
  | x :: t => wcMerge (tabPut b off (some x)) (off + 1) t

/-- A write within one line (R250): whole lines go straight to the controller unless an entry exists; other writes merge. -/
def Mem.writePiece (g : Grade) (m : Mem) (pa : Nat) (data : List Byte) (poison : Bool) : Mem :=
  let line := pa / 64
  match m.wc.find? (fun e => e.line == line) with
  | some e =>
    let e := { e with bytes := wcMerge e.bytes (pa % 64) data, poison := poison || (decide (data.length < 64) && e.poison) }
    if e.bytes.length ≥ 64 then m.leave e
    else { m with wc := m.wc.map (fun x => if x.line == line then e else x) }
  | none =>
    if data.length ≥ 64 then m.plain line data poison
    else
      let mine := m.wc.filter (fun e => pairOf g e.line == pairOf g line)
      let m := if mine.length ≥ 64 then (match mine with | e :: _ => m.leave e | [] => m) else m
      { m with wc := m.wc ++ [⟨line, wcMerge [] (pa % 64) data, poison⟩] }

/-- A write to [pa, pa + data.length), line by line (R249, R250). -/
def Mem.write (g : Grade) (m : Mem) (pa : Nat) (data : List Byte) (poison : Bool) : Mem :=
  (linePieces pa data.length).foldl (fun m x => m.writePiece g x.1 ((data.drop (x.1 - pa)).take x.2) poison) m

/-- The lines of a range leave the buffer, as a read of them makes them (R251). -/
def Mem.settle (m : Mem) (pa len : Nat) : Mem := (linesOf pa len).foldl (fun m l => m.forceOut l) m

/-- The bytes of a settled range and whether a line of it is poisoned. -/
def Mem.look (m : Mem) (pa len : Nat) : List Byte × Bool :=
  (cellsRead m.bytes pa len, (linesOf pa len).any (fun l => m.poison.contains l))

/-- A memory-side add (R254 to R256, R262): the old value with the poison it carries. -/
def Mem.addAt (m : Mem) (ty : AddTy) (pa amount : Nat) (poison : Bool) : Mem × Nat × Bool :=
  let m := m.settle pa ty.bytes
  let old := leNat (m.look pa ty.bytes).1
  let m := { m with wrote := m.wrote + 1 }
  if poison || m.poison.contains (pa / 64) then ({ m with poison := setAdd m.poison (pa / 64) }, old, true)
  else ({ m with bytes := cellsWrite m.bytes pa (leBytes (memAdd ty old amount) ty.bytes) }, old, false)

/-- Zero and clean [pa, pa + len), as the fill of R265 and newly mapped pages leave it. -/
def Mem.fill (m : Mem) (pa len : Nat) : Mem :=
  { m with
    bytes := cellsZero m.bytes pa len
    poison := m.poison.filter (fun l => l * 64 < pa || l * 64 ≥ pa + len)
    wc := m.wc.filter (fun e => e.line * 64 < pa || e.line * 64 ≥ pa + len)
    wrote := m.wrote + len / 64 }

/-- Bytes that nothing states at [pa, pa + len), written as whole lines: free values, numbered from `k` (log entry 116). -/
def Mem.unknown (m : Mem) (k pa len : Nat) : Mem :=
  let free : List Host.Cell := (List.range len).filterMap (fun i =>
    let b := (Config.freeWord (k + i)).setWidth 8
    if b = 0#8 then none else some (pa + i, b))
  { m with
    bytes := m.bytes.filter (fun (c : Host.Cell) => decide (c.1 < pa)) ++ free ++ m.bytes.filter (fun (c : Host.Cell) => decide (pa + len ≤ c.1))
    poison := m.poison.filter (fun l => l * 64 < pa || l * 64 ≥ pa + len)
    wc := m.wc.filter (fun e => e.line * 64 < pa || e.line * 64 ≥ pa + len)
    wrote := m.wrote + len / 64 }

/-! ### Address windows and performance counters (R337, R392, R494 to R499) -/

/-- The enabled window of partition p that contains a virtual address: highest priority, then lowest number (R337, R404). -/
def State.windowOf (s : State) (lo hi : Reg) (p va : Nat) : Option Nat :=
  let pg := va >>> 21
  let cands := (List.range 8).filter (fun w =>
    s.fld lo 0 p w 31 31 == 1 && decide (s.fld lo 0 p w 26 0 ≤ pg) && decide (pg ≤ s.fld hi 0 p w 26 0))
  match cands with
  | [] => none
  | w :: t => some (t.foldl (fun a b => if s.fld lo 0 p a 28 27 < s.fld lo 0 p b 28 27 then b else a) w)

/-- The class of a virtual address (R392). -/
def State.classOf (s : State) (p va : Nat) : Nat :=
  match s.windowOf .helmNfWinLo .helmNfWinHi p va with
  | some w => s.fld .helmNfWinLo 0 p w 30 29
  | none => 0

/-- Who causes an event of the counters: the master's kind and index (R498), its partition, and the virtual address. -/
structure Who where
  kind : Nat
  idx : Nat
  part : Option Nat
  va : Option Nat
  deriving DecidableEq, Repr

/-- The CLASS and WIN filters (R498, R499), with the partition whose windows WIN names. -/
def State.passVa (s : State) (mask winEn win : Nat) (owner : Option Nat) (w : Who) : Bool :=
  (mask == 0 || mask == 15 || (match w.part, w.va with
    | some p, some va => mask.testBit (s.classOf p va)
    | _, _ => false)) &&
  (winEn == 0 || (match owner, w.va with
    | some p, some va => w.part == some p && s.windowOf .perfWinLo .perfWinHi p va == some win
    | _, _ => false))

/-- Add to a 64-bit counter, wrapping (R494). -/
def State.bump (s : State) (lo hi : Reg) (i j k : Nat) : State := s.wr64 lo hi 0 i j (s.rd64 lo hi 0 i j + k)

/-- A hub event, k times (R495, R498). -/
def State.hubEvent (s : State) (code k : Nat) (w : Who) : State :=
  if k = 0 then s else
  (List.range 32).foldl (fun s c =>
    if s.fld .perfHubEvt 0 c 0 7 0 != code then s else
    let own := s.fld .perfHubEvt 0 c 0 31 28
    let owner := if own < 8 then some own else none
    let kind := s.fld .perfHubEvt 0 c 0 19 16
    let idx := s.fld .perfHubEvt 0 c 0 15 8
    if (owner.isNone || w.part == owner) && (kind == 0 || decide (kind > 5) || kind == w.kind) && (idx == 0xFF || idx == w.idx) &&
      s.passVa (s.fld .perfHubEvt 0 c 0 23 20) (s.fld .perfHubEvt 0 c 0 27 27) (s.fld .perfHubEvt 0 c 0 26 24) owner w
    then s.bump .perfHubCntLo .perfHubCntHi c 0 k else s) s

/-- A core event of core n, k times (R494, R498). -/
def State.coreEvent (s : State) (n code k : Nat) (va : Option Nat) : State :=
  if k = 0 || s.fld .perfCoreCtl 0 n 0 30 30 == 1 then s else
  let occ := (s.core n).occupied
  let w : Who := ⟨1, n, s.holder n, va⟩
  (List.range 8).foldl (fun s j =>
    if s.fld .perfCoreEvt 0 n j 7 0 != code then s else
    let priv := s.fld .perfCoreEvt 0 n j 17 16
    if (priv == 0 || priv.testBit (b2n occ)) &&
      s.passVa (s.fld .perfCoreEvt 0 n j 11 8) (s.fld .perfCoreEvt 0 n j 15 15) (s.fld .perfCoreEvt 0 n j 14 12) w.part w
    then s.bump .perfCoreCntLo .perfCoreCntHi n j k else s) s

/-- A change of memory on behalf of a master, with the lines that it wrote counted (R497). -/
def State.memDo (s : State) (w : Who) (f : Mem → Mem) : State :=
  let m := f s.mem
  (({ s with mem := m }).hubEvent 0x43 (m.wrote - s.mem.wrote) w).hubEvent 0x44 (m.merged - s.mem.merged) w

/-! ### Codebooks (R43, R48 to R51) -/

/-- A codebook word with entry 0 kept at +0 (R43). -/
def codebookWord (a : RegAt) (v : Word) : Word :=
  let w := a.reg.spec.write 0#32 v
  if a.j != 0 then w else match a.reg with
    | .convCb4 => setBits w 7 0 0
    | _ => setBits w 15 0 0

/-- Write a register of a codebook. -/
def State.putCodebook (s : State) (a : RegAt) (v : Word) : State := s.wr a.reg a.b a.i a.j (codebookWord a v)

/-! ### Page tables (R286 to R290) -/

def Page.size (p : Page) : Nat := if p.small then 0x10000 else 0x200000

/-- What an address translates to (R219, R286): no page or no W, a page in the swap area, or a physical address with H. -/
inductive Xlate where
  | fault
  | away (va : Nat)
  | here (pa : Nat) (h : Bool)
  deriving DecidableEq, Repr

def Part.page? (x : Part) (va : Nat) : Option Page := x.pages.find? (fun p => decide (p.va ≤ va) && decide (va < p.va + p.size))

def Part.xlate (x : Part) (va : Nat) (write : Bool) : Xlate :=
  match x.page? va with
  | none => .fault
  | some p =>
    if write && !p.w then .fault
    else match p.frame with
      | none => .away p.va
      | some f => .here (f + (va - p.va)) p.h

/-- The access counter of a page rises by 1 at most once per 10 µs, 14,000 hub cycles (R290). -/
def Page.touch (p : Page) (now : Nat) : Page :=
  match p.bumped with
  | some t => if now < t + 14000 then p else { p with counter := min (p.counter + 1) 255, bumped := some now }
  | none => { p with counter := min (p.counter + 1) 255, bumped := some now }

def State.touchPage (s : State) (p va : Nat) : State :=
  s.onPart p (fun x => { x with pages := x.pages.map (fun q =>
    if decide (q.va ≤ va) && decide (va < q.va + q.size) then q.touch s.hubCycles else q) })

/-! ### Core store (R12, R217, R221, R406) -/

/-- The first offset of the shadow frame (R221). -/
def shadowBase : Nat := 0x3FFC00
def Core.csRead (c : Core) (off len : Nat) : List Byte × Bool :=
  (cellsRead c.cs off len, (linesOf off len).any (fun l => c.csPoison.contains l))

/-- A write to core store: each line that it covers whole takes the data's poison mark, a line that it covers in part keeps its
own as well (R262 with R408; log entry 14). -/
def Core.csWrite (c : Core) (off : Nat) (data : List Byte) (poison : Bool) : Core :=
  { c with
    cs := cellsWrite c.cs off data
    csPoison := (linePieces off data.length).foldl (fun l x =>
      setTo l (x.1 / 64) (poison || (decide (x.2 < 64) && l.contains (x.1 / 64)))) c.csPoison }

/-- A scalar register: x0 reads 0 and ignores writes (R203); the tag of a register is its poison (R408). -/
def Core.xval (c : Core) (k : Nat) : DWord := if k = 0 then 0#64 else tabGet c.x k 0#64
def Core.setX (c : Core) (k : Nat) (v : DWord) (tag : Bool) : Core :=
  if k = 0 then c else { c with x := tabSet c.x k 0#64 v, tags := setTo c.tags k tag }

/-! ### The windows of the tile queue (R112, R116, R158, R190) -/

/-- The columns whose tiles a conversion takes together: a quarter slab with glints (R116), else a Prism run (R112), and a tile at least. -/
def Desc.span (d : Desc) : Nat := if !d.fmt.isSlab then 32 else if d.glint != 0 then 128 else Nat.max 32 d.prism

/-- Whether two places lie in one stretch of `span` columns of one row of tiles. -/
def TileJob.same (span : Nat) (a b : TileJob) : Bool := a.row == b.row && a.col / span == b.col / span

/-- The entries of the queue that the converter takes together: the head alone, or with the entries up to the last one of the stretches
that it works on, where glints or a Prism run join tiles (R112, R116). The list is that prefix, closed under the stretches in it. -/
def closePrefix (span : Nat) (q : List TileEntry) : Nat → Nat → Nat
  | 0, p => p
  | fuel + 1, p =>
    let head := q.take p
    let last := (q.zipIdx).foldl (fun m x => if head.any (fun h => h.cc == x.1.cc && h.job.same span x.1.job) then Nat.max m (x.2 + 1) else m) p
    if last == p then p else closePrefix span q fuel last

/-- The number of entries at the head of the queue that the engine may take: those whose draws the converter makes together (R190). -/
def Core.engineWindow (k : Core) : Nat :=
  match k.tileq with
  | [] => 0
  | h :: _ => match k.convs.find? (fun v => v.cc == h.cc) with
    | some v => closePrefix v.desc.span k.tileq 16 1
    | none => 1

/-- The entry that the engine takes next or works on, with its place and its conversion. -/
def Core.engineEntry (k : Core) : Option (Nat × TileEntry × Conversion) :=
  match k.tileq.findIdx? (fun e => !e.vecLeft) with
  | none => none
  | some i => if i ≥ k.engineWindow then none else match k.tileq[i]? with
    | none => none
    | some e => (k.convs.find? (fun v => v.cc == e.cc)).map (fun v => (i, e, v))

end Sys2Proof.Machine
end

