-- ==== Sys2Proof/Machine/Pilot.lean ====
section
/-! DEFINITION. How a pilot command runs (R205 to R224): its fields, what it may not hold, its issue, its accesses, its completion,
its refusal or stop, and taking an exception with the return from it. -/
namespace Sys2Proof

/-! ### Fields of a command (R208, R209) -/

def Cmd.vary (c : Cmd) : Bool := c.w0.getLsbD 8
def Cmd.irq (c : Cmd) : Bool := c.w0.getLsbD 9
def Cmd.sig (c : Cmd) : Bool := c.w0.getLsbD 10
def Cmd.bar (c : Cmd) : Bool := c.w0.getLsbD 11
def Cmd.sigObj (c : Cmd) : Nat := bits c.w0.toNat 29 16
def Cmd.sigAdd (c : Cmd) : Nat := bits c.w0.toNat 47 32 + 1
def Cmd.tag (c : Cmd) : Nat := bits c.w0.toNat 63 48
/-- W3[k]: the register index in bits [6k + 5:6k] of W3. -/
def Cmd.idx (c : Cmd) (k : Nat) : Nat := bits c.w3.toNat (6 * k + 5) (6 * k)
def Cmd.rd (c : Cmd) : Nat := bits c.w1.toNat 5 0
def Cmd.ra (c : Cmd) : Nat := bits c.w1.toNat 11 6
def Cmd.rb (c : Cmd) : Nat := bits c.w1.toNat 17 12

/-- What R209 and R213 say of an opcode's operands: the bits of W1 and W2 that it names, how many indices of W3, which of them
are read, and its variance (R210): 0 never, 1 option, 2 always. -/
structure OpSpec where
  m1 : Nat
  m2 : Nat
  n3 : Nat
  reads : List Nat
  var : Nat
  deriving DecidableEq, Repr

/-- Bits of an address with LOC, of a virtual address, of a core store offset, and bit 63. -/
def mAddr : Nat := 2 ^ 49 - 1
def mVa : Nat := 2 ^ 48 - 1
def mOff : Nat := 2 ^ 22 - 1
def m63 : Nat := 2 ^ 63
def mImm : Nat := 2 ^ 64 - 1
def mRd : Nat := 0x3F
def mRa : Nat := 0xFC0
def mRb : Nat := 0x3F000

/-- The operand words of every opcode (R209, R212, R213, R354, R365, R373, R384, R390, R396). -/
def opSpec : Nat → Option OpSpec
  | 0x00 => some ⟨0, 0, 0, [], 0⟩
  | 0x01 => some ⟨mAddr, mAddr, 2, [0, 1], 0⟩
  | 0x02 => some ⟨mOff, mOff + 0xFF * 2 ^ 32, 1, [0], 0⟩
  | 0x03 => some ⟨mAddr, mOff, 3, [0, 1, 2], 0⟩
  | 0x04 => some ⟨mAddr, mAddr, 4, [0, 1, 2, 3], 2⟩
  | 0x05 => some ⟨2 ^ 51 - 1, 0, 2, [1], 2⟩
  | 0x06 => some ⟨mAddr, 0, 1, [0], 0⟩
  | 0x07 => some ⟨mAddr, 0, 3, [0, 1, 2], 0⟩
  | 0x08 => some ⟨mAddr, 0x1F, 0, [], 0⟩
  | 0x10 => some ⟨mAddr, 0, 2, [0, 1], 0⟩
  | 0x11 => some ⟨mAddr, 0, 5, [0, 1, 2, 3, 4], 0⟩
  | 0x12 => some ⟨mAddr, 0, 5, [0, 1, 2, 3, 4], 0⟩
  | 0x18 => some ⟨mAddr, mAddr, 1, [0], 0⟩
  | 0x19 => some ⟨mAddr, mAddr, 1, [0], 0⟩
  | 0x1A => some ⟨mAddr, mOff + m63, 3, [0, 1, 2], 0⟩
  | 0x1B => some ⟨mAddr, 0, 0, [], 0⟩
  | 0x1C => some ⟨mAddr + m63, mAddr + m63, 4, [0, 1, 2], 0⟩
  | 0x1D => some ⟨mAddr + m63, mAddr, 4, [0, 1, 2, 3], 0⟩
  | 0x1E => some ⟨mAddr, mAddr, 2, [0, 1], 0⟩
  | 0x20 => some ⟨mAddr, 0xFFF, 0, [], 0⟩
  | 0x21 => some ⟨1, 0, 0, [], 0⟩
  | 0x22 => some ⟨0, 0, 1, [0], 0⟩
  | 0x23 => some ⟨mAddr, mOff, 3, [0, 1, 2], 0⟩
  | 0x28 => some ⟨0, 0, 2, [0, 1], 0⟩
  | 0x29 => some ⟨0, 0, 2, [0, 1], 0⟩
  | 0x2A => some ⟨0, 0, 2, [0, 1], 0⟩
  | 0x2B => some ⟨mOff, 2 ^ 25 - 1, 0, [], 0⟩
  | 0x2C => some ⟨mOff + m63, 2 ^ 23 - 1, 1, [], 1⟩
  | 0x2D => some ⟨1, 0, 0, [], 0⟩
  | 0x2E => some ⟨0, 0, 1, [0], 0⟩
  | 0x30 => some ⟨mVa, 0, 1, [0], 1⟩
  | 0x31 => some ⟨mAddr, mAddr, 3, [0, 1, 2], 1⟩
  | 0x32 => some ⟨mAddr, 0, 1, [0], 2⟩
  | 0x33 => some ⟨mAddr, 0, 1, [0], 2⟩
  | 0x34 => some ⟨mAddr, 0, 2, [0, 1], 0⟩
  | 0x35 => some ⟨0, 0, 2, [0], 0⟩
  | 0x36 => some ⟨mAddr, mOff + m63, 3, [0, 1, 2], 0⟩
  | 0x37 => some ⟨mAddr, mImm, 1, [0], 0⟩
  | 0x3E => some ⟨0, 0, 1, [0], 0⟩
  | 0x3F => some ⟨0, 0, 0, [], 0⟩
  | 0x40 => some ⟨mRd, mImm, 0, [], 0⟩
  | 0x41 => some ⟨mRd + mRa, 0, 0, [], 0⟩
  | 0x45 => some ⟨mRd + mRa, mImm, 0, [], 0⟩
  | 0x4D => some ⟨mRa + mRb, mImm, 0, [], 0⟩
  | 0x4E => some ⟨mRa + mRb, mImm, 0, [], 0⟩
  | 0x4F => some ⟨mRa + mRb, mImm, 0, [], 0⟩
  | 0x50 => some ⟨mRa + mRb, mImm, 0, [], 0⟩
  | 0x51 => some ⟨0, mImm, 0, [], 0⟩
  | 0x52 => some ⟨0, mImm, 0, [], 0⟩
  | 0x53 => some ⟨0, 0, 0, [], 0⟩
  | 0x54 => some ⟨mRa, mImm, 0, [], 0⟩
  | 0x55 => some ⟨mRd + mRa + 2 ^ 18, mImm, 0, [], 0⟩
  | 0x56 => some ⟨mRa + mRb + 2 ^ 18, mImm, 0, [], 0⟩
  | 0x57 => some ⟨mRd, mImm, 0, [], 0⟩
  | op => if 0x42 ≤ op ∧ op ≤ 0x4C then some ⟨mRd + mRa + mRb, 0, 0, [], 0⟩ else none

/-- No field of R208 and R209 that must be 0 is set. -/
def Cmd.clean (c : Cmd) : Bool :=
  match opSpec c.op with
  | none => false
  | some o =>
    bits c.w0.toNat 15 12 == 0 && bits c.w0.toNat 31 30 == 0 &&
    c.w1.toNat &&& o.m1 == c.w1.toNat && c.w2.toNat &&& o.m2 == c.w2.toNat && decide (c.w3.toNat < 2 ^ (6 * o.n3))

/-- The scalar registers that a command reads: through W3, or by ra and rb of a scalar command. -/
def Cmd.readsOf (c : Cmd) : List Nat :=
  match opSpec c.op with
  | none => []
  | some o =>
    if c.op < 0x40 then o.reads.map c.idx
    else (if o.m1 &&& mRa != 0 then [c.ra] else []) ++ (if o.m1 &&& mRb != 0 then [c.rb] else []) ++
      (if c.op == 0x52 || c.op == 0x53 then [63] else [])

end Sys2Proof

namespace Sys2Proof.Machine

/-! ### The run of a command -/

/-- Why a command's run ends early: a status of R219 with the faulting address, or a wait, which leaves everything as it was so that
the command is presented again (log entry 11). -/
inductive Stop where
  | status (code addr : Nat)
  | wait
  deriving DecidableEq, Repr

/-- What a run carries: the state, the command's flags (R220), and for a replayed command the recorded values of its W3
registers (R397). -/
structure Run where
  s : State
  flags : Nat
  vals : Option (List Nat)

/-- A computation of a command: it changes the state, or ends early. -/
abbrev CM := ExceptT Stop (StateM Run)

def getS : CM State := do return (← get).s
def setS (s : State) : CM Unit := modify (fun r => { r with s := s })
def modS (f : State → State) : CM Unit := modify (fun r => { r with s := f r.s })
def refuse {α : Type} (code : Nat) : CM α := throw (.status code 0)
def stopAt {α : Type} (code addr : Nat) : CM α := throw (.status code addr)
def pause {α : Type} : CM α := throw .wait
/-- The refusal `code` unless the condition holds. -/
def need (ok : Bool) (code : Nat) : CM Unit := if ok then pure () else refuse code
/-- Set bits of the command flags (R220). -/
def flag (f : Nat) : CM Unit := modify (fun r => { r with flags := r.flags ||| f })
def flagIf (b : Bool) (f : Nat) : CM Unit := if b then flag f else pure ()

/-- The value of W3[k] (R213): the register's, or the recorded one in a replay. -/
def w3 (n : Nat) (c : Cmd) (k : Nat) : CM Nat := do
  let r ← get
  match r.vals with
  | some l => return l.getD k 0
  | none => return ((r.s.core n).xval (c.idx k)).toNat

/-! ### Accesses -/

/-- The partition that holds core n; a core that none holds has no page table. -/
def holderOf (n : Nat) : CM Nat := do
  match (← getS).holder n with
  | some p => return p
  | none => stopAt 0x43 0

/-- The master of a core's accesses, for the counters. -/
def State.whoCore (s : State) (n va : Nat) : Who := ⟨1, n, s.holder n, some va⟩

/-- Read within one line of the virtual space of core n's partition. -/
def rdPiece (n va len : Nat) : CM (List Byte × Bool) := do
  let p ← holderOf n
  let s ← getS
  match (s.part p).xlate va false with
  | .fault => stopAt 0x43 va
  | .away _ => pause
  | .here pa _ =>
    let w := s.whoCore n va
    let s := (((s.touchPage p va).memDo w (fun m => m.settle pa len)).hubEvent 0x42 1 w).coreEvent n 0x0B 1 (some va)
    setS s
    return s.mem.look pa len

/-- Write within one line: a poisoned store to an H page writes the line and stops (R409). -/
def wrPiece (n va : Nat) (data : List Byte) (poison : Bool) : CM Unit := do
  let p ← holderOf n
  let s ← getS
  match (s.part p).xlate va true with
  | .fault => stopAt 0x43 va
  | .away _ => pause
  | .here pa h =>
    let w := s.whoCore n va
    setS (((s.touchPage p va).memDo w (fun m => m.write s.grade pa data poison)).coreEvent n 0x0B 1 (some va))
    flagIf poison 0x200
    if poison && h then stopAt 0x44 va else pure ()

/-- Join pieces read in order. -/
def joinReads (l : List (List Byte × Bool)) : List Byte × Bool := (l.flatMap (·.1), l.any (·.2))

/-- Read a range of device memory by virtual address. -/
def rdVa (n va len : Nat) : CM (List Byte × Bool) := do
  return joinReads (← (linePieces va len).mapM (fun x => rdPiece n x.1 x.2))

/-- Write a range of device memory by virtual address. -/
def wrVa (n va : Nat) (data : List Byte) (poison : Bool) : CM Unit :=
  (linePieces va data.length).forM (fun x => wrPiece n x.1 ((data.drop (x.1 - va)).take x.2) poison)

/-- Read core store of core n (R217: nothing at 0x3F_FC00 or beyond). -/
def rdCs (n off len : Nat) : CM (List Byte × Bool) := do
  need (decide (off + len ≤ shadowBase)) 0x11
  return ((← getS).core n).csRead off len

def wrCs (n off : Nat) (data : List Byte) (poison : Bool) : CM Unit := do
  need (decide (off + data.length ≤ shadowBase)) 0x11
  modS (fun s => s.onCore n (fun k => k.csWrite off data poison))
  flagIf poison 0x200

/-- Read at an address whose LOC chooses core store or the partition's virtual space (R213, R217). -/
def rdAt (n : Nat) (loc : Bool) (a len : Nat) : CM (List Byte × Bool) := do
  if loc then rdCs n a len else rdVa n a len

def wrAt (n : Nat) (loc : Bool) (a : Nat) (data : List Byte) (poison : Bool) : CM Unit := do
  if loc then wrCs n a data poison else wrVa n a data poison

/-- Address and LOC of an operand word (R213). -/
def locOf (w : DWord) : Bool := w.getLsbD 48
def addrOf (w : DWord) : Nat := bits w.toNat 47 0

/-- A memory-side add within the virtual space of core n's partition (R254, R262). -/
def addVa (n va : Nat) (ty : AddTy) (amount : Nat) (poison : Bool) : CM (Nat × Bool) := do
  let p ← holderOf n
  let s ← getS
  match (s.part p).xlate va true with
  | .fault => stopAt 0x43 va
  | .away _ => pause
  | .here pa h =>
    let w := s.whoCore n va
    let r := s.mem.addAt ty pa amount poison
    setS ((((s.touchPage p va).memDo w (fun _ => r.1)).hubEvent 0x46 1 w).coreEvent n 0x0B 1 (some va))
    flagIf r.2.2 0x200
    if r.2.2 && h then stopAt 0x44 va else return r.2

/-- A 64-bit integer add at an address of either space: the cursor and the counts of R123 and R127 may lie in core store. -/
def addAt64 (n : Nat) (loc : Bool) (a amount : Nat) : CM Nat := do
  if loc then
    let r ← rdCs n a 8
    wrCs n a (leBytes (leNat r.1 + amount) 8) r.2
    return leNat r.1
  else return (← addVa n a .int64 amount false).1

/-! ### Synchronisation objects (R229 to R233) -/

def State.objHeld (s : State) (p k : Nat) : Bool :=
  decide (k < 16384) && s.fld .helmSyncCtl 0 k 0 3 3 == 1 && s.fld .helmSyncCtl 0 k 0 6 4 == p

/-- An object's counter becomes v: waits on it are tested (R231), the signal breaks the window of R234 on the cores of its partition, and the
threshold interrupt of R233 follows. -/
def State.syncPut (s : State) (k v : Nat) : State :=
  let old := (s.rd .helmSyncCount 0 k).toNat
  let th := (s.rd .helmSyncIrq 0 k).toNat
  let s := s.wr .helmSyncCount 0 k 0 (BitVec.ofNat 32 v)
  let p := s.fld .helmSyncCtl 0 k 0 6 4
  let s := { s with cores := s.cores.map (fun x =>
    let y := if s.holder x.1 == some p then { x.2 with stirred := true } else x.2
    (x.1, match y.pilot with
      | .waitSync o t _ => if o == k && decide (t ≤ v) then { y with pilot := .waitSync o t true } else y
      | _ => y)) }
  if s.fld .helmSyncCtl 0 k 0 0 0 == 1 && decide (old < th) && decide (th ≤ v) then
    (s.orReg .helmSyncCtl 0 k 0 2).raise (s.fld .helmSyncCtl 0 k 0 6 4) 3 k 0 v
  else s

/-- One add event (R230, R231): saturating, counted as issued and applied for the census. -/
def State.syncAdd (s : State) (k amount : Nat) : State :=
  let sum := (s.rd .helmSyncCount 0 k).toNat + amount
  let s := if sum > 0xFFFFFFFF then s.orReg .helmSyncCtl 0 k 0 4 else s
  let s := s.syncPut k (min sum 0xFFFFFFFF)
  { s with
    addIssued := tabSet s.addIssued k 0 (tabGet s.addIssued k 0 + 1)
    addApplied := tabSet s.addApplied k 0 (tabGet s.addApplied k 0 + 1) }

def State.syncSet (s : State) (k v : Nat) : State := s.syncPut k (v % 2 ^ 32)

/-! ### The order of a core's commands (R206, R51, R151; log entry 17) -/

/-- The fields of a descriptor's 128 bytes (R217). A format without precision fields carries none. -/
def parseDesc (addr : Nat) (b : List Byte) (f : Format) : Desc :=
  let w := leAt b 28 4
  let narrow := f.isSlab
  let pf (x : Nat) : Nat := if narrow then x else 0
  let ad (o : Nat) : Nat := pf (leAt b o 8 % 2 ^ 48)
  { addr := addr, base := leAt b 0 8 % 2 ^ 48, rows := leAt b 8 4, cols := leAt b 12 4, pitch := leAt b 16 8,
    tscale := w32 (leAt b 24 4), fmt := f, codebook := bits w 7 4, fbBook := pf (bits w 9 8), prism := pf (prismSize (bits w 12 10)),
    glint := pf (bits w 18 13), stoch := narrow && bit w 19, thr := pf (bits w 21 20), trans := narrow && bit w 22,
    loc := bit w 23, seed := pf (leAt b 32 4), poolCap := pf (leAt b 36 4), classMap := ad 40, glintBase := ad 48, fbDir := ad 56,
    fbPool := ad 64, stats := ad 72, promoted := ad 80, residual := ad 88 }

/-- Slabs per row, and the address of a slab of a tensor (R58). -/
def Desc.slabs (d : Desc) : Nat := slabsPerRow d.cols
def Desc.slabAddr (d : Desc) (no : Nat) : Nat := d.base + no * d.fmt.slabBytes
/-- The address of an element of a plain tensor (R41). -/
def Desc.elemAddr (d : Desc) (r c : Nat) : Nat := d.base + r * d.pitch + c * d.fmt.bytes
/-- Bytes that a tensor's rows occupy from its base on. -/
def Desc.extent (d : Desc) : Nat :=
  if d.fmt.isSlab then d.rows * d.slabs * d.fmt.slabBytes
  else if d.rows = 0 then 0 else (d.rows - 1) * d.pitch + d.cols * d.fmt.bytes

/-- A pointer of the record: offset and whether BF16, where present. -/
def vecPtr (w : Nat) : Option (Nat × Bool) := if bit w 31 then some (bits w 21 0, bit w 30) else none

/-- What a command reads and writes in core store, as offset and length, and the accumulator tiles that it touches, as array and tile. -/
structure Foot where
  reads : List (Nat × Nat)
  writes : List (Nat × Nat)
  tiles : List (Nat × Nat)

/-- Whether two ranges share a granule of 256 bytes (R206). -/
def sharesGranule (x y : Nat × Nat) : Bool :=
  decide (0 < x.2) && decide (0 < y.2) && decide (x.1 / 256 ≤ (y.1 + y.2 - 1) / 256) && decide (y.1 / 256 ≤ (x.1 + x.2 - 1) / 256)

/-- Whether a later command must wait for an earlier one: it reads or writes a granule that the earlier one writes, writes one that it still
reads, or touches a tile that it has work on (R206, R151). -/
def Foot.holds (early late : Foot) : Bool :=
  let meets (l m : List (Nat × Nat)) : Bool := l.any (fun x => m.any (sharesGranule x))
  meets early.writes (late.reads ++ late.writes) || meets early.reads late.writes || early.tiles.any late.tiles.contains

/-- The ranges that a tensor may occupy: its elements and its side arrays (R110, R217). -/
def Desc.ranges (d : Desc) : List (Nat × Nat) :=
  let k := d.rows * d.slabs
  (d.base, d.extent) :: [(d.classMap, 4 * k), (d.glintBase, 16 * k), (d.fbDir, 64 * ((d.rows + 31) / 32) * d.slabs),
    (d.fbPool, 64 + 2048 * d.poolCap), (d.stats, 32), (d.promoted, 544 * k)].filter (fun x => x.1 != 0)

/-- Those of a tensor in core store, and of one in device memory. -/
def Desc.spans (d : Desc) : List (Nat × Nat) := if d.loc then d.ranges else []
def Desc.device (d : Desc) : List (Nat × Nat) := if d.loc then [] else d.ranges

/-- The vectors and the second tile of a vector operand record, which its command reads until its last group (R160, R215). -/
def VecOperands.spans (v : VecOperands) : List (Nat × Nat) :=
  let get (p : Option (Nat × Bool)) (len : Nat) : List (Nat × Nat) := match p with
    | some (o, bf) => [(o, if bf then len / 2 else len)]
    | none => []
  get v.tile2 4096 ++ get v.colVec 128 ++ get v.rowVec 128

/-- Bytes at an address of core n's command as they stand, for finding what it uses; a byte without a page reads 0. -/
def State.sight (s : State) (n : Nat) (loc : Bool) (a len : Nat) : List Byte :=
  if loc then ((s.core n).csRead a len).1 else match s.holder n with
  | none => []
  | some p => (linePieces a len).flatMap (fun x => match (s.part p).xlate x.1 false with
    | .here pa _ => ((s.mem.settle pa x.2).look pa x.2).1
    | _ => List.replicate x.2 0#8)

/-- The descriptor at an address as it stands. -/
def State.sightDesc (s : State) (n : Nat) (loc : Bool) (a : Nat) : Option Desc :=
  let b := s.sight n loc a 128
  (Format.ofCode (leAt b 28 4 % 16)).map (parseDesc a b)

/-- A range at an address that may lie in core store. -/
def spanAt (loc : Bool) (a len : Nat) : List (Nat × Nat) := if loc then [(a, len)] else []

/-- The ranges of the tensor whose descriptor stands at an address, with those of its residual (R133). -/
def State.tensorSpans (s : State) (n : Nat) (loc : Bool) (a : Nat) : List (Nat × Nat) :=
  match s.sightDesc n loc a with
  | none => []
  | some d => d.spans ++ (if d.residual == 0 then [] else spanAt d.loc d.residual 128 ++ match s.sightDesc n d.loc d.residual with
    | some r => r.spans
    | none => [])

/-- The vector operand record at an offset and what it names. -/
def State.recordSpans (s : State) (n off len : Nat) : List (Nat × Nat) :=
  let b := s.sight n true off 32
  (off, 32) :: (VecOperands.spans ⟨0, vecPtr (leAt b 0 4), none, none, []⟩ ++ [4, 8].flatMap (fun o => match vecPtr (leAt b o 4) with
    | some (x, bf) => [(x, if bf then 2 * len else 4 * len)]
    | none => []))

/-- The tiles of accumulator rows [first, first + count) of every array. -/
def rowTiles (first count : Nat) : List (Nat × Nat) :=
  (List.range 4).flatMap (fun a => (List.range 16).filterMap (fun t =>
    if decide (32 * t < first + count) && decide (first < 32 * t + 32) then some (a, t) else none))

/-- What a command of core n with values v of its W3 registers uses (R206, R213). -/
def State.foot (s : State) (n : Nat) (c : Cmd) (v : Nat → Nat) : Foot :=
  let a1 := addrOf c.w1
  let a2 := addrOf c.w2
  let l1 := locOf c.w1
  let l2 := locOf c.w2
  let o1 := bits c.w1.toNat 21 0
  let o2 := bits c.w2.toNat 21 0
  let d1 := spanAt l1 a1 128
  let d2 := spanAt l2 a2 128
  let t1 := s.tensorSpans n l1 a1
  let t2 := s.tensorSpans n l2 a2
  let acc := c.w1.getLsbD 63
  let accTiles : List (Nat × Nat) := if acc then (List.range (bits (v 0) 13 9)).map (fun i => (bits (v 0) 4 3, bits (v 0) 8 5 + i)) else []
  let src : List (Nat × Nat) := if acc then [] else d1 ++ t1
  let tile : List (Nat × Nat) := [(bits (v 0) 1 0, bits (v 0) 5 2)]
  let x (k : Nat) : Nat := ((s.core n).xval k).toNat
  match c.op with
  | 0x01 => ⟨d1 ++ t1 ++ d2, t2, []⟩
  | 0x02 => ⟨[(o1, v 0)], if bits c.w2.toNat 39 32 == n then [(o2, v 0)] else [], []⟩
  | 0x03 => ⟨d1 ++ [(v 0, 4 * v 1)], [(o2, v 1 * v 2)], []⟩
  | 0x04 => ⟨d1 ++ d2 ++ t2 ++ [(v 0, 4 * v 1)], [], []⟩
  | 0x06 => ⟨d1, t1, []⟩
  | 0x07 => ⟨d1, t1, []⟩
  | 0x08 => ⟨spanAt l1 a1 512, [], []⟩
  | 0x10 => ⟨d1 ++ t1, [], []⟩
  | 0x11 => ⟨d1 ++ t1, [], rowTiles (v 2) (v 1)⟩
  | 0x12 => ⟨d1 ++ t1, [], rowTiles (v 2) (v 1)⟩
  | 0x18 => ⟨[], spanAt l1 a1 4096 ++ spanAt l2 a2 4, tile⟩
  | 0x19 => ⟨spanAt l1 a1 4096 ++ spanAt l2 a2 4, [], tile⟩
  | 0x1B => ⟨[], spanAt l1 a1 32, []⟩
  | 0x1C => ⟨src, if c.w2.getLsbD 63 then [] else spanAt l2 a2 (8 * v 2), accTiles⟩
  | 0x1D => ⟨src ++ d2 ++ s.recordSpans n (v 3) (v 1), t2, accTiles⟩
  | 0x1E => ⟨d1 ++ t1 ++ d2 ++ s.recordSpans n (v 0) 32, t2, []⟩
  | 0x20 => ⟨spanAt l1 a1 (8 * bits c.w2.toNat 11 6), [], []⟩
  | 0x23 => ⟨d1 ++ t1, match s.sightDesc n l1 a1 with
    | some d => [(o2, 16 * d.rows)]
    | none => [], []⟩
  | 0x2B => ⟨[(o1, bits c.w2.toNat 24 16)], [], []⟩
  | 0x2C => ⟨[], if acc then [] else [(o1, 256)], []⟩
  | 0x31 => ⟨spanAt l1 a1 (v 1), spanAt l2 a2 (v 1), []⟩
  | 0x34 =>
    let at_ (i : Nat) : Nat := leAt (s.sight n l1 (a1 + 8 * i) 8) 0 6
    ⟨d1 ++ (List.range 8).flatMap (fun i => spanAt l1 (at_ i) 128 ++ s.tensorSpans n l1 (at_ i)),
      [0, 3, 5, 6, 7].flatMap (fun i => s.tensorSpans n l1 (at_ i)), []⟩
  | 0x52 => ⟨[], [(x 63 - 8, 8)], []⟩
  | 0x53 => ⟨[(x 63, 8)], [], []⟩
  | 0x55 => ⟨if c.w1.getLsbD 18 then [((x c.ra + c.w2.toNat) % 2 ^ 64, 8)] else [], [], []⟩
  | 0x56 => ⟨[], if c.w1.getLsbD 18 then [((x c.ra + c.w2.toNat) % 2 ^ 64, 8)] else [], []⟩
  | _ =>
    if c.op == 0x1A || c.op == 0x36 then
      ⟨d1 ++ (if c.w2.getLsbD 63 then s.recordSpans n o2 32 else []), t1,
        (List.range (bits (v 0) 12 8)).flatMap (fun i => ((List.range 4).filter (bit (v 0))).map (fun a => (a, bits (v 0) 7 4 + i)))⟩
    else if c.op == 0x32 || c.op == 0x33 then
      let b := s.sight n l1 a1 64
      ⟨spanAt l1 a1 64 ++ s.tensorSpans n false (leAt b 0 6), if c.op == 0x33 then s.tensorSpans n false (leAt b 32 6) else [], []⟩
    else ⟨[], [], []⟩

/-- What a conversion in flight still uses: its destination and residual, its vectors, and the tiles that have not entered the queue. -/
def Conversion.foot (v : Conversion) : Foot :=
  ⟨match v.vec with
    | some o => o.spans
    | none => [],
   v.desc.spans ++ (match v.resid with
    | some r => r.spans
    | none => []), v.feed.map (fun j => (j.a, j.t))⟩

/-- What a command in flight still uses: all that a CPASS, DISPATCH or COMBINE names, and the destination of a BEACON, which has read its
source. -/
def State.flightFoot (s : State) (n : Nat) (f : Flight) : Foot :=
  let x := s.foot n f.cmd (fun k => f.vals.getD k 0)
  if f.cmd.op == 0x31 then { x with reads := [] } else x

/-- Whether a unit must first start or end an earlier command (R206): the arrays a CPASS that waits; the converter and the lanes the
conversions in flight, which use both; the vector engine those whose tiles it has still to take. -/
def Core.unitBusy (k : Core) (op : Nat) : Bool :=
  ([0x10, 0x11, 0x12].contains op && k.flights.any (fun f => f.cmd.op == 0x12)) ||
  ([0x07, 0x08, 0x1B, 0x1D, 0x1E, 0x22, 0x34, 0x37].contains op && !k.convs.isEmpty) ||
  ([0x1C, 0x21].contains op && k.convs.any (fun v => v.vec.isSome && (!v.feed.isEmpty || k.tileq.any (fun e => e.cc == v.cc && !e.vecLeft))))

/-- Whether a command with values v of its W3 registers may start beside what is in flight. -/
def State.inOrder (s : State) (n : Nat) (c : Cmd) (v : Nat → Nat) : Bool :=
  let k := s.core n
  k.convs.isEmpty && k.flights.isEmpty ||
  (!k.unitBusy c.op &&
   let f := s.foot n c v
   !k.convs.any (fun x => x.foot.holds f) && !k.flights.any (fun x => (s.flightFoot n x).holds f))

/-! ### Issue, completion and failure -/

/-- Commands in flight (R205). -/
def Core.inFlight (k : Core) : Nat := k.convs.length + k.sends.length + k.flights.length

/-- Whether the pilot may issue its next command now (R205, R222, R225, R235, R236). -/
def State.mayIssue (s : State) (n : Nat) (c : Cmd) : Bool :=
  let k := s.core n
  k.pilot == .running && k.replay.isNone && !k.stopIssue && !k.frozen && !k.fatal && k.failures.isEmpty &&
  decide (k.inFlight < 32) && s.inOrder n c (fun i => (k.xval (c.idx i)).toNat) && !s.clockHalt && (!c.bar || k.inFlight == 0) &&
  !(c.irq && (match s.holder n with
    | some p => s.evqFull p
    | none => false))

/-- The status that the fetch of a command line meets (R208, R219, R409): none when it may run; `wait` while its page is away. -/
def State.fetchStop (s : State) (n : Nat) : Option Stop :=
  let a := (s.core n).cp
  if a % 32 != 0 then some (.status 0x05 a) else
  match s.holder n with
  | none => some (.status 0x43 a)
  | some p => match (s.part p).xlate a false with
    | .fault => some (.status 0x43 a)
    | .away _ => some .wait
    | .here pa _ => if s.mem.poison.contains (pa / 64) then some (.status 0x44 a) else none

/-- Issue: CC counts and CP moves to the next command (R203); the core has done something in the window of R234. -/
def Core.issued (k : Core) : Core := { k with cc := (k.cc + 1) % 2 ^ 64, cp := (k.cp + 32) % 2 ^ 48, stirred := true }

/-- Completion (R207, R208, R240): the flags, then the signal, then the interrupt. -/
def State.complete (s : State) (n : Nat) (c : Cmd) (cc flags : Nat) : State :=
  let s := s.orReg .coreFlags n 0 0 flags
  let s := if c.sig then s.syncAdd c.sigObj c.sigAdd else s
  match s.holder n with
  | some p => if c.irq then s.raise p 0 n c.tag cc else s
  | none => s

/-- A refused or stopped command waits for its exception (R222), or for the job abort of R410. A failed entry of a replay stops the replay:
the failure is the REPLAY's, with the entry's index in place of the address (R397). `issued` is false where the command never came to issue. -/
def State.failed (s : State) (n : Nat) (c : Cmd) (cp cc code flags addr : Nat) (issued : Bool := true) : State :=
  (s.orReg .coreFlags n 0 0 flags).onCore n (fun k =>
    match k.replay with
    | some r => { k with
        replay := none
        failures := k.failures ++ [⟨r.cmd, r.cp, (r.cp + 32) % 2 ^ 48, r.cc, code, r.flags ||| flags, cc - r.cc - 1, issued⟩] }
    | none => { k with failures := k.failures ++ [⟨c, cp, (cp + 32) % 2 ^ 48, cc, code, flags, addr, issued⟩] })

/-- The commands that a recording does not hold (R396). -/
def notRecorded (op : Nat) : Bool :=
  decide (op ≥ 0x40) || [0x28, 0x29, 0x2A, 0x2B, 0x2C, 0x2D, 0x2E, 0x30, 0x31, 0x32, 0x33, 0x35, 0x37, 0x3E, 0x3F].contains op

def cmdBytes (c : Cmd) : List Byte := leBytes c.w0.toNat 8 ++ leBytes c.w1.toNat 8 ++ leBytes c.w2.toNat 8 ++ leBytes c.w3.toNat 8

/-- Append the command to the recording in progress (R396). -/
def record (n : Nat) (c : Cmd) : CM Unit := do
  let s ← getS
  let k := s.core n
  match k.recording with
  | none => pure ()
  | some r =>
    if notRecorded c.op || k.occupied then pure ()
    else
      if r.count ≥ r.cap then
        let w ← rdAt n r.loc (r.buf + 4112) 8
        wrAt n r.loc (r.buf + 4112) (leBytes (leNat w.1 ||| 2 ^ 63) 8) false
        modS (fun s => s.onCore n (fun k => { k with recording := some { r with beyond := true } }))
      else
        let n3 := match opSpec c.op with
          | some o => o.n3
          | none => 0
        let vals := (List.range n3).flatMap (fun i => leBytes (k.xval (c.idx i)).toNat 8)
        let e := cmdBytes c ++ vals
        wrAt n r.loc (r.buf + 4608 + 128 * r.count) (e ++ List.replicate (128 - e.length) 0#8) false
        modS (fun s => s.onCore n (fun k => { k with recording := some { r with count := r.count + 1 } }))

/-- The checks that every command passes (R208 to R211, R230): opcode and unused fields, the signal's object, variance. -/
def checkCmd (n : Nat) (c : Cmd) : CM Unit := do
  need c.clean 0x01
  let s ← getS
  let p ← holderOf n
  need (!c.sig || s.objHeld p c.sigObj) 0x0E
  match opSpec c.op with
  | some o => do
    need (!(c.op == 0x05 && c.vary && (s.core n).reckon)) 0x0F
    need (o.var != 2 || c.vary) 0x10
  | none => pure ()

/-- A tensor or control command of a core with TAG_EN is tagged where the interval has run out, and counted otherwise (R500). -/
def State.tagIssue (s : State) (n : Nat) (c : Cmd) (cc : Nat) : State :=
  if c.op ≥ 0x40 || s.fld .perfCoreCtl 0 n 0 29 29 == 0 then s
  else if (s.core n).tagArmed then ({ s with tagged := s.tagged ++ [(n, cc)] }).onCore n (fun k => { k with tagArmed := false })
  else s.onCore n (fun k => { k with tagCount := k.tagCount - 1 })

/-- Issue and run a pilot command (R205 to R222). The body answers whether the command has completed or stays in flight. A tagged
register or a poisoned line stops the command before anything is issued (R409). -/
def pilotRun (n : Nat) (c : Cmd) (body : CM Bool) (s : State) : State :=
  let k := s.core n
  if !s.mayIssue n c then s
  else match s.fetchStop n with
  | some .wait => s
  | some (.status code a) => s.failed n c k.cp k.cc code 0 a false
  | none =>
    if c.clean && (c.readsOf.any k.tags.contains) then s.failed n c k.cp k.cc 0x44 0 0 false
    else
      let cc := (k.cc + 1) % 2 ^ 64
      let s1 := ((s.onCore n Core.issued).coreEvent n 0x02 1 none).tagIssue n c cc
      match (record n c).run.run ⟨s1, 0, none⟩ with
      | (.error .wait, _) => s
      | (.error (.status code a), r) => r.s.failed n c k.cp cc code r.flags a
      | (.ok _, r1) => match (do checkCmd n c; body : CM Bool).run.run r1 with
        | (.ok true, r) => r.s.complete n c cc r.flags
        | (.ok false, r) => r.s
        | (.error .wait, _) => s
        | (.error (.status code a), r) =>
          (if code < 0x40 || code == 0x50 then r1.s else r.s).failed n c k.cp cc code r.flags a

/-! ### Taking an exception and returning from it (R221 to R225) -/

/-- The bytes of the shadow frame for a failure (R221). -/
def frameBytes (k : Core) (f : Failure) (pend : Nat) : List Byte :=
  (List.range 64).flatMap (fun i => leBytes (k.xval i).toNat 8) ++
  leBytes f.cp 8 ++ leBytes f.next 8 ++ leBytes f.cc 8 ++
  leBytes (f.status + f.flags * 2 ^ 8 + pend * 2 ^ 24) 8 ++ cmdBytes f.cmd ++ leBytes f.faddr 8 ++ leBytes 1 8

/-- Steps 3 to 5 of R222 for the oldest failure, the others queued. -/
def State.enterException (s : State) (n : Nat) (f : Failure) (rest : List Failure) : State :=
  let k := s.core n
  let rest := rest.take 32
  let vec := (s.rd64 .coreExcVecLo .coreExcVecHi n)
  let s := s.setCore n { (k.csWrite shadowBase (frameBytes k f rest.length) false) with
    occupied := true, cp := vec, failures := [], queued := rest }
  s.wr .coreExc n 0 0 (setBits (s.rd .coreExc n ||| 0x80000000#32) 7 0 f.status)

/-- The halt of R225 for a core whose pilot registers or fetch buffer fail (R406). No command of R219 has failed: `code` goes to FATAL_CODE, and the
record names no command. -/
def State.parityHalt (s : State) (n code : Nat) : State :=
  let s := s.onCore n (fun k => { k with pilot := .halted, fatal := true, failures := [], blocked := none })
  let s := s.setFld .coreExc n 0 0 15 8 code
  let p := s.holder n
  let s := s.log (LogRec.base 0x08 0 (p.getD 0xF) n)
  match p with
  | some p => s.raise p 8 n 0 (s.core n).cc
  | none => s

/-- A failure while the frame is occupied (R225): the core halts. -/
def State.coreFatal (s : State) (n : Nat) (f : Failure) : State :=
  let s := s.onCore n (fun k => { k with pilot := .halted, fatal := true, failures := [], blocked := none })
  let s := s.setFld .coreExc n 0 0 15 8 f.status
  let p := s.holder n
  let s := s.log { LogRec.base 0x08 0 (p.getD 0xF) n with
    opcode := f.cmd.op, status := f.status, tag := f.cmd.tag, cc := f.cc }
  match p with
  | some p => s.raise p 8 n f.cmd.tag f.cc
  | none => s

/-- The failures in list order (R222): by CC, and the command that never came to issue after the last that did. -/
def sortFailures (l : List Failure) : List Failure := sortOn (fun f => 2 * f.cc + b2n (!f.issued)) l

/-- The return of R223: registers and CP from the frame; a queued failure is taken at once. -/
def State.exceptionReturn (s : State) (n : Nat) : State :=
  let k := s.core n
  let slot (off : Nat) : List Byte × Bool := k.csRead (shadowBase + off) 8
  let k := (List.range 63).foldl (fun (a : Core) i =>
    let v := slot (8 * (i + 1))
    a.setX (i + 1) (BitVec.ofNat 64 (leNat v.1)) v.2) k
  let k := { k with cp := leNat (slot 0x208).1 % 2 ^ 48, occupied := false }
  let s := s.setCore n { k.csWrite (shadowBase + 0x248) (leBytes 0 8) false with queued := [] }
  match k.queued with
  | [] => s
  | f :: rest => s.enterException n f rest

/-- The answer of a command: its effect, or the fault for a command that is not well formed. -/
def answer (i : Instr) (t : State) : Host.Outcome State Fault Refusal := if i.wf then .next t else .fault .illFormed

/-- Whether BAR2 writes of a function wait for a page: its BAR0 writes and BAR2 reads come after them (R435, log entry 11). -/
def State.bar2Waits (s : State) (m : Master) : Bool := match m with
  | .vf p => !(s.part p).bar2Held.isEmpty
  | _ => false

/-- The answer to a register write by a master: until its earlier BAR2 writes have been accepted the write changes nothing. -/
def answerBy (m : Master) (i : Instr) (s t : State) : Host.Outcome State Fault Refusal := answer i (if s.bar2Waits m then s else t)

end Sys2Proof.Machine
end

