-- ==== Sys2Proof/Machine/Operands.lean ====
section
/-! DEFINITION. The operand forms of tensor commands: descriptors with their checks (R110, R217, R31, R32, R114, R128), selectors
(R214), vector operand records (R215), and the codebooks as a core holds them (R42, R48). -/
namespace Sys2Proof.Machine

/-- The refusal of lowest code among those whose condition fails (R219 lists them so; log entry 16). -/
def needAll (l : List (Bool × Nat)) : CM Unit :=
  match (l.filter (fun x => !x.1)).map (·.2) with
  | [] => pure ()
  | c :: t => refuse (t.foldl Nat.min c)

def aligned (a k : Nat) : Bool := a % k == 0

/-! ### Tensor descriptors -/

/-- The checks of a descriptor (R31, R32, R58, R110, R114, R217), with their codes. -/
def descChecks (b : List Byte) (f : Format) (d : Desc) : List (Bool × Nat) :=
  let w := leAt b 28 4
  let narrow := f.isSlab
  let t := dy32 d.tscale
  let ok48 (o : Nat) : Bool := decide (leAt b o 8 < 2 ^ 48)
  let scaleOk := if f.unitScale then d.tscale == 0x3F800000#32 else isFin32 d.tscale && decide (0 < t.m)
  [(scaleOk, 0x03),
   (!narrow || aligned d.base 32, 0x05),
   (aligned d.classMap 4 && aligned d.glintBase 16 && aligned d.fbDir 4 && aligned d.fbPool 64 && aligned d.stats 32 &&
     aligned d.promoted 32, 0x05),
   (d.glint == 0 || d.glintBase != 0, 0x07),
   (!narrow || decide (bits w 12 10 ≤ 4), 0x09),
   (ok48 0 && bits w 31 24 == 0 && (f != .q8c || bits w 7 6 == 0) && leAt b 96 32 == 0, 0x12),
   (!narrow || [40, 48, 56, 64, 72, 80, 88].all ok48, 0x12)]

/-- Read and check a descriptor (R217). -/
def readDesc (n : Nat) (loc : Bool) (a : Nat) : CM Desc := do
  need (aligned a 128) 0x05
  let r ← rdAt n loc a 128
  match Format.ofCode (leAt r.1 28 4 % 16) with
  | none => refuse 0x02
  | some f =>
    let d := parseDesc a r.1 f
    needAll (descChecks r.1 f d)
    return d

/-- What a narrow destination must carry (R110). -/
def needDest (d : Desc) : CM Unit :=
  need (!d.fmt.isSlab || (d.classMap != 0 && d.fbDir != 0 && d.fbPool != 0)) 0x07

/-- A tensor whose record has PROMOTE set is read and written as Q8C slabs at its promoted base (R128). -/
def promoteDesc (d : Desc) : Desc := { d with fmt := .q8c, base := d.promoted, codebook := d.fbBook }

/-- PROMOTE, sampled when the command starts (R128). -/
def isPromoted (n : Nat) (d : Desc) : CM Bool := do
  if !d.fmt.isSlab || d.stats == 0 || d.promoted == 0 then return false
  let r ← rdAt n d.loc (d.stats + 16) 4
  return bit (leNat r.1) 1

/-- A descriptor as a command uses it, with whether it is promoted. -/
def useDesc (n : Nat) (loc : Bool) (a : Nat) : CM (Desc × Bool) := do
  let d ← readDesc n loc a
  let p ← isPromoted n d
  return (if p then promoteDesc d else d, p)

/-- The core store range rule for a tensor in core store with its side arrays (R217). -/
def needRange (d : Desc) : CM Unit :=
  let tail (base len : Nat) : Bool := base == 0 || decide (base + len ≤ shadowBase)
  need (!d.loc || (decide (d.base + d.extent ≤ shadowBase) && tail d.classMap (4 * d.rows * d.slabs) &&
    tail d.glintBase (16 * d.rows * d.slabs) && tail d.fbDir (64 * ((d.rows + 31) / 32) * d.slabs))) 0x11

/-! ### Codebooks (R42, R43, R48 to R50) -/

/-- Entry e of Q4C codebook c: an operand A code. -/
def State.cb4 (s : State) (n c e : Nat) : Nat := s.fld .convCb4 n c (e / 4) (8 * (e % 4) + 5) (8 * (e % 4))
/-- Entry e of Q8C codebook c: an operand B code. -/
def State.cb8 (s : State) (n c e : Nat) : Nat := s.fld .convCb8 n c (e / 2) (16 * (e % 2) + 9) (16 * (e % 2))

/-- The entries of the codebook that a format and number name on core n, code by code. -/
def State.entries (s : State) (n : Nat) (f : Format) (c : Nat) : Entries :=
  match f with
  | .q4c => (List.range 16).map (fun e => (e, opA (s.cb4 n c e)))
  | .q4p => (List.range 16).map (fun e => (e, e2m1 e))
  | _ => (List.range 256).map (fun e => (e, opB (s.cb8 n (c % 4) e)))

/-- The value of one code (R52, without scales). -/
def State.codeVal (s : State) (n : Nat) (f : Format) (c e : Nat) : Dy :=
  match f with
  | .q4c => opA (s.cb4 n c e)
  | .q4p => e2m1 e
  | _ => opB (s.cb8 n (c % 4) e)

/-- A block scale byte of a format: its value, or none when invalid (R53, R54). -/
def blockScale (f : Format) (b : Nat) : Option Dy :=
  match f with
  | .q4p => scaleE8 b
  | _ => scaleE4 b

/-! ### Selectors (R214) -/

structure PassMode where
  acc : Bool
  block : Nat
  deriving DecidableEq, Repr

def passMode (v : Nat) : CM PassMode := do
  need (decide (v < 8) && bits v 2 1 != 3) 0x06
  return ⟨bit v 0, bits v 2 1⟩

structure TileSel where
  a : Nat
  t : Nat
  comp : Bool
  deriving DecidableEq, Repr

/-- A tile selector; COMP only where `read` (TREAD). -/
def tileSel (read : Bool) (v : Nat) : CM TileSel := do
  need (decide (v < 512) && bits v 7 6 == 0 && (read || !bit v 8)) 0x06
  return ⟨bits v 1 0, bits v 5 2, bit v 8⟩

structure TileRun where
  arrays : Nat
  first : Nat
  count : Nat
  trans : Bool
  deriving DecidableEq, Repr

def tileRun (v : Nat) : CM TileRun := do
  let r : TileRun := ⟨bits v 3 0, bits v 7 4, bits v 12 8, bit v 16⟩
  need (decide (v < 2 ^ 17) && bits v 15 13 == 0 && decide (1 ≤ r.count) && decide (r.first + r.count ≤ 16) && r.arrays != 0) 0x06
  return r

/-- The reduction and statistics selectors: OP, AXIS (reductions), and the accumulator source. -/
structure RedSel where
  op : Nat
  axis : Bool
  a : Nat
  first : Nat
  count : Nat
  deriving DecidableEq, Repr

def accOk (acc : Bool) (first count : Nat) : Bool := !acc || (decide (1 ≤ count) && decide (first + count ≤ 16))

def redSel (acc : Bool) (v : Nat) : CM RedSel := do
  let r : RedSel := ⟨bits v 1 0, bit v 2, bits v 4 3, bits v 8 5, bits v 13 9⟩
  need (decide (v < 2 ^ 14) && r.op != 3 && accOk acc r.first r.count) 0x06
  return r

def statSel (acc : Bool) (v : Nat) : CM RedSel := do
  let r : RedSel := ⟨bits v 2 0, false, bits v 4 3, bits v 8 5, bits v 13 9⟩
  need (decide (v < 2 ^ 14) && decide (r.op ≤ 5) && accOk acc r.first r.count) 0x06
  return r

/-! ### Vector operand records (R215) -/

/-- Read and check a vector operand record; the latch copies the named pilot registers (R161). -/
def readVec (n off : Nat) : CM VecOperands := do
  need (aligned off 32) 0x05
  let r ← rdCs n off 32
  let b := r.1
  let sregs := (List.range 15).map (fun k => leAt b (13 + k) 1)
  need ([0, 4, 8].all (fun o => bits (leAt b o 4) 29 22 == 0) && decide (leAt b 12 1 < 32) && sregs.all (fun x => decide (x < 64)) &&
    leAt b 28 4 == 0) 0x12
  let k := (← getS).core n
  let v : VecOperands := ⟨leAt b 12 1, vecPtr (leAt b 0 4), vecPtr (leAt b 4 4), vecPtr (leAt b 8 4),
    sregs.map (fun x => w32 (k.xval x).toNat)⟩
  let size (bf : Bool) : Nat := if bf then 2048 else 4096
  need (v.tile2.all (fun x => aligned x.1 128)) 0x05
  need ((match v.tile2 with
    | some (o, bf) => decide (o + size bf ≤ shadowBase)
    | none => true) && [v.colVec, v.rowVec].all (fun x => match x with
    | some (o, _) => decide (o < shadowBase)
    | none => true)) 0x11
  return v

end Sys2Proof.Machine
end

