-- ==== Sys2Proof/Machine/Almanac.lean ====
section
/-! DEFINITION. The Almanac's entries (R419, R421 to R423), and errors in the protected storage of a core (R406). -/
namespace Sys2Proof.Machine

/-! ### Frames (R301, R422) -/

def Grade.frames (g : Grade) : Nat := g.capacity / frameSize

/-- The frames that Helm keeps for itself (R261, R287): its tables, the state of work queues, page tables, routing tables, the Chart, and
synchronisation state, a frame each (log entry 85). -/
def helmFrameCount : Nat := 6

/-- The partition that holds a frame. -/
def State.frameHolder (s : State) (f : Nat) : Option Nat := (s.parts.find? (fun x => x.2.frames.contains f)).map (·.1)

def State.frameFree (s : State) (f : Nat) : Bool :=
  decide (f < s.grade.frames) && (s.frameHolder f).isNone && !s.mem.control.contains f && !s.rel.retired.contains f

/-- The lowest free frame from k on. -/
def State.freeFrom (s : State) : Nat → Nat → Option Nat
  | 0, _ => none
  | fuel + 1, k => if s.frameFree k then some k else s.freeFrom fuel (k + 1)

/-- At most 256 frames are retired; beyond that SERVICE is set and the frame stays in service. -/
def State.retire (s : State) (f : Nat) : Option State :=
  if s.rel.retired.contains f then some s
  else if s.rel.retired.length ≥ 256 then none
  else some (s.onRel (fun r => { r with retired := setAdd r.retired f, dirty := true }))

def State.setService (s : State) : State := s.onRel (fun r => { r with service := true })

/-! ### Almanac entries (R419, R421 to R423) -/

/-- Whether an entry is of a location: `lh` where that is an array as Lighthouse names it, and not an SRAM word or a line (R419). -/
def AlmEntry.sits (e : AlmEntry) (lh : Bool) (kind unit sub loc : Nat) : Bool :=
  (e.cls == 0x0F) == lh && e.kind == kind && e.unit == unit && e.sub == sub && e.location == loc

def bitCount4 (x : Nat) : Nat := b2n (bit x 0) + b2n (bit x 1) + b2n (bit x 2) + b2n (bit x 3)

/-- The state that an error moves its location to: `again` where the location has an entry already. -/
def almState (cls : Nat) (again : Bool) (partners : Nat) : Nat :=
  if cls == 2 || cls == 3 then 2
  else if cls == 0x0F then (if bitCount4 partners ≥ 2 then 2 else 1)
  else if again then 2 else 0

/-- The entries with room for one more: a full Almanac gives up its oldest transient entry. -/
def almRoom (l : List AlmEntry) : Option (List AlmEntry) :=
  if l.length < 2040 then some l
  else if l.any (fun e => e.st == 0) then some (l.eraseP (fun e => e.st == 0))
  else none

def State.setEntry (s : State) (lh : Bool) (kind unit sub loc : Nat) (f : AlmEntry → AlmEntry) : State :=
  s.onRel (fun r => { r with entries := r.entries.map (fun e => if e.sits lh kind unit sub loc then f e else e), dirty := true })

/-- A permanent HBM location: its frame is retired at once where it is free, and is pending otherwise (R422). -/
def State.retireLocation (s : State) (kind unit sub loc : Nat) : State :=
  let f := loc / frameSize
  if s.rel.retired.contains f then s
  else if s.frameFree f then match s.retire f with
    | some t => t
    | none => (s.setService).setEntry false kind unit sub loc (fun e => { e with st := 3 })
  else s.setEntry false kind unit sub loc (fun e => { e with st := 3 })

/-- What a location that has become permanent leads to (R422, R423). -/
def State.becamePermanent (s : State) (kind unit sub loc : Nat) : State :=
  match kind with
  | 0 => s.onRel (fun r => { r with withheld := setAdd r.withheld unit })
  | 1 => s.retireLocation kind unit sub loc
  | _ => s

/-- An error at a location (R421): the state, and the bits 2 and 3 of the record's FLAGS (R413). -/
def State.note (s : State) (kind cls unit sub loc partners : Nat) : State × Nat :=
  match s.rel.entries.find? (fun e => e.sits (cls == 0x0F) kind unit sub loc) with
  | some e =>
    let ps := e.partners ||| partners
    let st := Nat.max e.st (almState cls true ps)
    let t := s.setEntry (cls == 0x0F) kind unit sub loc (fun e => { e with
      cls := cls, st := st, partners := ps, count := min (e.count + 1) 0xFFFFFFFF, last := s.rel.starts % 2 ^ 32 })
    let t := if cls == 6 then t.setService else t
    (if e.st < 2 && st ≥ 2 then t.becamePermanent kind unit sub loc else t, 4 + (if st ≥ 2 then 8 else 0))
  | none => match almRoom s.rel.entries with
    | none => (s.setService, 0)
    | some l =>
      let st := almState cls false partners
      let e : AlmEntry := ⟨kind, cls, st, partners, unit, sub, loc, 1, s.rel.starts % 2 ^ 32, s.rel.starts % 2 ^ 32⟩
      let t := s.onRel (fun r => { r with entries := l ++ [e], dirty := true })
      (if st ≥ 2 then t.becamePermanent kind unit sub loc else t, 4 + (if st ≥ 2 then 8 else 0))

/-! ### Errors in protected storage (R406, R407, R413) -/

/-- The record of an error at a word of a storage, with its Almanac entry. -/
def State.sramNote (s : State) (cls kind part unit sub word : Nat) : State :=
  let r := s.note kind cls unit sub word 0
  r.1.log { LogRec.base cls kind part unit with sub := sub, flags := r.2 }

/-- The key of bank b of array a. -/
def bankKey (a b : Nat) : Nat := 2 * a + b

def Bank.spoil (b : Bank) : Bank := { b with poison := true, cols := b.cols.map (fun x => { x with poison := true }) }

def TileEntry.spoil (e : TileEntry) : TileEntry := { e with hdr := setBits e.hdr 4 4 1 }

/-- The array of a place, or 0xFFFF (SUB of R413). -/
def siteSub : SramSite → Nat
  | .tile a _ | .bank a _ => a
  | _ => 0xFFFF

/-- The poison that an uncorrectable error leaves at a place of core n. -/
def State.spoil (s : State) (n : Nat) : SramSite → State
  | .coreStore l => s.onCore n (fun k => { k with csPoison := setAdd k.csPoison l })
  | .tile a t => s.setFld .arrHdr n a t 4 4 1
  | .bank a b => s.onCore n (fun k => { k with banks := tabPut k.banks (bankKey a b) ((tabFind k.banks (bankKey a b)).map Bank.spoil) })
  | .queue i => s.onCore n (fun k => { k with tileq := k.tileq.modify i TileEntry.spoil })
  | .mailbox i => s.onCore n (fun k => { k with mailbox := k.mailbox.modify i (fun m => { m with poison := true }) })
  | .pilot => s

/-- An error of core n's storage: corrected, or poison, or the core-fatal halt, for which no status is stated (log entry 121). -/
def State.sramError (s : State) (n : Nat) (e : SramErr) : State :=
  let p := (s.holder n).getD 0xF
  if !e.ue then s.sramNote 0x04 0 p n (siteSub e.site) e.word
  else if e.site = .pilot then s.takeFree.parityHalt n ((Config.freeWord s.free).toNat % 256)
  else (s.spoil n e.site).sramNote 0x05 0 p n (siteSub e.site) e.word

/-- The errors that core n's storage shows while a command runs, ahead of what the command does with them. -/
def State.sramErrors (s : State) (n : Nat) (errs : List SramErr) : State :=
  if s.clockHalt then s else errs.foldl (fun s e => s.sramError n e) s

end Sys2Proof.Machine
end

