-- ==== Sys2Proof/Machine/Crypto.lean ====
section
/-! DEFINITION. The check codes and digests the spec names: CRC-32C (R362), SHA-256 and SHA-384 (R400, R443, per FIPS 180-4)
and ECDSA P-384 verification (R443, R454, per FIPS 186-5). The constants of the last three are those of the standards the spec
names (PRESUMED, log entry 12). -/
namespace Sys2Proof.Machine

/-! ### CRC-32C, Castagnoli, reflected, initial value and final XOR 0xFFFF_FFFF (R362) -/

def crcBits : Nat → Nat → Nat
  | 0, c => c
  | k + 1, c => crcBits k (if c % 2 == 1 then (c / 2) ^^^ 0x82F63B78 else c / 2)

def crc32c (l : List Byte) : Word :=
  BitVec.ofNat 32 ((l.foldl (fun c b => crcBits 8 (c ^^^ b.toNat)) 0xFFFFFFFF) ^^^ 0xFFFFFFFF)

/-- CRC-32 of a flit (R317) with its polynomial 0x04C1_1DB7, in the convention of IEEE 802.3: reflected, initial value and final XOR
0xFFFF_FFFF (log entry 138). -/
def crcBits32 : Nat → Nat → Nat
  | 0, c => c
  | k + 1, c => crcBits32 k (if c % 2 == 1 then (c / 2) ^^^ 0xEDB88320 else c / 2)

def crc32 (l : List Byte) : Nat := (l.foldl (fun c b => crcBits32 8 (c ^^^ b.toNat)) 0xFFFFFFFF) ^^^ 0xFFFFFFFF

/-! ### SHA-2 -/

/-- The parameters that tell SHA-256 from SHA-384. -/
structure Sha where
  w : Nat
  k : List Nat
  h0 : List Nat
  big0 : Nat × Nat × Nat
  big1 : Nat × Nat × Nat
  small0 : Nat × Nat × Nat
  small1 : Nat × Nat × Nat

def sha256 : Sha := ⟨32, [
   0x428A2F98, 0x71374491, 0xB5C0FBCF, 0xE9B5DBA5, 0x3956C25B, 0x59F111F1, 0x923F82A4, 0xAB1C5ED5,
   0xD807AA98, 0x12835B01, 0x243185BE, 0x550C7DC3, 0x72BE5D74, 0x80DEB1FE, 0x9BDC06A7, 0xC19BF174,
   0xE49B69C1, 0xEFBE4786, 0x0FC19DC6, 0x240CA1CC, 0x2DE92C6F, 0x4A7484AA, 0x5CB0A9DC, 0x76F988DA,
   0x983E5152, 0xA831C66D, 0xB00327C8, 0xBF597FC7, 0xC6E00BF3, 0xD5A79147, 0x06CA6351, 0x14292967,
   0x27B70A85, 0x2E1B2138, 0x4D2C6DFC, 0x53380D13, 0x650A7354, 0x766A0ABB, 0x81C2C92E, 0x92722C85,
   0xA2BFE8A1, 0xA81A664B, 0xC24B8B70, 0xC76C51A3, 0xD192E819, 0xD6990624, 0xF40E3585, 0x106AA070,
   0x19A4C116, 0x1E376C08, 0x2748774C, 0x34B0BCB5, 0x391C0CB3, 0x4ED8AA4A, 0x5B9CCA4F, 0x682E6FF3,
   0x748F82EE, 0x78A5636F, 0x84C87814, 0x8CC70208, 0x90BEFFFA, 0xA4506CEB, 0xBEF9A3F7, 0xC67178F2],
  [0x6A09E667, 0xBB67AE85, 0x3C6EF372, 0xA54FF53A, 0x510E527F, 0x9B05688C, 0x1F83D9AB, 0x5BE0CD19],
  (2, 13, 22), (6, 11, 25), (7, 18, 3), (17, 19, 10)⟩

def sha384 : Sha := ⟨64, [
   0x428A2F98D728AE22, 0x7137449123EF65CD, 0xB5C0FBCFEC4D3B2F, 0xE9B5DBA58189DBBC,
   0x3956C25BF348B538, 0x59F111F1B605D019, 0x923F82A4AF194F9B, 0xAB1C5ED5DA6D8118,
   0xD807AA98A3030242, 0x12835B0145706FBE, 0x243185BE4EE4B28C, 0x550C7DC3D5FFB4E2,
   0x72BE5D74F27B896F, 0x80DEB1FE3B1696B1, 0x9BDC06A725C71235, 0xC19BF174CF692694,
   0xE49B69C19EF14AD2, 0xEFBE4786384F25E3, 0x0FC19DC68B8CD5B5, 0x240CA1CC77AC9C65,
   0x2DE92C6F592B0275, 0x4A7484AA6EA6E483, 0x5CB0A9DCBD41FBD4, 0x76F988DA831153B5,
   0x983E5152EE66DFAB, 0xA831C66D2DB43210, 0xB00327C898FB213F, 0xBF597FC7BEEF0EE4,
   0xC6E00BF33DA88FC2, 0xD5A79147930AA725, 0x06CA6351E003826F, 0x142929670A0E6E70,
   0x27B70A8546D22FFC, 0x2E1B21385C26C926, 0x4D2C6DFC5AC42AED, 0x53380D139D95B3DF,
   0x650A73548BAF63DE, 0x766A0ABB3C77B2A8, 0x81C2C92E47EDAEE6, 0x92722C851482353B] ++ [
   0xA2BFE8A14CF10364, 0xA81A664BBC423001, 0xC24B8B70D0F89791, 0xC76C51A30654BE30,
   0xD192E819D6EF5218, 0xD69906245565A910, 0xF40E35855771202A, 0x106AA07032BBD1B8,
   0x19A4C116B8D2D0C8, 0x1E376C085141AB53, 0x2748774CDF8EEB99, 0x34B0BCB5E19B48A8,
   0x391C0CB3C5C95A63, 0x4ED8AA4AE3418ACB, 0x5B9CCA4F7763E373, 0x682E6FF3D6B2B8A3,
   0x748F82EE5DEFB2FC, 0x78A5636F43172F60, 0x84C87814A1F0AB72, 0x8CC702081A6439EC,
   0x90BEFFFA23631E28, 0xA4506CEBDE82BDE9, 0xBEF9A3F7B2C67915, 0xC67178F2E372532B,
   0xCA273ECEEA26619C, 0xD186B8C721C0C207, 0xEADA7DD6CDE0EB1E, 0xF57D4F7FEE6ED178,
   0x06F067AA72176FBA, 0x0A637DC5A2C898A6, 0x113F9804BEF90DAE, 0x1B710B35131C471B,
   0x28DB77F523047D84, 0x32CAAB7B40C72493, 0x3C9EBE0A15C9BEBC, 0x431D67C49C100D4C,
   0x4CC5D4BECB3E42B6, 0x597F299CFC657E2A, 0x5FCB6FAB3AD6FAEC, 0x6C44198C4A475817],
  [0xCBBB9D5DC1059ED8, 0x629A292A367CD507, 0x9159015A3070DD17, 0x152FECD8F70E5939, 0x67332667FFC00B31, 0x8EB44A8768581511, 0xDB0C2E0D64F98FA7, 0x47B5481DBEFA4FA4],
  (28, 34, 39), (14, 18, 41), (1, 8, 7), (19, 61, 6)⟩

def Sha.rotr (s : Sha) (x n : Nat) : Nat := (x >>> n) ||| ((x <<< (s.w - n)) % 2 ^ s.w)
def Sha.sig (s : Sha) (p : Nat × Nat × Nat) (x : Nat) : Nat := s.rotr x p.1 ^^^ s.rotr x p.2.1 ^^^ s.rotr x p.2.2
def Sha.sigS (s : Sha) (p : Nat × Nat × Nat) (x : Nat) : Nat := s.rotr x p.1 ^^^ s.rotr x p.2.1 ^^^ (x >>> p.2.2)

/-- Extend the schedule, held newest first. -/
def Sha.extend (s : Sha) : Nat → List Nat → List Nat
  | 0, l => l
  | n + 1, l =>
    let v := (s.sigS s.small1 (l.getD 1 0) + l.getD 6 0 + s.sigS s.small0 (l.getD 14 0) + l.getD 15 0) % 2 ^ s.w
    s.extend n (v :: l)

def Sha.round (s : Sha) (st : List Nat) (kw : Nat × Nat) : List Nat :=
  match st with
  | [a, b, c, d, e, f, g, h] =>
    let ch := (e &&& f) ^^^ ((2 ^ s.w - 1 - e) &&& g)
    let t1 := h + s.sig s.big1 e + ch + kw.1 + kw.2
    let mj := (a &&& b) ^^^ (a &&& c) ^^^ (b &&& c)
    let t2 := s.sig s.big0 a + mj
    [(t1 + t2) % 2 ^ s.w, a, b, c, (d + t1) % 2 ^ s.w, e, f, g]
  | _ => st

def Sha.block (s : Sha) (h : List Nat) (m : List Nat) : List Nat :=
  let sched := (s.extend (s.k.length - 16) m.reverse).reverse
  let r := (s.k.zip sched).foldl s.round h
  (h.zip r).map (fun p => (p.1 + p.2) % 2 ^ s.w)

/-- Big-endian number of a byte list. -/
def beNat (l : List Byte) : Nat := l.foldl (fun a b => a * 256 + b.toNat) 0
/-- Big-endian bytes of a number. -/
def beBytes : Nat → Nat → List Byte
  | 0, _ => []
  | n + 1, x => BitVec.ofNat 8 (x >>> (8 * n)) :: beBytes n x

def chunksOf (n : Nat) : Nat → List Byte → List (List Byte)
  | 0, _ => []
  | k + 1, l => if l.isEmpty then [] else l.take n :: chunksOf n k (l.drop n)

def Sha.digest (s : Sha) (l : List Byte) : List Byte :=
  let bb := s.w * 2
  let lenB := s.w / 4
  let padZ := (bb - (l.length + 1 + lenB) % bb) % bb
  let msg := l ++ [0x80#8] ++ List.replicate padZ 0#8 ++ beBytes lenB (8 * l.length)
  let h := (chunksOf bb msg.length msg).foldl
    (fun h c => s.block h ((chunksOf (s.w / 8) 16 c).map beNat)) s.h0
  h.flatMap (fun x => beBytes (s.w / 8) x)

/-- SHA-256 (32 bytes). -/
def sha256Of (l : List Byte) : List Byte := sha256.digest l
/-- SHA-384 (48 bytes). -/
def sha384Of (l : List Byte) : List Byte := (sha384.digest l).take 48

/-! ### ECDSA over P-384 -/

def p384p : Nat := 2 ^ 384 - 2 ^ 128 - 2 ^ 96 + 2 ^ 32 - 1
def p384n : Nat := 0xFFFFFFFFFFFFFFFFFFFFFFFFFFFFFFFFFFFFFFFFFFFFFFFFC7634D81F4372DDF581A0DB248B0A77AECEC196ACCC52973
def p384b : Nat := 0xB3312FA7E23EE7E4988E056BE3F82D19181D9C6EFE8141120314088F5013875AC656398D8A2ED19D2A85C8EDD3EC2AEF
def p384g : Nat × Nat × Nat := (0xAA87CA22BE8B05378EB1C71EF320AD746E1D3B628BA79B9859F741E082542A385502F25DBF55296C3A545E3872760AB7,
  0x3617DE4A96262C6F5D9E98BF9292DC29F8F41DBD289A147CE9DA3113B5F0B8C00A60B1CE1D7E819D7A431D7C90EA0E5F, 1)

def powModAux (m : Nat) : Nat → Nat → Nat → Nat → Nat
  | 0, _, _, r => r
  | k + 1, b, e, r => powModAux m k (b * b % m) (e / 2) (if e % 2 == 1 then r * b % m else r)
def powMod (m b e : Nat) : Nat := powModAux m 385 (b % m) e 1

/-- A point in Jacobian coordinates (X, Y, Z), at infinity when Z = 0. -/
abbrev EcPoint := Nat × Nat × Nat

def fsubp (a b : Nat) : Nat := (a + p384p - b % p384p) % p384p

def ecDouble (q : EcPoint) : EcPoint :=
  let x := q.1
  let y := q.2.1
  let z := q.2.2
  if z == 0 || y == 0 then (1, 1, 0) else
  let y2 := y * y % p384p
  let s := 4 * x * y2 % p384p
  let z2 := z * z % p384p
  let m := 3 * fsubp x z2 * (x + z2) % p384p
  let x3 := fsubp (m * m) (2 * s)
  (x3, fsubp (m * fsubp s x3) (8 * (y2 * y2 % p384p)), 2 * y * z % p384p)

def ecAdd (a b : EcPoint) : EcPoint :=
  if a.2.2 == 0 then b else if b.2.2 == 0 then a else
  let z1 := a.2.2 * a.2.2 % p384p
  let z2 := b.2.2 * b.2.2 % p384p
  let u1 := a.1 * z2 % p384p
  let u2 := b.1 * z1 % p384p
  let s1 := a.2.1 * z2 % p384p * b.2.2 % p384p
  let s2 := b.2.1 * z1 % p384p * a.2.2 % p384p
  if u1 == u2 then (if s1 == s2 then ecDouble a else (1, 1, 0)) else
  let h := fsubp u2 u1
  let r := fsubp s2 s1
  let h2 := h * h % p384p
  let h3 := h2 * h % p384p
  let v := u1 * h2 % p384p
  let x3 := fsubp (fsubp (r * r) h3) (2 * v)
  (x3, fsubp (r * fsubp v x3) (s1 * h3), h * a.2.2 % p384p * b.2.2 % p384p)

def ecMulAux : Nat → EcPoint → Nat → EcPoint → EcPoint
  | 0, _, _, r => r
  | k + 1, q, e, r => ecMulAux k (ecDouble q) (e / 2) (if e % 2 == 1 then ecAdd r q else r)
def ecMul (k : Nat) (q : EcPoint) : EcPoint := ecMulAux 384 q k (1, 1, 0)

/-- Whether r‖s verifies over a SHA-384 digest with the public key X‖Y (96 bytes each). -/
def ecdsaVerify (key sig digest : List Byte) : Bool :=
  let x := beNat (key.take 48)
  let y := beNat (key.drop 48)
  let r := beNat (sig.take 48)
  let s := beNat (sig.drop 48)
  let onCurve := decide (x < p384p) && decide (y < p384p) &&
    (y * y) % p384p == (x * x % p384p * x + (p384p - 3) * x + p384b) % p384p
  if !onCurve || r == 0 || s == 0 || decide (r ≥ p384n) || decide (s ≥ p384n) then false else
  let w := powMod p384n s (p384n - 2)
  let q := ecAdd (ecMul (beNat digest * w % p384n) p384g) (ecMul (r * w % p384n) (x, y, 1))
  if q.2.2 == 0 then false else
  let zi := powMod p384p q.2.2 (p384p - 2)
  (q.1 * (zi * zi % p384p) % p384p) % p384n == r

end Sys2Proof.Machine
end

