-- ==== Sys2Proof/Machine/Views.lean ====
section
/-! DEFINITION. What each register reads as: most hold their own word; the others show state kept elsewhere (R238 to R242, R304, R400,
R430, R431, R457, R459, R181, R381). And a read with its latch and its clearing (R5, R7, R9). -/
namespace Sys2Proof.Machine

/-- CORE_STATUS (R238). -/
def Core.statusWord (k : Core) : Word :=
  w32 (k.sends.length <<< 23 + k.mailbox.length <<< 16 + k.inFlight <<< 8 + b2n k.frozen <<< 6 + b2n k.fatal <<< 5 +
    b2n k.occupied <<< 4 +
    (match k.pilot with
      | .waitMsg .. => 8
      | .waitSync .. => 4
      | .halted => 2
      | .running => 1))

/-- CORE_WAIT and CORE_WAIT_THRESH (R242). -/
def Core.waitWord (k : Core) : Word :=
  match k.pilot with
  | .waitSync obj _ _ => w32 (1 <<< 30 + obj)
  | .waitMsg src tag any => w32 (2 <<< 30 + b2n any <<< 24 + tag <<< 16 + src)
  | _ => 0#32
def Core.waitThresh (k : Core) : Word :=
  match k.pilot with
  | .waitSync _ th _ => w32 th
  | _ => 0#32

/-- Whether the vector engine has a group in progress or an entry to take (R181). -/
def Core.vecBusy (k : Core) : Bool := k.engine.active || k.tileq.any (fun e => !e.vecLeft)

/-- Whether the engine is stalled (R158, R181): an entry for it waits while the converter cannot take a group. A stall inside an instruction
is a matter of cycles, which the model does not count, so SHIFT_STALL reads 0. -/
def Core.vecStalled (k : Core) : Bool := !k.engine.active && k.engineEntry.isNone && k.tileq.any (fun e => !e.vecLeft)

/-- A Logbook record as its 64 bytes (R413). -/
def LogRec.bytes (r : LogRec) : List Byte :=
  let b := leBytes r.mtime 8 ++ leBytes r.seq 4 ++ leBytes r.cls 1 ++ leBytes (r.kind + 16 * (r.part % 16)) 1 ++
    leBytes r.unit 2 ++ leBytes r.sub 2 ++ leBytes r.opcode 1 ++ leBytes r.status 1 ++ leBytes r.tag 2 ++ leBytes r.temp 2 ++
    leBytes r.cc 8 ++ leBytes r.addr 8 ++ leBytes r.syndrome 8 ++ leBytes r.mv 2 ++ leBytes r.flags 1 ++ leBytes 0 1 ++
    leBytes r.repeats 4 ++ leBytes r.detail 4
  b ++ leBytes (crc32c b).toNat 4

/-- An Almanac entry as its 64 bytes (R419). -/
def AlmEntry.bytes (e : AlmEntry) : List Byte :=
  leBytes e.kind 1 ++ leBytes e.cls 1 ++ leBytes e.st 1 ++ leBytes e.partners 1 ++ leBytes e.unit 2 ++ leBytes e.sub 2 ++
  leBytes e.location 8 ++ leBytes e.count 4 ++ leBytes e.first 4 ++ leBytes e.last 4 ++ List.replicate 36 0#8

/-- Whether a master sees a record through LOG_DATA[p] (R428). -/
def State.seesRecord (s : State) (m : Master) (p : Nat) (r : LogRec) : Bool :=
  match m with
  | .mgmt => true
  | .vf q => q == p && (r.part == p || (r.part == 0xF && s.partMgmt p))
  | _ => false

/-- The 64-byte block of R400 for partition p. -/
def State.sigBlock (s : State) (p : Nat) : List Byte :=
  let forces := (s.part p).cores.map (fun n => s.fld .vecCtl n 0 0 5 4)
  let force := match forces with
    | [] => 0xFF
    | f :: t => if t.all (· == f) then f else 0xFF
  let cb := match s.start.image with
    | some i => sha256Of i.sections.codebookBytes
    | none => sha256Of []
  leBytes s.grade.code 2 ++ leBytes 0xA1 1 ++ leBytes force 1 ++ leBytes (s.rd .lcImage).toNat 4 ++ cb ++ leBytes 0x010101 3 ++
  List.replicate 21 0#8

def State.signature (s : State) (p : Nat) : List Byte := sha256Of (s.sigBlock p)

/-- The contents of a register as master m reads them. -/
def State.view (s : State) (m : Master) (a : RegAt) : Word :=
  let own := s.rd a.reg a.b a.i a.j
  let k := s.core a.b
  match a.reg with
  | .coreStatus => k.statusWord
  | .coreCpLo => w32 k.cp
  | .coreCpHi => w32 (k.cp >>> 32)
  | .coreCcLo => w32 k.cc
  | .coreCcHi => w32 (k.cc >>> 32)
  | .coreExc => setBits own 21 16 k.queued.length
  | .coreWait => k.waitWord
  | .coreWaitThresh => k.waitThresh
  | .smpSeedLo => if k.seeded then w32 k.seed.toNat else own
  | .smpSeedHi => if k.seeded then w32 (k.seed.toNat >>> 32) else own
  | .vecStatus => setBits (setBits (setBits (setBits (setBits own 27 23 k.engine.pc) 22 21 k.engine.group) 20 16 k.tileq.length) 1 1
      (b2n k.vecStalled)) 0 0 (b2n (!k.vecBusy))
  | .helmPart =>
    let x := s.part a.i
    setBits (setBits (setBits own 23 16 x.cores.length) 14 8 x.queues.length) 7 0
      (x.queues.filter (fun q => match q.head with
        | some j => j.st == .running || j.st == .preempting
        | none => false)).length
  | .helmSig => w32 (leAt (s.signature a.i) (4 * a.j) 4)
  | .logHead => w32 s.rel.seq
  | .logFatal => match s.rel.fatal with
    | some r => w32 (leAt r.bytes (4 * a.i) 4)
    | none => 0#32
  | .logData => match tabFind s.rel.ring (s.fld .logRd 0 a.i 0 11 0) with
    | some r => if s.seesRecord m a.i r then w32 (leAt r.bytes (4 * a.j) 4) else 0#32
    | none => 0#32
  | .almStatus => setBits (setBits (setBits (setBits (setBits 0#32 31 31 (b2n s.rel.writing.isSome)) 30 30 (b2n s.rel.service)) 29 29
      s.rel.inUse) 26 16 s.rel.entries.length) 8 0 s.rel.retired.length
  | .almSeq => w32 s.rel.copySeq
  | .almStarts => w32 s.rel.starts
  | .almData => match s.rel.entries[s.fld .almSel 0 0 0 10 0]? with
    | some e => w32 (leAt e.bytes (4 * a.i) 4)
    | none => 0#32
  | .helmEvqStatus => setBits own 8 0 (s.part a.i).evq.length
  | .helmEvqData => match (s.part a.i).evq with
    | [] => 0#32
    | e :: _ => match a.j with
      | 0 => w32 (e.cause + e.unit * 2 ^ 16)
      | 1 => w32 e.tag
      | 2 => w32 e.value
      | _ => w32 (e.value >>> 32)
  | .collMerLo => w32 s.fabric.merNs
  | .collMerHi => w32 (s.fabric.merNs >>> 32)
  | .lcReset => setBits own 3 0 (s.votes.foldl (fun v k => v ||| 2 ^ k) 0)
  | _ => own

/-- The low word's register of the pair whose high word is r (R5). -/
def Reg.loOf (r : Reg) : Option Reg := Reg.all.find? (fun l => l.hiOf == some r)

/-- The high word of the 64-bit pair whose low word is at a place of the map, and the low word of the pair whose high word it is: of a pair of
registers, of a 64-bit argument of a request, which MAP, UNMAP, PROTECT and WQ_CREATE have in words 0 and 1 (R306), or of VALUE of an event
(R436). -/
def RegAt.hi (a : RegAt) : Option RegAt :=
  if a.reg == .helmReqArg && a.j == 0 then some { a with j := 1 }
  else if a.reg == .helmEvqData && a.j == 2 then some { a with j := 3 }
  else a.reg.hiOf.map (fun r => { a with reg := r })
def RegAt.lo (a : RegAt) : Option RegAt :=
  if a.reg == .helmReqArg && a.j == 1 then some { a with j := 0 }
  else if a.reg == .helmEvqData && a.j == 3 then some { a with j := 2 }
  else a.reg.loOf.map (fun r => { a with reg := r })

/-- The master's latch (R5). -/
def State.latched (s : State) (m : Master) (lo : Nat) : Option Word :=
  (s.latches.find? (fun x => x.1 == m && x.2.1 == lo)).map (·.2.2)

/-- Any access by a master breaks its pair (R5). -/
def State.unlatch (s : State) (m : Master) : State := { s with latches := s.latches.filter (fun x => x.1 != m) }

/-- A read of a register by a master: the value, with the latch of R5 and the clearing of rc fields (R7). -/
def State.readReg (s : State) (m : Master) (a : RegAt) : Word × State :=
  let sp := a.reg.spec
  let w := match a.lo with
    | some lo => match s.latched m lo.addr with
      | some v => v
      | none => s.view m a
    | none => s.view m a
  let s1 := s.unlatch m
  let s2 := match a.hi with
    | some hi => { s1 with latches := (m, a.addr, s.view m hi) :: s1.latches }
    | none => s1
  let s3 := if sp.hasRc then s2.wr a.reg a.b a.i a.j (sp.afterRead (s2.rd a.reg a.b a.i a.j)) else s2
  (sp.read w, s3)

end Sys2Proof.Machine
end

