-- ==== Sys2Proof/Machine/Scalar.lean ====
section
/-! DEFINITION. The scalar commands (R212), the control commands of the pilot (R207, R210, R216, R223), and taking an exception
(R222 to R225). -/
namespace Sys2Proof.Machine

/-! ### Shared operations -/

def xOf (n k : Nat) : CM DWord := do return ((← getS).core n).xval k
def setXTo (n k : Nat) (v : DWord) (tag : Bool := false) : CM Unit := modS (fun s => s.onCore n (fun c => c.setX k v tag))
def setCp (n a : Nat) : CM Unit := modS (fun s => s.onCore n (fun c => { c with cp := a }))

/-- rd = ra op rb (R212). -/
def aluRR (n : Nat) (c : Cmd) (f : DWord → DWord → DWord) : CM Bool := do
  setXTo n c.rd (f (← xOf n c.ra) (← xOf n c.rb))
  return true

/-- A target of a branch, jump or call: a 32-byte aligned virtual address (R212; log entry 15). -/
def target (c : Cmd) : CM Nat := do
  need (c.w2.toNat % 32 == 0) 0x05
  need (decide (c.w2.toNat < 2 ^ 48)) 0x11
  return c.w2.toNat

/-- A branch taken when the test of ra and rb holds (R212). -/
def branch (n : Nat) (c : Cmd) (test : DWord → DWord → Bool) : CM Bool := do
  let t ← target c
  if test (← xOf n c.ra) (← xOf n c.rb) then setCp n t
  return true

/-- Eight bytes of core store for CALL, RET, LD and ST (R212, R224): status 0x50 outside it, unaligned, or in the shadow frame
where `frame` is false. -/
def scalarCs (a : Nat) (frame : Bool) : CM Unit :=
  if a % 8 == 0 && (decide (a + 8 ≤ shadowBase) || (frame && decide (a + 8 ≤ 0x400000))) then pure () else stopAt 0x50 a

def scalarVa (a : Nat) : CM Unit := if a % 8 == 0 && decide (a + 8 ≤ 2 ^ 48) then pure () else stopAt 0x50 a

def csLook (n a len : Nat) : CM (List Byte × Bool) := do return ((← getS).core n).csRead a len
def csPut (n a : Nat) (d : List Byte) : CM Unit := modS (fun s => s.onCore n (fun k => k.csWrite a d false))

/-- Whether RDC reads the counters' mirror (R507). -/
def mirrorRead (s : State) (n off : Nat) : Word × State :=
  if s.fld .perfCoreCtl 0 n 0 31 31 == 0 then (0#32, s.unlatch (.rdc n)) else
  match regFind (0x05000000 + n * 0x100 + off) with
  | some a => s.readReg (.rdc n) a
  | none => (0#32, s.unlatch (.rdc n))

/-- RDC: a register of the executing core's block (R212, R507); a reserved offset reads 0. -/
def rdcRead (s : State) (n imm : Nat) : Word × State :=
  if 0x6000 ≤ imm ∧ imm < 0x6100 then mirrorRead s n (imm - 0x6000) else
  match regFind (0x01000000 + n * 0x10000 + imm) with
  | some a => s.readReg (.rdc n) a
  | none => (0#32, s.unlatch (.rdc n))

/-! ### Scalar commands -/

def execLi (n : Nat) (c : Cmd) (s : State) : Host.Outcome State Fault Refusal :=
  answer (.li n c) (pilotRun n c (do setXTo n c.rd c.w2; return true) s)

def execMov (n : Nat) (c : Cmd) (s : State) : Host.Outcome State Fault Refusal :=
  answer (.mov n c) (pilotRun n c (do setXTo n c.rd (← xOf n c.ra); return true) s)

def execAdd (n : Nat) (c : Cmd) (s : State) : Host.Outcome State Fault Refusal :=
  answer (.add n c) (pilotRun n c (aluRR n c (· + ·)) s)

def execSub (n : Nat) (c : Cmd) (s : State) : Host.Outcome State Fault Refusal :=
  answer (.sub n c) (pilotRun n c (aluRR n c (· - ·)) s)

def execMul (n : Nat) (c : Cmd) (s : State) : Host.Outcome State Fault Refusal :=
  answer (.mul n c) (pilotRun n c (aluRR n c (· * ·)) s)

def execAddi (n : Nat) (c : Cmd) (s : State) : Host.Outcome State Fault Refusal :=
  answer (.addi n c) (pilotRun n c (do setXTo n c.rd ((← xOf n c.ra) + c.w2); return true) s)

def execAnd (n : Nat) (c : Cmd) (s : State) : Host.Outcome State Fault Refusal :=
  answer (.and n c) (pilotRun n c (aluRR n c (· &&& ·)) s)

def execOr (n : Nat) (c : Cmd) (s : State) : Host.Outcome State Fault Refusal :=
  answer (.or n c) (pilotRun n c (aluRR n c (· ||| ·)) s)

def execXor (n : Nat) (c : Cmd) (s : State) : Host.Outcome State Fault Refusal :=
  answer (.xor n c) (pilotRun n c (aluRR n c (· ^^^ ·)) s)

def execShl (n : Nat) (c : Cmd) (s : State) : Host.Outcome State Fault Refusal :=
  answer (.shl n c) (pilotRun n c (aluRR n c (fun a b => a <<< (b.toNat % 64))) s)

def execShr (n : Nat) (c : Cmd) (s : State) : Host.Outcome State Fault Refusal :=
  answer (.shr n c) (pilotRun n c (aluRR n c (fun a b => a >>> (b.toNat % 64))) s)

def execSra (n : Nat) (c : Cmd) (s : State) : Host.Outcome State Fault Refusal :=
  answer (.sra n c) (pilotRun n c (aluRR n c (fun a b => a.sshiftRight (b.toNat % 64))) s)

def execSlt (n : Nat) (c : Cmd) (s : State) : Host.Outcome State Fault Refusal :=
  answer (.slt n c) (pilotRun n c (aluRR n c (fun a b => if a.slt b then 1#64 else 0#64)) s)

def execBeq (n : Nat) (c : Cmd) (s : State) : Host.Outcome State Fault Refusal :=
  answer (.beq n c) (pilotRun n c (branch n c (fun a b => a == b)) s)

def execBne (n : Nat) (c : Cmd) (s : State) : Host.Outcome State Fault Refusal :=
  answer (.bne n c) (pilotRun n c (branch n c (fun a b => a != b)) s)

def execBlt (n : Nat) (c : Cmd) (s : State) : Host.Outcome State Fault Refusal :=
  answer (.blt n c) (pilotRun n c (branch n c (fun a b => a.slt b)) s)

def execBge (n : Nat) (c : Cmd) (s : State) : Host.Outcome State Fault Refusal :=
  answer (.bge n c) (pilotRun n c (branch n c (fun a b => b.sle a)) s)

def execJmp (n : Nat) (c : Cmd) (s : State) : Host.Outcome State Fault Refusal :=
  answer (.jmp n c) (pilotRun n c (do setCp n (← target c); return true) s)

def execCall (n : Nat) (c : Cmd) (s : State) : Host.Outcome State Fault Refusal :=
  answer (.call n c) (pilotRun n c (do
    let t ← target c
    let sp := (← xOf n 63) - 8#64
    scalarCs sp.toNat false
    let next := ((← getS).core n).cp
    csPut n sp.toNat (leBytes next 8)
    setXTo n 63 sp
    setCp n t
    return true) s)

def execRet (n : Nat) (c : Cmd) (s : State) : Host.Outcome State Fault Refusal :=
  answer (.ret n c) (pilotRun n c (do
    let sp ← xOf n 63
    scalarCs sp.toNat false
    let v ← csLook n sp.toNat 8
    let t := leNat v.1
    need (t % 32 == 0) 0x05
    need (decide (t < 2 ^ 48)) 0x11
    if v.2 then stopAt 0x44 sp.toNat
    setXTo n 63 (sp + 8#64)
    setCp n t
    return true) s)

def execLoop (n : Nat) (c : Cmd) (s : State) : Host.Outcome State Fault Refusal :=
  answer (.loop n c) (pilotRun n c (do
    let t ← target c
    let v := (← xOf n c.ra) - 1#64
    setXTo n c.ra v
    if (← xOf n c.ra) != 0#64 then setCp n t
    return true) s)

def execLd (n : Nat) (c : Cmd) (s : State) : Host.Outcome State Fault Refusal :=
  answer (.ld n c) (pilotRun n c (do
    let a := ((← xOf n c.ra) + c.w2).toNat
    let v ← (if c.w1.getLsbD 18 then do
        scalarCs a ((← getS).core n).occupied
        csLook n a 8
      else do
        scalarVa a
        rdPiece n a 8)
    if v.2 then stopAt 0x44 a
    setXTo n c.rd (BitVec.ofNat 64 (leNat v.1))
    return true) s)

def execSt (n : Nat) (c : Cmd) (s : State) : Host.Outcome State Fault Refusal :=
  answer (.st n c) (pilotRun n c (do
    let a := ((← xOf n c.ra) + c.w2).toNat
    let v := leBytes (← xOf n c.rb).toNat 8
    if c.w1.getLsbD 18 then do
      scalarCs a ((← getS).core n).occupied
      csPut n a v
    else do
      scalarVa a
      wrPiece n a v false
    return true) s)

def execRdc (n : Nat) (c : Cmd) (s : State) : Host.Outcome State Fault Refusal :=
  answer (.rdc n c) (pilotRun n c (do
    need (c.w2.toNat % 4 == 0) 0x05
    need (decide (c.w2.toNat < 0x10000)) 0x11
    let r := rdcRead (← getS) n c.w2.toNat
    setS r.2
    setXTo n c.rd (BitVec.ofNat 64 r.1.toNat)
    return true) s)

/-! ### Control -/

def execNop (n : Nat) (c : Cmd) (s : State) : Host.Outcome State Fault Refusal :=
  answer (.nop n c) (pilotRun n c (pure true) s)

/-- FENCE starts only after every earlier command has completed (R207); what FLUSH discards, fetched copies, is no state of the
block (log entry 1). -/
def execFence (n : Nat) (c : Cmd) (s : State) : Host.Outcome State Fault Refusal :=
  answer (.fence n c) (pilotRun n c (do
    if ((← getS).core n).inFlight != 0 then pause
    return true) s)

def execDoorbell (n : Nat) (c : Cmd) (s : State) : Host.Outcome State Fault Refusal :=
  answer (.doorbell n c) (pilotRun n c (do
    let p ← holderOf n
    if (← getS).evqFull p then pause
    let v ← w3 n c 0
    modS (fun s => s.raise p 1 n c.tag v)
    return true) s)

def execHalt (n : Nat) (c : Cmd) (s : State) : Host.Outcome State Fault Refusal :=
  answer (.halt n c) (pilotRun n c (do
    let code := (← w3 n c 0) % 2 ^ 32
    need (decide (code < 0xFFFFFFF0)) 0x13
    modS (fun s => s.onCore n (fun k => { k with pilot := .halted, haltCode := some code }))
    return true) s)

def execRetx (n : Nat) (c : Cmd) (s : State) : Host.Outcome State Fault Refusal :=
  answer (.retx n c) (pilotRun n c (do
    let cp ← csLook n (shadowBase + 0x208) 8
    need (leNat cp.1 % 32 == 0) 0x05
    modS (fun s => s.exceptionReturn n)
    return true) s)

def execInvalidOpcode (n : Nat) (c : Cmd) (s : State) : Host.Outcome State Fault Refusal :=
  answer (.invalidOpcode n c) (pilotRun n c (refuse 0x01) s)

/-! ### Exceptions -/

/-- Whether a failed command waits for its exception with nothing in flight (R222); a poison consumption goes to R410 instead. -/
def Core.exceptionDue (k : Core) : Bool :=
  !k.failures.isEmpty && k.inFlight == 0 && !k.frozen && !k.fatal && k.failures.all (fun f => f.status != 0x44)

def exceptionEntry (n : Nat) (s : State) : State :=
  let k := s.core n
  if !k.exceptionDue then s else
  match sortFailures k.failures with
  | [] => s
  | f :: rest => if k.occupied then s.coreFatal n f else s.enterException n f rest

def execExceptionEntry (n : Nat) (s : State) : Host.Outcome State Fault Refusal :=
  answer (.exceptionEntry n) (exceptionEntry n s)

end Sys2Proof.Machine
end

