-- ==== Sys2Proof/Machine/Sync.lean ====
section
/-! DEFINITION. Messages between cores (R226 to R228), synchronisation objects (R229 to R233) and the waits on both. -/
namespace Sys2Proof.Machine

/-! ### Mailboxes -/

/-- The sends of every core to a destination that were answered with a retry response and not yet called back. -/
def State.heldSends (s : State) (dst : Nat) : List (Nat × Send) :=
  s.cores.flatMap (fun x => (x.2.sends.filter (fun m => m.dst == dst && m.retried.isSome && !m.called)).map (fun m => (x.1, m)))

/-- The number of messages that a destination has called back and not yet placed (R227). -/
def State.calledCount (s : State) (dst : Nat) : Nat :=
  (s.cores.flatMap (fun x => x.2.sends.filter (fun m => m.dst == dst && m.called))).length

/-- A freed slot calls back the sender whose retry response came earliest (R227). -/
def State.callBack (s : State) (dst : Nat) : State :=
  match sortOn (fun x => x.2.retried.getD 0) (s.heldSends dst) with
  | [] => s
  | (src, m) :: _ => s.onCore src (fun k => { k with sends := k.sends.map (fun x =>
      if x.cc == m.cc then { x with called := true } else x) })

/-- Whether a message matches an MRECV (R228). -/
def Msg.fits (m : Msg) (src tag : Nat) (any : Bool) : Bool := (src == 0x3FFF || m.src == src) && (any || m.tag == tag)

/-- The message that an MRECV takes (R228); in Reckoning mode, with any source, the ordered choice of R211. -/
def State.pickMsg (s : State) (n : Nat) (c : Cmd) (src tag : Nat) (any : Bool) : Option Nat :=
  let k := s.core n
  let ordered := k.reckon && c.vary && src == 0x3FFF
  if !ordered then k.mailbox.findIdx? (fun m => m.fits src tag any)
  else match s.rectOf n with
    | none => none
    | some r =>
      let present (i : Nat) : Bool := k.mailbox.any (fun m => m.src == i && m.fits src tag any)
      if r.cores.all (fun i => i == n || present i) then
        match (sortOn id r.cores).find? present with
        | some i => k.mailbox.findIdx? (fun m => m.src == i && m.fits src tag any)
        | none => none
      else none

/-- The operands of MRECV (R213). -/
def Cmd.recvSrc (c : Cmd) : Nat := bits c.w2.toNat 13 0
def Cmd.recvTag (c : Cmd) : Nat := bits c.w2.toNat 21 14
def Cmd.recvAny (c : Cmd) : Bool := c.w2.getLsbD 22
def Cmd.recvRegs (c : Cmd) : Bool := c.w1.getLsbD 63

/-- Take message i of core n's mailbox into the destination of an MRECV, free its slot and call a sender back (R228, R408). -/
def State.takeMsg (s : State) (n : Nat) (c : Cmd) (i : Nat) : State :=
  match (s.core n).mailbox[i]? with
  | none => s
  | some m =>
    let s := s.onCore n (fun k => { k with mailbox := k.mailbox.eraseIdx i })
    let s := s.onCore n (fun k =>
      let k := if Cmd.recvRegs c then
          (List.range (m.data.length / 8)).foldl (fun (k : Core) j =>
            k.setX (j + 1) (BitVec.ofNat 64 (leAt m.data (8 * j) 8)) m.poison) k
        else k.csWrite (bits c.w1.toNat 21 0) m.data m.poison
      k.setX (c.idx 0) (BitVec.ofNat 64 (m.data.length + m.tag * 2 ^ 16 + m.src * 2 ^ 24)) false)
    s.callBack n

/-- Whether message i of core n's mailbox fits the destination of an MRECV (R217, R228). -/
def State.msgFits (s : State) (n : Nat) (c : Cmd) (i : Nat) : Bool :=
  match (s.core n).mailbox[i]? with
  | some m => Cmd.recvRegs c || decide (bits c.w1.toNat 21 0 + m.data.length ≤ shadowBase)
  | none => true

/-- The flags of a command whose message was poisoned (R220). -/
def State.msgFlags (s : State) (n i : Nat) : Nat :=
  match (s.core n).mailbox[i]? with
  | some m => if m.poison then 0x200 else 0
  | none => 0

def execMsend (n : Nat) (c : Cmd) (s : State) : Host.Outcome State Fault Refusal :=
  answer (.msend n c) (pilotRun n c (do
    let len := bits c.w2.toNat 24 16
    let dst := bits c.w2.toNat 7 0
    need (decide (8 ≤ len) && decide (len ≤ 256) && len % 8 == 0) 0x06
    let s ← getS
    need (decide (dst < s.nCores)) 0x0C
    need (s.holder dst == some (← holderOf n) && !s.withheld dst) 0x0D
    let d ← rdCs n (bits c.w1.toNat 21 0) len
    let k := s.core n
    if k.sends.length ≥ 64 then pause
    modS (fun s => s.onCore n (fun k =>
      { k with sends := k.sends ++ [⟨dst, ⟨n, bits c.w2.toNat 15 8, d.1, d.2⟩, c, k.cc, none, false⟩] }))
    return false) s)

/-- A blocked MRECV takes message i of core n's mailbox and completes, or is refused where the message does not fit (R228). -/
def State.endRecv (s : State) (n : Nat) (c : Cmd) (i : Nat) : State :=
  let k := s.core n
  let free (s : State) : State := s.onCore n (fun k => { k with pilot := .running, blocked := none })
  if s.msgFits n c i then (free (s.takeMsg n c i)).complete n c k.cc (s.msgFlags n i)
  else (free s).failed n c ((k.cp + 2 ^ 48 - 32) % 2 ^ 48) k.cc 0x11 0 0

/-- A message reaches its destination (R227): placed and acknowledged, or answered with a retry response. A blocked MRECV that it
matches takes it at once (R228). -/
def messagePlacement (dst src : Nat) (s : State) : State :=
  match (s.core src).sends.find? (fun m => m.dst == dst) with
  | none => s
  | some m =>
    let held := m.retried.isSome && !m.called
    let room := m.called || decide ((s.core dst).mailbox.length + s.calledCount dst < 64)
    if held then s
    else if !room then
      let next := (s.heldSends dst).foldl (fun a x => Nat.max a (x.2.retried.getD 0 + 1)) 0
      s.onCore src (fun k => { k with sends := k.sends.map (fun x => if x.cc == m.cc then { x with retried := some next } else x) })
    else
      let s := s.onCore src (fun k => { k with stirred := true, sends := k.sends.filter (fun x => x.cc != m.cc) })
      let s := s.onCore dst (fun k => { k with mailbox := k.mailbox ++ [m.msg] })
      let s := s.complete src m.cmd m.cc (if m.msg.poison then 0x200 else 0)
      let k := s.core dst
      match k.pilot, k.blocked with
      | .waitMsg a t any, some c =>
        if k.frozen then s else
        match s.pickMsg dst c a t any with
        | none => s
        | some i =>
          s.endRecv dst c i
      | _, _ => s

def execMessagePlacement (dst src : Nat) (s : State) : Host.Outcome State Fault Refusal :=
  answer (.messagePlacement dst src) (messagePlacement dst src s)

def execMrecv (n : Nat) (c : Cmd) (errs : List SramErr) (s : State) : Host.Outcome State Fault Refusal :=
  answer (.mrecv n c errs) (pilotRun n c (do
    let off := bits c.w1.toNat 21 0
    let s ← getS
    need (Cmd.recvSrc c == 0x3FFF || decide (Cmd.recvSrc c < s.nCores)) 0x0C
    need (Cmd.recvSrc c != 0x3FFF || c.vary) 0x10
    need (Cmd.recvRegs c || decide (off + 8 ≤ shadowBase)) 0x11
    match s.pickMsg n c (Cmd.recvSrc c) (Cmd.recvTag c) (Cmd.recvAny c) with
    | some i =>
      need (s.msgFits n c i) 0x11
      flag (s.msgFlags n i)
      modS (fun s => s.takeMsg n c i)
      return true
    | none =>
      modS (fun s => s.onCore n (fun k =>
        { k with pilot := .waitMsg (Cmd.recvSrc c) (Cmd.recvTag c) (Cmd.recvAny c), blocked := some c }))
      return false) (s.sramErrors n errs))

/-! ### Synchronisation objects -/

/-- The object that W3[0] names, held by the core's partition (R229). -/
def objOf (n : Nat) (c : Cmd) : CM Nat := do
  let k := (← w3 n c 0) % 2 ^ 14
  need ((← getS).objHeld (← holderOf n) k) 0x0E
  return k

def execSsignal (n : Nat) (c : Cmd) (s : State) : Host.Outcome State Fault Refusal :=
  answer (.ssignal n c) (pilotRun n c (do
    let k ← objOf n c
    let a := (← w3 n c 1) % 2 ^ 32
    if a != 0 then modS (fun s => s.syncAdd k a)
    return true) s)

def execSset (n : Nat) (c : Cmd) (s : State) : Host.Outcome State Fault Refusal :=
  answer (.sset n c) (pilotRun n c (do
    let k ← objOf n c
    let v ← w3 n c 1
    modS (fun s => s.syncSet k v)
    return true) s)

def execSwait (n : Nat) (c : Cmd) (s : State) : Host.Outcome State Fault Refusal :=
  answer (.swait n c) (pilotRun n c (do
    let k ← objOf n c
    let th := (← w3 n c 1) % 2 ^ 32
    if th ≤ ((← getS).rd .helmSyncCount 0 k).toNat then return true
    else
      modS (fun s => s.onCore n (fun x => { x with pilot := .waitSync k th false, blocked := some c }))
      return false) s)

/-- The hub releases a pilot whose wait an update has satisfied (R231), unless its partition is frozen (R235). -/
def swaitRelease (n : Nat) (s : State) : State :=
  let k := s.core n
  match k.pilot, k.blocked with
  | .waitSync _ _ true, some c =>
    if k.frozen then s
    else (s.onCore n (fun k => { k with pilot := .running, blocked := none })).complete n c k.cc 0
  | _, _ => s

def execSwaitRelease (n : Nat) (s : State) : Host.Outcome State Fault Refusal :=
  answer (.swaitRelease n) (swaitRelease n s)

/-! ### Host writes -/

/-- A virtual function that answers: its partition is Active or Frozen, and the clocks run (R278, R279, R450, R464). -/
def State.vfLive (s : State) (p : Nat) : Bool := !s.clockHalt && (s.partState p == 1 || s.partState p == 2)

/-- Whether a master's write reaches what partition p holds (R278, R440). -/
def State.reaches (s : State) (m : Master) (p : Nat) : Bool :=
  match m with
  | .mgmt => true
  | .vf q => q == p && s.vfLive p
  | _ => false

/-- Whether a master's write reaches an object (R243). -/
def State.reachesObj (s : State) (m : Master) (k : Nat) : Bool :=
  match m with
  | .mgmt => true
  | .vf p => s.vfLive p && s.objHeld p k
  | _ => false

/-- The write of a host to an object or doorbell of its partition, for R234. -/
def State.touched (s : State) (m : Master) : State :=
  match m with
  | .vf p => s.onPart p (fun x => { x with hostTouched := true })
  | _ => s

def syncObjectSet (m : Master) (k : Nat) (v : Word) (s : State) : State :=
  let s := s.unlatch m
  if s.reachesObj m k then (s.syncSet k v.toNat).touched m else s

def execSyncObjectSet (m : Master) (k : Nat) (v : Word) (s : State) : Host.Outcome State Fault Refusal :=
  answerBy m (.syncObjectSet m k v) s (syncObjectSet m k v s)

def syncObjectAdd (m : Master) (k : Nat) (v : Word) (s : State) : State :=
  let s := s.unlatch m
  if s.reachesObj m k then (if v.toNat = 0 then s else s.syncAdd k v.toNat).touched m else s

def execSyncObjectAdd (m : Master) (k : Nat) (v : Word) (s : State) : Host.Outcome State Fault Refusal :=
  answerBy m (.syncObjectAdd m k v) s (syncObjectAdd m k v s)

end Sys2Proof.Machine
end

