-- ==== Sys2Proof/Machine/Data.lean ====
section
/-! DEFINITION. The data-movement commands: COPY, CSCOPY, GATHER, SCATADD, ATOMIC, FILL and CBLOAD (R213, R214, R218, R252 to R257). -/
namespace Sys2Proof.Machine

/-- Move bytes, each destination line with the poison of the source lines that it comes from (R408). -/
def moveBytes (n : Nat) (sl : Bool) (sa : Nat) (dl : Bool) (da len : Nat) : CM Unit :=
  (linePieces da len).forM (fun x => do
    let r ← rdAt n sl (sa + (x.1 - da)) x.2
    wrAt n dl x.1 r.1 r.2)

/-! ### COPY (R213, R218) -/

/-- The class map entry of a slab; a source without a class map reads every segment as 0b00 (R122). -/
def classEntry (n : Nat) (d : Desc) (slab : Nat) : CM Nat := do
  if d.classMap == 0 then return 0 else return leNat (← rdAt n d.loc (d.classMap + 4 * slab) 4).1

/-- The class of segment g in an entry. -/
def segClass (e g : Nat) : Nat := bits e (2 * g + 1) (2 * g)

/-- Copy one slab with its class map entry and its glint record (R218). -/
def copySlab (n : Nat) (s d : Desc) (no : Nat) : CM Unit := do
  moveBytes n s.loc (s.slabAddr no) d.loc (d.slabAddr no) s.fmt.slabBytes
  if d.classMap != 0 then
    if s.classMap != 0 then moveBytes n s.loc (s.classMap + 4 * no) d.loc (d.classMap + 4 * no) 4
    else wrAt n d.loc (d.classMap + 4 * no) (leBytes 0 4) false
  if d.glintBase != 0 then
    if s.glintBase != 0 then moveBytes n s.loc (s.glintBase + 16 * no) d.loc (d.glintBase + 16 * no) 16
    else wrAt n d.loc (d.glintBase + 16 * no) (leBytes 0 16) false

/-- Whether a tile has a segment in a fall-back record: one of its rows' class is 0b10 or 0b11. -/
def tileFallen (n : Nat) (s : Desc) (row0 rows sc g : Nat) : CM Bool := do
  let l ← (List.range rows).mapM (fun i => do
    let e ← classEntry n s ((row0 + i) * s.slabs + sc)
    return decide (segClass e g ≥ 2))
  return l.any id

/-- Copy the record of one tile into slot i of the destination's pool and name it in the directory (R123, R218). -/
def copyRecord (n : Nat) (s d : Desc) (t i : Nat) : CM Unit := do
  let src ← rdAt n s.loc (s.fbDir + 4 * t) 4
  moveBytes n s.loc (s.fbPool + 64 + 2048 * leNat src.1) d.loc (d.fbPool + 64 + 2048 * i) 2048
  wrAt n d.loc (d.fbDir + 4 * t) (leBytes i 4) false

/-- Copy the records of the tiles in increasing tile number: packed from the pool base in core store, and taken from the pool's cursor
in device memory, where a full pool stops the copy (R123, R218, log entry 18). -/
def copyRecords (n : Nat) (s d : Desc) : List (Nat × Nat × Nat × Nat) → Nat → CM Unit
  | [], k => if d.loc && k != 0 then wrAt n true d.fbPool (leBytes k 8) false else pure ()
  | (row0, rows, sc, g) :: t, k => do
    if ← tileFallen n s row0 rows sc g then
      let no := ((row0 / 32) * s.slabs + sc) * 16 + g
      let i ← (if d.loc then pure k else addAt64 n false d.fbPool 1)
      if decide (i ≥ d.poolCap) then do
        flag 0x40
        stopAt 0x40 0
      copyRecord n s d no i
      copyRecords n s d t (k + 1)
    else copyRecords n s d t k

/-- The tiles of rows [r0, r0 + k) in increasing tile number: first row, rows, slab column, segment. -/
def tilesOf (d : Desc) (r0 k : Nat) : List (Nat × Nat × Nat × Nat) :=
  (pieces 32 r0 (k / 32 + 2) k).flatMap (fun x =>
    (List.range d.slabs).flatMap (fun sc => (List.range 16).map (fun g => (x.1, x.2, sc, g))))

def copyNarrow (n : Nat) (s d : Desc) (r0 k : Nat) : CM Unit := do
  (List.range k).forM (fun i => (List.range s.slabs).forM (fun sc => copySlab n s d ((r0 + i) * s.slabs + sc)))
  copyRecords n s d (tilesOf s r0 k) 0

def copyPlain (n : Nat) (s d : Desc) (r0 k : Nat) : CM Unit :=
  (List.range k).forM (fun i =>
    moveBytes n s.loc (s.elemAddr (r0 + i) 0) d.loc (d.elemAddr (r0 + i) 0) (Nat.min s.cols d.cols * s.fmt.bytes))

def copyBody (n : Nat) (c : Cmd) : CM Bool := do
  let (s, _) ← useDesc n (locOf c.w1) (addrOf c.w1)
  let (d, _) ← useDesc n (locOf c.w2) (addrOf c.w2)
  needDest d
  need (s.fmt == d.fmt) 0x04
  let r0 ← w3 n c 0
  let cnt ← w3 n c 1
  let k := if cnt = 0 then s.rows - r0 else cnt
  need (decide (r0 + k ≤ s.rows) && decide (r0 + k ≤ d.rows) && (!s.fmt.isSlab || s.cols == d.cols)) 0x06
  need (!(s.fmt.isSlab && !s.loc && d.loc) || (r0 % 32 == 0 && (k % 32 == 0 || r0 + k == s.rows))) 0x06
  if s.fmt.isSlab then copyNarrow n s d r0 k else copyPlain n s d r0 k
  return true

def execCopy (n : Nat) (c : Cmd) (s : State) : Host.Outcome State Fault Refusal :=
  answer (.copy n c) (pilotRun n c (copyBody n c) s)

/-! ### CSCOPY (R213) -/

def cscopyBody (n : Nat) (c : Cmd) : CM Bool := do
  let len ← w3 n c 0
  let src := bits c.w1.toNat 21 0
  let dst := bits c.w2.toNat 21 0
  let m := bits c.w2.toNat 39 32
  need (len % 32 == 0 && decide (32 ≤ len) && decide (len ≤ 0x400000)) 0x06
  let s ← getS
  need (decide (m < s.nCores)) 0x0C
  need (s.holder m == some (← holderOf n) && !s.withheld m) 0x0D
  need (decide (src + len ≤ shadowBase) && decide (dst + len ≤ shadowBase)) 0x11
  let k := s.core n
  (linePieces dst len).forM (fun x => do
    let r := k.csRead (src + (x.1 - dst)) x.2
    modS (fun s => s.onCore m (fun j => j.csWrite x.1 r.1 r.2))
    flagIf r.2 0x200)
  return true

def execCscopy (n : Nat) (c : Cmd) (s : State) : Host.Outcome State Fault Refusal :=
  answer (.cscopy n c) (pilotRun n c (cscopyBody n c) s)

/-! ### GATHER (R252, R253) -/

/-- The 32-byte granules of a range. -/
def granules (a len : Nat) : Nat := (a + len - 1) / 32 - a / 32 + 1

def gatherOne (n : Nat) (t : Desc) (idxAt dst size : Nat) : CM Unit := do
  let i ← rdCs n idxAt 4
  let idx := leNat i.1
  if idx < t.rows then do
    let a := t.base + idx * t.pitch
    let r ← rdVa n a size
    modS (fun s => s.hubEvent 0x45 (granules a size) (s.whoCore n a))
    wrCs n dst r.1 (r.2 || i.2)
  else do
    flag 1
    wrCs n dst (List.replicate size 0#8) i.2

def gatherBody (n : Nat) (c : Cmd) : CM Bool := do
  let t ← readDesc n (locOf c.w1) (addrOf c.w1)
  let list ← w3 n c 0
  let cnt ← w3 n c 1
  let size ← w3 n c 2
  needAll [(t.base % 8 == 0 && t.pitch % 8 == 0, 0x05), ([8, 16, 24, 32].contains size, 0x06), (!t.loc, 0x11),
    (decide (bits c.w2.toNat 21 0 + cnt * size ≤ shadowBase) && decide (list + 4 * cnt ≤ shadowBase), 0x11)]
  (List.range cnt).forM (fun j => gatherOne n t (list + 4 * j) (bits c.w2.toNat 21 0 + j * size) size)
  return true

def execGather (n : Nat) (c : Cmd) (s : State) : Host.Outcome State Fault Refusal :=
  answer (.gather n c) (pilotRun n c (gatherBody n c) s)

/-! ### SCATADD and ATOMIC (R254 to R256) -/

/-- Add one row, element by element in increasing address (R256). -/
def scatRow (n : Nat) (ty : AddTy) (dst : Nat) (data : List Byte) (poison : Bool) : CM Unit :=
  (List.range (data.length / ty.bytes)).forM (fun e => do
    let _ ← addVa n (dst + e * ty.bytes) ty (leAt data (e * ty.bytes) ty.bytes) poison)

def scatOne (n : Nat) (t r : Desc) (ty : AddTy) (idxAt row len : Nat) : CM Unit := do
  let i ← rdCs n idxAt 4
  let idx := leNat i.1
  if idx < t.rows then do
    let d ← (linePieces (r.base + row * r.pitch) len).mapM (fun x => do
      let p ← rdAt n r.loc x.1 x.2
      return (x, p))
    d.forM (fun y => scatRow n ty (t.base + idx * t.pitch + (y.1.1 - (r.base + row * r.pitch))) y.2.1 (y.2.2 || i.2))
  else flag 1

def scataddBody (n : Nat) (c : Cmd) : CM Bool := do
  let t ← readDesc n (locOf c.w1) (addrOf c.w1)
  let r ← readDesc n (locOf c.w2) (addrOf c.w2)
  let list ← w3 n c 0
  let cnt ← w3 n c 1
  let len ← w3 n c 2
  let tyc ← w3 n c 3
  let ty := AddTy.ofCode tyc
  needAll [(t.base % ty.bytes == 0 && t.pitch % ty.bytes == 0 && r.base % ty.bytes == 0 && r.pitch % ty.bytes == 0, 0x05),
    (decide (1 ≤ len) && decide (len ≤ 4096) && len % ty.bytes == 0 && decide (tyc ≤ 3) && decide (cnt ≤ r.rows), 0x06), (!t.loc, 0x11),
    (decide (list + 4 * cnt ≤ shadowBase) && (!r.loc || decide (r.base + (cnt - 1) * r.pitch + len ≤ shadowBase)), 0x11)]
  (List.range cnt).forM (fun j => scatOne n t r ty (list + 4 * j) j len)
  return true

def execScatadd (n : Nat) (c : Cmd) (s : State) : Host.Outcome State Fault Refusal :=
  answer (.scatadd n c) (pilotRun n c (scataddBody n c) s)

def atomicBody (n : Nat) (c : Cmd) : CM Bool := do
  let ty := AddTy.ofCode (bits c.w1.toNat 50 49)
  needAll [(addrOf c.w1 % ty.bytes == 0, 0x05), (!locOf c.w1, 0x11)]
  let v ← w3 n c 1
  let r ← addVa n (addrOf c.w1) ty (v % 2 ^ (8 * ty.bytes)) false
  setXTo n (c.idx 0) (BitVec.ofNat 64 r.1) r.2
  return true

def execAtomic (n : Nat) (c : Cmd) (s : State) : Host.Outcome State Fault Refusal :=
  answer (.atomic n c) (pilotRun n c (atomicBody n c) s)

/-! ### FILL (R213) -/

/-- A slab whose elements below `cols` hold a code. The scale of a non-zero code is not stated: a free byte, the same for the same
operands, so that equal runs write equal bytes (R399, log entry 7). -/
def fillSlab (f : Format) (elems code scale : Nat) : List Byte :=
  let el (e : Nat) : Nat := if e < elems then code else 0
  let codes := match f with
    | .q8c => (List.range 512).map (fun e => BitVec.ofNat 8 (el e))
    | _ => (List.range 256).map (fun b => BitVec.ofNat 8 (el (2 * b) % 16 + 16 * (el (2 * b + 1) % 16)))
  codes ++ (List.range 32).map (fun b => BitVec.ofNat 8 (if 16 * b < elems then scale else 0))

def fillNarrow (n : Nat) (d : Desc) (v : Nat) : CM Unit := do
  let code := if d.fmt.isQ4 then v % 16 else v % 256
  let scale := if code = 0 then 0 else (Config.fillScale (((List.range 16).find? (fun k => Format.ofCode k == some d.fmt)).getD 0) code).toNat
  (List.range d.rows).forM (fun r => (List.range d.slabs).forM (fun sc => do
    let no := r * d.slabs + sc
    wrAt n d.loc (d.slabAddr no) (fillSlab d.fmt (d.cols - 512 * sc) code scale) false
    wrAt n d.loc (d.classMap + 4 * no) (leBytes 0 4) false
    if d.glintBase != 0 then wrAt n d.loc (d.glintBase + 16 * no) (leBytes 0 16) false))

def fillPlain (n : Nat) (d : Desc) (v : Nat) : CM Unit :=
  (List.range d.rows).forM (fun r =>
    wrAt n d.loc (d.elemAddr r 0) ((List.range d.cols).flatMap (fun _ => leBytes v d.fmt.bytes)) false)

def fillBody (n : Nat) (c : Cmd) : CM Bool := do
  let (d, _) ← useDesc n (locOf c.w1) (addrOf c.w1)
  needDest d
  needRange d
  let v ← w3 n c 0
  if d.fmt.isSlab then fillNarrow n d v else fillPlain n d v
  return true

def execFill (n : Nat) (c : Cmd) (s : State) : Host.Outcome State Fault Refusal :=
  answer (.fill n c) (pilotRun n c (fillBody n c) s)

/-! ### CBLOAD (R214, R43) -/

/-- A Q4C codebook's four words from its 16 bytes, entry 0 kept at +0. -/
def cb4Word (b : List Byte) (w : Nat) : Word :=
  w32 (if w = 0 then leAt b 0 4 / 256 * 256 else leAt b (4 * w) 4)
/-- A Q8C codebook's word from its 512 bytes. -/
def cb8Word (b : List Byte) (h : Nat) : Word :=
  w32 (if h = 0 then leAt b 0 4 / 2 ^ 16 * 2 ^ 16 else leAt b (4 * h) 4)

def cbloadBody (n : Nat) (c : Cmd) : CM Bool := do
  let q8 := c.w2.getLsbD 4
  let k := bits c.w2.toNat 3 0
  need (!q8 || decide (k < 4)) 0x12
  let r ← rdAt n (locOf c.w1) (addrOf c.w1) (if q8 then 512 else 16)
  let b := r.1
  need (if q8 then (List.range 256).all (fun e => decide (leAt b (2 * e) 2 < 1024)) else b.all (fun x => decide (x.toNat < 64))) 0x12
  if q8 then modS (fun s => (List.range 128).foldl (fun s h => s.wr .convCb8 n k h (cb8Word b h)) s)
  else modS (fun s => (List.range 4).foldl (fun s w => s.wr .convCb4 n k w (cb4Word b w)) s)
  return true

def execCbload (n : Nat) (c : Cmd) (s : State) : Host.Outcome State Fault Refusal :=
  answer (.cbload n c) (pilotRun n c (cbloadBody n c) s)

end Sys2Proof.Machine
end

