-- ==== Sys2Proof/Machine/Arrays.lean ====
section
/-! DEFINITION. The matrix arrays: operand decoding (R52 to R54, R59, R69, R81 to R83, R106, R122, R123), the arithmetic of a pass (R74 to R80,
R95, R118, R125), the overflow retry (R130, R131), and WLOAD, PASS, CPASS, TREAD and TWRITE (R85 to R94, R148 to R152, R532). -/
namespace Sys2Proof.Machine

/-! ### Operands (R52, R106) -/

/-- A stretch of operand elements with a scale for each block of 16, and the places of its non-finite elements (R69). -/
structure Stretch where
  vals : List Dy
  scales : List Dy
  nonfin : List Nat

/-- The exact value of a code of a plain operand format, and whether it is not finite (R69, R83). -/
def plainVal (f : Format) (c : Nat) : Dy × Bool :=
  match f with
  | .int8 => (⟨(BitVec.ofNat 8 c).toInt, 0⟩, false)
  | .int32 => (⟨(BitVec.ofNat 32 c).toInt, 0⟩, false)
  | _ => let v := f.fmt.decode c
    if v.isFin then (v.dy, false) else (Dy.zero, true)

/-- The code of element e of a slab's bytes. -/
def slabCode (f : Format) (b : List Byte) (e : Nat) : Nat :=
  let p := codePos f e
  let x := leAt b p.1 1 >>> p.2
  if f.isQ4 then x % 16 else x

/-- The format in which a segment's codes of the slab are read: class 0b01 is Q4P for a Q4 base only (R122). -/
def segFormat (f : Format) (cls g : Nat) : Format := if f.isQ4 && segClass cls g == 1 then .q4p else f

/-- The scale byte of a block, and the scale it means: an invalid one is zero (R53, R54). -/
def slabScale (f : Format) (cls : Nat) (b : List Byte) (blk : Nat) : Option Dy :=
  blockScale (segFormat f cls (blk / 2)) (leAt b (scalePos f blk) 1)

/-- A slab as the input edge converter reads it: padding from element `cols` on reads as zero (R59). -/
def State.slabStretch (s : State) (n : Nat) (d : Desc) (cls cols : Nat) (b : List Byte) : Stretch :=
  { vals := (List.range 512).map (fun e =>
      if e < cols then s.codeVal n (segFormat d.fmt cls (e / 32)) d.codebook (slabCode d.fmt b e) else Dy.zero)
    scales := (List.range 32).map (fun blk => (slabScale d.fmt cls b blk).getD Dy.zero)
    nonfin := [] }

/-- Whether a block within the columns has an invalid scale (the ISCALE flag of R220). -/
def badScale (d : Desc) (cls cols : Nat) (b : List Byte) : Bool :=
  (List.range 32).any (fun blk => decide (16 * blk < cols) && (slabScale d.fmt cls b blk).isNone)

/-- Elements of a plain format (R41). -/
def plainStretch (f : Format) (b : List Byte) : Stretch :=
  let l := (List.range 512).map (fun e => if (e + 1) * f.bytes ≤ b.length then plainVal f (leAt b (e * f.bytes) f.bytes) else (Dy.zero, false))
  { vals := l.map (·.1), scales := List.replicate 32 Dy.one, nonfin := (List.range 512).filter (fun e => (l.getD e (Dy.zero, false)).2) }

/-- One segment of a fall-back record's row (R123): its 32 values and two scales. Padding from element `cols` of the segment on reads as
zero whatever the record holds there (R59, R98). -/
def State.recordStretch (s : State) (n : Nat) (d : Desc) (cls cols : Nat) (b : List Byte) : Stretch :=
  if cls == 2 then
    { vals := (List.range 32).map (fun e => if e < cols then s.codeVal n .q8c d.fbBook (leAt b e 1) else Dy.zero)
      scales := [(scaleE4 (leAt b 32 1)).getD Dy.zero, (scaleE4 (leAt b 33 1)).getD Dy.zero], nonfin := [] }
  else
    let l := (List.range 32).map (fun e => if e < cols then plainVal .bf16 (leAt b (2 * e) 2) else (Dy.zero, false))
    { vals := l.map (·.1), scales := [Dy.one, Dy.one], nonfin := (List.range 32).filter (fun e => (l.getD e (Dy.zero, false)).2) }

/-- Whether a block of a Q8C record row within the columns has an invalid scale (R53, R146). -/
def badRecordScale (cls cols : Nat) (b : List Byte) : Bool :=
  cls == 2 && (List.range 2).any (fun h => decide (16 * h < cols) && (scaleE4 (leAt b (32 + h) 1)).isNone)

/-- The class map entry as a reader takes it: a base of Q8C has no class 0b01 (R122). -/
def readClasses (n : Nat) (d : Desc) (slab : Nat) : CM Nat := do
  if d.fmt.isSlab then classEntry n d slab else return 0

/-- The glints of a slab: element index and VAL (R117). -/
def readGlints (n : Nat) (d : Desc) (slab : Nat) : CM (List (Nat × Nat)) := do
  if !d.fmt.isSlab || d.glintBase == 0 then return []
  let b := (← rdAt n d.loc (d.glintBase + 16 * slab) 16).1
  return (List.range 4).filterMap (fun q => glintSlot (leAt b (4 * q) 4))

/-- The bytes of row ρ of the fall-back record that holds segment g of a row, with their poison (R123). -/
def readRecordRow (n : Nat) (d : Desc) (row sc g : Nat) : CM (List Byte × Bool) := do
  let t := tileNo d.cols (row * d.slabs + sc) g
  let i ← rdAt n d.loc (d.fbDir + 4 * t) 4
  let r ← rdAt n d.loc (d.fbPool + 64 + 2048 * leNat i.1 + 64 * (row % 32)) 64
  return (r.1, r.2 || i.2)

/-- Read and decode row `row` of slab column sc, without its fall-back records. -/
def readSlab (n : Nat) (d : Desc) (row sc : Nat) : CM SlabData := do
  let no := row * d.slabs + sc
  let cols := d.cols - 512 * sc
  if d.fmt.isSlab then
    let b ← rdAt n d.loc (d.slabAddr no) d.fmt.slabBytes
    let cls ← readClasses n d no
    let gl ← readGlints n d no
    flagIf (badScale d cls cols b.1) 0x20
    let st := (← getS).slabStretch n d cls cols b.1
    return ⟨st.vals, st.scales, st.nonfin, cls, gl, b.2⟩
  else
    let k := min cols 512
    let b ← rdAt n d.loc (d.elemAddr row (512 * sc)) (k * d.fmt.bytes)
    let st := plainStretch d.fmt b.1
    return ⟨st.vals, st.scales, st.nonfin, 0, [], b.2⟩

/-- Replace elements from index i on. -/
def putFrom {α : Type} (l : List α) (i : Nat) (x : List α) : List α := l.take i ++ x ++ l.drop (i + x.length)

/-- A slab's data with segment g taken from its fall-back record. -/
def SlabData.withRecord (x : SlabData) (g : Nat) (st : Stretch) (poison : Bool) : SlabData :=
  { x with
    vals := putFrom x.vals (32 * g) st.vals
    scales := putFrom x.scales (2 * g) st.scales
    nonfin := x.nonfin ++ st.nonfin.map (· + 32 * g)
    poison := x.poison || poison }

/-- A slab's data with every segment of class 0b10 or 0b11 taken from its record. -/
def fillRecords (n : Nat) (d : Desc) (row sc : Nat) (x : SlabData) : CM SlabData :=
  ((List.range 16).filter (fun g => decide (segClass x.cls g ≥ 2) && decide (512 * sc + 32 * g < d.cols))).foldlM (fun a g => do
    let b ← readRecordRow n d row sc g
    let live := d.cols - (512 * sc + 32 * g)
    flagIf (badRecordScale (segClass x.cls g) live b.1) 0x20
    return a.withRecord g ((← getS).recordStretch n d (segClass x.cls g) live b.1) b.2) x

/-- The value of an element under R52, without its tensor scale: a glint's VAL where it is one (R118). -/
def SlabData.val (x : SlabData) (e : Nat) : Dy × Bool :=
  match x.glints.find? (fun g => g.1 == e) with
  | some g => plainVal .bf16 g.2
  | none => ((x.vals.getD e Dy.zero).mul (x.scales.getD (e / 16) Dy.zero), x.nonfin.contains e)

/-! ### Arithmetic (R74 to R80, R95) -/

/-- The largest floor(log2 |v|) of the non-zero values. -/
def maxLog (l : List Dy) : Option Int :=
  (l.filter (fun v => !v.isZero)).foldl (fun (a : Option Int) v => some (match a with
    | some b => max b v.log2
    | none => v.log2)) none

/-- The sum of the terms floored on the grid 2^(e − k), e being the exponent of the largest. -/
def windowSum (k : Int) (l : List Dy) : Dy :=
  match maxLog l with
  | none => Dy.zero
  | some e => ⟨(l.map (fun v => v.floorAt (e - k))).foldl (· + ·) 0, e - k⟩

/-- cell_output of R74. -/
def cellOutput (x w : List Dy) (bx bw : Dy) : Dy := ((windowSum 16 (List.zipWith Dy.mul x w)).mul bx).mul bw

/-- column_value of R75. -/
def columnValue (c : List Dy) : Dy := windowSum 19 c

/-- combine of R95. -/
def laneCombine (w v : Dy) : Dy :=
  match maxLog [w, v] with
  | none => Dy.zero
  | some g => ⟨w.floorAt (g - 27) + v.floorAt (g - 27), g - 27⟩

/-- rne_fp32(a + y) with an exact y, whose zero is +0 (R75, R76). -/
def addExact (a : Word) (y : Dy) : Word :=
  match fv a with
  | .nan _ _ => cnan
  | .inf _ => a
  | x => rne32 (x.dy.add y)

/-- The accumulate stage of R75 with its indication of R80; `nan` is a contribution under R69. DEDUCED (log entry 126): a finite y whose own
rounding is an infinity raises the indication of R80's first case also where the element is already an infinity or a NaN. -/
def accStage (beyond : Bool) (acc : Word) (y : Dy) (nan : Bool) : Word × Bool :=
  if nan then (cnan, false)
  else
    let r := if beyond then rne32 y else addExact acc y
    (r, isInf32 (rne32 y) || (!beyond && isFin32 acc && isInf32 r))

/-- The glint addition of R118. -/
def glintStage (acc : Word) (g : Dy) (nan : Bool) : Word × Bool :=
  if nan then (cnan, false) else
  let r := addExact acc g
  (r, isFin32 acc && isInf32 r)

/-! ### Splits (R81, R82) -/

/-- Truncation toward zero to 5 significant bits on the operand B grid. -/
def truncB (x : Dy) : Dy :=
  if x.isZero then Dy.zero else
  let q := max (x.log2 - 4) (-18)
  let m := x.abs.floorAt q
  ⟨if x.isNeg then -m else m, q⟩

/-- The largest exponent of a block's non-zero elements, 0 where it has none (R82). -/
def blockExp (l : List Dy) : Int := (maxLog l).getD 0

/-- Group a list in blocks of 16. -/
def blocks16 {α : Type} (l : List α) : List (List α) := (List.range (l.length / 16)).map (fun b => (l.drop (16 * b)).take 16)

/-- The element values under the block scales. -/
def Stretch.full (x : Stretch) : List Dy := x.vals.mapIdx (fun i v => v.mul (x.scales.getD (i / 16) Dy.zero))

/-- The parts in which an operand enters: hi and lo of a BF16 split (R82), the two parts of an INT8 operand (R81), or itself. -/
def Stretch.parts (x : Stretch) (split int8 : Bool) : List Stretch :=
  if split then
    let bl := blocks16 x.full
    let es := bl.map blockExp
    let r := bl.mapIdx (fun b l => l.map (fun v => v.scale (-(es.getD b 0))))
    let hi := r.map (fun l => l.map truncB)
    let lo := r.map (fun l => l.map (fun v => truncB (v.sub (truncB v))))
    let sc := es.map Dy.pow2
    [⟨hi.flatten, sc, x.nonfin⟩, ⟨lo.flatten, sc, x.nonfin⟩]
  else if int8 then
    let part (f : Int → Int) : List Dy := x.vals.map (fun v => ⟨f (v.floorAt 0), 0⟩)
    [⟨part (fun v => v / 16), x.scales.map (fun _ => Dy.ofNat 16), x.nonfin⟩, ⟨part (fun v => v % 16), x.scales.map (fun _ => Dy.one), x.nonfin⟩]
  else [x]

/-- The whole slab, or segment g of it, as a stretch. -/
def SlabData.stretch (x : SlabData) : Option Nat → Stretch
  | none => ⟨x.vals, x.scales, x.nonfin⟩
  | some g => ⟨(x.vals.drop (32 * g)).take 32, (x.scales.drop (2 * g)).take 2,
      (x.nonfin.filter (fun e => e / 32 == g)).map (· - 32 * g)⟩

def Format.wide : Format → Bool
  | .bf16 => true
  | .fp16 => true
  | _ => false

/-- Whether both operands take part in the main pass at a segment (R125). -/
def bothNarrow (a w : SlabData) (g : Nat) : Bool := decide (segClass a.cls g < 2) && decide (segClass w.cls g < 2)

/-- The cells that a pass uses: the narrow ones of the main pass, or the two of a sub-pass's segment. -/
def passCells (a w : SlabData) : Option Nat → List Nat
  | none => (List.range 32).filter (fun i => bothNarrow a w (i / 2))
  | some _ => [0, 1]

/-- Whether a sub-pass runs as a BF16 split (R125). -/
def subWide (fa fw : Format) (a w : SlabData) (g : Nat) : Bool :=
  fa.wide || fw.wide || segClass a.cls g == 3 || segClass w.cls g == 3

/-- The parts of one operand in the main pass (R81, R82) or in a sub-pass (R125). In a main pass an INT8 weight enters as it is (R81); in a
sub-pass on operand B an INT8 operand of either side enters in two parts (R125). DEDUCED (log entry 128): in a main pass of a wide and a
narrower operand, the wide one alone is split. -/
def opParts (f : Format) (act : Bool) (split : Bool) (g : Option Nat) (x : SlabData) : List Stretch :=
  (x.stretch g).parts (match g with
    | none => f.wide
    | some _ => split) (f == .int8 && (act || g.isSome))

/-- The column value of one pair of parts, with whether a non-finite element contributes (R69). -/
def partValue (cells : List Nat) (a w : Stretch) : Dy × Bool :=
  let c := cells.map (fun i => cellOutput ((a.vals.drop (16 * i)).take 16) ((w.vals.drop (16 * i)).take 16)
    (a.scales.getD i Dy.zero) (w.scales.getD i Dy.zero))
  (columnValue c, cells.any (fun i => a.nonfin.any (fun e => e / 16 == i) || w.nonfin.any (fun e => e / 16 == i)))

/-- The column values of the passes of one row against one column, weight part outer and activation part inner (R82, R532). -/
def colPasses (fa fw : Format) (a w : SlabData) (g : Option Nat) : List (Dy × Bool) :=
  let split := match g with
    | none => false
    | some k => subWide fa fw a w k
  let cells := passCells a w g
  (opParts fw false split g w).flatMap (fun pw => (opParts fa true split g a).map (fun pa => partValue cells pa pw))

/-- The glint sum of R118, with whether it makes a NaN; none when no index qualifies. -/
def glintSum (a w : SlabData) (ta tw : Dy) : Option (Dy × Bool) :=
  let ks := (a.glints ++ w.glints.filter (fun g => !a.glints.any (fun h => h.1 == g.1))).map (·.1)
  if ks.isEmpty then none
  else some (ks.foldl (fun (r : Dy × Bool) k =>
    let x := a.val k
    let y := w.val k
    (r.1.add (((x.1.mul ta).mul y.1).mul tw), r.2 || x.2 || y.2)) (Dy.zero, false))

/-! ### A pass over one core, or over one column of a Constellation rectangle -/

/-- What one core brings to a pass: its activation rows, and for each array its weight columns (none where gated, R99). -/
structure PassUnit where
  fa : Format
  ta : Dy
  rows : List SlabData
  fw : Format
  tw : Dy
  wgt : List (List SlabData)

/-- Where a pass writes: the root core, its first accumulator row, and the number of rows. -/
structure PassAt where
  root : Nat
  first : Nat
  count : Nat

def accKey (a r j : Nat) : Nat := a * 16384 + r * 32 + j
def Core.accAt (k : Core) (a r j : Nat) : Word := tabGet k.acc (accKey a r j) 0#32
def Core.accPut (k : Core) (a r j : Nat) (v : Word) : Core := { k with acc := tabSet k.acc (accKey a r j) 0#32 v }
def State.hdr (s : State) (n a t : Nat) : Word := s.rd .arrHdr n a t
def State.comp (s : State) (n a t : Nat) : Nat := getBits (s.hdr n a t) 2 0

/-- One contribution to an accumulator element: its y and NaN mark, and its glint sum. -/
structure Contribution where
  y : Dy
  nan : Bool
  glint : Option (Dy × Bool)

/-- What a list of units contributes to element (i, a, j), or none where nothing is added. -/
abbrev PassFn := Nat → Nat → Nat → Option Contribution

/-- The sum lane over the units from top to bottom; a unit without a value puts zero on it (R95, R125). -/
def laneSum (l : List (Option (Dy × Bool))) : Option (Dy × Bool) :=
  if l.all Option.isNone then none
  else
    let v := l.map (fun x => x.getD (Dy.zero, false))
    some (match v with
      | [] => (Dy.zero, false)
      | h :: t => (t.foldl (fun a x => laneCombine a x.1) h.1, v.any (·.2)))

/-- The scale of y: the tensor scales of the root's operands (R75). -/
def scaleY (us : List PassUnit) (v : Dy) : Dy :=
  match us.getLast? with
  | some u => (v.mul u.ta).mul u.tw
  | none => v

/-- Pass p of the main passes. -/
def mainFn (us : List PassUnit) (p last : Nat) : PassFn := fun i a j =>
  let cells := us.map (fun u => match u.rows[i]?, (u.wgt.getD a [])[j]? with
    | some x, some w => some (u, x, w)
    | _, _ => none)
  let vals := cells.map (fun c => c.bind (fun (u, x, w) => (colPasses u.fa u.fw x w none)[p]?))
  let gs := cells.filterMap (fun c => c.bind (fun (u, x, w) => glintSum x w u.ta u.tw))
  let g := if p != last || gs.isEmpty then none
    else some (gs.foldl (fun (r : Dy × Bool) x => (r.1.add x.1, r.2 || x.2)) (Dy.zero, false))
  if cells.all Option.isNone then none
  else match laneSum vals with
    | some v => some ⟨scaleY us v.1, v.2, g⟩
    | none => g.map (fun x => ⟨Dy.zero, false, some x⟩)

/-- Whether any of array a's weight columns of a unit is wide in segment g (R125). -/
def PassUnit.wideArray (u : PassUnit) (a g : Nat) : Bool := (u.wgt.getD a []).any (fun w => decide (segClass w.cls g ≥ 2))
def PassUnit.wideRow (u : PassUnit) (i g : Nat) : Bool :=
  match u.rows[i]? with
  | some x => decide (segClass x.cls g ≥ 2)
  | none => false

/-- Part p of the sub-pass of segment g (R125). -/
def subFn (us : List PassUnit) (g p : Nat) : PassFn := fun i a j =>
  if !us.any (fun u => u.wideRow i g || u.wideArray a g) then none
  else
    let vals := us.map (fun u => match u.rows[i]?, (u.wgt.getD a [])[j]? with
      | some x, some w => if bothNarrow x w g then none else (colPasses u.fa u.fw x w (some g))[p]?
      | _, _ => none)
    (laneSum vals).map (fun v => ⟨scaleY us v.1, v.2, none⟩)

/-- One attempt of a pass over the tiles that `only` allows: the state and the tiles with an overflow indication. -/
def passAttempt (q : PassAt) (beyond : Bool) (fn : PassFn) (only : Nat → Nat → Bool) (s : State) : State × List (Nat × Nat) :=
  let k := s.core q.root
  let idx := (List.range q.count).flatMap (fun i => (List.range 4).flatMap (fun a => (List.range 32).map (fun j => (i, a, j))))
  let r := idx.foldl (fun (st : Core × List (Nat × Nat)) x =>
    let i := x.1
    let a := x.2.1
    let j := x.2.2
    let row := q.first + i
    if !only a (row / 32) then st else
    match fn i a j with
    | none => st
    | some v =>
      let c : Int := -(16 * (s.comp q.root a (row / 32) : Nat))
      let r1 := accStage beyond (st.1.accAt a row j) (v.y.scale c) v.nan
      let r2 := match v.glint with
        | some g => glintStage r1.1 (g.1.scale c) g.2
        | none => (r1.1, false)
      (st.1.accPut a row j r2.1, if (r1.2 || r2.2) && !st.2.contains (a, row / 32) then st.2 ++ [(a, row / 32)] else st.2)) (k, [])
  (s.setCore q.root r.1, r.2)

/-- The elements of a tile. -/
def Core.tileWords (k : Core) (a t : Nat) : List Word :=
  (List.range 1024).map (fun e => k.accAt a (32 * t + e / 32) (e % 32))
def Core.putTile (k : Core) (a t : Nat) (l : List Word) : Core :=
  (List.range 1024).foldl (fun k e => k.accPut a (32 * t + e / 32) (e % 32) (l.getD e 0#32)) k

/-- The retries of one tile (R130, R131): `copy` is the tile as it stood before the attempt that overflowed. -/
def retryTile (q : PassAt) (beyond : Bool) (fn : PassFn) (a t : Nat) : Nat → List Word → State → State
  | 0, _, s => s
  | fuel + 1, copy, s =>
    let s := s.countFld .arrOvf q.root a 0 15 0 1
    let c := s.comp q.root a t
    if c ≥ 7 then s.setFld .arrHdr q.root a t 3 3 1
    else
      let copy := copy.map (fun w => scale32 w (-16))
      let s := (s.onCore q.root (fun k => k.putTile a t copy)).setFld .arrHdr q.root a t 2 0 (c + 1)
      let s := s.coreEvent q.root 0x09 1 none
      let r := passAttempt q beyond fn (fun x y => x == a && y == t) s
      if r.2.isEmpty then r.1 else retryTile q beyond fn a t fuel copy r.1

/-- One pass with its retries. -/
def onePass (q : PassAt) (beyond : Bool) (fn : PassFn) (s : State) : State :=
  let before := s.core q.root
  let r := passAttempt q beyond fn (fun _ _ => true) s
  r.2.foldl (fun s x => retryTile q beyond fn x.1 x.2 8 (before.tileWords x.1 x.2) s) r.1

/-- The tiles that a pass writes: those of its rows, in the arrays with a weight column. -/
def passTiles (us : List PassUnit) (q : PassAt) : List (Nat × Nat) :=
  ((List.range 4).filter (fun a => us.any (fun u => !(u.wgt.getD a []).isEmpty))).flatMap (fun a =>
    (List.range 16).filterMap (fun t => if q.first < 32 * t + 32 && 32 * t < q.first + q.count then some (a, t) else none))

/-- The header after a write (R148): LAST_CMD, LOADED, HAS_INF and HAS_NAN; POISON is added to. DEDUCED (log entry 135): no array pass
clears POISON, an overwrite of a whole tile included; TWRITE alone does. -/
def State.closeTile (s : State) (n a t cc : Nat) (loaded poison : Bool) : State :=
  let w := (s.core n).tileWords a t
  let h := s.hdr n a t
  let h := setBits (setBits (setBits (setBits h 31 16 cc) 7 7 (b2n loaded)) 6 6 (b2n (w.any isInf32))) 5 5 (b2n (w.any isNaN32))
  s.wr .arrHdr n a t (if poison then setBits h 4 4 1 else h)

/-- The number of passes that the units' formats make (R81, R82). -/
def passCount (us : List PassUnit) : Nat :=
  us.foldl (fun m u => Nat.max m ((if u.fa.wide || u.fa == .int8 then 2 else 1) * (if u.fw.wide then 2 else 1))) 1

/-- A whole PASS or CPASS into one root: the main passes, then the sub-passes (R125, R532). -/
def runPasses (us : List PassUnit) (q : PassAt) (acc : Bool) (cc : Nat) (poison : Nat → Nat → Bool) (s : State) : State :=
  let tiles := passTiles us q
  let whole := tiles.filter (fun x => decide (q.first ≤ 32 * x.2) && decide (32 * x.2 + 32 ≤ q.first + q.count))
  let s := if acc then s else whole.foldl (fun s x => s.setFld .arrHdr q.root x.1 x.2 3 0 0) s
  let np := passCount us
  let s := (List.range np).foldl (fun s p => onePass q (p == 0 && !acc) (mainFn us p (np - 1)) s) s
  let segs := (List.range 16).filter (fun g =>
    us.any (fun u => (List.range q.count).any (fun i => u.wideRow i g) || (List.range 4).any (fun a => u.wideArray a g)))
  let s := segs.foldl (fun s g => (List.range 4).foldl (fun s p => onePass q false (subFn us g p) s) s) s
  let s := s.coreEvent q.root 0x03 (q.count * np + segs.foldl (fun k g =>
    k + ((List.range q.count).filter (fun i => us.any (fun u => u.wideRow i g || (List.range 4).any (fun a => u.wideArray a g)))).length) 0) none
  tiles.foldl (fun s x => s.closeTile q.root x.1 x.2 cc false (poison x.1 x.2)) s

/-! ### WLOAD (R84 to R88, R214) -/

/-- The bank of a pass mode's BLOCK (R214). -/
def State.passBank (s : State) (n block : Nat) : Nat := if block = 0 then s.fld .arrEpoch n 0 0 9 9 else block - 1

def wloadBody (n : Nat) (c : Cmd) : CM Bool := do
  let (d, _) ← useDesc n (locOf c.w1) (addrOf c.w1)
  let w0 ← w3 n c 0
  let sc ← w3 n c 1
  needAll [(d.fmt.isOperand, 0x04), (w0 % 128 == 0 && decide (w0 < d.rows) && decide (sc < d.slabs), 0x06), (d.loc, 0x12)]
  needRange d
  let s ← getS
  let b := 1 - s.fld .arrEpoch n 0 0 9 9
  (List.range 4).forM (fun a => do
    let rows := (List.range 32).filter (fun j => decide (w0 + 32 * a + j < d.rows))
    let cols ← rows.mapM (fun j => readSlab n d (w0 + 32 * a + j) sc)
    modS (fun s => s.onCore n (fun k =>
      { k with banks := tabPut k.banks (bankKey a b) (some ⟨d, w0 + 32 * a, sc, cols, true, cols.any (·.poison)⟩) })))
  modS (fun s => (List.range 4).foldl (fun s a => s.setFld .arrEpoch n 0 0 (2 * a + b) (2 * a + b) 1) (s.setFld .arrEpoch n 0 0 9 9 b))
  return true

def execWload (n : Nat) (c : Cmd) (errs : List SramErr) (s : State) : Host.Outcome State Fault Refusal :=
  answer (.wload n c errs) (pilotRun n c (wloadBody n c) (s.sramErrors n errs))

/-! ### PASS and CPASS (R92 to R95, R125, R214) -/

/-- The operands of a pass. -/
structure PassArgs where
  row0 : Nat
  count : Nat
  first : Nat
  sc : Nat
  mode : PassMode

def passArgs (n : Nat) (c : Cmd) : CM PassArgs := do
  let r0 ← w3 n c 0
  let k ← w3 n c 1
  let f ← w3 n c 2
  let sc ← w3 n c 3
  let m ← passMode (← w3 n c 4)
  need (decide (1 ≤ k) && decide (k ≤ 512) && decide (f ≤ 511) && decide (f + k ≤ 512)) 0x06
  return ⟨r0, k, f, sc, m⟩

/-- The banks that a pass runs against: all four must have held a block (R214). -/
def passBanks (n : Nat) (m : PassMode) : CM (List Bank) := do
  let s ← getS
  let b := s.passBank n m.block
  match (List.range 4).mapM (fun a => tabFind (s.core n).banks (bankKey a b)) with
  | some l => return l
  | none => refuse 0x06

/-- The activation descriptor of a pass with its checks. -/
def passDesc (n : Nat) (c : Cmd) (q : PassArgs) : CM Desc := do
  let (d, _) ← useDesc n (locOf c.w1) (addrOf c.w1)
  needAll [(d.fmt.isOperand, 0x04), (decide (q.row0 + q.count ≤ d.rows) && decide (q.sc < d.slabs), 0x06), (d.loc, 0x12)]
  needRange d
  return d

/-- Both operands carry the same Prism size and seed, or both none (R114). -/
def samePrism (a w : Desc) : Bool := a.prism == w.prism && (a.prism == 0 || a.seed == w.seed)

def readRows (n : Nat) (d : Desc) (q : PassArgs) : CM (List SlabData) :=
  (List.range q.count).mapM (fun i => do fillRecords n d (q.row0 + i) q.sc (← readSlab n d (q.row0 + i) q.sc))

/-- A bank's columns with the records of their wide segments, which the sub-passes load (R125). -/
def readBank (n : Nat) (b : Bank) : CM (List SlabData) :=
  (List.range b.cols.length).mapM (fun j => match b.cols[j]? with
    | some x => fillRecords n b.desc (b.row0 + j) b.slab x
    | none => refuse 0x06)

/-- What core n brings to a pass whose rows come from a given descriptor. -/
def passUnit (n : Nat) (d : Desc) (rows : List SlabData) (banks : List Bank) : CM PassUnit := do
  let wgt ← banks.mapM (readBank n)
  let w := match banks with
    | b :: _ => b.desc
    | [] => d
  return ⟨d.fmt, dy32 d.tscale, rows, w.fmt, dy32 w.tscale, wgt⟩

/-- Whether a tile receives poison: a poisoned row of it, or a poisoned block of its array (R408). -/
def passPoison (us : List PassUnit) (q : PassAt) (a t : Nat) : Bool :=
  us.any (fun u => (u.wgt.getD a []).any (·.poison) ||
    (List.range q.count).any (fun i => decide ((q.first + i) / 32 = t) && (match u.rows[i]? with
      | some x => x.poison
      | none => false)))

/-- Run the passes of a list of units into a root core and mark the row epoch (R85). -/
def passInto (us : List PassUnit) (q : PassAt) (acc : Bool) (cc : Nat) : CM Unit := do
  modS (runPasses us q acc cc (passPoison us q))
  flagIf ((passTiles us q).any (fun x => passPoison us q x.1 x.2)) 0x200

/-- Whether an array is on watch in the Almanac (R421). -/
def State.onWatch (s : State) (n a : Nat) : Bool :=
  s.rel.entries.any (fun e => e.kind == 0 && e.cls == 0x0F && e.unit == n && e.location == a && e.st == 1)

/-- Each array counts its tile passes towards its next Lighthouse sample (R424). -/
def State.countTilePasses (s : State) (n : Nat) (us : List PassUnit) (q : PassAt) : State :=
  let tiles := passTiles us q
  (List.range 4).foldl (fun s a =>
    let k := passCount us * (tiles.filter (fun x => x.1 == a)).length
    if s.fld .logLhCtl 0 0 0 31 31 == 1 || s.onWatch n a then
      s.onCore n (fun c => { c with lhNext := tabSet c.lhNext a 0 (tabGet c.lhNext a 0 - k) })
    else s) s

def passBody (n : Nat) (c : Cmd) : CM Bool := do
  let q ← passArgs n c
  let d ← passDesc n c q
  let banks ← passBanks n q.mode
  need (banks.all (fun b => samePrism d b.desc)) 0x08
  let u ← passUnit n d (← readRows n d q) banks
  modS (fun s => s.setFld .arrEpoch n 0 0 8 8 (s.passBank n q.mode.block))
  passInto [u] ⟨n, q.first, q.count⟩ q.mode.acc ((← getS).core n).cc
  modS (fun s => s.countTilePasses n [u] ⟨n, q.first, q.count⟩)
  return true

def execPass (n : Nat) (c : Cmd) (errs : List SramErr) (s : State) : Host.Outcome State Fault Refusal :=
  answer (.pass n c errs) (pilotRun n c (passBody n c) (s.sramErrors n errs))

/-! A CPASS waits in flight until every core of its rectangle has issued the same one (R213); the last to issue runs it. -/

/-- The CPASS in flight on a core. -/
def Core.cpassFlight (k : Core) : Option Flight := k.flights.find? (fun f => f.cmd.op == 0x12)

/-- The core at row i, column j of a rectangle. -/
def Rect.at (r : Rect) (i j : Nat) : Nat := r.origin + 16 * i + j

/-- The column of units under column j of the rectangle: each row's activations come from its first column (R94). DEDUCED (log entry 127):
BLOCK 0 names in each core the bank of that core's own latest WLOAD. -/
def rectColumn (r : Rect) (c : Cmd) (q : PassArgs) (j : Nat) : CM (List PassUnit) :=
  (List.range r.h).mapM (fun i => do
    let d ← passDesc (r.at i 0) c q
    let banks ← passBanks (r.at i j) q.mode
    need (banks.all (fun b => samePrism d b.desc)) 0x08
    passUnit (r.at i j) d (← readRows (r.at i 0) d q) banks)

/-- The whole rectangle pass (R93 to R95): the bottom row accumulates. -/
def rectRun (r : Rect) (n : Nat) (c : Cmd) (q : PassArgs) : CM Unit :=
  (List.range r.w).forM (fun j => do
    let us ← rectColumn r c q j
    let root := r.at (r.h - 1) j
    modS (fun s => (List.range r.h).foldl (fun s i =>
      s.setFld .arrEpoch (r.at i j) 0 0 8 8 (s.passBank (r.at i j) q.mode.block)) s)
    let s ← getS
    let cc := match (s.core root).cpassFlight with
      | some f => f.cc
      | none => (s.core n).cc
    passInto us ⟨root, q.first, q.count⟩ q.mode.acc cc)

/-- The CPASS of the other cores ends with that of the last to issue. -/
def endFlights (l : List Nat) (err : Option (Nat × Nat)) (flags : Nat) (s : State) : State :=
  l.foldl (fun s m => match (s.core m).cpassFlight with
    | none => s
    | some f =>
      let s := s.onCore m (fun k => { k with stirred := true, flights := k.flights.filter (fun x => x.cc != f.cc) })
      match err with
      | none => s.complete m f.cmd f.cc flags
      | some e => s.failed m f.cmd f.cp f.cc e.1 flags e.2) s

def cpassBody (n : Nat) (c : Cmd) : CM Bool := do
  let q ← passArgs n c
  let s ← getS
  match s.rectOf n with
  | none => refuse 0x06
  | some r =>
    need (r.const && s.fld .arrConst n 0 0 0 0 == 1) 0x06
    if s.fld .arrConst n 0 0 1 1 == 1 then do
      let _ ← passDesc n c q
    let _ ← passBanks n q.mode
    let others := r.cores.filter (· != n)
    let vals := [q.row0, q.count, q.first, q.sc, b2n q.mode.acc + 2 * q.mode.block]
    if others.all (fun m => match (s.core m).cpassFlight with
        | some f => f.cmd == c && f.vals == vals
        | none => false) then do
      let err ← tryCatch (do
          rectRun r n c q
          return none) (fun e => return some e)
      let fl := (← get).flags
      match err with
      | none => do
        modS (endFlights others none fl)
        return true
      | some .wait => pause
      | some (.status code a) => do
        let s2 ← getS
        setS (endFlights others (some (code, a)) fl (if code < 0x40 then s else s2))
        let k := (← getS).core n
        modS (fun s => s.failed n c ((k.cp + 2 ^ 48 - 32) % 2 ^ 48) k.cc code fl a)
        return false
    else do
      modS (fun s => s.onCore n (fun k =>
        { k with flights := k.flights ++ [⟨c, (k.cp + 2 ^ 48 - 32) % 2 ^ 48, k.cc, vals, 0, 0⟩] }))
      return false

def execCpass (n : Nat) (c : Cmd) (s : State) : Host.Outcome State Fault Refusal :=
  answer (.cpass n c) (pilotRun n c (cpassBody n c) s)

/-! ### Tile reads and writes (R148 to R150) -/

/-- The addresses of a tile, on a 128-byte boundary, and of its header word, on any (R149, R150). -/
def tileAddrs (c : Cmd) : CM Unit :=
  needAll [(addrOf c.w1 % 128 == 0, 0x05),
    ((!locOf c.w1 || decide (addrOf c.w1 + 4096 ≤ shadowBase)) &&
      (!(locOf c.w2 && addrOf c.w2 != 0) || decide (addrOf c.w2 + 4 ≤ shadowBase)), 0x11)]

/-- The elements of a tile as a consumer outside the converter takes them: raw, or compensated (R131). DEDUCED (log entry 134): the
compensated form is a product at every count, so a NaN leaves it canonical (R39), also where c is 0. -/
def State.tileOut (s : State) (n a t : Nat) (comp : Bool) : List Word :=
  let w := (s.core n).tileWords a t
  if comp then w.map (fun x => scale32 x (16 * (s.comp n a t : Nat))) else w

/-- An element of a tile that holds a NaN or an infinity, with its place and address. -/
structure NonFin where
  row : Nat
  col : Nat
  va : Nat
  nan : Bool

/-- One non-finite element written to device memory (R393), and the trap of R394 if it takes it. -/
def State.nonFinite (s : State) (n p : Nat) (c : Cmd) (cc desc : Nat) (e : NonFin) : State × Bool :=
  let k := s.classOf p e.va
  let s := s.countFld .helmNfCnt 0 p k 31 0 1
  let trap := s.rd .helmNfTrap 0 p
  if e.nan && trap.getLsbD (27 + k) && !trap.getLsbD 31 then
    let w := setBits (setBits (setBits (setBits trap 31 31 1) 25 24 k) 23 16 n) 15 0 c.tag
    let s := ((s.wr .helmNfTrap 0 p 0 w).wr64 .helmNfCcLo .helmNfCcHi 0 p 0 cc).wr64 .helmNfDescLo .helmNfDescHi 0 p 0 desc
    let s := (s.wr .helmNfRow 0 p 0 (w32 e.row)).wr .helmNfCol 0 p 0 (w32 e.col)
    let s := s.log { LogRec.base 0x0E 0 p n with opcode := c.op, status := 0x45, tag := c.tag, cc := cc, addr := e.va, flags := 1 }
    (s.raise p 7 n c.tag cc, true)
  else (s, false)

/-- The non-finite elements of a tile in order; the answer says whether one of them took the trap. -/
def State.nonFinites (s : State) (n p : Nat) (c : Cmd) (cc desc : Nat) (l : List NonFin) : State × Bool :=
  l.foldl (fun r e =>
    let x := r.1.nonFinite n p c cc desc e
    (x.1, r.2 || x.2)) (s, false)

/-- Count the non-finite elements that a running command has written; a trap stops it (R394). -/
def noteNonFinite (n : Nat) (c : Cmd) (cc desc : Nat) (l : List NonFin) : CM Unit := do
  if l.isEmpty then return ()
  let p ← holderOf n
  let r := (← getS).nonFinites n p c cc desc l
  setS r.1
  if r.2 then refuse 0x45

/-- The non-finite FP32 elements of a tile at an address. -/
def tileNonFin (va : Nat) (w : List Word) : List NonFin :=
  (List.range w.length).filterMap (fun e =>
    let x := w.getD e 0#32
    if isFin32 x then none else some ⟨e / 32, e % 32, va + 4 * e, isNaN32 x⟩)

/-- TREAD (R150). DEDUCED (log entry 133): a header address named with the compensated form is ignored. -/
def treadBody (n : Nat) (c : Cmd) : CM Bool := do
  let t ← tileSel true (← w3 n c 0)
  tileAddrs c
  let s ← getS
  let h := s.hdr n t.a t.t
  let poison := h.getLsbD 4
  let w := s.tileOut n t.a t.t t.comp
  wrAt n (locOf c.w1) (addrOf c.w1) (w.flatMap (fun x => leBytes x.toNat 4)) poison
  if c.w2 != 0#64 && !t.comp then wrAt n (locOf c.w2) (addrOf c.w2) (leBytes h.toNat 4) poison
  flagIf (t.comp && (List.zipWith (fun x y => isFin32 x && isInf32 y) ((s.core n).tileWords t.a t.t) w).any id) 4
  if !locOf c.w1 then noteNonFinite n c (s.core n).cc (addrOf c.w1) (tileNonFin (addrOf c.w1) w)
  return true

def execTread (n : Nat) (c : Cmd) (s : State) : Host.Outcome State Fault Refusal :=
  answer (.tread n c) (pilotRun n c (treadBody n c) s)

def twriteBody (n : Nat) (c : Cmd) : CM Bool := do
  let t ← tileSel false (← w3 n c 0)
  tileAddrs c
  let d ← rdAt n (locOf c.w1) (addrOf c.w1) 4096
  let h ← (if c.w2 == 0#64 then return ([], false) else rdAt n (locOf c.w2) (addrOf c.w2) 4)
  let w := leNat h.1
  let poison := d.2 || h.2 || bit w 4
  let words := (List.range 1024).map (fun e => w32 (leAt d.1 (4 * e) 4))
  modS (fun s =>
    let s := (s.onCore n (fun k => k.putTile t.a t.t words)).wr .arrHdr n t.a t.t (w32 (w % 16))
    s.closeTile n t.a t.t (s.core n).cc true poison)
  flagIf poison 0x200
  return true

def execTwrite (n : Nat) (c : Cmd) (s : State) : Host.Outcome State Fault Refusal :=
  answer (.twrite n c) (pilotRun n c (twriteBody n c) s)

end Sys2Proof.Machine
end

