-- ==== Sys2Proof/Machine/Wire.lean ====
section
/-! DEFINITION. What goes over a wire: packets and flits as bytes (R317, R318), and the deficit round robin by which a link chooses its next
packet (R298, R323, R363). -/
namespace Sys2Proof

/-! ### Packets -/

/-- Flits of a packet (R318) and its credit pool (R325). -/
def Packet.flits (k : Packet) : Nat := (24 + k.payload.length + 55) / 56
def Packet.pool (k : Packet) : Nat := 2 * k.vc + k.cls
/-- The fields of TARGET in a collective packet (R361). -/
def Packet.epoch (k : Packet) : Nat := bits k.target 59 44
def Packet.dseq (k : Packet) : Nat := bits k.target 43 32
def Packet.chunk (k : Packet) : Nat := bits k.target 31 12
def Packet.inChunk (k : Packet) : Nat := bits k.target 11 0
/-- And in a BEACON packet: step, direction and hops left, which the spec gives no places (log entry 27). -/
def Packet.bStep (k : Packet) : Nat := k.chunk / 2 ^ 15
def Packet.bUp (k : Packet) : Bool := bit k.chunk 14
def Packet.bHops (k : Packet) : Nat := bits k.chunk 13 0

end Sys2Proof

namespace Sys2Proof.Machine

/-- A packet as bytes: the header of R318 and the payload. -/
def packetBytes (k : Packet) : List Byte :=
  leBytes k.lseq 2 ++ leBytes (k.vc % 4 + 4 * k.typ) 1 ++ leBytes (k.payload.length / 8) 1 ++ leBytes (k.dest % 4096) 2 ++
  leBytes (k.src % 4096 + k.part % 8 * 4096) 2 ++ leBytes (k.ttl % 32 + k.cls % 2 * 32) 1 ++ leBytes k.group 1 ++ leBytes k.incarn 2 ++
  leBytes k.sseq 4 ++ leBytes k.target 8 ++ k.payload

/-- PLEN of a header, in bytes of payload. -/
def headerPlen (b : List Byte) : Nat := 8 * bits (leAt b 3 1) 5 0

/-- The packet that bytes hold; a reserved bit that is not 0, or a PLEN above 32, shows as `rsv`. -/
def packetOf (b : List Byte) : Packet where
  lseq := leAt b 0 2
  vc := bits (leAt b 2 1) 1 0
  typ := bits (leAt b 2 1) 7 2
  dest := bits (leAt b 4 2) 11 0
  src := bits (leAt b 6 2) 11 0
  part := bits (leAt b 6 2) 14 12
  ttl := bits (leAt b 8 1) 4 0
  cls := bits (leAt b 8 1) 5 5
  group := leAt b 9 1
  incarn := leAt b 10 2
  sseq := leAt b 12 4
  target := leAt b 16 8
  payload := (b.drop 24).take (headerPlen b)
  rsv := bits (leAt b 3 1) 7 6 != 0 || bits (leAt b 4 2) 15 12 != 0 || bit (leAt b 6 2) 15 || bits (leAt b 8 1) 7 6 != 0 ||
    decide (headerPlen b > 256)

/-! ### Flits -/

/-- Bytes 0 to 59 of a flit. -/
def flitCovered (f : Flit) : List Byte :=
  f.body ++ leBytes (f.ack % 2 ^ 16 + f.cpool % 8 * 2 ^ 16 + f.ccount % 256 * 2 ^ 19 + b2n f.nak * 2 ^ 27 + b2n f.sop * 2 ^ 28 +
    b2n f.idle * 2 ^ 29 + f.top % 4 * 2 ^ 30) 4

/-- The 64 bytes of a flit. -/
def flitBytes (f : Flit) : List Byte := flitCovered f ++ leBytes f.crc 4

/-- Whether the CRC of a flit holds. -/
def flitGood (f : Flit) : Bool := f.crc == crc32 (flitCovered f)

/-- The flit with its CRC. -/
def flitSealed (f : Flit) : Flit := { f with crc := crc32 (flitCovered f) }

/-- 56 bytes of BODY. -/
def flitBody (b : List Byte) : List Byte := b ++ List.replicate (56 - b.length) 0#8

/-- A flit without packet bytes: the stream between packets, a NAK, a credit return. -/
def idleFlit (ack cpool ccount : Nat) (nak : Bool) : Flit :=
  flitSealed ⟨List.replicate 56 0#8, ack, cpool, ccount, nak, false, true, 0, 0⟩

/-- A packet as consecutive flits with the current ACK (R318, R321); where `bad`, bit 0 of the first is inverted after its CRC (R336). -/
def packetFlits (k : Packet) (ack : Nat) (bad : Bool) : List Flit :=
  let b := packetBytes k
  let fs := (List.range k.flits).map (fun i => flitSealed ⟨flitBody ((b.drop (56 * i)).take 56), ack, 0, 0, false, i == 0, false, 0, 0⟩)
  match bad, fs with
  | true, f :: t => { f with body := listSet f.body 0 (f.body.headD 0#8 ^^^ 1#8) } :: t
  | _, _ => fs

/-! ### Deficit round robin -/

/-- A flow that holds packets: its number, its weight, and the flits of the packet that it would send, none while it may not. -/
structure Flow where
  key : Nat
  weight : Nat
  size : Option Nat
  deriving DecidableEq, Repr

/-- The flow that sends next, and the round robin after it. The flows stand in rising order of number; the turn stays with a flow while its
deficit lasts. -/
def Arb.go (flows : List Flow) : Nat → Arb → Option (Nat × Arb)
  | 0, _ => none
  | fuel + 1, a =>
    match (match flows.find? (fun f => decide (a.turn ≤ f.key)) with
      | some f => some f
      | none => flows.head?) with
    | none => none
    | some f =>
      match f.size with
      | none => Arb.go flows fuel ⟨f.key + 1, true, a.deficit⟩
      | some n =>
        let d := tabGet a.deficit f.key 0 + (if a.fresh || f.key != a.turn then f.weight else 0)
        if n ≤ d then some (f.key, ⟨f.key, false, tabSet a.deficit f.key 0 (d - n)⟩)
        else Arb.go flows fuel ⟨f.key + 1, true, tabSet a.deficit f.key 0 d⟩

/-- The choice among flows. A flow without packets has no deficit; a flow of weight 0 sends only while no other may (log entry 19). -/
def Arb.pick (flows : List Flow) (a : Arb) : Option (Nat × Arb) :=
  let a := { a with deficit := a.deficit.filter (fun x => flows.any (fun f => f.key == x.1)) }
  let some_ := flows.filter (fun f => f.weight != 0)
  match Arb.go some_ (6 * some_.length) a with
  | some r => some r
  | none => Arb.go ((flows.filter (fun f => f.weight == 0)).map (fun f => { f with weight := 1 })) (6 * flows.length) a

end Sys2Proof.Machine
end

