-- ==== Sys2Proof/Machine/Fabric.lean ====
section
/-! DEFINITION. Hub-side access to a partition's memory, and the transport of the links: routing, credits, link-level retry, fault
injection, failover, requests with their duplicate window and acknowledgements (R317 to R338, R346). -/
namespace Sys2Proof.Machine

/-! ### Accesses of the hub -/

/-- A computation of the hub on a partition's memory: it changes the state, or ends early as a command's does. -/
abbrev HM := ExceptT Stop (StateM State)

/-- The initial fill runs, and the controllers accept no other request (R265): what targets memory waits at the hub. -/
def State.filling (s : State) : Bool := s.fld .lcStatus 0 0 0 31 28 == 7

/-- Read within one line. -/
def hubRdPiece (w : Who) (p va len : Nat) : HM (List Byte × Bool) := do
  let s ← get
  if s.filling then throw .wait
  match (s.part p).xlate va false with
  | .fault => throw (.status 0x43 va)
  | .away _ => throw .wait
  | .here pa _ =>
    let s := ((s.touchPage p va).memDo { w with va := some va } (fun m => m.settle pa len)).hubEvent 0x42 1 { w with va := some va }
    set s
    return s.mem.look pa len

/-- Write within one line: poison that goes to an H page is written, and consumed (R262, R409); of a poisoned TLP it is only written (R435). -/
def hubWrPiece (w : Who) (p va : Nat) (data : List Byte) (poison : Bool) : HM Unit := do
  let s ← get
  if s.filling then throw .wait
  match (s.part p).xlate va true with
  | .fault => throw (.status 0x43 va)
  | .away _ => throw .wait
  | .here pa h =>
    set ((s.touchPage p va).memDo { w with va := some va } (fun m => m.write s.grade pa data poison))
    if poison && h && w.kind != 3 then throw (.status 0x44 va)

def hubRd (w : Who) (p va len : Nat) : HM (List Byte × Bool) := do
  return joinReads (← (linePieces va len).mapM (fun x => hubRdPiece w p x.1 x.2))

def hubWr (w : Who) (p va : Nat) (data : List Byte) (poison : Bool := false) : HM Unit :=
  (linePieces va data.length).forM (fun x => hubWrPiece w p x.1 ((data.drop (x.1 - va)).take x.2) poison)

/-- A memory-side add (R254): the old value with its poison. -/
def hubAdd (w : Who) (p va : Nat) (ty : AddTy) (amount : Nat) : HM (Nat × Bool) := do
  let s ← get
  if s.filling then throw .wait
  match (s.part p).xlate va true with
  | .fault => throw (.status 0x43 va)
  | .away _ => throw .wait
  | .here pa _ =>
    let w := { w with va := some va }
    let r := s.mem.addAt ty pa amount false
    set (((s.touchPage p va).memDo w (fun _ => r.1)).hubEvent 0x46 1 w)
    return r.2

/-- Run a hub computation: its answer and the state. -/
def State.hub {α : Type} (s : State) (x : HM α) : Except Stop α × State := x.run.run s

def whoLink (l p : Nat) : Who := ⟨2, l, some p, none⟩
def whoColl (g p : Nat) : Who := ⟨5, g, some p, none⟩
def whoHelm (p : Nat) : Who := ⟨4, 0, some p, none⟩

/-! ### Packets and links -/

/-- The types of R319, and those under the window of R330, BEACON by R365 among them. -/
def packetTypes : List Nat := [0x01, 0x02, 0x03, 0x04, 0x05, 0x06, 0x07, 0x09, 0x0A, 0x0B, 0x0C]
def windowed (t : Nat) : Bool := [0x01, 0x04, 0x06, 0x07, 0x0B].contains t

def State.devId (s : State) : Nat := s.fld .lnkDevid 0 0 0 11 0
def State.incarn (s : State) : Nat := s.fld .lnkDevid 0 0 0 27 12
def State.linkState (s : State) (l : Nat) : Nat := s.fld .lnkStatus l 0 0 31 28
def State.linkUp (s : State) (l : Nat) : Bool := s.linkState l == 7
def Link.eth (x : Link) : Bool := x.ctl.getLsbD 30
def Link.dateline (x : Link) : Bool := x.ctl.getLsbD 29
def Link.ring (x : Link) : Nat := getBits x.ctl 27 24
def Link.pcp (x : Link) (v : Nat) : Nat := getBits x.ctl (3 * v + 14) (3 * v + 12)
def State.gcnt (s : State) (k : Nat) : State := s.countFld .lnkGcnt 0 k 0 31 0 1
def State.lcnt (s : State) (l k n : Nat) : State := s.countFld .lnkCnt l k 0 31 0 n

/-- The link and entry by which a packet for a device leaves (R326). -/
def State.route (s : State) (dest : Nat) : Option (Nat × Word) :=
  let pri := s.rd .lnkRoutePri 0 dest
  let alt := s.rd .lnkRouteAlt 0 dest
  let ok (w : Word) : Bool := w.getLsbD 31 && s.linkUp (getBits w 28 24)
  if ok pri then some (getBits pri 28 24, pri) else if ok alt then some (getBits alt 28 24, alt) else none

/-! ### Leaving by a link -/

/-- The LSEQ of the last packet received whole and in order (R317). -/
def Link.ack (x : Link) : Nat := (x.expect + 65535) % 65536

/-- Flits go out with the current ACK (R321). -/
def State.sendFlits (s : State) (l : Nat) (fs : List Flit) : State := (s.onLink l (fun x => { x with told := x.ack })).emit (.flits l fs)

/-- What the MGMT packets of a link carry by their TARGET (R325, R368; log entry 139). -/
def mgmtMarker : Nat := 0
def mgmtEcho : Nat := 1
def mgmtRequest : Nat := 2
def mgmtResponse : Nat := 3

/-- The payload of a MGMT packet as its first flit leaves: the counts of an echo, t1 of a request, t3 of a response (R325, R368). -/
def State.stamp (s : State) (l : Nat) (k : Packet) : Packet :=
  if k.typ != 0x0C then k
  else if k.target == mgmtEcho then { k with payload := (((s.link l).echo).getD (List.replicate 8 0)).flatMap (fun n => leBytes n 2) }
  else if k.target == mgmtRequest then { k with payload := leBytes s.now 8 }
  else if k.target == mgmtResponse then { k with payload := k.payload.take 8 ++ leBytes s.now 8 ++ k.payload.drop 16 }
  else k

/-- The credits available in each pool (R343). -/
def State.avail (s : State) (l : Nat) : List Nat := (List.range 8).map (fun k => s.fld .lnkCredit l k 0 10 0)

/-- Add n to element k of a list of pools. -/
def poolAdd (ps : List Nat) (k n : Nat) : List Nat := listSet ps k (ps.getD k 0 + n)
def poolSub (ps : List Nat) (k n : Nat) : List Nat := listSet ps k (ps.getD k 0 - n)

/-- Put a packet on the wire: in native mode with the next LSEQ, kept for replay, its credits spent (R320, R324); in Ethernet mode in a
frame of its own, addressed by the entry that routed it (R334). A census marker leaves with A recorded (R325). -/
def State.wire (s : State) (l : Nat) (q : Queued) (bad : Bool) : State :=
  let x := s.link l
  let k := q.pkt
  let s := s.hubEvent 0x47 k.flits ⟨2, l, if k.src == s.devId then some k.part else none, none⟩
  if x.eth then
    let base := s.rd64 .lnkMacBaseLo .lnkMacBaseHi
    s.emit (.frame l (base + 32 * getBits q.via 11 0 + getBits q.via 21 17) (base + 32 * s.devId + l) (x.pcp k.vc) (s.fld .lnkFabric 0 0 0 11 0)
      (s.fld .lnkFabric 0 0 0 31 16) { k with lseq := 0 } bad)
  else
    let k := s.stamp l { k with lseq := x.nextLseq }
    let s := s.onLink l (fun x => { x with
      nextLseq := (x.nextLseq + 1) % 65536, replay := x.replay ++ [(k, 1)], spent := poolAdd x.spent k.pool k.flits })
    let s := s.setFld .lnkCredit l k.pool 0 10 0 (s.fld .lnkCredit l k.pool 0 10 0 - k.flits)
    let s :=
      if k.typ == 0x0C && k.target == mgmtMarker then s.onLink l (fun x => { x with markA := some (s.avail l), markR := List.replicate 8 0 })
      else if k.typ == 0x0C && k.target == mgmtEcho then s.onLink l (fun x => { x with echo := none })
      else s
    s.sendFlits l (packetFlits k x.ack bad)

/-- Whether a link may take a packet now (R322, R324, R335). -/
def State.ready (s : State) (l : Nat) (k : Packet) : Bool :=
  let x := s.link l
  s.linkUp l && (if x.eth then !x.paused.contains (x.pcp k.vc)
    else decide (k.flits ≤ s.fld .lnkCredit l k.pool 0 10 0) && decide (x.replay.length < 2048))

/-- Whether rule r of a link matches a packet (R336). -/
def State.fiMatches (s : State) (l r : Nat) (k : Packet) : Bool :=
  let w := s.rd .lnkFiMatch l r
  w.getLsbD 31 && (getBits w 28 25).testBit k.vc && (w.getLsbD 24 || getBits w 23 12 == k.src) &&
  (w.getLsbD 11 || getBits w 10 3 == k.group)

/-- Whether match number n of a rule fires (R336, R345). -/
def fires (act : Word) (n : Nat) : Bool :=
  let first := Nat.max (getBits act 11 0) 1
  let every := getBits act 23 12
  n == first || (every != 0 && decide (first < n) && (n - first) % every == 0)

/-- Count a packet in every rule that it matches, and the action of the rule of highest priority among them, where it fires (R336, R337). -/
def State.inject (s : State) (l : Nat) (k : Packet) : Option Word × State :=
  let ms := (List.range 8).filter (fun r => s.fiMatches l r k)
  match ms with
  | [] => (none, s)
  | r0 :: t =>
    let r := t.foldl (fun a b => if s.fld .lnkFiMatch l a 0 30 29 < s.fld .lnkFiMatch l b 0 30 29 then b else a) r0
    let s := s.onLink l (fun x => { x with fiMatch := ms.foldl (fun m i => tabSet m i 0 (tabGet m i 0 + 1)) x.fiMatch })
    let act := s.rd .lnkFiAct l r
    if fires act (tabGet (s.link l).fiMatch r 0) then (some act, s.countFld .lnkFiStat l r 0 31 0 1) else (none, s)

/-- A packet of virtual channel v has left: the packets held back in it count it (R336). -/
def State.passed (s : State) (l v : Nat) : State :=
  s.onLink l (fun x => { x with held := x.held.map (fun h => if h.1.pkt.vc == v then (h.1, h.2 - 1) else h) })

/-- Packets held back by a reorder whose count has run out leave, each a later packet of its channel for those still held (R336). -/
def State.releaseHeld (s : State) (l : Nat) : Nat → State
  | 0 => s
  | fuel + 1 =>
    match (s.link l).held.find? (fun h => h.2 == 0 && s.ready l h.1.pkt) with
    | none => s
    | some h => (((s.onLink l (fun x => { x with held := x.held.erase h })).wire l h.1 false).passed l h.1.pkt.vc).releaseHeld l fuel

/-- A packet leaves and is counted. -/
def State.leave (s : State) (l : Nat) (q : Queued) (bad : Bool) : State :=
  let s := (s.wire l q bad).passed l q.pkt.vc
  s.releaseHeld l (s.link l).held.length

/-- A packet leaves, under the rule that acts on it (R336). The second copy of a duplicate goes as soon as it has credits of its own. -/
def State.leaveLink (s : State) (l : Nat) (q : Queued) : State :=
  let r := s.inject l q.pkt
  let s := r.2
  match r.1 with
  | none => s.leave l q false
  | some act =>
    match getBits act 31 30 with
    | 0 => s
    | 1 => s.leave l q true
    | 2 => s.onLink l (fun x => { x with held := x.held ++ [(q, Nat.max (getBits act 29 24) 1)] })
    | _ =>
      let s := s.leave l q false
      (s.onLink l (fun x => { x with held := (q, 0) :: x.held })).releaseHeld l ((s.link l).held.length + 1)

/-! ### Order of leaving (R298, R323, R327, R363; log entry 19) -/

/-- The local group that a request of this device serves. -/
def State.groupOfPkt (s : State) (k : Packet) : Option Nat :=
  (s.fabric.groups.find? (fun x => x.2.part == k.part && x.2.members.contains (k.dest, k.group))).map (·.1)

/-- The oldest packet of a list that may leave: one of a pool for whose packet ahead of it there is no room waits with it. -/
def State.mayLeave (s : State) (l : Nat) (qs : List Queued) : Option Queued :=
  (qs.foldl (fun (a : List Nat × Option Queued) q =>
    if a.2.isSome || a.1.contains q.pkt.pool then a
    else if s.ready l q.pkt then (a.1, some q) else (q.pkt.pool :: a.1, none)) ([], none)).2

/-- Choose by the arbiter `key` among flows given by number, weight and the packet that each would send, with the arbiters below as that
packet leaves them. -/
def chooseBy (arbs : Tab Arb) (key : Nat) (flows : List (Nat × Nat × Option (Queued × Tab Arb))) : Option (Queued × Tab Arb) :=
  match Arb.pick (flows.map (fun f => ⟨f.1, f.2.1, f.2.2.map (fun c => c.1.pkt.flits)⟩)) (tabGet arbs key Arb.init) with
  | none => none
  | some (k, a) => match flows.find? (fun f => f.1 == k) with
    | some (_, _, some (q, t)) => some (q, tabSet t key Arb.init a)
    | _ => none

/-- Among the packets of partition p in VC 0: by group, with the weights of R363. -/
def State.chooseGroup (s : State) (l p : Nat) (qs : List Queued) (arbs : Tab Arb) : Option (Queued × Tab Arb) :=
  let of (q : Queued) : Nat := (s.groupOfPkt q.pkt).getD 256
  let gs := sortOn id ((qs.map of).eraseDups)
  chooseBy arbs (16 + p) (gs.map (fun g =>
    (g, if g < 256 then Nat.max (s.fld .collGroupCfg 0 g 0 19 12) 1 else 1, (s.mayLeave l (qs.filter (fun q => of q == g))).map (fun q => (q, arbs)))))

/-- Among this device's packets in VC 0 or VC 1: by partition, with the shares of R298. -/
def State.choosePart (s : State) (l v : Nat) (qs : List Queued) (arbs : Tab Arb) : Option (Queued × Tab Arb) :=
  chooseBy arbs (1 + v) (((List.range 8).map (fun p => (p, qs.filter (fun q => q.pkt.part == p)))).filterMap (fun x =>
    if x.2.isEmpty then none else
    let sh := tabGet (s.part x.1).shares l (0, 0)
    some (x.1, if v = 0 then sh.1 else sh.2,
      if v = 0 then s.chooseGroup l x.1 x.2 arbs else (s.mayLeave l x.2).map (fun q => (q, arbs)))))

/-- Within a virtual channel: VC 2, VC 3 and transit traffic are not divided, so a transit packet goes where it is the oldest that may leave. -/
def State.chooseIn (s : State) (l v : Nat) (qs : List Queued) (arbs : Tab Arb) : Option (Queued × Tab Arb) :=
  match s.mayLeave l qs with
  | none => none
  | some q =>
    if v < 2 && q.pkt.src == s.devId then s.choosePart l v (qs.filter (fun q => q.pkt.src == s.devId)) arbs else some (q, arbs)

/-- The next packet of a link, at a packet boundary (R323). -/
def State.choose (s : State) (l : Nat) : Option (Queued × Tab Arb) :=
  let x := s.link l
  chooseBy x.arbs 0 (((List.range 4).map (fun v => (v, x.waiting.filter (fun q => q.pkt.vc == v)))).filterMap (fun y =>
    if y.2.isEmpty then none else
    some (y.1, Nat.max (s.fld .lnkVcWeight l 0 0 (8 * y.1 + 7) (8 * y.1)) 1, s.chooseIn l y.1 y.2 x.arbs)))

/-- Packets leave while one may: those failed over first, each in its order (R327). -/
def State.pump (s : State) (l : Nat) : Nat → State
  | 0 => s
  | fuel + 1 =>
    match (s.link l).ahead with
    | q :: t => if s.ready l q.pkt then ((s.onLink l (fun x => { x with ahead := t })).leaveLink l q).pump l fuel else s
    | [] => match s.choose l with
      | none => s
      | some (q, arbs) => ((s.onLink l (fun x => { x with waiting := x.waiting.erase q, arbs := arbs })).leaveLink l q).pump l fuel

/-- A link sends what it can. -/
def State.pumpPass (s : State) (l : Nat) : State :=
  let s := s.releaseHeld l (s.link l).held.length
  s.pump l ((s.link l).ahead.length + (s.link l).waiting.length)

/-! ### Routing -/

/-- The class of a packet that leaves by link `out` (R329). `arr` is the ring it came by. -/
def State.classOfHop (s : State) (arr : Option Nat) (out : Nat) (k : Packet) : Packet :=
  let x := s.link out
  let c := match arr with
    | some r => if r == x.ring then k.cls else 0
    | none => 0
  { k with cls := if x.dateline then 1 else c }

/-- Queue a packet for a link and let the link send what it can. -/
def State.toLink (s : State) (l : Nat) (q : Queued) : State :=
  (s.onLink l (fun x => { x with waiting := x.waiting ++ [q] })).pumpPass l

/-- A MGMT packet to the neighbour on a link, on VC 3 (R319). -/
def State.mgmt (s : State) (l code : Nat) (payload : List Byte) : State :=
  s.toLink l ⟨⟨0, 3, 0x0C, s.fld .lnkPeer l 0 0 11 0, s.devId, 0, 31, 0, 0, s.incarn, 0, code, payload, false⟩, 0#32⟩

/-- A packet of this device goes on its way: delivered by the hub itself where it is for this device (R326). False: it is unroutable. -/
def State.launch (s : State) (k : Packet) : State × Bool :=
  if k.dest == s.devId then (s.emit (.toSelf k), true) else
  match s.route k.dest with
  | some (l, w) => (s.toLink l ⟨s.classOfHop none l k, w⟩, true)
  | none => (s.gcnt 1, false)

/-- A payload padded to the 8-byte units of PLEN (R318; log entry 22). -/
def padded (b : List Byte) : List Byte := b ++ List.replicate ((8 - b.length % 8) % 8) 0#8

/-- A packet of this device that is no request. -/
def State.plainPacket (s : State) (typ vc dest part group sseq target : Nat) (payload : List Byte) : State :=
  (s.launch ⟨0, vc, typ, dest, s.devId, part, 31, 0, group, s.incarn, sseq, target, payload, false⟩).1

/-- What becomes of a packet that finds no route (R329): a request of this device is lost, another's is named to its source by an
UNREACH whose TARGET holds the destination (log entry 20). -/
def State.answerUnroutable (s : State) (k : Packet) : State :=
  if !windowed k.typ then s
  else if k.src == s.devId then s.onFabric (fun f => { f with lost := f.lost ++ [(k.dest, k.sseq)] })
  else s.plainPacket 0x0A 3 k.src k.part 0 k.sseq k.dest []

/-- A packet for another device is forwarded (R328, R329). -/
def State.transit (s : State) (l : Nat) (k : Packet) : State :=
  if k.ttl = 0 then (s.gcnt 2).answerUnroutable k else
  let k := { k with ttl := k.ttl - 1 }
  match s.route k.dest with
  | some (out, w) => s.toLink out ⟨s.classOfHop (some (s.link l).ring) out k, w⟩
  | none => (s.gcnt 1).answerUnroutable k

/-- A packet of a failed link is routed again, its header unchanged, ahead of every packet that has not been sent (R327). -/
def State.reroute (s : State) (k : Packet) : State :=
  match s.route k.dest with
  | some (out, w) => s.onLink out (fun x => { x with ahead := x.ahead ++ [⟨k, w⟩] })
  | none => (s.gcnt 1).answerUnroutable k

/-! ### Requests (R330 to R333) -/

def State.dest (s : State) (d : Nat) : Dest := tabGet s.fabric.dests d Dest.init
def State.onDest (s : State) (d : Nat) (f : Dest → Dest) : State :=
  s.onFabric (fun x => { x with dests := tabSet x.dests d Dest.init (f (tabGet x.dests d Dest.init)) })

/-- Whether another request fits (R331). -/
def Dest.room (x : Dest) (k : Packet) : Bool :=
  decide (x.unacked.length < 1024) && (k.typ != 0x04 || decide ((x.unacked.filter (fun u => u.pkt.typ == 0x04)).length < 64))

/-- A request leaves for the first time. -/
def State.sendRequest (s : State) (d : Nat) (u : Unacked) : State :=
  let s := s.onDest d (fun x => { x with unacked := x.unacked ++ [u] })
  let r := s.launch u.pkt
  if r.2 then r.1 else r.1.answerUnroutable u.pkt

/-- Requests that wait in the hub go as room appears, in order. -/
def State.refill (s : State) (d : Nat) : Nat → State
  | 0 => s
  | fuel + 1 =>
    match (s.dest d).waiting with
    | u :: t => if (s.dest d).room u.pkt then ((s.onDest d (fun x => { x with waiting := t })).sendRequest d u).refill d fuel else s
    | [] => s

/-- Make a request to a device: its SSEQ is the next (R330). -/
def State.request (s : State) (typ vc d part group target : Nat) (payload : List Byte) (loc : Option Nat) : State × Nat :=
  let q := (s.dest d).next
  let u : Unacked := ⟨⟨0, vc, typ, d, s.devId, part, 31, 0, group, s.incarn, q, target, payload, false⟩, 0, loc⟩
  let s := s.onDest d (fun x => { x with next := (q + 1) % 2 ^ 32 })
  if (s.dest d).waiting.isEmpty && (s.dest d).room u.pkt then (s.sendRequest d u, q)
  else (s.onDest d (fun x => { x with waiting := x.waiting ++ [u] }), q)

/-- A request has its answer and is no longer kept. -/
def State.retireRequest (s : State) (d q : Nat) : State :=
  (s.onDest d (fun x => { x with unacked := x.unacked.filter (fun u => u.pkt.sseq != q) })).refill d 1024

/-- Serial arithmetic: a comes after b. -/
def serialAfter (w a b : Nat) : Bool :=
  let d := (a % 2 ^ w + 2 ^ w - b % 2 ^ w) % 2 ^ w
  decide (0 < d) && decide (d < 2 ^ (w - 1))

/-- Whether an incarnation is older than the newest seen (R330). -/
def Src.older (x : Src) (i : Nat) : Bool := x.seen && serialAfter 16 x.inc i

/-- accept of R330: whether the request is performed, the window afterwards, and whether the incarnation is new. -/
def Src.accept (x : Src) (i q : Nat) : Bool × Src × Bool :=
  if x.older i then (false, x, false) else
  let fresh := !x.seen || serialAfter 16 i x.inc
  let y : Src := if fresh then ⟨true, i, (q + 2 ^ 32 - 1) % 2 ^ 32, [], []⟩ else x
  let renew := fresh && x.seen
  if serialAfter 32 q y.high then
    (true, { y with high := q, marks := q :: y.marks.filter (fun m => decide ((q + 2 ^ 32 - m) % 2 ^ 32 ≤ 1023)) }, renew)
  else if decide ((y.high + 2 ^ 32 - q) % 2 ^ 32 ≤ 1023) && !y.marks.contains q then (true, { y with marks := q :: y.marks }, renew)
  else (false, y, renew)

def State.src (s : State) (d : Nat) : Src := tabGet s.fabric.srcs d Src.init
def State.setSrc (s : State) (d : Nat) (x : Src) : State := s.onFabric (fun f => { f with srcs := tabSet f.srcs d Src.init x })

/-- The end-to-end acknowledgement of one request (R331; log entry 20): TARGET counts the SSEQs, which the payload holds in 4 bytes each. -/
def State.acknowledge (s : State) (k : Packet) : State :=
  s.plainPacket 0x09 k.vc k.src k.part 0 0 1 (leBytes k.sseq 4 ++ leBytes 0 4)

/-! ### Arrival -/

/-- The flits of a packet leave the receive buffer of its link; their credits are owed to the sender (R324). -/
def State.freeFlits (s : State) (l : Nat) (k : Packet) : State :=
  if l < 32 && !(s.link l).eth && s.linkUp l then
    s.onLink l (fun x => { x with
      occupied := poolSub x.occupied k.pool k.flits
      owed := poolAdd x.owed k.pool k.flits })
  else s

/-- A packet that has arrived: forwarded where it is for another device (R328), but for a MGMT packet, which is link-local (R319); handled
where it is for this one; `none`: it waits. -/
def packetTry (l : Nat) (k : Packet) (f : State → Option State) (s : State) : Option State :=
  let t := s.freeFlits l k
  if k.dest == s.devId then f t else if k.typ == 0x0C then some t else some (t.transit l k)

/-- The same, where a packet that waits leaves the state as it is (log entry 11). -/
def packetIn (l : Nat) (k : Packet) (f : State → Option State) (s : State) : State := (packetTry l k f s).getD s

/-! ### The Meridian master (R369) -/

def nativeUp (s : State) (l : Nat) : Bool := s.linkUp l && !(s.link l).eth

/-- (PRIO, DEVID) in order. -/
def merBefore (a b : Nat × Nat) : Bool := decide (a.1 < b.1) || (a.1 == b.1 && decide (a.2 < b.2))

def State.merSelf (s : State) : Nat × Nat := (s.fld .collMerCfg 0 0 0 7 0, s.devId)

/-- What the links that are UP in native mode offer: link, (PRIO, DEVID), hops. -/
def State.merOffered (s : State) : List (Nat × (Nat × Nat) × Nat) :=
  (s.fabric.merOffers.filter (fun o => nativeUp s o.1)).map (fun o => (o.1, (o.2.1, o.2.2.1), o.2.2.2))

/-- The master, and the parent link with the hops to it; none where this device has no better candidate (R369, R337). -/
def State.merChoice (s : State) : (Nat × Nat) × Option (Nat × Nat) :=
  let os := s.merOffered
  let best := os.foldl (fun a o => if merBefore o.2.1 a then o.2.1 else a) s.merSelf
  if best == s.merSelf then (best, none)
  else match os.filter (fun o => o.2.1 == best) with
    | [] => (best, none)
    | o :: t =>
      let p := t.foldl (fun a b => if b.2.2 < a.2.2 then b else a) o
      (best, some (p.1, p.2.2 + 1))

/-- Take the choice of master and parent into COLL_MER_STATUS; another parent or master begins ACQUIRE afresh (log entry 32). -/
def State.merChoose (s : State) : State :=
  let c := s.merChoice
  let was := (s.fabric.merPrio, s.fabric.merDev)
  let s := s.onFabric (fun f => { f with merPrio := c.1.1, merDev := c.1.2 })
  match c.2 with
  | none => (((s.setFld .collMerStatus 0 0 0 31 30 0).setFld .collMerStatus 0 0 0 29 29 1).setFld .collMerStatus 0 0 0 23 17 0).onFabric
      (fun f => { f with merRatePpm := 0, merGood := 0 })
  | some (l, h) =>
    let same := s.fld .collMerStatus 0 0 0 29 29 == 0 && s.fld .collMerStatus 0 0 0 31 30 != 0 &&
      s.fld .collMerStatus 0 0 0 28 24 == l && c.1 == was
    let s := ((s.setFld .collMerStatus 0 0 0 29 29 0).setFld .collMerStatus 0 0 0 28 24 l).setFld .collMerStatus 0 0 0 23 17 h
    if same then s else (s.setFld .collMerStatus 0 0 0 31 30 1).onFabric (fun f => { f with merGood := 0 })

/-- The sizes of the 8 pools of a receive buffer of 1,024 flits (R324): the image's, each at least 5 flits. -/
def State.pools (s : State) : List Nat :=
  match s.start.image with
  | some im => im.sections.pools
  | none => List.replicate 8 0

/-! ### Going down and coming back (R312, R313, R327) -/

/-- Enter a state. What is known of the peer lasts from CONFIG as long as the link is UP (R342). -/
def State.setLinkState (s : State) (l st : Nat) : State :=
  let s := s.setFld .lnkStatus l 0 0 31 28 st
  if st == 7 then s else s.wr .lnkPeer l 0 0 0#32

/-- Entry to DETECT takes MODE, DATELINE, RING and PCP (R340). -/
def State.enterDetect (s : State) (l : Nat) : State :=
  (s.setLinkState l 4).onLink l (fun x => { x with ctl := s.rd .lnkCtl l })

/-- The packets of the failed link find their new links, the replay buffer first, each in its order (R327); link-local ones end with it. -/
def State.failover (s : State) (l : Nat) : State :=
  let x := s.link l
  let ks := (x.replay.map (·.1) ++ (x.held.map (·.1) ++ x.ahead ++ x.waiting).map (·.pkt)).filter (fun k => k.typ != 0x0C)
  let s := s.onLink l (fun x => { x with replay := [], held := [], ahead := [], waiting := [] })
  let s := ks.foldl (fun s k => s.reroute k) s
  (List.range 32).foldl (fun s i => if (s.link i).ahead.isEmpty then s else s.pumpPass i) s

/-- An UP link enters DOWN (R313): credits and census go, the receive buffer drains, its packets fail over, and what it offered of the Meridian
master is gone (R369). -/
def State.linkDown (s : State) (l : Nat) : State :=
  let s := (s.setLinkState l 8).setFld .lnkStatus l 0 0 27 26 0
  let s := s.lcnt l 4 1
  let s := (List.range 8).foldl (fun s k => s.wr .lnkCredit l k 0 0#32) s
  let s := s.onLink l (fun x => { x with
    nextLseq := 0, expect := 0, naking := false, acked := 0xFFFF, told := 0xFFFF, partly := [], active := [], spent := List.replicate 8 0
    free := List.replicate 8 0, occupied := List.replicate 8 0, owed := List.replicate 8 0, markA := none, markR := [], echo := none
    paused := [], pausing := [] })
  (s.failover l).merChoose

/-- A record of a link fault: class 0x0C (R407). -/
def State.linkRecord (s : State) (l : Nat) : State := s.log (LogRec.base 0x0C 2 0xF l)

/-! ### Link-level retry (R320 to R322) -/

/-- The packets from ACK + 1 on go again; at the ninth sending without an acknowledgement the link goes down instead (R321, R322). -/
def State.replayLink (s : State) (l : Nat) : State :=
  let x := s.link l
  if x.replay.isEmpty then s
  else if x.replay.any (fun r => decide (r.2 ≥ 9)) then (s.linkDown l).linkRecord l
  else
    let s := (s.lcnt l 1 1).hubEvent 0x48 1 ⟨2, l, none, none⟩
    let s := s.onLink l (fun x => { x with replay := x.replay.map (fun r => (r.1, r.2 + 1)) })
    x.replay.foldl (fun s r =>
      (s.hubEvent 0x47 r.1.flits ⟨2, l, if r.1.src == s.devId then some r.1.part else none, none⟩).sendFlits l (packetFlits r.1 x.ack false)) s

def replayTimeout (l : Nat) (s : State) : State := if s.linkUp l && !(s.link l).eth then s.replayLink l else s

def execReplayTimeout (l : Nat) (s : State) : Host.Outcome State Fault Refusal :=
  answer (.replayTimeout l) (replayTimeout l s)

/-- One NAK (R320). -/
def State.sendNak (s : State) (l : Nat) : State :=
  if (s.link l).naking then s
  else (s.onLink l (fun x => { x with naking := true })).sendFlits l [idleFlit (s.link l).ack 0 0 true]

/-- The packet that a flit completes (R319, R320). A MGMT packet is taken at the link, and its flits are free at once. -/
def State.takePacket (s : State) (l : Nat) (k : Packet) : State :=
  let x := s.link l
  if k.lseq == x.expect then
    let s := s.onLink l (fun x => { x with
      expect := (x.expect + 1) % 65536, naking := false
      free := poolSub x.free k.pool k.flits, occupied := poolAdd x.occupied k.pool k.flits })
    if k.rsv || !packetTypes.contains k.typ then (s.gcnt 3).freeFlits l k
    else if k.typ == 0x0C then s.freeFlits l k
    else s
  else if !serialAfter 16 k.lseq ((x.expect + 65535) % 65536) then s
  else s.sendNak l

/-- The bytes of a packet begun after a flit, and the packet that the flit completes (R317, R318). -/
def takeBody (partly : List Byte) (f : Flit) : List Byte × Option Packet :=
  if f.idle then (partly, none) else
  let b := if f.sop then f.body else if partly.isEmpty then [] else partly ++ f.body
  if b.isEmpty then ([], none)
  else if b.length ≥ 24 + headerPlen b then ([], some (packetOf b)) else (b, none)

/-- A flit with its ACK, credit return and NAK, and the packet that it completes (R317, R320, R324). A flit that fails its CRC ends the packet
it belongs to. -/
def flitReceive (l : Nat) (f : Flit) (fec : Fec) (s : State) : State :=
  if !s.linkUp l || (s.link l).eth then s else
  let s := (s.lcnt l 3 fec.corrected).lcnt l 2 fec.lost
  if !flitGood f then ((s.lcnt l 0 1).onLink l (fun x => { x with partly := [] })).sendNak l
  else
    let r := takeBody (s.link l).partly f
    let s := s.onLink l (fun x => { x with
      acked := f.ack
      partly := r.1
      replay := x.replay.filter (fun r => serialAfter 16 r.1.lseq f.ack)
      spent := poolSub x.spent f.cpool f.ccount
      markR := if x.markA.isSome then poolAdd x.markR f.cpool f.ccount else x.markR })
    let s := s.setFld .lnkCredit l f.cpool 0 10 0 (s.fld .lnkCredit l f.cpool 0 10 0 + f.ccount)
    let s := if f.nak then s.replayLink l else s
    if !s.linkUp l then s else
    let s := match r.2 with
      | some k => s.takePacket l k
      | none => s
    s.pumpPass l

def execFlitReceive (l : Nat) (f : FlitIn) (s : State) : Host.Outcome State Fault Refusal :=
  answer (.flitReceive l f) (flitReceive l f.flit f.fec s)

/-! ### Credit census (R325) -/

/-- The sender's census marker; A is recorded as it leaves. -/
def creditCensus (l : Nat) (s : State) : State := if !nativeUp s l then s else s.mgmt l mgmtMarker []

def execCreditCensus (l : Nat) (s : State) : Host.Outcome State Fault Refusal :=
  answer (.creditCensus l) (creditCensus l s)

/-- The receiver of a marker records O + P; credits that it returns before the echo leaves come off them. -/
def censusMarker (l : Nat) (s : State) : State :=
  if !nativeUp s l then s else
  (s.onLink l (fun x => { x with echo := some ((List.range 8).map (fun k => x.occupied.getD k 0 + x.owed.getD k 0)) })).mgmt l mgmtEcho
    (List.replicate 16 0#8)

def execCensusMarker (l : Nat) (s : State) : Host.Outcome State Fault Refusal :=
  answer (.censusMarker l) (censusMarker l s)

/-- The sender compares A + R + O + P with the advertised total of every pool. -/
def censusEcho (l : Nat) (counts : List Nat) (s : State) : State :=
  if !nativeUp s l then s else
  match (s.link l).markA with
  | none => s
  | some a =>
    let r := (s.link l).markR
    let s := s.onLink l (fun x => { x with markA := none, markR := [], badPool := none })
    let left (k : Nat) : Nat := a.getD k 0 + r.getD k 0 + counts.getD k 0
    match (List.range 8).find? (fun k => left k != s.fld .lnkCredit l k 0 26 16) with
    | none => s
    | some k =>
      let s := s.onLink l (fun x => { x with badPool := some (k, left k, s.fld .lnkCredit l k 0 26 16) })
      ((s.setFld .lnkStatus l 0 0 13 13 1).lcnt l 5 1).log (LogRec.base 0x0B 2 0xF l)

def execCensusEcho (l : Nat) (counts : List Nat) (s : State) : Host.Outcome State Fault Refusal :=
  answer (.censusEcho l counts) (censusEcho l counts s)

end Sys2Proof.Machine
end

