-- ==== Sys2Proof/Machine/Groups.lean ====
section
/-! DEFINITION. Collective groups: their states, member tables, cards, formation, breaking and the retirement of descriptors
(R347 to R356, R361, R371). -/
namespace Sys2Proof.Machine

/-! ### Accesses of Helm and the engines that never wait -/

/-- The swapped-out bytes of a page (R289). -/
def Part.swapPage (x : Part) (slot : Nat) : SwapPage := (x.swap.find? (fun w => w.slot == slot)).getD ⟨slot, [], []⟩

/-- Write within one page of a partition, wherever the page is: an access of Helm or of an engine to a page in the swap area acts on its
copy there (log entry 21). What is not mapped is left out. -/
def State.pokeByte (s : State) (p va : Nat) (b : Byte) : State :=
  let x := s.part p
  match x.page? va with
  | none => s
  | some g => match g.frame with
    | some f => s.memDo (whoHelm p) (fun m => m.write s.grade (f + (va - g.va)) [b] false)
    | none =>
      let w := x.swapPage g.slot
      s.setPart p { x with swap := insertOn (·.slot) { w with bytes := tabSet w.bytes (va - g.va) 0#8 b } (x.swap.filter (fun y => y.slot != g.slot)) }

def State.poke (s : State) (p va : Nat) : List Byte → State
  | [] => s
  | b :: t => (s.pokeByte p va b).poke p (va + 1) t

/-- Read the same way; none where a byte is not mapped. -/
def State.peek (s : State) (p va len : Nat) : Option (List Byte) :=
  let x := s.part p
  let m := s.mem
  (List.range len).mapM (fun i => match x.page? (va + i) with
    | none => none
    | some g => match g.frame with
      | some f => some (leNat ((m.settle (f + (va + i - g.va)) 1).look (f + (va + i - g.va)) 1).1 |> BitVec.ofNat 8)
      | none => some (tabGet (x.swapPage g.slot).bytes (va + i - g.va) 0#8))

/-! ### Registers of a group -/

def State.gState (s : State) (g : Nat) : Nat := s.fld .collGroup 0 g 0 31 29
def State.setGState (s : State) (g st reason : Nat) : State :=
  (s.setFld .collGroup 0 g 0 31 29 st).setFld .collGroup 0 g 0 28 25 reason
def State.gSize (s : State) (g : Nat) : Nat := s.fld .collGroupCfg 0 g 0 31 20 + 1
def State.gReckon (s : State) (g : Nat) : Bool := s.fld .collGroupCfg 0 g 0 7 7 == 1
def State.gPart (s : State) (g : Nat) : Nat := (s.group g).part

/-- The rank of a device in the member table, and this device's own (R347). -/
def Group.rankOf (x : Group) (dev : Nat) : Option Nat := x.members.findIdx? (fun m => m.1 == dev)
def State.myRank (s : State) (g : Nat) : Nat := ((s.group g).rankOf s.devId).getD 0

/-- The interrupt of a group (R353, R379): VALUE is STATE × 16 + REASON (log entry 23). -/
def State.groupEvent (s : State) (g : Nat) : State :=
  if s.fld .collGroup 0 g 0 0 0 == 1 then
    s.raise (s.gPart g) 5 g 0 (s.gState g * 16 + s.fld .collGroup 0 g 0 28 25)
  else s

/-- TARGET of a collective packet (R361). -/
def collTarget (kind epoch dseq chunk pkt : Nat) : Nat :=
  2 ^ 63 + kind * 2 ^ 60 + epoch % 2 ^ 16 * 2 ^ 44 + dseq % 2 ^ 12 * 2 ^ 32 + chunk % 2 ^ 20 * 2 ^ 12 + pkt % 2 ^ 12

/-- A request of a group to the member of a rank, on VC 0 (R361). -/
def State.toRank (s : State) (g rank typ target : Nat) (payload : List Byte) : State × Nat :=
  match (s.group g).members[rank]? with
  | some (dev, peer) => s.request typ 0 dev (s.gPart g) peer target payload (some g)
  | none => (s, 0)

/-- An abort to every other member (R351, R353). A member's group number comes from its card where one has arrived. -/
def State.sendAborts (s : State) (g : Nat) : State :=
  let x := s.group g
  (x.members.zipIdx).foldl (fun s m =>
    if m.1.1 == s.devId then s else
    let peer := match x.cards.find? (fun c => c.1 == m.2) with
      | some c => c.2.localGroup
      | none => m.1.2
    (s.request 0x01 0 m.1.1 x.part peer (collTarget 4 x.epoch 0 0 0) [] none).1) s

/-! ### Retirement (R354, R356) -/

/-- The queue register of a group: descriptors queued and the DSEQ of the next to retire (R380). -/
def State.noteQueue (s : State) (g : Nat) : State :=
  let x := s.group g
  let head := match x.queue with
    | d :: _ => d.dseq
    | [] => x.nextDseq
  (s.setFld .collGroupQstat 0 g 0 26 16 x.queue.length).setFld .collGroupQstat 0 g 0 15 0 head

/-- A flight of core n ends and its command completes. -/
def State.landFlight (s : State) (n cc flags : Nat) : State :=
  match (s.core n).flights.find? (fun f => f.cc == cc) with
  | none => s
  | some f => (s.onCore n (fun k => { k with stirred := true, flights := k.flights.filter (fun f => f.cc != cc) })).complete n f.cmd cc flags

/-- A flight of core n ends and its command fails (R219, R409). -/
def State.failFlight (s : State) (n cc flags code addr : Nat) : State :=
  match (s.core n).flights.find? (fun f => f.cc == cc) with
  | none => s
  | some f => (s.onCore n (fun k => { k with stirred := true, flights := k.flights.filter (fun f => f.cc != cc) })).failed n f.cmd f.cp cc code flags addr

/-- A descriptor takes the next DSEQ and the next entry of the group's queue (R354). -/
def State.enqueue (s : State) (g : Nat) (x : Posted) : State :=
  (s.onGroup g (fun y => { y with
    queue := y.queue ++ [{ x with dseq := y.nextDseq }]
    nextDseq := (y.nextDseq + 1) % 65536 })).noteQueue g

/-- A COLLPOST that waits for a free entry takes it (R236). -/
def State.unstall (s : State) (g : Nat) : State :=
  let x := s.group g
  match x.stalled with
  | [] => s
  | (d, b) :: t =>
    if x.queue.length ≥ 1024 then s else
    let s := s.poke x.part (s.rd64 .collGroupQLo .collGroupQHi 0 g + 64 * (x.nextDseq % 1024)) b
    (s.onGroup g (fun y => { y with stalled := t })).enqueue g d

/-- The descriptor at the head of a group's queue retires with a status: STATUS is written into the posted descriptor and the queue entry,
then the DONE_OBJ add, then COLLPOST completes (R354), or stops where the descriptor consumed poison at an address (R409), and one that
waits takes the free entry. -/
def State.retireHead (s : State) (g status : Nat) (hit : Option Nat := none) : State :=
  let x := s.group g
  match x.queue with
  | [] => s
  | d :: t =>
    let q := s.rd64 .collGroupQLo .collGroupQHi 0 g + 64 * (d.dseq % 1024) + 48
    let s := s.onGroup g (fun y => { y with queue := t, staged := y.staged.filter (fun c => c.dseq != d.dseq) })
    let s := ((s.poke x.part (d.addr + 48) (leBytes status 4)).poke x.part q (leBytes status 4)).noteQueue g
    let obj := leAt d.desc 40 4
    let s := if bit obj 31 && s.objHeld x.part (obj % 2 ^ 14) then s.syncAdd (obj % 2 ^ 14) (leAt d.desc 44 4) else s
    (match hit with
    | some a => s.failFlight d.core d.cc 0 0x44 a
    | none => s.landFlight d.core d.cc 0).unstall g

/-- Every queued descriptor retires, the first with its own status where it is in progress (R353), and with them those that waited for an
entry. `hit` names by DSEQ one that consumed poison, with the address: it retires with status 4 (R409). -/
def State.retireAll (s : State) (g : Nat) (hit : Option (Nat × Nat)) : List Posted → Nat → State
  | [], _ => s
  | d :: t, cause =>
    (match hit.filter (fun (h : Nat × Nat) => h.1 == d.dseq) with
    | some h => s.retireHead g 4 (some h.2)
    | none => s.retireHead g (if d.started then cause else 1)).retireAll g hit t 1

/-! ### Breaking (R353) -/

/-- The commands of a group that are in flight end: a BEACON with its destination unchanged and IV (R365), a DISPATCH or COMBINE with
the choices that are not settled invalid and IV (log entry 24). -/
def State.dropEngines (s : State) (g : Nat) : State :=
  let bs := (s.group g).beacons
  let s := s.onGroup g (fun x => { x with beacons := [], values := [], counts := [] })
  let s := bs.foldl (fun s b => s.landFlight b.core b.cc 1) s
  let es := s.fabric.experts.filter (fun e => e.group == g)
  let s := s.onFabric (fun f => { f with experts := f.experts.filter (fun e => e.group != g) })
  es.foldl (fun s e => s.landFlight e.core e.cc (e.flags ||| 1)) s

/-- A READY group enters BROKEN (R353): `status` is that of the descriptor in progress, `hit` a descriptor that consumed poison. -/
def State.breakGroup (s : State) (g reason status : Nat) (hit : Option (Nat × Nat) := none) : State :=
  if s.gState g != 3 then s else
  let x := s.group g
  let s := s.setGState g 4 reason
  let s := s.wr .collGroupEhi 0 g 0 (w32 (x.epoch + 1))
  let s := s.onGroup g (fun y => { y with staged := [] })
  let s := s.sendAborts g
  let s := s.retireAll g hit (x.queue ++ x.stalled.map (·.1)) status
  let s := s.dropEngines g
  s.groupEvent g

/-- A request has failed (R329, R333): its group breaks with REASON 7; a claim or read of DISPATCH or COMBINE ends with it. -/
def State.failRequest (s : State) (d q : Nat) : State :=
  match (s.dest d).unacked.find? (fun u => u.pkt.sseq == q) with
  | none => match s.fabric.groups.find? (fun x => x.2.sent.contains (d, q)) with
    | some x => s.breakGroup x.1 7 1
    | none => s
  | some u =>
    let s := s.retireRequest d q
    match u.group with
    | some g => s.breakGroup g 7 1
    | none => s

/-- The requests that routing has lost fail; the aborts that follow serve no group, so the list ends. -/
def State.drain (s : State) : Nat → State
  | 0 => s
  | fuel + 1 =>
    match s.fabric.lost with
    | [] => s
    | l => (l.foldl (fun s x => s.failRequest x.1 x.2) (s.onFabric (fun f => { f with lost := [] }))).drain fuel

/-- The end of every effect that may have sent packets. -/
def State.settled (s : State) : State := s.drain 300

/-! ### Acceptance -/

/-- The duplicate window for an arriving request (R330): whether it is performed. A new incarnation of a member breaks its READY groups
(R353). A duplicate is counted and acknowledged again (log entry 20); a request of an older incarnation is discarded. -/
def State.acceptRequest (s : State) (k : Packet) : Bool × State :=
  let r := (s.src k.src).accept k.incarn k.sseq
  let s := s.setSrc k.src r.2.1
  let s := if r.2.2 then
      (s.fabric.groups.filter (fun g => (g.2.rankOf k.src).isSome)).foldl (fun s g => s.breakGroup g.1 7 1) s
    else s
  if r.1 then (true, s) else (false, if (s.src k.src).older k.incarn then s else s.gcnt 0)

/-- Perform an accepted request and acknowledge it; `none` while it must wait. -/
def State.onceOnly (s : State) (k : Packet) (f : State → Option State) : Option State :=
  let r := s.acceptRequest k
  if r.1 then match f r.2 with
    | some t => some (t.acknowledge k).settled
    | none => none
  else some (if (s.src k.src).older k.incarn then r.2 else r.2.acknowledge k).settled

/-! ### Cards (R350) -/

def Card.flags (c : Card) : Nat := b2n c.reckon + 2 * b2n c.syncReq

def Card.bytes (c : Card) : List Byte :=
  leBytes c.key 4 ++ leBytes c.version 4 ++ c.digest ++ c.signature ++ leBytes c.meridian 8 ++ leBytes c.elo 4 ++ leBytes c.ehi 4 ++
  leBytes c.membersM1 2 ++ leBytes c.shape 2 ++ leBytes c.rank 2 ++ leBytes c.localGroup 1 ++ leBytes c.flags 1

def Card.parse (b : List Byte) : Card where
  key := leAt b 0 4
  version := leAt b 4 4
  digest := (b.drop 8).take 32
  signature := (b.drop 40).take 32
  meridian := leAt b 72 8
  elo := leAt b 80 4
  ehi := leAt b 84 4
  membersM1 := leAt b 88 2 % 4096
  shape := leAt b 90 2
  rank := leAt b 92 2
  localGroup := leAt b 94 1
  reckon := (leAt b 95 1).testBit 0
  syncReq := (leAt b 95 1).testBit 1

/-- The fabric digest of the running image. -/
def State.digest (s : State) : List Byte :=
  match s.start.image with
  | some i => i.sections.digest
  | none => List.replicate 32 0#8

/-- This device's card for a group. -/
def State.ownCard (s : State) (g : Nat) : Card where
  key := (s.rd .collGroupKey 0 g).toNat
  version := (s.rd .lcImage).toNat
  digest := s.digest
  signature := if s.gReckon g then s.signature (s.gPart g) else List.replicate 32 0#8
  meridian := s.now
  elo := (s.rd .collGroupElo 0 g).toNat
  ehi := (s.rd .collGroupEhi 0 g).toNat
  membersM1 := s.gSize g - 1
  shape := (s.rd .collGroupShape 0 g).toNat % 65536
  rank := s.myRank g
  localGroup := g
  reckon := s.gReckon g
  syncReq := (s.group g).syncReq

/-- The card goes to every other member as a WRITE on VC 0 with GROUP 0. -/
def State.sendCard (s : State) (g : Nat) : State :=
  let c := (s.ownCard g).bytes
  let key := (s.rd .collGroupKey 0 g).toNat
  ((s.group g).members.foldl (fun s m =>
    if m.1 == s.devId then s
    else (s.request 0x01 0 m.1 (s.gPart g) 0 (2 ^ 63 + 2 ^ 60 + key) c none).1) s).settled

/-! ### Formation (R349 to R352) -/

/-- Formation ends in IDLE; where this member ends it, every member is told (R351). -/
def State.endForming (s : State) (g reason : Nat) (tell : Bool) : State :=
  let s := if tell then s.sendAborts g else s
  ((s.setGState g 1 reason).onGroup g (fun x => { x with cards := [], syncReq := false, syncWait := false })).settled

/-- The product of a valid shape, and whether it fits the members (R380). -/
def shapeSize (w : Nat) : Nat := (bits w 3 0 + 1) * (bits w 7 4 + 1) * (bits w 11 8 + 1)
def shapeOk (w m : Nat) : Bool := !w.testBit 12 || shapeSize w == m

/-- FORM in IDLE or BROKEN (R349): the member table is read, the cards start. None: a page of the table is away and the write waits. -/
def State.startForm (s : State) (g : Nat) : Option State :=
  let s := if s.gState g == 4 then (s.onGroup g (fun x => { x with nextDseq := 0 })).noteQueue g else s
  let p := s.gPart g
  let m := s.gSize g
  match s.hub (hubRd (whoColl g p) p (s.rd64 .collGroupMembLo .collGroupMembHi 0 g) (4 * m)) with
  | (.error .wait, _) => none
  | (.error _, s) => some (s.setGState g 1 6)
  | (.ok (b, _), s) =>
    let ms := (List.range m).map (fun i => (leAt b (4 * i) 4 % 4096, bits (leAt b (4 * i) 4) 19 12))
    let mine := (ms.filter (fun x => x.1 == s.devId)).length
    if mine != 1 || !shapeOk (s.rd .collGroupShape 0 g).toNat m then some (s.setGState g 1 6) else
    let s := s.onGroup g (fun x => { x with
      members := ms, cards := [], apart := [], syncReq := false, syncWait := false, staged := [], values := [], counts := [], sent := [], nextBeacon := 0
      nextOrder := 0 })
    let s := ((s.setGState g 2 0).setFld .collGroup 0 g 0 24 24 0).noteQueue g
    let s := s.onGroup g (fun x => { x with cards := [(s.myRank g, s.ownCard g)] })
    some (s.sendCard g)

/-- The forced exchange of R371: a Meridian request on every UP native link. -/
def State.forceExchange (s : State) : State :=
  (List.range 32).foldl (fun s l => if nativeUp s l then s.mgmt l mgmtRequest (leBytes 0 8) else s) s

/-- Every card has arrived and agrees: the epoch is chosen, PEER_GROUP is written and the group is READY (R351, R352); or there is no
common epoch. This member's card goes out once more, so that a member that formed late has it. -/
def State.finishForm (s : State) (g : Nat) : State :=
  let x := s.group g
  if x.syncWait || decide (x.cards.length < s.gSize g) then s else
  let lo := x.cards.foldl (fun a c => Nat.max a c.2.elo) 0
  let hi := x.cards.foldl (fun a c => Nat.min a c.2.ehi) 0xFFFFFFFF
  if hi < lo then s.endForming g 4 true else
  let s := s.sendCard g
  let ms := x.members.zipIdx.map (fun m => match x.cards.find? (fun c => c.1 == m.2) with
    | some c => (m.1.1, c.2.localGroup)
    | none => m.1)
  let base := s.rd64 .collGroupMembLo .collGroupMembHi 0 g
  let s := ms.zipIdx.foldl (fun s m => s.poke x.part (base + 4 * m.2) (leBytes (m.1.1 + m.1.2 * 2 ^ 12) 4)) s
  let s := s.onGroup g (fun y => { y with members := ms, epoch := hi, cards := [], syncReq := false })
  let s := (s.wr .collGroupElo 0 g 0 (w32 hi)).wr .collGroupEhi 0 g 0 (w32 hi)
  (s.setGState g 3 0).groupEvent g

/-- The difference of two times. -/
def apart (a b : Nat) : Nat := if a ≤ b then b - a else a - b

/-- The first check of R351 that a card fails: its REASON. -/
def State.cardRefused (s : State) (g src : Nat) (c : Card) : Option Nat :=
  let o := s.ownCard g
  if c.digest != o.digest then some 1
  else if c.version != o.version then some 2
  else if c.reckon != o.reckon || (o.reckon && c.signature != o.signature) then some 3
  else if c.membersM1 != o.membersM1 || c.shape != o.shape || (s.group g).rankOf src != some c.rank then some 6
  else none

/-- A card arrives at a FORMING group (R351, R352). -/
def State.takeCard (s : State) (g src : Nat) (c : Card) : State :=
  match s.cardRefused g src c with
  | some r => s.endForming g r true
  | none =>
    let far := decide (apart c.meridian s.now > 5000)
    let s := s.onGroup g (fun x => { x with cards := insertOn (·.1) (c.rank, c) (x.cards.filter (fun y => y.1 != c.rank)) })
    let s := s.onGroup g (fun x => { x with apart := setTo x.apart c.rank far })
    let s := if (far || c.syncReq) && !(s.group g).syncReq then
        (s.onGroup g (fun x => { x with syncReq := true, syncWait := true })).forceExchange
      else if far && !(s.group g).syncWait then s.setFld .collGroup 0 g 0 24 24 1
      else s
    s.finishForm g

/-- The FORMING group with a key, lowest number first (R350, R337). -/
def State.formingKey (s : State) (key : Nat) : Option Nat :=
  (s.fabric.groups.find? (fun x => s.gState x.1 == 2 && (s.rd .collGroupKey 0 x.1).toNat == key)).map (·.1)

/-- Whether a master's write reaches a group (R278, R378). -/
def State.reachesGroup (s : State) (m : Master) (g : Nat) : Bool :=
  match m with
  | .mgmt => true
  | .vf p => s.vfLive p && (s.part p).groups.contains g
  | _ => false

end Sys2Proof.Machine
end

