-- ==== Sys2Proof/Machine/Collective.lean ====
section
/-! DEFINITION. Collective descriptors: their fields, chunks, reductions and wire encodings, and the arrival of chunks (R354 to R364). -/
namespace Sys2Proof.Machine

/-! ### Fields (R355) -/

def cOp (d : List Byte) : Nat := leAt d 0 1
def cWord (d : List Byte) : Nat := leAt d 0 4
def cArrival (d : List Byte) : Bool := bit (cWord d) 8
def cZcopy (d : List Byte) : Bool := bit (cWord d) 9
def cQ8 (d : List Byte) : Bool := bit (cWord d) 10
def cAlgo (d : List Byte) : Nat := bits (cWord d) 12 11
def cRedop (d : List Byte) : Nat := bits (cWord d) 14 13
def cDtype (d : List Byte) : Nat := bits (cWord d) 16 15
def cAcc (d : List Byte) : Bool := bit (cWord d) 17
def cLog (d : List Byte) : Nat := bits (cWord d) 22 18
def cFan (d : List Byte) : Nat := bits (cWord d) 25 23 + 1
def cRoot (d : List Byte) : Nat := leAt d 4 2 % 4096
def cCount (d : List Byte) : Nat := leAt d 8 8
def cSrc (d : List Byte) : Nat := leAt d 16 6
def cDst (d : List Byte) : Nat := leAt d 24 6
def cSizes (d : List Byte) : Nat := leAt d 32 6

/-- The reducing operations of R357. -/
def cReducing (d : List Byte) : Bool := cOp d == 1 || cOp d == 2
/-- Zero-copy mode acts on what has one destination address at every member; ALLTOALLV and BARRIER run as they do without it (log entry 25). -/
def cDirect (d : List Byte) : Bool := cZcopy d && cOp d != 5 && cOp d != 6

def dtypeBytes : Nat → Nat
  | 1 => 2
  | 3 => 1
  | _ => 4

/-- Bytes of an element of a chunk: of the accumulate format where the chunk reduces, of the data otherwise (R359). -/
def cElem (d : List Byte) : Nat := if cReducing d && !cDirect d then (if cAcc d then 2 else 4) else dtypeBytes (cDtype d)
def cChunk (d : List Byte) : Nat := 2 ^ cLog d / cElem d

/-- The elements of segment g and the elements of every segment but the last (R358). -/
def segSize (d : List Byte) (m : Nat) : Nat := if cOp d == 1 && cAlgo d == 0 && !cDirect d then (cCount d + m - 1) / m else cCount d
def segLen (d : List Byte) (m g : Nat) : Nat :=
  if cOp d == 1 && cAlgo d == 0 && !cDirect d then Nat.min (segSize d m) (cCount d - g * segSize d m) else cCount d

/-- Chunks of a segment; a barrier has one, empty. -/
def segChunks (d : List Byte) (m g : Nat) : Nat :=
  if cOp d == 6 then 1 else (segLen d m g + cChunk d - 1) / cChunk d
def maxChunks (d : List Byte) (m : Nat) : Nat := if cOp d == 6 then 1 else (segSize d m + cChunk d - 1) / cChunk d

/-- A chunk's number within its descriptor (log entry 26): by phase (0 towards the sum, 1 from it on), segment, and place in the segment. -/
def chunkId (d : List Byte) (m ph g i : Nat) : Nat := (ph * m + g) * maxChunks d m + i
def chunkOf (d : List Byte) (m id : Nat) : Nat × Nat × Nat :=
  let c := Nat.max (maxChunks d m) 1
  (id / c / m, id / c % m, id % c)
def chunkElems (d : List Byte) (m g i : Nat) : Nat := if cOp d == 6 then 0 else Nat.min (cChunk d) (segLen d m g - i * cChunk d)

/-- The number of a chunk in a packet (R359, R361): from 0 along its segment, and in ALLTOALLV along what one rank sends to another. -/
def wireChunk (d : List Byte) (m id : Nat) : Nat := if cOp d == 5 then id else (chunkOf d m id).2.2

/-- The marker of a rank's last chunk in ALLTOALLV, where a chunk shorter than the chunk size ends what the rank sends (log entry 26). -/
def lastMark : Nat := 2 ^ 21

/-! ### Trees (R358) -/

/-- The place of rank r relative to the root, the parent of a rank and its children in increasing rank. -/
def treePlace (root m r : Nat) : Nat := (r + m - root % m) % m
def treeParent (root fan m r : Nat) : Nat := (root + (treePlace root m r - 1) / fan) % m
def treeKids (root fan m r : Nat) : List Nat :=
  let q := treePlace root m r
  (List.range m).filter (fun c => let x := treePlace root m c; x != 0 && (x - 1) / fan == q && c != r)

/-- What a member expects: from which rank, which chunk, and whether its arrival makes the member send. -/
def expected (d : List Byte) (m r : Nat) : List (Nat × Nat × Bool) :=
  let all (ph g from_ : Nat) (fwd : Bool) : List (Nat × Nat × Bool) :=
    (List.range (segChunks d m g)).map (fun i => (from_, chunkId d m ph g i, fwd))
  let others := (List.range m).filter (· != r)
  let prev := (r + m - 1) % m
  let next := (r + 1) % m
  let kids := treeKids (cRoot d) (cFan d) m r
  let par := treeParent (cRoot d) (cFan d) m r
  let up := kids.flatMap (fun c => all 0 0 c true)
  let down := if r == cRoot d % m then [] else all 1 0 par (!kids.isEmpty)
  if m ≤ 1 then [] else
  if cDirect d then
    (match cOp d with
      | 4 => if r == cRoot d % m then [] else all 0 0 (cRoot d % m) false
      | _ => others.flatMap (fun k => all 0 0 k false))
  else
  match cOp d with
  | 1 => if cAlgo d == 1 then up ++ down else
      others.flatMap (fun g => all 0 g prev true) ++
      (others.map (fun g => (g + 1) % m)).flatMap (fun g => all 1 g prev ((r + 2) % m != g)) |>.filter (fun e =>
        !((chunkOf d m e.2.1).1 == 1 && (chunkOf d m e.2.1).2.1 == next))
  | 2 => others.flatMap (fun g => all 0 g prev true) ++ all 1 r prev false
  | 3 => others.flatMap (fun g => all 1 g prev (next != g))
  | 4 => down
  | 5 => others.map (fun k => (k, lastMark, false))
  | _ => up ++ down

/-! ### Elements (R358, R360) -/

/-- The words of bytes in a format of the given element size. -/
def wordsOf (size : Nat) (b : List Byte) : List Word := (List.range (b.length / size)).map (fun i => w32 (leAt b (i * size) size))
def bytesOf (size : Nat) (l : List Word) : List Byte := l.flatMap (fun w => leBytes w.toNat size)

/-- A data element in the accumulate format, and back. -/
def toAcc (d : List Byte) (w : Word) : Word :=
  if cDtype d == 1 then (if cAcc d then w else widen bf16 w.toNat)
  else if cAcc d then w32 (fp32.convert bf16 w.toNat) else w
def fromAcc (d : List Byte) (w : Word) : Word :=
  if cDtype d == 1 then (if cAcc d then w else w32 (fp32.convert bf16 w.toNat))
  else if cAcc d then widen bf16 w.toNat else w

/-- One reduction in the accumulate format (R357, R360): NaN wins a maximum or minimum. -/
def combineAcc (d : List Byte) (a b : Word) : Word :=
  if cRedop d == 0 then (if cAcc d then w32 (addBf16 a.toNat b.toNat) else (fadd a b).1)
  else
    let f := if cRedop d == 1 then fmax else fmin
    if cAcc d then w32 (fp32.convert bf16 (f (widen bf16 a.toNat) (widen bf16 b.toNat)).1.toNat) else (f a b).1

/-! ### Q8 on the wire (R360) -/

/-- The default Q8C codebook's entries (R47). -/
def wireEntries : Entries := (List.range 256).map (fun k => (k, opB (defaultQ8 k)))

/-- A block of 16 values with tensor scale 1.0: its scale byte and codes; none where the scale is not representable. -/
def q8Block (es : Entries) (l : List Dy) : Option (Nat × List Nat) :=
  let amax := l.foldl (fun a x => a.max x.abs) Dy.zero
  match blockScaleE4 Dy.one (entriesMax es) amax with
  | none => none
  | some b => some (b, l.map (encodeNearest es ((scaleE4 b).getD Dy.zero)))

/-- A slab of up to 512 values: codes, then scales (R57). -/
def q8Slab (es : Entries) (l : List Dy) : Option (List Byte) :=
  let x := l ++ List.replicate (512 - l.length) Dy.zero
  match (List.range 32).mapM (fun b => q8Block es ((x.drop (16 * b)).take 16)) with
  | none => none
  | some bs => some (bs.flatMap (fun b => b.2.map (BitVec.ofNat 8)) ++ bs.map (fun b => BitVec.ofNat 8 b.1))

/-- FP32 values as Q8 slabs; none for a non-finite value or a scale above 448. -/
def q8Encode (l : List Word) : Option (List Byte) :=
  if l.any nonFinite32 then none else
  let v := l.map dy32
  match (List.range ((v.length + 511) / 512)).mapM (fun i => q8Slab wireEntries ((v.drop (512 * i)).take 512)) with
  | none => none
  | some bs => some bs.flatten

/-- Element e of Q8 slabs as FP32. -/
def q8At (b : List Byte) (e : Nat) : Word :=
  let o := e / 512 * 544
  let c := opB (defaultQ8 (leAt b (o + e % 512) 1))
  rne32 (c.mul ((scaleE4 (leAt b (o + 512 + e % 512 / 16) 1)).getD Dy.zero))

/-- A reducing send as it goes (R360): its bytes and whether they are Q8 slabs. -/
def encodeChunk (d : List Byte) (l : List Word) : List Byte × Bool :=
  let raw := bytesOf (cElem d) l
  if !cQ8 d then (raw, false) else
  match q8Encode (if cAcc d then l.map (fun w => widen bf16 w.toNat) else l) with
  | some b => (b, true)
  | none => (raw, false)

/-- The n accumulate-format values of a chunk as it came. -/
def decodeChunk (d : List Byte) (n : Nat) (b : List Byte) (coded : Bool) : List Word :=
  if coded then (List.range n).map (fun e => if cAcc d then w32 (fp32.convert bf16 (q8At b e).toNat) else q8At b e)
  else wordsOf (cElem d) b

/-! ### Sending -/

/-- The descriptor of a group by DSEQ, and its change. -/
def State.posted (s : State) (g dseq : Nat) : Option Posted := (s.group g).queue.find? (fun x => x.dseq == dseq)
def State.onPosted (s : State) (g dseq : Nat) (f : Posted → Posted) : State :=
  s.onGroup g (fun x => { x with queue := x.queue.map (fun y => if y.dseq == dseq then f y else y) })

/-- The address at which a zero-copy chunk lands at its destination (R364; log entry 25). -/
def directAddr (d : List Byte) (r i : Nat) : Nat :=
  cDst d + ((if cOp d == 3 then r * cCount d else 0) + i * cChunk d) * dtypeBytes (cDtype d)

/-- The type code of a data format at an adder. -/
def dtypeAdd (t : Nat) : Nat := if t == 1 then 1 else if t == 2 then 2 else 0

/-- The data packets of a chunk: each at most 256 bytes, padded to 8 (R361; log entry 22). -/
def sendData (g r rank dseq id : Nat) (d b : List Byte) (s : State) : State :=
  let e := (s.group g).epoch
  let red := cReducing d && (chunkOf d (s.gSize g) id).1 == 0
  (pieces 256 0 (b.length / 256 + 2) b.length).foldl (fun s x =>
    let pad := (8 - x.2 % 8) % 8
    let body := padded ((b.drop x.1).take x.2)
    let t := if cDirect d then pad * 2 ^ 60 + (if cReducing d then dtypeAdd (cDtype d) else 0) * 2 ^ 49 + (directAddr d r (chunkOf d (s.gSize g) id).2.2 + x.1)
      else collTarget 0 e dseq (wireChunk d (s.gSize g) id) (x.1 / 256)
    (s.toRank g rank (if red then 0x06 else 0x01) t body).1) s

/-- A chunk goes to a rank with its chunk end (R361, R362), kept until the end is acknowledged. Bit 8 of the OP word says that the bytes are
Q8 slabs (log entry 26). -/
def State.sendChunk (s : State) (g dseq rank id : Nat) (b : List Byte) (coded : Bool) : State :=
  match s.posted g dseq with
  | none => s
  | some x =>
    let s := sendData g (s.myRank g) rank dseq id x.desc b s
    let body := leBytes (crc32c b).toNat 4 ++ leBytes b.length 4 ++ leBytes (cOp x.desc + 256 * b2n coded) 4 ++ leBytes (cCount x.desc % 2 ^ 32) 4
    let r := s.toRank g rank 0x01 (collTarget 2 (s.group g).epoch dseq (wireChunk x.desc (s.gSize g) id) 0) body
    r.1.onPosted g dseq (fun y => { y with
      kept := y.kept.filter (fun k => !(k.rank == rank && k.chunk == id)) ++ [⟨rank, id, b, coded, r.2⟩] })

/-! ### Own data -/

def collWho (g : Nat) : HM Who := do return whoColl g ((← get).gPart g)

/-- Bytes of the descriptor's source; a poisoned line is a consumption point (R409). -/
def collRead (g a len : Nat) : HM (List Byte) := do
  let s ← get
  let r ← hubRd (whoColl g (s.gPart g)) (s.gPart g) a len
  if r.2 then throw (.status 0x44 a) else return r.1

def collWrite (g a : Nat) (b : List Byte) (poison : Bool := false) : HM Unit := do
  let s ← get
  hubWr (whoColl g (s.gPart g)) (s.gPart g) a b poison

/-- This member's own contribution to a chunk in the accumulate format. -/
def ownPart (g : Nat) (d : List Byte) (seg i : Nat) : HM (List Word) := do
  let m := (← get).gSize g
  let size := dtypeBytes (cDtype d)
  let b ← collRead g (cSrc d + (seg * segSize d m + i * cChunk d) * size) (chunkElems d m seg i * size)
  return (wordsOf size b).map (toAcc d)

/-- Write a finished chunk of a reduction into the destination, with the poison of its slot (R406). -/
def storeSum (g : Nat) (d : List Byte) (seg i : Nat) (l : List Word) (poison : Bool := false) : HM Unit := do
  let m := (← get).gSize g
  let size := dtypeBytes (cDtype d)
  let e := (if cOp d == 2 then 0 else seg * segSize d m) + i * cChunk d
  collWrite g (cDst d + e * size) (bytesOf size (l.map (fromAcc d))) poison

/-- Write a chunk of moved data into the destination. -/
def storeMoved (g : Nat) (d : List Byte) (seg i : Nat) (b : List Byte) : HM Unit :=
  collWrite g (cDst d + ((if cOp d == 3 then seg * cCount d else 0) + i * cChunk d) * dtypeBytes (cDtype d)) b

def sendHM (g dseq rank id : Nat) (b : List Byte) (coded : Bool) : HM Unit := modify (fun s => s.sendChunk g dseq rank id b coded)

/-- A send that a poisoned chunk of the reduction store turns into a consumption (R409). -/
def sendSum (bad : Bool) (g dseq rank id : Nat) (b : List Byte) (coded : Bool) : HM Unit :=
  if bad then throw (.status 0x44 0) else sendHM g dseq rank id b coded

/-! ### Starting (R355, R357, R358, R364) -/

/-- What one rank of ALLTOALLV's table says: send offset and bytes, receive offset and bytes. -/
def sizeRow (g : Nat) (d : List Byte) (k : Nat) : HM (Nat × Nat × Nat × Nat) := do
  let b ← collRead g (cSizes d + 32 * k) 32
  return (leAt b 0 8, leAt b 8 8, leAt b 16 8, leAt b 24 8)

/-- The chunks of `len` bytes for one rank of ALLTOALLV; the last is shorter than the chunk size. -/
def sendRuns (g dseq rank : Nat) (d : List Byte) (a len : Nat) : HM Unit := do
  let c := 2 ^ cLog d
  (List.range (len / c + 1)).forM (fun i => do
    let b ← collRead g (a + i * c) (Nat.min c (len - i * c))
    sendHM g dseq rank i b false)

/-- The first result of a reduction is known: it is stored as it was sent and goes on (R360). -/
def forwardSum (g dseq : Nat) (d : List Byte) (ph seg i : Nat) (ranks : List Nat) (l : List Word) (bad : Bool) : HM Unit := do
  let m := (← get).gSize g
  let e := encodeChunk d l
  if cOp d != 2 then storeSum g d seg i (decodeChunk d l.length e.1 e.2) bad
  ranks.forM (fun k => sendSum bad g dseq k (chunkId d m ph seg i) e.1 e.2)

/-- The first sends of a descriptor, and what it does alone. -/
def startDesc (g dseq : Nat) (d : List Byte) : HM Unit := do
  let s ← get
  let m := s.gSize g
  let r := s.myRank g
  let next := (r + 1) % m
  let size := dtypeBytes (cDtype d)
  let p := s.gPart g
  let kids := treeKids (cRoot d) (cFan d) m r
  if cDirect d then
    (List.range m).forM (fun k => do
      if cOp d == 4 && r != cRoot d % m then pure () else
      (List.range (segChunks d m 0)).forM (fun i => do
        let off := (if cOp d == 2 then k * cCount d else 0) + i * cChunk d
        let b ← collRead g (cSrc d + off * size) (chunkElems d m 0 i * size)
        if k != r then sendHM g dseq k (chunkId d m 0 0 i) b false
        else if cReducing d then
          ((wordsOf size b).zipIdx).forM (fun w => do
            let _ ← hubAdd (whoColl g p) p (directAddr d r i + w.2 * size) (AddTy.ofCode (dtypeAdd (cDtype d))) w.1.toNat)
        else collWrite g (directAddr d r i) b))
  else match cOp d with
  | 1 =>
    if m ≤ 1 then
      (List.range (segChunks d m 0)).forM (fun i => do storeSum g d 0 i (← ownPart g d 0 i))
    else if cAlgo d == 1 then
      if kids.isEmpty then
        (List.range (segChunks d m 0)).forM (fun i => do
          let e := encodeChunk d (← ownPart g d 0 i)
          sendHM g dseq (treeParent (cRoot d) (cFan d) m r) (chunkId d m 0 0 i) e.1 e.2)
      else pure ()
    else
      (List.range (segChunks d m r)).forM (fun i => do
        let e := encodeChunk d (← ownPart g d r i)
        sendHM g dseq next (chunkId d m 0 r i) e.1 e.2)
  | 2 =>
    if m ≤ 1 then (List.range (segChunks d m 0)).forM (fun i => do storeSum g d 0 i (← ownPart g d 0 i))
    else
      (List.range (segChunks d m r)).forM (fun i => do
        let e := encodeChunk d (← ownPart g d r i)
        sendHM g dseq next (chunkId d m 0 r i) e.1 e.2)
  | 3 =>
    (List.range (segChunks d m r)).forM (fun i => do
      let b ← collRead g (cSrc d + i * cChunk d * size) (chunkElems d m r i * size)
      storeMoved g d r i b
      if m > 1 then sendHM g dseq next (chunkId d m 1 r i) b false)
  | 4 =>
    if r != cRoot d % m then pure () else
    (List.range (segChunks d m 0)).forM (fun i => do
      let b ← collRead g (cSrc d + i * cChunk d * size) (chunkElems d m 0 i * size)
      storeMoved g d 0 i b
      kids.forM (fun k => sendHM g dseq k (chunkId d m 1 0 i) b false))
  | 5 =>
    (List.range m).forM (fun k => do
      let x ← sizeRow g d k
      if k == r then
        let b ← collRead g (cSrc d + x.1) (Nat.min x.2.1 x.2.2.2)
        collWrite g (cDst d + x.2.2.1) b
        if x.2.1 > x.2.2.2 then modify (fun s => s.onPosted g dseq (fun y => { y with status := 3 }))
      else sendRuns g dseq k d (cSrc d + x.1) x.2.1)
  | _ =>
    if kids.isEmpty && m > 1 then sendHM g dseq (treeParent (cRoot d) (cFan d) m r) (chunkId d m 0 0 0) [] false
    else pure ()

/-! ### Arrival of a checked chunk (R358, R359) -/

/-- The sum of a chunk of a tree after another child's part, the own value first (R358), and whether it is poisoned. -/
def addChild (g dseq : Nat) (d : List Byte) (id i : Nat) (l : List Word) (bad : Bool) : HM (Nat × List Word × Bool) := do
  match (← get).posted g dseq with
  | none => return (0, l, bad)
  | some x =>
    let old ← (match x.sums.find? (fun y => y.1 == id) with
      | some y => pure y.2
      | none => do return (0, ← ownPart g d 0 i))
    let v := (old.1 + 1, List.zipWith (combineAcc d) old.2 l)
    modify (fun s => s.onPosted g dseq (fun y => { y with
      sums := (id, v) :: y.sums.filter (fun z => z.1 != id), tainted := setTo y.tainted id (bad || y.tainted.contains id) }))
    return (v.1, v.2, bad || x.tainted.contains id)

def hubReduced (g : Nat) : HM Unit := do
  let w ← collWho g
  modify (fun s => s.hubEvent 0x49 1 w)

/-- What a chunk from a rank does; `bad` says that its slot of the reduction store was poisoned (R406). -/
def arriveChunk (g dseq rank id : Nat) (d b : List Byte) (coded bad : Bool) : HM Unit := do
  let s ← get
  let m := s.gSize g
  let r := s.myRank g
  let (ph, seg, i) := chunkOf d m id
  let n := chunkElems d m seg i
  let next := (r + 1) % m
  let kids := treeKids (cRoot d) (cFan d) m r
  let par := treeParent (cRoot d) (cFan d) m r
  let root := r == cRoot d % m
  let mark (k : Nat) : HM Unit := modify (fun s => s.onPosted g dseq (fun y => { y with arrived := y.arrived ++ [(rank, k)] }))
  if cDirect d then mark id else
  match cOp d with
  | 5 => do
    let x ← sizeRow g d rank
    let at_ := id * 2 ^ cLog d
    collWrite g (cDst d + x.2.2.1 + at_) (b.take (x.2.2.2 - at_))
    mark id
    modify (fun s => s.onPosted g dseq (fun y =>
      let total := if b.length < 2 ^ cLog d then tabSet y.total rank 0 (id + 1) else y.total
      let n := tabGet total rank 0
      { y with
        total := total
        status := if at_ + b.length > x.2.2.2 then 3 else y.status
        arrived := if n != 0 && (List.range n).all (fun i => y.arrived.contains (rank, i)) then y.arrived ++ [(rank, lastMark)] else y.arrived }))
  | 3 => do
    storeMoved g d seg i b
    mark id
    if next != seg then sendHM g dseq next id b false
  | 4 => do
    storeMoved g d seg i b
    mark id
    kids.forM (fun k => sendHM g dseq k id b false)
  | 6 => do
    mark id
    let have_ := match (← get).posted g dseq with
      | some y => (y.arrived.filter (fun a => kids.contains a.1)).length
      | none => 0
    if ph == 0 then
      if have_ == kids.length then
        if root then kids.forM (fun k => sendHM g dseq k (chunkId d m 1 0 0) [] false)
        else sendHM g dseq par (chunkId d m 0 0 0) [] false
    else kids.forM (fun k => sendHM g dseq k id [] false)
  | _ => do
    let l := decodeChunk d n b coded
    if cOp d == 1 && cAlgo d == 1 then
      if ph == 0 then
        let v ← addChild g dseq d id i l bad
        hubReduced g
        mark id
        if v.1 == kids.length then
          modify (fun s => s.onPosted g dseq (fun y => { y with
            sums := y.sums.filter (fun z => z.1 != id), tainted := setDel y.tainted id }))
          if root then forwardSum g dseq d 1 0 i kids v.2.1 v.2.2
          else
            let e := encodeChunk d v.2.1
            sendSum v.2.2 g dseq par (chunkId d m 0 0 i) e.1 e.2
      else
        storeSum g d seg i l bad
        mark id
        kids.forM (fun k => sendSum bad g dseq k id b coded)
    else if ph == 0 then
      let own ← ownPart g d seg i
      let v := List.zipWith (combineAcc d) l own
      hubReduced g
      mark id
      if next == seg then forwardSum g dseq d 1 seg i [next] v bad
      else
        let e := encodeChunk d v
        sendSum bad g dseq next id e.1 e.2
    else
      storeSum g d seg i l bad
      mark id
      if cOp d == 1 && (next + 1) % m != seg then sendSum bad g dseq next id b coded

/-! ### Running the queue -/

/-- Run a part of a descriptor: a translation fault ends it with status 5; a consumption of poison ends it with status 4, its group as ABORT
does, and its COLLPOST with status 0x44 (R356, R409). A page that is away makes the whole wait. -/
def guarded (g dseq : Nat) (x : HM Unit) : HM Unit :=
  tryCatch x (fun e => match e with
    | .wait => throw .wait
    | .status 0x44 a => modify (fun s => s.breakGroup g 11 1 (some (dseq, a)))
    | .status _ _ => modify (fun s => s.onPosted g dseq (fun y => { y with status := 5 })))

/-- Whether everything has arrived that makes a descriptor send, and whether everything has and is acknowledged. -/
def Posted.sentLast (x : Posted) (m r : Nat) : Bool :=
  x.status == 5 || (x.started && (expected x.desc m r).all (fun e => !e.2.2 || x.arrived.contains (e.1, e.2.1)))
def Posted.ended (x : Posted) (m r : Nat) : Bool :=
  x.started && (x.status == 5 || (x.kept.isEmpty && (expected x.desc m r).all (fun e => x.arrived.contains (e.1, e.2.1))))

/-- The first descriptor of a READY group that may start now (R355). -/
def State.nextStart (s : State) (g : Nat) : Option Posted :=
  let x := s.group g
  let m := s.gSize g
  let r := s.myRank g
  match x.queue.findIdx? (fun y => !y.started) with
  | none => none
  | some i => if i = 0 || (match x.queue[i - 1]? with
      | some y => y.sentLast m r
      | none => false) then x.queue[i]? else none

/-- Start what may start and retire what has ended, in queue order (R354, R355). -/
def kick (g : Nat) : Nat → HM Unit
  | 0 => pure ()
  | fuel + 1 => do
    let s ← get
    if s.gState g == 4 then
      if (s.group g).queue.isEmpty then pure () else do
        set (s.retireHead g 1)
        kick g fuel
    else if s.gState g != 3 then pure () else
    match (s.group g).queue with
    | [] => pure ()
    | h :: _ =>
      if h.ended (s.gSize g) (s.myRank g) then do
        set (s.retireHead g h.status)
        kick g fuel
      else match s.nextStart g with
        | none => pure ()
        | some y => do
          set (s.onPosted g y.dseq (fun z => { z with started := true }))
          guarded g y.dseq (startDesc g y.dseq y.desc)
          kick g fuel

/-- Run hub work and settle what it lost; none where it must wait. -/
def State.engine (s : State) (x : HM Unit) : Option State :=
  match s.hub x with
  | (.error .wait, _) => none
  | (_, t) => some t.settled

/-! ### COLLPOST (R354, R355) -/

/-- A hub computation within a command. -/
def liftH {α : Type} (x : HM α) : CM α := do
  let r := (← getS).hub x
  match r with
  | (.ok a, s) => setS s; return a
  | (.error .wait, _) => pause
  | (.error (.status c a), s) => setS s; stopAt c a

/-- The group that a register names, held by the core's partition. -/
def groupArg (n : Nat) (c : Cmd) (k : Nat) : CM Nat := do
  let g ← w3 n c k
  let p ← holderOf n
  need (decide (g < 256) && ((← getS).part p).groups.contains g) 0x0E
  return g

/-- The checks of a collective descriptor (R355, R357, R364). -/
def collChecks (s : State) (g : Nat) (d : List Byte) : List (Bool × Nat) :=
  let op := cOp d
  let w := cWord d
  let obj := leAt d 40 4
  let hi (o : Nat) : Bool := leAt d (o + 6) 2 == 0
  [(bits w 31 26 == 0 && leAt d 4 4 < 4096 && hi 16 && hi 24 && hi 32 && bits obj 30 14 == 0 && leAt d 52 12 == 0, 0x12),
   (decide (1 ≤ op) && decide (op ≤ 6), 0x12),
   (decide (12 ≤ cLog d) && decide (cLog d ≤ 20) && cRedop d != 3, 0x12),
   (match op with
    | 1 => cAlgo d ≤ 1 || cDirect d
    | 2 => cAlgo d == 0 || cDirect d
    | 3 => cAlgo d == 0 || cDirect d
    | 5 => cAlgo d == 2
    | _ => cAlgo d == 1 || cDirect d, 0x12),
   (cAlgo d != 1 || cDirect d || decide (2 ≤ cFan d), 0x12),
   (!(op == 1 || op == 4 || op == 6) || decide (cRoot d < s.gSize g), 0x12),
   (!bit obj 31 || leAt d 44 4 != 0, 0x12),
   (!cReducing d || decide (cDtype d < 2), 0x12),
   (!cReducing d || cZcopy d || decide (2 ≤ (s.group g).slots), 0x12)]

/-- COLLPOST: at 1,024 descriptors it waits in its unit while the pilot goes on (R236). -/
def collpostBody (n : Nat) (c : Cmd) : CM Bool := do
  let g ← groupArg n c 0
  need (aligned (addrOf c.w1) 64) 0x05
  let r ← rdVa n (addrOf c.w1) 64
  let d := r.1
  let s ← getS
  let k := s.core n
  needAll (collChecks s g d)
  need (!(cReducing d && cZcopy d && k.reckon)) 0x0F
  need (!k.reckon || s.gReckon g) 0x0F
  need (!(cReducing d && cZcopy d) || cArrival d) 0x10
  need (!cArrival d || c.vary) 0x10
  let p ← holderOf n
  let ordered := if k.reckon then listSet d 1 ((d.getD 1 0#8) &&& 0xFE#8) else d
  let x := s.group g
  let y : Posted := ⟨n, k.cc, addrOf c.w1, x.nextDseq, ordered, false, [], [], [], [], [], 0, []⟩
  if x.queue.length ≥ 1024 then modS (fun s => s.onGroup g (fun z => { z with stalled := z.stalled ++ [(y, d)] }))
  else
    let q := s.rd64 .collGroupQLo .collGroupQHi 0 g + 64 * (x.nextDseq % 1024)
    liftH (hubWr (whoColl g p) p q d)
    modS (fun s => s.enqueue g y)
  modS (fun s => s.onCore n (fun k => { k with flights := k.flights ++ [⟨c, (k.cp + 2 ^ 48 - 32) % 2 ^ 48, k.cc, [], g, x.nextDseq⟩] }))
  liftH (kick g 2100)
  modS State.settled
  return false

def execCollpost (n : Nat) (c : Cmd) (s : State) : Host.Outcome State Fault Refusal :=
  answer (.collpost n c) (pilotRun n c (collpostBody n c) s)

end Sys2Proof.Machine
end

