-- ==== Sys2Proof/Machine/Beacon.lean ====
section
/-! DEFINITION. The Beacon path: BEACON and its packets (R365, R366). -/
namespace Sys2Proof.Machine

/-! ### Shapes (R380) -/

/-- Whether a group has a valid shape; the length of its dimension d, whether that wraps, and a rank's position along it. -/
def State.shaped (s : State) (g : Nat) : Bool := (s.rd .collGroupShape 0 g).getLsbD 12
def State.dimLen (s : State) (g d : Nat) : Nat := s.fld .collGroupShape 0 g 0 (4 * d + 3) (4 * d) + 1
def State.dimWrap (s : State) (g d : Nat) : Bool := (s.rd .collGroupShape 0 g).getLsbD (13 + d)
/-- The step in rank of one position along dimension d. -/
def State.dimStep (s : State) (g d : Nat) : Nat :=
  match d with
  | 0 => 1
  | 1 => s.dimLen g 0
  | _ => s.dimLen g 0 * s.dimLen g 1
def State.dimPos (s : State) (g d r : Nat) : Nat := r / s.dimStep g d % s.dimLen g d

/-- The rank next to r along dimension d, where the ring has one (R366): up or down. -/
def State.neighbour (s : State) (g d r : Nat) (up : Bool) : Option Nat :=
  let n := s.dimLen g d
  let p := s.dimPos g d r
  let base := r - p * s.dimStep g d
  if up then (if p + 1 < n then some (base + (p + 1) * s.dimStep g d) else if s.dimWrap g d then some base else none)
  else if p > 0 then some (base + (p - 1) * s.dimStep g d)
  else if s.dimWrap g d then some (base + (n - 1) * s.dimStep g d) else none

/-- How many hops a value travels up and down a ring (R366). -/
def State.ringHops (s : State) (g d : Nat) (up : Bool) : Nat :=
  let n := s.dimLen g d
  if !s.dimWrap g d then n - 1 else if up then n / 2 else (n + 1) / 2 - 1

/-! ### Packets (R319, R361) -/

/-- TARGET of a BEACON packet: epoch, number of the BEACON, step, direction, hops left and the position or rank of the value. The spec gives its
fields no places (log entry 27). -/
def beaconTarget (epoch seq step : Nat) (up : Bool) (hops pos : Nat) : Nat :=
  collTarget 0 epoch seq (step * 2 ^ 15 + b2n up * 2 ^ 14 + hops) pos

/-- A BEACON packet to a rank: it takes an SSEQ and is not answered (R319, R365). -/
def State.sendBeacon (s : State) (g rank target : Nat) (v : List Byte) : State :=
  match (s.group g).members[rank]? with
  | none => s
  | some (dev, peer) =>
    let q := (s.dest dev).next
    let s := s.onDest dev (fun x => { x with next := (q + 1) % 2 ^ 32 })
    let s := s.onGroup g (fun x => { x with sent := ((dev, q) :: x.sent).take 1024 })
    let k : Packet := ⟨0, 2, 0x0B, dev, s.devId, s.gPart g, 31, 0, peer, s.incarn, q, target, v, false⟩
    let r := s.launch k
    if r.2 then r.1 else r.1.answerUnroutable k

/-- The member's value goes both ways along dimension d. -/
def State.sendRing (s : State) (g d seq : Nat) (v : List Byte) : State :=
  let r := s.myRank g
  [true, false].foldl (fun s up =>
    match s.neighbour g d r up with
    | some k => if s.ringHops g d up = 0 then s
        else s.sendBeacon g k (beaconTarget (s.group g).epoch seq d up (s.ringHops g d up - 1) (s.dimPos g d r)) v
    | none => s) s

/-! ### Combining -/

/-- Two values under an operation of R365. -/
def beaconCombine (op : Nat) (a b : List Byte) : List Byte :=
  match op with
  | 1 => (List.range (a.length / 8)).flatMap (fun i => leBytes (leAt a (8 * i) 8 + leAt b (8 * i) 8) 8)
  | 0 => each (fun x y => (fadd x y).1)
  | 2 => each (fun x y => (fmax x y).1)
  | 3 => each (fun x y => (fmin x y).1)
  | _ => a
where
  each (f : Word → Word → Word) : List Byte := bytesOf 4 (List.zipWith f (wordsOf 4 a) (wordsOf 4 b))

/-- Write a result of a command in flight where its operand says. -/
def hubPut (w : Who) (n p : Nat) (loc : Bool) (a : Nat) (b : List Byte) : HM Unit :=
  if loc then modify (fun s => s.onCore n (fun k => k.csWrite a b false)) else hubWr w p a b

/-- The BEACON with number seq of a group. -/
def State.beaconNo (s : State) (g seq : Nat) : Option Beacon := (s.group g).beacons.find? (fun b => b.seq == seq)
def State.onBeacon (s : State) (g seq : Nat) (f : Beacon → Beacon) : State :=
  s.onGroup g (fun x => { x with beacons := x.beacons.map (fun b => if b.seq == seq then f b else b) })

/-- What has arrived for a step of a BEACON, in order of arrival: position or rank, and value. -/
def Group.valuesOf (x : Group) (seq step : Nat) : List (Nat × List Byte) :=
  (x.values.filter (fun v => v.1 == seq && v.2.1 == step)).map (·.2.2)

/-- The root of the tree: ROOT for a broadcast, rank 0 otherwise. -/
def Beacon.top (b : Beacon) (m : Nat) : Nat := if b.op == 4 then b.root % m else 0

/-- The result is written and the command completes; a barrier writes nothing. -/
def beaconEnd (g : Nat) (b : Beacon) : HM Unit := do
  let s ← get
  let w := whoColl g (s.gPart g)
  tryCatch (if b.op == 5 then pure () else hubPut w b.core (s.gPart g) b.dstLoc b.dst b.value) (fun e => match e with
    | .wait => throw .wait
    | .status c a => modify (fun s => s.failFlight b.core b.cc 0 c a))
  modify (fun s => (s.onGroup g (fun x => { x with
    beacons := x.beacons.filter (fun y => y.seq != b.seq), values := x.values.filter (fun v => v.1 != b.seq) })).landFlight b.core b.cc 0)

/-- The first steps of a BEACON that may go: the first dimension longer than 1, or the tree (R366). -/
def State.beaconSend (s : State) (g : Nat) (b : Beacon) : State :=
  let m := s.gSize g
  let r := s.myRank g
  let e := (s.group g).epoch
  let kids := treeKids (b.top m) 8 m r
  match b.dim with
  | 3 => if kids.isEmpty && r != b.top m then s.sendBeacon g (treeParent (b.top m) 8 m r) (beaconTarget e b.seq 3 false 0 r) b.value else s
  | 4 => if r == b.top m then kids.foldl (fun s k => s.sendBeacon g k (beaconTarget e b.seq 4 false 0 r) b.value) s else s
  | d => s.sendRing g d b.seq b.value

/-- The first dimension from d on that is longer than 1, or 5: the end. -/
def State.nextDim (s : State) (g d : Nat) : Nat :=
  ((List.range 3).find? (fun i => decide (d ≤ i) && decide (s.dimLen g i > 1))).getD 5

/-- One step of a BEACON with what has arrived: its value and step afterwards, or none while something is missing. The tree combines the own
value first, then the children's in order of arrival, or of rank in Reckoning mode (R358, R366). -/
def State.beaconStep (s : State) (g : Nat) (b : Beacon) : Option (List Byte × Nat) :=
  let m := s.gSize g
  let r := s.myRank g
  let got := (s.group g).valuesOf b.seq b.dim
  let kids := treeKids (b.top m) 8 m r
  match b.dim with
  | 3 =>
    if kids.all (fun k => got.any (fun v => v.1 == k)) then
      let vs := if (s.core b.core).reckon then sortOn (·.1) got else got
      some (vs.foldl (fun a v => beaconCombine b.op a v.2) b.value, 4)
    else none
  | 4 =>
    if r == b.top m then some (b.value, 5)
    else match got with
      | v :: _ => some (v.2, 5)
      | [] => none
  | 5 => none
  | d =>
    let n := s.dimLen g d
    let all := (s.dimPos g d r, b.value) :: got
    if (List.range n).all (fun p => all.any (fun v => v.1 == p)) then
      let at_ (p : Nat) : List Byte := match all.find? (fun v => v.1 == p) with
        | some v => v.2
        | none => []
      let v := if b.op == 4 then at_ (s.dimPos g d b.root)
        else ((List.range n).drop 1).foldl (fun a p => beaconCombine b.op a (at_ p)) (at_ 0)
      some (v, s.nextDim g (d + 1))
    else none

/-- The up-going value of a node of the tree, sent once its children are in; the root's result goes to its children, and so on down. -/
def State.beaconPass (s : State) (g : Nat) (b : Beacon) : State :=
  let m := s.gSize g
  let r := s.myRank g
  let e := (s.group g).epoch
  let kids := treeKids (b.top m) 8 m r
  match b.dim with
  | 4 =>
    if r == b.top m then s.beaconSend g b
    else if kids.isEmpty || b.op == 4 then s
    else s.sendBeacon g (treeParent (b.top m) 8 m r) (beaconTarget e b.seq 3 false 0 r) b.value
  | 5 => if s.shaped g || r == b.top m then s else kids.foldl (fun s k => s.sendBeacon g k (beaconTarget e b.seq 4 false 0 r) b.value) s
  | _ => s.beaconSend g b

/-- Run the BEACONs of a group as far as they go; the first four are in flight (R365). -/
def beaconRun (g : Nat) : Nat → HM Unit
  | 0 => pure ()
  | fuel + 1 => do
    let s ← get
    if s.gState g != 3 then pure () else
    let live := (s.group g).beacons.take 4
    match live.find? (fun b => !b.live) with
    | some b => do
      modify (fun s => (s.onBeacon g b.seq (fun b => { b with live := true })).beaconSend g b)
      beaconRun g fuel
    | none =>
      match live.find? (fun b => b.dim == 5) with
      | some b => do
        beaconEnd g b
        beaconRun g fuel
      | none =>
        match live.findSome? (fun b => (s.beaconStep g b).map (fun r => { b with value := r.1, dim := r.2 })) with
        | none => pure ()
        | some b => do
          modify (fun s => (s.onBeacon g b.seq (fun _ => b)).beaconPass g b)
          beaconRun g fuel

/-! ### BEACON (R365) -/

def Cmd.beaconOp (v : Nat) : Nat := bits v 11 0

def beaconBody (n : Nat) (c : Cmd) : CM Bool := do
  let len ← w3 n c 1
  let op ← w3 n c 2
  need (decide (8 ≤ len) && decide (len ≤ 256) && len % 8 == 0 && decide (Cmd.beaconOp op ≤ 5)) 0x06
  let g ← groupArg n c 0
  let s ← getS
  let k := s.core n
  need (!(k.reckon && !s.gReckon g)) 0x0F
  need (s.shaped g || c.vary) 0x10
  need (!locOf c.w2 || decide (addrOf c.w2 + len ≤ shadowBase)) 0x11
  if s.gState g != 3 then
    flag 1
    return true
  let v ← rdAt n (locOf c.w1) (addrOf c.w1) len
  if v.2 then stopAt 0x44 (addrOf c.w1)
  let x := s.group g
  let op1 := Cmd.beaconOp op
  let dim := if s.shaped g then s.nextDim g 0 else if op1 == 4 then 4 else 3
  modS (fun s => s.onGroup g (fun y => { y with
    beacons := y.beacons ++ [⟨x.nextBeacon, false, n, c, k.cc, addrOf c.w2, locOf c.w2, op1, bits op 23 12, v.1, dim⟩]
    nextBeacon := (y.nextBeacon + 1) % 4096 }))
  modS (fun s => s.onCore n (fun k => { k with flights := k.flights ++ [⟨c, (k.cp + 2 ^ 48 - 32) % 2 ^ 48, k.cc, [g, len, op], g, x.nextBeacon⟩] }))
  liftH (beaconRun g 100)
  modS State.settled
  return false

def execBeacon (n : Nat) (c : Cmd) (s : State) : Host.Outcome State Fault Refusal :=
  answer (.beacon n c) (pilotRun n c (beaconBody n c) s)

/-! ### BEACON packets -/

/-- A value of a ring goes on while it has hops left. -/
def State.beaconRelay (s : State) (g : Nat) (k : Packet) : State :=
  if k.bStep > 2 || k.bHops = 0 then s else
  match s.neighbour g k.bStep (s.myRank g) k.bUp with
  | some r => s.sendBeacon g r (beaconTarget (s.group g).epoch k.dseq k.bStep k.bUp (k.bHops - 1) k.inChunk) k.payload
  | none => s

/-- A packet of a group whose epoch is another is discarded and counted (R353). -/
def State.stale (s : State) (g : Nat) : State := s.countFld .collGroupErr 0 g 0 31 16 1

/-- Whether a packet finds its group at its epoch: none while the group is still forming (log entry 28). -/
def State.inEpoch (s : State) (k : Packet) : Option (Bool × State) :=
  let g := k.group
  if s.gState g == 2 then none
  else if k.epoch != (s.group g).epoch % 65536 then some (false, s.stale g)
  else some (s.gState g == 3, s)

/-- A BEACON packet passes the duplicate window of R330 and has no answer (R319, R365). -/
def beaconIn (k : Packet) (s : State) : Option State :=
  let r := s.acceptRequest k
  if !r.1 then some r.2.settled else
  match r.2.inEpoch k with
  | none => none
  | some (false, t) => some t.settled
  | some (true, t) =>
    let g := k.group
    let t := (t.onGroup g (fun x => { x with values := x.values ++ [(k.dseq, k.bStep, k.inChunk, k.payload)] })).beaconRelay g k
    t.engine (beaconRun g 100)

def execBeaconPacket (l : Nat) (k : Packet) (s : State) : Host.Outcome State Fault Refusal :=
  answer (.beaconPacket l k) (packetIn l k (beaconIn k) s)

end Sys2Proof.Machine
end

