-- ==== Sys2Proof/Machine/Clock.lean ====
section
/-! DEFINITION. The core clocks and voltages of the dies: what holds them together and what moves them (R21, R97, R467 to R469). -/
namespace Sys2Proof.Machine

/-! ### Core clock and voltage (R467 to R469) -/

def getAt {α : Type} (l : List α) (i : Nat) (d : α) : α := l.getD i d

/-- FLOOR and CEIL of R489, within 16 to 64. -/
def State.floorF (s : State) : Nat := Nat.max 16 (Nat.min 64 (s.fld .clkLimit 0 0 0 14 8))
/-- CEIL as the next iteration of the governor takes it (R489). -/
def State.ceilF (s : State) : Nat := Nat.max s.floorF (Nat.min 64 (s.fld .clkLimit 0 0 0 6 0))

/-- VMIN + GUARD of a frequency in steps of 25 MHz, rounded up to 5 mV and clamped (R468). -/
def State.needMv (s : State) (f : Nat) : Nat :=
  Nat.max 600 (Nat.min 850 ((getAt s.fuses.vmin (f - 16) 600 + s.fld .clkLimit 0 0 0 22 16 + 4) / 5 * 5))

/-- A Constellation rectangle that spans both dies (R13, R21). -/
def Rect.spans (r : Rect) : Bool := r.const && decide (r.origin % 16 < 8) && decide (r.origin % 16 + r.w > 8)

/-- The dies are held together: for an active rectangle that spans both, or for one that Helm is about to give (R21, R97). -/
def State.linked (s : State) : Bool := s.power.joining.isSome || s.parts.any (fun x => x.2.rects.any Rect.spans)

/-- The frequency that the controls of a die leave it, by itself (R469, R479). -/
def State.ownTarget (s : State) (d : Nat) : Nat :=
  let lim := Nat.min s.power.f (Nat.min (getAt s.power.ceiling d 64) s.power.ceil)
  let lim := match getAt s.power.cap d none with
    | some c => Nat.min lim c
    | none => lim
  if s.power.brake then s.floorF else Nat.max s.floorF lim

/-- CAUSE of R489: the controls that hold a die below 64. -/
def State.holdCause (s : State) (d : Nat) : Nat :=
  b2n (decide (s.power.f < 64)) + 2 * b2n (decide (getAt s.power.ceiling d 64 < 64)) + 4 * b2n s.power.brake +
  8 * b2n (decide (s.power.ceil < 64))

def State.freq (s : State) (d : Nat) : Nat := s.fld .clkCore 0 d 0 6 0
def State.slewing (s : State) (d : Nat) : Bool := s.fld .clkCore 0 d 0 20 20 == 1
def State.volt (s : State) (d : Nat) : Nat := s.fld .clkCore 0 d 0 31 22

/-- Both dies run at one clock, and neither is in a step. -/
def State.clocksEqual (s : State) : Bool := s.freq 0 == s.freq 1 && !s.slewing 0 && !s.slewing 1

/-- The target of a die: while the dies are linked the lower of the two results (R469), and until they are equal no more than either runs at. -/
def State.dieTarget (s : State) (d : Nat) : Nat :=
  let both := Nat.min (s.ownTarget 0) (s.ownTarget 1)
  if !s.linked then s.ownTarget d
  else if s.freq 0 == s.freq 1 then both
  else Nat.max s.floorF (Nat.min both (Nat.min (s.freq 0) (s.freq 1)))

/-- A die takes up its target, and the voltage for it where that is higher. -/
def State.aim (s : State) (d : Nat) : State :=
  let t := s.dieTarget d
  let f := s.freq d
  if f == 0 || s.clockHalt then s else
  let s := ((s.setFld .clkCore 0 d 0 14 8 t).setFld .clkCore 0 d 0 19 16 (s.holdCause d)).setFld .clkCore 0 d 0 21 21
    (b2n (s.linked && s.freq 0 == s.freq 1))
  if f < t then s.setFld .clkCore 0 d 0 31 22 (s.needMv t)
  else if f == t && !s.slewing d then s.setFld .clkCore 0 d 0 31 22 (s.needMv f)
  else s

/-- The voltage that a step up of a die asks is confirmed; of both dies while they are linked (R467, R468). -/
def State.mayRise (s : State) (d : Nat) : Bool :=
  (if s.linked then [0, 1] else [d]).all (fun i => decide (s.needMv (s.freq i + 1) ≤ getAt s.power.confirmed i 750))

/-- The next step of a die towards its target begins: up only with the voltage confirmed, down before the voltage. -/
def State.beginStep (s : State) (d : Nat) : State :=
  let t := s.dieTarget d
  let f := s.freq d
  if f == 0 || s.clockHalt || s.slewing d then s
  else if f < t && s.mayRise d then
    (s.setFld .clkCore 0 d 0 20 20 1).onPower (fun p => { p with stepUp := listSet p.stepUp d true })
  else if t < f then (s.setFld .clkCore 0 d 0 20 20 1).onPower (fun p => { p with stepUp := listSet p.stepUp d false })
  else s

/-- Both dies take up their targets and begin their steps; linked ones begin none until both are free for it. -/
def State.retarget (s : State) : State :=
  let s := (s.aim 0).aim 1
  if s.linked && (s.slewing 0 || s.slewing 1) then s else (s.beginStep 0).beginStep 1

end Sys2Proof.Machine
end

