-- ==== Sys2Proof/Machine/Twilight.lean ====
section
/-! DEFINITION. The Twilight generator: draws, seeding and jump-ahead (R184 to R188), and the Prism signs (R113). -/
namespace Sys2Proof.Machine

/-- The state (s0, s1) of an instance (R185), as one number s0 + s1 · 2^64. -/
abbrev Twi := BitVec 64 × BitVec 64

/-- One advance of R185. -/
def twiNext (s : Twi) : Twi :=
  let t := s.1
  let y := s.2
  let t := t ^^^ (t <<< 23)
  let t := t ^^^ (t >>> 17)
  let t := t ^^^ y ^^^ (y >>> 26)
  (y, t)

/-- The 64-bit output of a draw that has advanced the state to s (R185). -/
def twiOut (s : Twi) : BitVec 64 := (s.1 ^^^ s.2) * 0xA3C59AC2F1E74B6D#64

/-- One draw: output and next state. -/
def twiDraw (s : Twi) : BitVec 64 × Twi :=
  let s' := twiNext s
  (twiOut s', s')

/-- The 32-bit draw, bits [63:32] (R186). -/
def draw32 (o : BitVec 64) : Nat := o.toNat >>> 32
/-- The 24-bit fraction u × 2^24, bits [63:40] (R186). -/
def draw24 (o : BitVec 64) : Nat := o.toNat >>> 40

/-- mix of R187. -/
def twiMix (z : BitVec 64) : BitVec 64 :=
  let z := (z ^^^ (z >>> 31)) * 0xC2B34F719D06E5A5#64
  let z := z ^^^ (z >>> 29)
  let z := z * 0x87F12C6BD3E95B19#64
  z ^^^ (z >>> 32)

/-- base of R187. -/
def twiBase (seed : BitVec 64) : Twi :=
  let s0 := twiMix seed
  let s1 := twiMix (seed ^^^ 0x5A5A5A5A5A5A5A5A#64)
  if s0 == 0#64 && s1 == 0#64 then (1#64, s1) else (s0, s1)

/-! The transition is linear over GF(2) (R185): a map is held as the images of the 128 unit vectors. -/

abbrev Gf2Map := List Nat

def twiToNat (s : Twi) : Nat := s.1.toNat + s.2.toNat * 2 ^ 64
def twiOfNat (n : Nat) : Twi := (BitVec.ofNat 64 n, BitVec.ofNat 64 (n >>> 64))

/-- The image of v. -/
def gf2Apply (m : Gf2Map) (v : Nat) : Nat :=
  (m.foldl (fun (p : Nat × Nat) c => (if p.2 % 2 == 1 then p.1 ^^^ c else p.1, p.2 / 2)) (0, v)).1
def gf2Comp (f g : Gf2Map) : Gf2Map := g.map (gf2Apply f)
def twiMap : Gf2Map := (List.range 128).map (fun i => twiToNat (twiNext (twiOfNat (2 ^ i))))
def gf2Square (m : Gf2Map) : Nat → Gf2Map
  | 0 => m
  | k + 1 => gf2Square (gf2Comp m m) k

/-- Apply the jumps of the set bits of j, the map at hand being that of the current bit (R188). -/
def twiJumpBits (m : Gf2Map) : Nat → Nat → Nat → Nat
  | 0, _, v => v
  | k + 1, j, v => twiJumpBits (gf2Comp m m) k (j / 2) (if j % 2 == 1 then gf2Apply m v else v)

/-- base(S) advanced by j × 2^80 draws (R188). Substream 0 is base(S) itself. -/
def twiJump (seed : BitVec 64) (j : Nat) : Twi :=
  if j == 0 then twiBase seed
  else twiOfNat (twiJumpBits (gf2Square twiMap 80) 16 j (twiToNat (twiBase seed)))

/-- n successive outputs and the state after them. -/
def twiDraws : Nat → Twi → List (BitVec 64) × Twi
  | 0, s => ([], s)
  | n + 1, s =>
    let d := twiDraw s
    let r := twiDraws n d.2
    (d.1 :: r.1, r.2)

/-- The substream index of lane l of a core with rectangle-local index np (R184); lane 256 is the sampler. -/
def laneStream (np l : Nat) : Nat := if l == 256 then 49152 + np else 256 * np + l

/-- The outputs of the Prism instance that cover K indices below k (R113). -/
def prismWords (seed k : Nat) : List (BitVec 64) := (twiDraws (k / 64 + 1) (twiBase (BitVec.ofNat 64 seed))).1

/-- The sign for K index k: true means −1 (R113). -/
def prismSign (ws : List (BitVec 64)) (k : Nat) : Bool := (ws.getD (k / 64) 0#64).getLsbD (k % 64)

/-- The largest FP32 value below a number or +infinity. -/
def below32 (b : Word) : Word :=
  let c := b.toNat
  w32 (if c % 2 ^ 31 == 0 then 0x80000001 else if c < 2 ^ 31 then c - 1 else c + 1)

/-- The uniform value A + u × (B − A) of R192 in FP32: taken exactly and rounded once, a result that rounds to B being the largest FP32
value below it. -/
def uniform (a b : Word) (u : Nat) : Word × VFlags :=
  if isFin32 a && isFin32 b then
    let x := (dy32 a).add ((Dy.mk u (-24)).mul ((dy32 b).sub (dy32 a)))
    let r := deliverDy false x
    if isFin32 r.1 && (dy32 r.1).eq (dy32 b) then (below32 b, r.2) else r
  else
    let d := fsub b a
    let p := fmul (rne32 ⟨u, -24⟩) d.1
    let r := fadd a p.1
    (if r.1 == pinf && b == pinf then below32 b else r.1, d.2 ||| p.2 ||| r.2)

end Sys2Proof.Machine
end

