-- ==== Sys2Proof/Machine/Lanes.lean ====
section
/-! DEFINITION. The Twilight instances of a core: reading, drawing from and seeding them (R184 to R189, R138). -/
namespace Sys2Proof.Machine

/-- The state of instance l of a core: one that has not drawn since its seeding stands at its substream's start (R188). -/
def Core.lane (k : Core) (l : Nat) : Twi :=
  match tabFind k.lanes l with
  | some t => t
  | none => twiJump k.seed (laneStream k.np l)

/-- One draw of instance l. -/
def Core.draw (k : Core) (l : Nat) : DWord × Core :=
  let r := twiDraw (k.lane l)
  (r.1, { k with lanes := tabPut k.lanes l (some r.2) })

/-- The lane that serves an element (R138, R192). -/
def laneOf (row col : Nat) : Nat := col % 128 + 128 * (row % 2)

/-- One draw for each position of a tile whose element (0, 0) stands at (row, col), in increasing row and then column (R138). -/
def Core.tileDraws (k : Core) (row col : Nat) : List Nat × Core :=
  let r := (List.range 1024).foldl (fun (st : List Nat × Core) e =>
    let d := st.2.draw (laneOf (row + e / 32) (col + e % 32))
    (draw24 d.1 :: st.1, d.2)) ([], k)
  (r.1.reverse, r.2)

/-- Reseed the lanes and the sampler generator (R189). -/
def Core.reseed (k : Core) (s : DWord) : Core := { k with seed := s, seeded := true, lanes := [] }

end Sys2Proof.Machine
end

