-- ==== Sys2Proof/Machine/Converter.lean ====
section
/-! DEFINITION. The output edge converter's work on tiles: rotation, residual, glints, the ladder, and the writes of a tile (R106 to R138,
R60 to R67, R533). CONVERT, UPDATE, ROWSTAT and VMAP share it. -/
namespace Sys2Proof.Machine

/-! ### Elements -/

/-- An element inside the converter: an exact number with its sign, which a zero has too (R37), an infinity, or a NaN with its FP32 bits
(R131, R67). -/
inductive El where
  | num (d : Dy) (neg : Bool)
  | inf (neg : Bool)
  | nan (w : Word)
  deriving DecidableEq, Repr

/-- A stored element of a tile of count c (R131). -/
def El.ofWord (c : Nat) (w : Word) : El :=
  match fv w with
  | .nan _ _ => .nan w
  | .inf n => .inf n
  | v => .num (v.dy.scale (16 * c)) v.neg

/-- An exact number as an element, a zero having the sign given. -/
def El.ofDy (zneg : Bool) (d : Dy) : El := .num d (if d.isZero then zneg else d.isNeg)
/-- +0. -/
def El.zero : El := .num Dy.zero false

def El.isNum : El → Bool
  | .num _ _ => true
  | _ => false
def El.dy : El → Dy
  | .num d _ => d
  | _ => Dy.zero
def El.neg : El → Bool
  | .num _ n => n
  | .inf n => n
  | .nan w => neg32 w

/-- x ÷ ts rounded once to a float format (R60, R61, R116, R123), a zero keeping its sign (R37); a NaN converts as it stands (R39). -/
def El.toFmt (f : Fmt) (ts : Dy) (x : El) : Nat :=
  match x with
  | .nan w => if f.width == 32 then w.toNat else fp32.convert f w.toNat
  | .inf n => f.infOf n
  | .num d n =>
    if d.isZero then (if n then 2 ^ (f.width - 1) else 0) else
    let p := divParts d ts
    f.encode false d.isNeg p.1 p.2.1 p.2.2

/-- A float code as an element times ts. -/
def El.ofFmt (f : Fmt) (ts : Dy) (c : Nat) : El :=
  match f.decode c with
  | .nan _ _ => .nan cnan
  | .inf n => .inf n
  | v => .num (v.dy.mul ts) v.neg

/-! ### What a conversion works by -/

/-- The fixed parts of a conversion: its command, its destination, residual and thresholds. -/
structure Spec where
  cmd : Cmd
  cc : Nat
  at_ : Nat
  desc : Desc
  resid : Option Desc
  thr : List Word

/-- A tile in the destination's orientation: where its element (0, 0) goes, its COMP count, its elements and its poison. -/
structure Tile where
  row : Nat
  col : Nat
  comp : Nat
  words : List Word
  poison : Bool

/-- A tile after steps 3 to 6 of R111: its elements, whether it goes to BF16 under R67, and the glints of the group by row: column
and VAL. -/
structure Ready where
  tile : Tile
  els : List El
  bf : Bool
  glints : List (Option (Nat × Nat))
  first : Bool
  poison : Bool

/-- An element that the conversion writes (R533). -/
def Desc.live (d : Desc) (row col : Nat) : Bool := decide (row < d.rows) && decide (col < d.cols)

/-! ### Steps 3 to 6 over the tiles of one quarter (R111 to R118, R131, R134) -/

/-- Element e of a tile of the group, by quarter column. -/
def Tile.has (t : Tile) (d : Desc) (els : List El) (p : El → Bool) : Bool :=
  (List.range 1024).any (fun e => d.live (t.row + e / 32) (t.col + e % 32) && p (els.getD e El.zero))

/-- Spread a mark over the tiles of the same Prism run (R67, R111 step 3). -/
def spreadRun (d : Desc) (ts : List Tile) (m : List Bool) : List Bool :=
  if d.prism ≤ 32 then m
  else ts.mapIdx (fun i t => m.getD i false || ((List.range ts.length).any (fun j => m.getD j false && (match ts[j]? with
    | some u => u.col / d.prism == t.col / d.prism
    | none => false))))

/-- The marks of R67: a tile that holds a non-finite element which the conversion writes, with its run. -/
def nonFinTiles (d : Desc) (ts : List Tile) (els : List (List El)) : List Bool :=
  spreadRun d ts (ts.mapIdx (fun i t => t.has d (els.getD i []) (fun x => !x.isNum)))

/-- Whether steps 4 and 5 round a tile in the raised range (R131). -/
def raisedTiles (d : Desc) (ts : List Tile) : List Bool := spreadRun d ts (ts.map (fun t => decide (t.comp > 0)))

/-- A finite element of a tile of count 0 as the FP32 word that it is. -/
def El.word (x : El) : Word := w32 (fp32.ofDy x.neg x.dy)

/-- A finite element with its sign turned. -/
def El.flip (x : El) : El := .num x.dy.neg (!x.neg)

/-- The sum of two finite elements, rounded in the raised range or in FP32 (R131). An exact zero has IEEE 754's sign (R37). -/
def El.add (raised : Bool) (x y : El) : El :=
  if raised then .ofDy (x.neg && y.neg) (rne24 (x.dy.add y.dy))
  else .ofWord 0 (w32 (fp32.ofDy (x.neg && y.neg) (x.dy.add y.dy)))

/-- One Prism run of finite elements (R112). -/
def rotateRun (n : Nat) (raised : Bool) (signs : List Bool) (x : List El) : List El :=
  let t := (x.zip signs).map (fun p => if p.2 then p.1.flip else p.1)
  if raised then
    let t := butterflies (El.add true) (fun a b => a.add true b.flip) El.zero (Nat.log2 n) 1 t
    t.map (fun v => .ofDy v.neg (rne24 ((prismC n).mul v.dy)))
  else
    let t := butterflies (fun a b => (fadd a b).1) (fun a b => (fsub a b).1) 0#32 (Nat.log2 n) 1 (t.map El.word)
    t.map (fun v => El.ofWord 0 (fmul (rne32 (prismC n)) v).1)

/-- The elements of one row of the group by quarter column, `skip` naming the tiles already bound for BF16. -/
def rowRun (ts : List Tile) (els : List (List El)) (row lo n : Nat) : List El :=
  (List.range n).map (fun j =>
    match ts.findIdx? (fun t => decide (t.col ≤ lo + j) && decide (lo + j < t.col + 32)) with
    | some i => match ts[i]? with
      | some t => (els.getD i []).getD (32 * row + (lo + j - t.col)) El.zero
      | none => El.zero
    | none => El.zero)

/-- Step 4: rotate every live row of every tile that is not bound for BF16 (R112). -/
def rotateTiles (d : Desc) (ws : List (BitVec 64)) (ts : List Tile) (bf raised : List Bool) (els : List (List El)) : List (List El) :=
  if d.prism == 0 then els else
  ts.mapIdx (fun i t =>
    let mine := els.getD i []
    if bf.getD i false then mine else
    let lo := t.col - t.col % d.prism
    let runs := if d.prism ≤ 32 then 32 / d.prism else 1
    (List.range 32).flatMap (fun row =>
      if t.row + row < d.rows then
        let z := (List.range runs).flatMap (fun q =>
          let k0 := (if d.prism ≤ 32 then t.col + q * d.prism else lo)
          let signs := (List.range d.prism).map (fun j => prismSign ws (k0 + j))
          rotateRun d.prism (raised.getD i false) signs (rowRun ts els row k0 d.prism))
        if d.prism ≤ 32 then z else (z.drop (t.col - lo)).take 32
      else (mine.drop (32 * row)).take 32))

/-- Step 5: add the decoded residual (R134). -/
def addResidual (raised : Bool) (x r : El) : El := if x.isNum then x.add raised (.num r.dy r.neg) else x

/-- The glint candidates' test (R115). -/
def glintCandidate (g : Nat) (ts : Dy) (block : List Dy) (x : Dy) : Bool :=
  ((Dy.ofNat (g * g)).mul (Dy.sum (block.map Dy.sq))).lt ((Dy.ofNat 4096).mul x.sq) &&
  (bf16.decode (El.toFmt bf16 ts (.ofDy false x))).isFin

/-- The glint of one row of a quarter: the column and value of the candidate of largest magnitude (R115, R116). -/
def rowGlint (d : Desc) (ts : List Tile) (bf : List Bool) (els : List (List El)) (row : Nat) : Option (Nat × Dy) :=
  let cands := (List.range ts.length).flatMap (fun i => match ts[i]? with
    | none => []
    | some t =>
      if bf.getD i false || d.rows ≤ t.row + row then [] else
      (List.range 2).flatMap (fun h =>
        let blk := (List.range 16).map (fun j =>
          if d.live (t.row + row) (t.col + 16 * h + j) then ((els.getD i []).getD (32 * row + 16 * h + j) El.zero).dy else Dy.zero)
        (List.range 16).filterMap (fun j =>
          let x := blk.getD j Dy.zero
          if !x.isZero && glintCandidate d.glint (dy32 d.tscale) blk x then some (t.col + 16 * h + j, x) else none)))
  (sortOn (·.1) cands).foldl (fun (a : Option (Nat × Dy)) c => match a with
    | none => some c
    | some b => if b.2.abs.lt c.2.abs then some c else some b) none

/-! ### Steps 7 and 8: the ladder (R119 to R121, R133 to R138) -/

/-- A tile as a rung emits it: the format of the rung, and its class (R121, R122). -/
structure Rung where
  fmt : Format
  cls : Nat
  codes : List Nat
  scales : List Nat
  q : List El

/-- The Sextant threshold k: none when the test is off (R120, R143). -/
def threshold (thr : List Word) (k : Nat) : Option Dy :=
  match fv (thr.getD k 0#32) with
  | .inf n => if n then some Dy.zero else none
  | .nan _ _ => some Dy.zero
  | .fin n m e => some (if n then Dy.zero else (FV.fin n m e).dy)

/-- Whether D > T × N, with N = 0 never failing (R119). -/
def sextantFails (t : Option Dy) (dd nn : Dy) : Bool :=
  match t with
  | none => false
  | some t => !nn.isZero && (t.mul nn).lt dd

/-- Sextant over the written elements (R119, R120). A non-finite emitted value fails. -/
def rungFails (d : Desc) (t : Tile) (thr : List Word) (f : Format) (x q : List El) : Bool :=
  let kt := if f == .q8c then 2 else 0
  let one (e : Nat) : Dy × Dy :=
    if !d.live (t.row + e / 32) (t.col + e % 32) then (Dy.zero, Dy.zero) else
    let a := (x.getD e El.zero).dy
    ((a.sub (q.getD e El.zero).dy).sq, a.sq)
  let sums (l : List Nat) : Dy × Dy := l.foldl (fun a e => (a.1.add (one e).1, a.2.add (one e).2)) (Dy.zero, Dy.zero)
  let blocks := (List.range 64).map (fun b => sums ((List.range 16).map (· + 16 * b)))
  let tile := blocks.foldl (fun a b => (a.1.add b.1, a.2.add b.2)) (Dy.zero, Dy.zero)
  q.any (fun v => !v.isNum) || sextantFails (threshold thr kt) tile.1 tile.2 ||
    blocks.any (fun b => sextantFails (threshold thr (kt + 1)) b.1 b.2)

/-- The column of a tile's glint in a row, if this tile holds it. -/
def Ready.glintAt (r : Ready) (row : Nat) : Option (Nat × Nat) :=
  match r.glints.getD row none with
  | some g => if decide (r.tile.col ≤ g.1) && decide (g.1 < r.tile.col + 32) then some (g.1 - r.tile.col, g.2) else none
  | none => none

/-- The glint's decoded value: ts × VAL (R118). -/
def glintEl (d : Desc) (v : Nat) : El := El.ofFmt bf16 (dy32 d.tscale) v

/-- The magnitudes of a block without its glint and without what is not written (R116, R533). -/
def Ready.blockMax (r : Ready) (d : Desc) (b : Nat) : Dy :=
  (List.range 16).foldl (fun m j =>
    let e := 16 * b + j
    let glint := match r.glintAt (e / 32) with
      | some g => g.1 == e % 32
      | none => false
    if glint || !d.live (r.tile.row + e / 32) (r.tile.col + e % 32) then m else m.max (r.els.getD e El.zero).dy.abs) Dy.zero

/-- The block scales of a rung; none when one is not representable (R65, R66). -/
def Ready.scalesFor (r : Ready) (d : Desc) (f : Format) (es : Entries) : Option (List Nat) :=
  (List.range 64).mapM (fun b =>
    if f == .q4p then some (blockScaleE8 (dy32 d.tscale) (r.blockMax d b))
    else blockScaleE4 (dy32 d.tscale) (entriesMax es) (r.blockMax d b))

/-- One encode attempt at a narrow rung (R64 to R66, R116, R137): draws, if any, one for each position. -/
def Ready.encode (r : Ready) (d : Desc) (f : Format) (cls : Nat) (es : Entries) (scales : List Nat) (us : Option (List Nat)) : Rung :=
  let ts := dy32 d.tscale
  let one (e : Nat) : Nat × El :=
    let glint := match r.glintAt (e / 32) with
      | some g => if g.1 == e % 32 then some g.2 else none
      | none => none
    match glint with
    | some v => (0, glintEl d v)
    | none =>
      let bs := (blockScale f (scales.getD (e / 16) 0)).getD Dy.zero
      let sc := bs.mul ts
      let x := if d.live (r.tile.row + e / 32) (r.tile.col + e % 32) then (r.els.getD e El.zero).dy else Dy.zero
      let zero := sc.isZero || (r.blockMax d (e / 16)).isZero
      let code := if zero then 0 else match us with
        | none => encodeNearest es sc x
        | some l => encodeStochastic es sc x (l.getD e 0)
      (code, .ofDy false (((es.find? (fun y => y.1 == code)).map (fun y => y.2.mul sc)).getD Dy.zero))
  let l := (List.range 1024).map one
  ⟨f, cls, l.map (·.1), scales, l.map (·.2)⟩

/-- The BF16 rung: the BF16 value nearest to x ÷ ts, zero at a glint (R116, R121, R123). -/
def Ready.toBf16 (r : Ready) (d : Desc) : Rung :=
  let ts := dy32 d.tscale
  let one (e : Nat) : Nat × El :=
    match r.glintAt (e / 32) with
    | some g => if g.1 == e % 32 then (0, glintEl d g.2) else
      let c := El.toFmt bf16 ts (r.els.getD e El.zero)
      (c, El.ofFmt bf16 ts c)
    | none =>
      let c := El.toFmt bf16 ts (r.els.getD e El.zero)
      (c, El.ofFmt bf16 ts c)
  let l := (List.range 1024).map one
  ⟨.bf16, 3, l.map (·.1), [], l.map (·.2)⟩

/-- The rungs of a base format (R121): format, class, next rung on a failure, next where a scale is not representable. -/
def baseRungs : Format → List (Format × Nat)
  | .q4c => [(.q4c, 0), (.q4p, 1), (.q8c, 2)]
  | .q4p => [(.q4p, 0), (.q8c, 2)]
  | _ => [(.q8c, 0)]

/-- The codebook number of a rung (R110, R128). -/
def rungBook (d : Desc) (f : Format) : Nat := if d.fmt.isQ4 && f == .q8c then d.fbBook else d.codebook

/-- Climb the ladder (R121): `last` is the last rung tried that the slab itself holds (R124). DEDUCED (log entry 129): the row and column
of R138's lane formula are those of the destination, and the draws are made in its orientation, also in transposed mode. -/
def climb (n : Nat) (w : Spec) (r : Ready) : Nat → List (Format × Nat) → Option Rung → CM (Rung × Option Rung)
  | 0, _, last => return (r.toBf16 w.desc, last)
  | _ + 1, [], last => return (r.toBf16 w.desc, last)
  | k + 1, (f, cls) :: rest, last => do
    let s ← getS
    let es := s.entries n f (rungBook w.desc f)
    match r.scalesFor w.desc f es with
    | none => climb n w r k (if f == .q4c then rest else []) last
    | some sc => do
      let us ← (if w.desc.stoch then do
          let x := (s.core n).tileDraws r.tile.row r.tile.col
          setS (s.setCore n x.2)
          return some x.1
        else return none)
      let g := r.encode w.desc f cls es sc us
      if !rungFails w.desc r.tile w.thr f r.els g.q then return (g, last)
      else
        -- from Q4C a failure goes to Q8C; Q4P is for a scale that is not representable
        climb n w r k (if f == .q4c then rest.drop 1 else rest) (if cls ≤ 1 then some g else last)

/-! ### Steps 9 and 10: the writes of a tile (R108, R117, R122 to R124, R135) -/

/-- The 16 or 32 code bytes of a tile row. -/
def codeBytes (f : Format) (l : List Nat) : List Byte :=
  if f.isQ4 then (List.range 16).map (fun k => BitVec.ofNat 8 (l.getD (2 * k) 0 % 16 + 16 * (l.getD (2 * k + 1) 0 % 16)))
  else (List.range 32).map (fun k => BitVec.ofNat 8 (l.getD k 0))

/-- Write a tile row's segment of a slab: codes and two scales, padding beyond the columns (R59, R108). -/
def writeSegment (n : Nat) (d : Desc) (row col : Nat) (codes scales : List Nat) (poison : Bool) : CM Unit := do
  let a := d.slabAddr (row * d.slabs + col / 512)
  let e := col % 512
  let codes := codes.mapIdx (fun j c => if col + j < d.cols then c else 0)
  let scales := scales.mapIdx (fun h c => if col + 16 * h < d.cols then c else 0)
  wrAt n d.loc (a + (codePos d.fmt e).1) (codeBytes d.fmt codes) poison
  wrAt n d.loc (a + scalePos d.fmt (e / 16)) (scales.map (BitVec.ofNat 8)) poison

/-- Write the class of a segment into its field of the slab's entry (R122). -/
def writeClass (n : Nat) (d : Desc) (row col cls : Nat) (poison : Bool) : CM Unit := do
  if d.classMap == 0 then return ()
  let a := d.classMap + 4 * (row * d.slabs + col / 512) + (col % 512) / 128
  let sh := 2 * ((col % 128) / 32)
  let old := leNat (← rdAt n d.loc a 1).1
  let new := (old &&& (255 - 3 <<< sh)) ||| (cls <<< sh)
  wrAt n d.loc a (leBytes new 1) poison

/-- Write the glint slot of a quarter slab (R117): the glint of the row, or zeros. DESIGN CHOICE (log entry 132): a destination with a glint
array and a glint factor of 0 has its slots written as zeros too. -/
def writeGlint (n : Nat) (d : Desc) (row col : Nat) (g : Option (Nat × Nat)) (poison : Bool) : CM Unit := do
  if d.glintBase == 0 then return ()
  let a := d.glintBase + 16 * (row * d.slabs + col / 512) + 4 * ((col % 512) / 128)
  match g with
  | some x => do
    wrAt n d.loc a (leBytes (glintWord (x.1 % 512) x.2) 4) poison
    modS (fun s => s.coreEvent n 0x08 1 none)
  | none => wrAt n d.loc a (leBytes 0 4) poison

/-- The bytes of a fall-back record's row (R123). -/
def recordRow (cls : Nat) (codes scales : List Nat) : List Byte :=
  if cls == 2 then (List.range 32).map (fun j => BitVec.ofNat 8 (codes.getD j 0)) ++ scales.map (BitVec.ofNat 8) ++ List.replicate 30 0#8
  else (List.range 32).flatMap (fun j => leBytes (codes.getD j 0) 2)

/-- Write the fall-back record of a tile and its directory entry (R123, R533); the answer is the non-finite elements written. Tensor row r is
record row r mod 32. DESIGN CHOICE (log entry 131): a tile whose first row is no multiple of 32 takes one record, which the directory
entries of both tile numbers that it touches name. -/
def writeRecord (n : Nat) (d : Desc) (t : Tile) (g : Rung) (i : Nat) (poison : Bool) : CM (List NonFin) := do
  let rows := (List.range 32).filter (fun r => decide (t.row + r < d.rows))
  let at_ (r : Nat) : Nat := d.fbPool + 64 + 2048 * i + 64 * ((t.row + r) % 32)
  let code (r j : Nat) : Nat := if t.col + j < d.cols then g.codes.getD (32 * r + j) 0 else 0
  rows.forM (fun r =>
    wrAt n d.loc (at_ r) (recordRow g.cls ((List.range 32).map (code r))
      ((List.range 2).map (fun h => if t.col + 16 * h < d.cols then g.scales.getD (2 * r + h) 0 else 0))) poison)
  (rows.filter (fun r => r == 0 || (t.row + r) % 32 == 0)).forM (fun r =>
    wrAt n d.loc (d.fbDir + 4 * tileNo d.cols ((t.row + r) * d.slabs + t.col / 512) ((t.col % 512) / 32)) (leBytes i 4) poison)
  if g.cls != 3 then return []
  return rows.flatMap (fun r => (List.range 32).filterMap (fun j =>
    let v := bf16.decode (code r j)
    if v.isFin then none else some ⟨t.row + r, t.col + j, at_ r + 2 * j, v.isNaN⟩))

/-- Step 9: the residual of this step (R135), Q4C over the residual's own blocks. -/
def writeResidual (n : Nat) (d rd : Desc) (r : Ready) (g : Rung) (poison : Bool) : CM Unit := do
  let es := (← getS).entries n .q4c rd.codebook
  let ts := dy32 rd.tscale
  let diff (e : Nat) : Dy :=
    match r.els.getD e El.zero, g.q.getD e El.zero with
    | .num a _, .num b _ => if r.bf || !d.live (r.tile.row + e / 32) (r.tile.col + e % 32) then Dy.zero else a.sub b
    | _, _ => Dy.zero
  (List.range 32).forM (fun row => do
    if r.tile.row + row < rd.rows then
      let sc := (List.range 2).map (fun h =>
        let amax := (List.range 16).foldl (fun m j => m.max (diff (32 * row + 16 * h + j)).abs) Dy.zero
        blockScaleE4 ts (entriesMax es) amax)
      flagIf (sc.any Option.isNone) 0x80
      let sb := sc.map (fun x => x.getD 0x7E)
      let codes := (List.range 32).map (fun j =>
        let den := ((scaleE4 (sb.getD (j / 16) 0)).getD Dy.zero).mul ts
        if den.isZero then 0 else encodeNearest es den (diff (32 * row + j)))
      writeSegment n rd (r.tile.row + row) r.tile.col codes sb poison)

/-- Step 10 for the slab, the class map and the glint slots of a tile (R108, R117, R122). -/
def writeTile (n : Nat) (d : Desc) (r : Ready) (cls : Nat) (g : Rung) (poison : Bool) : CM Unit :=
  (List.range 32).forM (fun row => do
    let tr := r.tile.row + row
    if tr < d.rows then
      let inSlab := decide (cls ≤ 1)
      let codes := (List.range 32).map (fun j => if inSlab then g.codes.getD (32 * row + j) 0 else 0)
      let sc := (List.range 2).map (fun h => if inSlab then g.scales.getD (2 * row + h) 0 else 0)
      writeSegment n d tr r.tile.col codes sc poison
      writeClass n d tr r.tile.col cls poison
      if r.first then writeGlint n d tr r.tile.col (r.glints.getD row none) poison)

/-- The counter of CONV_FB that an emitted tile moves, by the format in which it is emitted (R144). -/
def fbCounter : Format → Option Nat
  | .q4p => some 0
  | .q8c => some 1
  | .bf16 => some 2
  | _ => none

/-- The counters and flags of an emitted tile (R127, R144): `fallen` under R127. -/
def countTile (n : Nat) (f : Format) (fallen : Bool) : CM Unit := do
  match fbCounter f with
  | some k => modS (fun s => s.countFld .convFb n k 0 31 0 1)
  | none => pure ()
  modS (fun s => s.coreEvent n 0x06 1 none)
  if fallen then do
    flag 0x100
    modS (fun s => s.coreEvent n 0x07 1 none)

/-- Take a record from the pool's cursor for a tile of class 0b10 or 0b11 (R123): its index, or none when the pool is full. -/
def takeRecord (n : Nat) (d : Desc) : CM (Option Nat) := do
  let old ← addAt64 n d.loc d.fbPool 1
  return if old < d.poolCap then some old else none

/-- Emit one prepared tile of a narrow destination (steps 7 to 10 of R111): whether it counts under R127, whether as fallen, and its
non-finite elements. -/
def emitNarrow (n : Nat) (w : Spec) (r : Ready) : CM (Bool × Bool × List NonFin) := do
  let d := w.desc
  let dead := decide (d.rows ≤ r.tile.row) || decide (d.cols ≤ r.tile.col)
  let (g, last) ← (if r.bf then return (r.toBf16 d, none) else climb n w r 4 (baseRungs d.fmt) none)
  if decide (d.slabs ≤ r.tile.col / 512) || decide (d.rows ≤ r.tile.row) then return (false, false, [])
  if dead then do
    writeTile n d r 0 ⟨d.fmt, 0, [], [], []⟩ r.poison
    return (false, false, [])
  let (g, fallen, record) ← (if g.cls ≤ 1 then return (g, g.cls != 0, none) else do
    match ← takeRecord n d with
    | some i => return (g, true, some i)
    | none => do
      flag 0x40
      modS (fun s => s.countFld .convFb n 3 0 31 0 1)
      match last with
      | some l => return (l, true, none)
      | none => stopAt 0x40 0)
  countTile n g.fmt fallen
  match w.resid with
  | some rd => writeResidual n d rd r g r.poison
  | none => pure ()
  writeTile n d r g.cls g r.poison
  let nf ← (match record with
    | some i => writeRecord n d r.tile g i r.poison
    | none => return [])
  flagIf r.poison 0x200
  return (true, fallen, nf)

/-! ### Reading a narrow tensor element by element (R52, R122, R123) -/

/-- Whether a code's entry carries a minus sign (R68). -/
def State.codeNeg (s : State) (n : Nat) (f : Format) (c e : Nat) : Bool :=
  match f with
  | .q4c => bit (s.cb4 n c e) 5
  | .q4p => bit (e2m1Code e) 5
  | _ => bit (s.cb8 n (c % 4) e) 9

/-- An element of a plain tensor. A wide NaN keeps its sign and payload, quieted; an FP8 NaN is decoded to the canonical one (R39). -/
def plainElem (f : Format) (ts : Dy) (c : Nat) : El :=
  match f with
  | .int8 => .ofDy false ⟨(BitVec.ofNat 8 c).toInt, 0⟩
  | .int32 => .ofDy false ⟨(BitVec.ofNat 32 c).toInt, 0⟩
  | .fp32 => El.ofWord 0 (w32 c)
  | _ => match f.fmt.decode c with
    | .nan _ _ => .nan (if f.isFp8 then cnan else w32 (f.fmt.convert fp32 c))
    | .inf x => .inf x
    | v => .num (v.dy.mul ts) v.neg

/-- The 32 elements of segment (row, col) of a tensor, exact under R52 with the tensor scale, and whether a line was poisoned. -/
def readSegment (n : Nat) (d : Desc) (row col : Nat) : CM (List El × Bool) := do
  if row ≥ d.rows || col ≥ d.cols then return (List.replicate 32 El.zero, false)
  let ts := dy32 d.tscale
  if !d.fmt.isSlab then do
    let k := min 32 (d.cols - col)
    let b ← rdAt n d.loc (d.elemAddr row col) (k * d.fmt.bytes)
    return ((List.range 32).map (fun j => if j ≥ k then El.zero else plainElem d.fmt ts (leAt b.1 (j * d.fmt.bytes) d.fmt.bytes)), b.2)
  else do
    let no := row * d.slabs + col / 512
    let g := (col % 512) / 32
    let e0 := col % 512
    let cls ← readClasses n d no
    let gl ← readGlints n d no
    let s ← getS
    let wide := decide (segClass cls g ≥ 2)
    let src ← (if wide then readRecordRow n d row (col / 512) g else do
      let c ← rdAt n d.loc (d.slabAddr no + (codePos d.fmt e0).1) (if d.fmt.isQ4 then 16 else 32)
      let sc ← rdAt n d.loc (d.slabAddr no + scalePos d.fmt (e0 / 16)) 2
      return (c.1 ++ sc.1, c.2 || sc.2))
    let f := if wide then .q8c else segFormat d.fmt cls g
    let book := if wide then d.fbBook else d.codebook
    let nc := if d.fmt.isQ4 && !wide then 16 else 32
    let sb (h : Nat) : Option Dy := blockScale f (leAt src.1 (nc + h) 1)
    if segClass cls g != 3 then
      flagIf ((List.range 2).any (fun h => decide (col + 16 * h < d.cols) && (sb h).isNone)) 0x20
    let one (j : Nat) : El :=
      match gl.find? (fun x => x.1 == e0 + j) with
      | some x => glintEl d x.2
      | none =>
        if segClass cls g == 3 then El.ofFmt bf16 ts (leAt src.1 (2 * j) 2)
        else
          let c := if nc == 16 then (leAt src.1 (j / 2) 1 >>> (4 * (j % 2))) % 16 else leAt src.1 j 1
          -- a block of an invalid scale decodes to +0 whatever its codes (R53, R54)
          match sb (j / 16) with
          | some v => .ofDy (s.codeNeg n f book c) (((s.codeVal n f book c).mul v).mul ts)
          | none => El.zero
    return ((List.range 32).map (fun j => if col + j < d.cols then one j else El.zero), src.2)

/-- A decode to FP32 (R68): rounded to nearest even, with OF where it leaves the range. -/
def El.toFp32 (x : El) : Word × VFlags :=
  match x with
  | .nan w => (w, 0)
  | .inf n => (if n then ninf else pinf, 0)
  | .num d n =>
    let r := w32 (fp32.ofDy n d)
    (r, if isInf32 r then 4 else 0)

/-- The residual of a tile, element by element (R134). -/
def readResidual (n : Nat) (rd : Desc) (t : Tile) : CM (List El × Bool) := do
  let l ← (List.range 32).mapM (fun row => readSegment n rd (t.row + row) t.col)
  return (l.flatMap (·.1), l.any (·.2))

/-! ### A group of tiles through steps 3 to 6 -/

/-- Steps 3 to 6 for the tiles of one quarter, or for one tile where nothing joins them. -/
def prepare (n : Nat) (w : Spec) (ts : List Tile) : CM (List Ready) := do
  let d := w.desc
  let els0 := ts.map (fun t => t.words.map (El.ofWord t.comp))
  let bf0 := nonFinTiles d ts els0
  let raised := raisedTiles d ts
  let ws := if d.prism == 0 then [] else prismWords d.seed (ts.foldl (fun m t => Nat.max m (t.col + 128)) 0)
  let els1 := rotateTiles d ws ts bf0 raised els0
  let bf1 := List.zipWith (· || ·) bf0 (nonFinTiles d ts els1)
  let res ← (match w.resid with
    | some rd => ts.mapM (readResidual n rd)
    | none => return ts.map (fun _ => (([] : List El), false)))
  let els2 := els1.mapIdx (fun i l =>
    if bf1.getD i false then l else
    let r := (res.getD i ([], false)).1
    if r.isEmpty then l else l.mapIdx (fun e x => addResidual (raised.getD i false) x (r.getD e El.zero)))
  let bf2 := List.zipWith (· || ·) bf1 (nonFinTiles d ts els2)
  let glints := if d.glint == 0 then List.replicate 32 none else (List.range 32).map (fun row => rowGlint d ts bf2 els2 row)
  let marks := glints.map (fun g => g.map (fun x => (x.1, El.toFmt bf16 (dy32 d.tscale) (.ofDy false x.2))))
  let poison := ts.any (·.poison) || res.any (·.2)
  let lo := ts.foldl (fun m t => Nat.min m t.col) (ts.headD ⟨0, 0, 0, [], false⟩).col
  return ts.mapIdx (fun i t => ⟨t, els2.getD i [], bf2.getD i false, marks, d.glint == 0 || t.col == lo, poison⟩)

/-! ### Plain destinations (R60 to R63, R533) -/

/-- An element as a plain format's code, with whether a NaN became an integer (R62). -/
def plainCode (f : Format) (ts : Dy) (x : El) : Nat × Bool :=
  match f with
  | .int8 => intCode 8 x
  | .int32 => intCode 32 x
  | g => (El.toFmt g.fmt ts x, false)
where
  intCode (w : Nat) (x : El) : Nat × Bool :=
    match x with
    | .nan _ => (0, true)
    | .inf n => ((BitVec.ofInt w (FV.toInt w (.inf n))).toNat, false)
    | .num d _ => ((BitVec.ofInt w (FV.toInt w (.fin d.isNeg d.m.natAbs d.e))).toNat, false)

/-- A stored word of a tile of count `comp` as a plain format's code; FP32 without a factor is written as it stands. -/
def plainWordCode (f : Format) (ts : Dy) (comp : Nat) (w : Word) : Nat × Bool :=
  if f == .fp32 && comp == 0 then (w.toNat, false) else plainCode f ts (El.ofWord comp w)

/-- Whether a code of a plain format is not finite, and whether it is a NaN. -/
def codeNonFin (f : Format) (c : Nat) : Option Bool :=
  match f with
  | .int8 => none
  | .int32 => none
  | g => match g.fmt.decode c with
    | .nan _ _ => some true
    | .inf _ => some false
    | _ => none

/-- Write a tile to a plain destination and count its non-finite elements (R393). -/
def emitPlain (n : Nat) (w : Spec) (t : Tile) : CM Unit := do
  let d := w.desc
  let ts := dy32 d.tscale
  let rows := (List.range 32).filter (fun r => decide (t.row + r < d.rows))
  let k := min 32 (d.cols - t.col)
  let code (r j : Nat) : Nat × Bool := plainWordCode d.fmt ts t.comp (t.words.getD (32 * r + j) 0#32)
  flagIf (rows.any (fun r => (List.range k).any (fun j => (code r j).2))) 1
  rows.forM (fun r =>
    wrAt n d.loc (d.elemAddr (t.row + r) t.col) ((List.range k).flatMap (fun j => leBytes (code r j).1 d.fmt.bytes)) t.poison)
  if !rows.isEmpty && k != 0 then modS (fun s => s.coreEvent n 0x06 1 none)
  if !d.loc then
    noteNonFinite n w.cmd w.cc w.at_ (rows.flatMap (fun r => (List.range k).filterMap (fun j =>
      (codeNonFin d.fmt (code r j).1).map (fun nan => ⟨t.row + r, t.col + j, d.elemAddr (t.row + r) (t.col + j), nan⟩))))

/-- Count the non-finite elements of a tile that has been written (R393, R394). -/
def noteTile (n : Nat) (w : Spec) (nf : List NonFin) : CM Unit := do
  if !w.desc.loc then noteNonFinite n w.cmd w.cc w.at_ nf

/-- Run a part of a command and hand a stop on as a value, so that what must follow it still happens; a wait is no stop. -/
def attempt {α : Type} (x : CM α) (d : α) : CM (α × Option Stop) :=
  tryCatch (do return (← x, none)) (fun e => match e with
    | .wait => throw .wait
    | .status c a => return (d, some (.status c a)))

/-! ### Layer escalation (R127, R145) -/

/-- The threshold of R127 over a value of COUNTS. -/
def escCrossed (share v : Nat) : Bool := decide (1024 * (v >>> 32) > share * (v % 2 ^ 32)) && decide (v % 2 ^ 32 ≥ 64)

/-- The first escalation event in CONV_ESC, a later one setting OVERRUN (R145), and the event to the host (R436). -/
def State.escalate (s : State) (n : Nat) (tag stats : Nat) : State :=
  let s := if s.fld .convEscLo n 0 0 0 0 == 1 then s.orReg .convEscLo n 0 0 2
    else (s.setFld .convEscLo n 0 0 31 5 (stats / 32)).orReg .convEscLo n 0 0 1 |>.setFld .convEscHi n 0 0 19 0 (stats >>> 32)
  match s.holder n with
  | some p => s.raise p 4 n tag stats
  | none => s

/-- The counts of a conversion command at its end (R127). -/
def addCounts (n : Nat) (w : Spec) (emitted fallen : Nat) : CM Unit := do
  let d := w.desc
  if !d.fmt.isSlab || d.stats == 0 then return ()
  let amount := fallen * 2 ^ 32 + emitted
  let old ← addAt64 n d.loc d.stats amount
  let s ← getS
  let share := s.fld .convCtl n 0 0 10 1
  if escCrossed share ((old + amount) % 2 ^ 64) && !escCrossed share old then
    let ev ← addAt64 n d.loc (d.stats + 8) 1
    if ev == 0 then
      modS (fun s => s.escalate n w.cmd.tag d.stats)
      if s.fld .convCtl n 0 0 0 0 == 1 && d.promoted != 0 then
        let _ ← addAt64 n d.loc (d.stats + 16) 1

end Sys2Proof.Machine
end

