-- ==== Sys2Proof/Machine/Experts.lean ====
section
/-! DEFINITION. Expert routing: the Chart and slot tables, DISPATCH and COMBINE with their requests and responses (R372 to R377). -/
namespace Sys2Proof.Machine

/-! ### The Chart (R372, R382) -/

/-- The words of a Chart entry, and of a slot entry; an entry that nothing has written is all zero. -/
def State.chartEntry (s : State) (e : Nat) : List Word := tabGet s.fabric.chart e (List.replicate 4 0#32)
def State.slotEntry (s : State) (k : Nat) : List Word := tabGet s.fabric.slotTab k (List.replicate 6 0#32)
def wordAt (l : List Word) (i : Nat) : Nat := (l.getD i 0#32).toNat

/-- Where a candidate leads: its Chart entry, if valid and of a member of the group (R374). -/
def State.lead (s : State) (g expert : Nat) : Lead :=
  if expert == 0xFFFF then .absent else
  let e := s.chartEntry expert
  let dev := bits (wordAt e 0) 11 0
  if bit (wordAt e 0) 31 && s.gState g == 3 && ((s.group g).rankOf dev).isSome then .slot dev (bits (wordAt e 0) 27 16) (wordAt e 1)
  else .invalid

/-- A slot's partition, pitch and buffers, where the slot is valid (R372). -/
structure SlotPlace where
  part : Nat
  pitch : Nat
  inBase : Nat
  outBase : Nat
  deriving DecidableEq, Repr

def State.slotPlace (s : State) (k : Nat) : Option SlotPlace :=
  let e := s.slotEntry k
  if bit (wordAt e 0) 31 then
    some ⟨bits (wordAt e 0) 30 28, bits (wordAt e 0) 17 0, wordAt e 2 + wordAt e 3 % 65536 * 2 ^ 32, wordAt e 4 + wordAt e 5 % 65536 * 2 ^ 32⟩
  else none

/-! ### Rows -/

/-- Bytes of a row as it travels: Q8C slabs with Q8WIRE, as the token tensor holds it otherwise (R374). -/
def Expert.rowBytes (e : Expert) : Nat :=
  if e.q8 then slabsPerRow e.toks.cols * 544
  else if e.toks.fmt.isSlab then e.toks.slabs * e.toks.fmt.slabBytes else e.toks.cols * e.toks.fmt.bytes

/-- An element of a plain tensor as an FP32 value. -/
def elem32 (f : Format) (ts : Dy) (c : Nat) : Word :=
  (plainElem f ts c).toFp32.1

def plainRow (d : Desc) (b : List Byte) : List Word :=
  (List.range d.cols).map (fun i => elem32 d.fmt (dy32 d.tscale) (leAt b (i * d.fmt.bytes) d.fmt.bytes))

/-- The master of an engine's accesses for core n. -/
def engineWho (n : Nat) : HM Who := do return (← get).whoCore n 0

def hubGet (n : Nat) (loc : Bool) (a len : Nat) : HM (List Byte × Bool) := do
  let s ← get
  if loc then return (s.core n).csRead a len
  else hubRd (s.whoCore n 0) ((s.holder n).getD 8) a len

/-- A token row as it is sent; sending a poisoned line is a consumption (R409). A row that Q8 slabs cannot hold goes as it is. -/
def tokenRow (e : Expert) (t : Nat) : HM (List Byte) := do
  let a := if e.toks.fmt.isSlab then e.toks.slabAddr (t * e.toks.slabs) else e.toks.elemAddr t 0
  let len := if e.toks.fmt.isSlab then e.toks.slabs * e.toks.fmt.slabBytes else e.toks.cols * e.toks.fmt.bytes
  let r ← hubGet e.core e.toks.loc a len
  if r.2 then throw (.status 0x44 a)
  if e.q8 then
    match q8Encode (plainRow e.toks r.1) with
    | some b => return b
    | none => return r.1
  else return r.1

/-- A row that came back, as FP32 values. -/
def backRow (e : Expert) (b : List Byte) : List Word :=
  if e.q8 then (List.range e.toks.cols).map (q8At b) else plainRow e.toks b

/-! ### Requests -/

/-- A request of DISPATCH or COMBINE to a device of the group, on VC 1 (R363). -/
def State.toMember (s : State) (g dev typ target : Nat) (payload : List Byte) : State × Nat :=
  let peer := match (s.group g).members.find? (fun m => m.1 == dev) with
    | some m => m.2
    | none => 0
  s.request typ 1 dev (s.gPart g) peer target payload (some g)

def claimTarget (slot cap : Nat) : Nat := 2 ^ 63 + 5 * 2 ^ 60 + slot * 2 ^ 48 + cap % 2 ^ 32
def rowTarget (slot row off : Nat) : Nat := 2 ^ 63 + 6 * 2 ^ 60 + slot % 4096 * 2 ^ 48 + row % 2 ^ 32 * 2 ^ 16 + off % 2 ^ 16

/-! ### Choices -/

def State.expertNo (s : State) (n cc : Nat) : Option Expert := s.fabric.experts.find? (fun e => e.core == n && e.cc == cc)
def State.putExpert (s : State) (e : Expert) : State :=
  s.onFabric (fun f => { f with experts := f.experts.map (fun x => if x.core == e.core && x.cc == e.cc then e else x) })

def Expert.route (e : Expert) (tok cand : Nat) : Option Route := e.routes.find? (fun r => r.tok == tok && r.cand == cand)
def Expert.onChoice (e : Expert) (tok ch : Nat) (f : Choice → Choice) : Expert :=
  { e with choices := e.choices.map (fun c => if c.tok == tok && c.ch == ch then f c else c) }

/-- Settle a choice, or give it its outstanding requests. -/
def setChoice (e : Expert) (c : Choice) : HM Unit := modify (fun s => match s.expertNo e.core e.cc with
  | some x => s.putExpert (x.onChoice c.tok c.ch (fun _ => c))
  | none => s)

/-- An invalid candidate sets IV (R374). -/
def markInvalid (e : Expert) (c : Choice) : HM Unit := modify (fun s => match s.expertNo e.core e.cc with
  | some x => s.putExpert ({ x with flags := x.flags ||| 1 }.onChoice c.tok c.ch (fun _ => { c with wait := [], done := some (2, 0) }))
  | none => s)

/-- The row of a placed choice goes to its slot in pieces of at most 256 bytes. -/
def placeRow (e : Expert) (c : Choice) (dev slot row : Nat) : HM Unit := do
  let b ← tokenRow e c.tok
  let b := padded b
  let qs ← (pieces 256 0 (b.length / 256 + 2) b.length).mapM (fun x => do
    let r := (← get).toMember e.group dev 0x01 (rowTarget slot row (x.1 / 8)) ((b.drop x.1).take x.2)
    set r.1
    return (dev, r.2, x.1))
  setChoice e { c with wait := qs, done := some (0, row) }

/-- The next candidate of a token that no choice of it has used yet, after the first K (R374). -/
def Expert.nextCand (e : Expert) (tok : Nat) : Option Nat :=
  let used := e.choices.foldl (fun a c => if c.tok == tok then Nat.max a c.cand else a) (e.k - 1)
  ((List.range e.c).find? (fun i => decide (used < i) && (match e.route tok i with
    | some r => r.lead != .absent
    | none => false)))

/-- Claim a slot for the candidate that a choice uses now (R374). -/
def claim (e : Expert) (c : Choice) : HM Unit :=
  match (e.route c.tok c.cand).map (·.lead) with
  | some (Lead.slot dev slot cap) => do
    let r := (← get).toMember e.group dev 0x04 (claimTarget slot cap) (leBytes 1 8)
    set r.1
    setChoice e { c with wait := [(dev, r.2, 0)] }
  | some Lead.invalid => markInvalid e c
  | _ => setChoice e { c with done := some (1, 0) }

/-- A claim has been answered with row n of its expert. -/
def claimed (e : Expert) (c : Choice) (n : Nat) : HM Unit := do
  match (e.route c.tok c.cand).map (·.lead) with
  | some (Lead.slot dev slot cap) =>
    if n < cap then placeRow e c dev slot n
    else if !e.policy then setChoice e { c with wait := [], done := some (1, 0) }
    else match e.nextCand c.tok with
      | none => setChoice e { c with wait := [], done := some (1, 0) }
      | some i => claim e { c with cand := i, wait := [] }
  | _ => pure ()

/-! ### The ordered DISPATCH (R375; log entry 29) -/

/-- What an ordered DISPATCH does with a choice: the choice with the candidate that it ends at, the claims that it makes on the way (expert,
device, slot, capacity), and its outcome: none invalid, otherwise dropped or placed at a device, slot and row. -/
structure Admit where
  ch : Choice
  claims : List (Nat × Nat × Nat × Nat)
  out : Option (Option (Nat × Nat × Nat))
  deriving DecidableEq, Repr

/-- Admit one choice: its row follows the claims of lower ranks (`base`) and the earlier claims of this member (`seen`); over capacity the
policy decides at once. -/
def Expert.admitOne (e : Expert) (base : Nat → Nat) : Nat → Choice → List Nat → Admit
  | 0, c, _ => ⟨c, [], some none⟩
  | fuel + 1, c, seen =>
    match e.route c.tok c.cand with
    | none => ⟨c, [], some none⟩
    | some r => match r.lead with
      | .invalid => ⟨c, [], none⟩
      | .absent => ⟨c, [], some none⟩
      | .slot dev slot cap =>
        let row := base r.expert + (seen.filter (· == r.expert)).length
        let own := (r.expert, dev, slot, cap)
        if row < cap then ⟨c, [own], some (some (dev, slot, row))⟩
        else match (if e.policy then e.nextCand c.tok else none) with
          | none => ⟨c, [own], some none⟩
          | some i =>
            let c := { c with cand := i }
            let a := Expert.admitOne (e.onChoice c.tok c.ch (fun _ => c)) base fuel c (seen ++ [r.expert])
            { a with claims := own :: a.claims }

/-- Admit the choices of a member in order of token and choice. -/
def Expert.admitAll (base : Nat → Nat) : Expert → List Choice → List Nat → List Admit
  | _, [], _ => []
  | e, c :: t, seen =>
    let a := e.admitOne base 17 c seen
    a :: Expert.admitAll base (e.onChoice c.tok c.ch (fun _ => a.ch)) t (seen ++ a.claims.map (·.1))

def countOf (l : List (Nat × Nat)) (x : Nat) : Nat := match l.find? (fun p => p.1 == x) with
  | some p => p.2
  | none => 0

/-- The claims of lower ranks on an expert, by their counts. -/
def claimsBelow (cs : List ClaimCount) (seq rank x : Nat) : Nat :=
  ((cs.filter (fun c => c.seq == seq && decide (c.rank < rank))).map (fun c => countOf c.pairs x)).sum

/-- What becomes of a DISPATCH of the member of a rank once the counts of the lower ranks are known. -/
def Expert.plan (e : Expert) (cs : List ClaimCount) (rank : Nat) : List Admit :=
  Expert.admitAll (claimsBelow cs e.seq rank) e (e.choices.filter (fun c => c.done.isNone)) []

/-- The counts of a plan: expert and claims, in order of expert. -/
def demand (l : List Admit) : List (Nat × Nat) :=
  let xs := l.flatMap (fun a => a.claims.map (·.1))
  (sortOn id xs.eraseDups).map (fun x => (x, (xs.filter (· == x)).length))

/-- The counts of a member, up to 31 to a packet; TARGET holds the DISPATCH's number in the group (KIND 7). -/
def State.sendCounts (s : State) (g seq : Nat) (d : List (Nat × Nat)) : State :=
  let x := s.group g
  let send (s : State) (dev : Nat) : State :=
    (pieces 31 0 (d.length / 31 + 2) (Nat.max d.length 1)).foldl (fun s p =>
      let body := leBytes d.length 8 ++ ((d.drop p.1).take p.2).flatMap (fun e => leBytes e.1 4 ++ leBytes e.2 4)
      (s.toMember g dev 0x01 (collTarget 7 x.epoch seq 0 0) body).1) s
  x.members.foldl (fun s m => if m.1 == s.devId then s else send s m.1) s

def mergeCounts (l : List ClaimCount) (seq rank total : Nat) (pairs : List (Nat × Nat)) : List ClaimCount :=
  match l.find? (fun c => c.seq == seq && c.rank == rank) with
  | some c => l.map (fun x => if x = c then { c with pairs := c.pairs ++ pairs } else x)
  | none => l ++ [⟨seq, rank, total, pairs⟩]

/-- Whether the counts of n members of ranks below `rank` are in. -/
def countsIn? (cs : List ClaimCount) (seq rank : Nat) : Bool :=
  decide (rank ≤ (cs.filter (fun c => c.seq == seq && decide (c.rank < rank) && decide (c.pairs.length ≥ c.total))).length)

/-- Each claim reaches its cursor, which counts it; then the row goes, or the choice ends. -/
def admitRow (e : Expert) (a : Admit) : HM Unit := do
  a.claims.forM (fun x => do
    set ((← get).toMember e.group x.2.1 0x04 (claimTarget x.2.2.1 x.2.2.2) (leBytes 1 8)).1)
  match a.out with
  | none => markInvalid e a.ch
  | some none => setChoice e { a.ch with done := some (1, 0) }
  | some (some (dev, slot, row)) => placeRow e a.ch dev slot row

/-- An ordered DISPATCH goes on (R375; log entry 29). Its counts go out once it knows its claims: at once, or under POLICY 1, where a lower
rank's overflow moves them, when the counts of the lower ranks are in. Rows are admitted when the counts of every member are in. -/
def runOrdered (n cc : Nat) : Nat → HM Unit
  | 0 => pure ()
  | fuel + 1 => do
    let s ← get
    match s.expertNo n cc with
    | none => pure ()
    | some e =>
      let cs := (s.group e.group).counts
      let rank := s.myRank e.group
      if e.stage == 0 && (!e.policy || countsIn? cs e.seq rank) then do
        let d := demand (e.plan (if e.policy then cs else []) rank)
        modify (fun s => ((s.onGroup e.group (fun x => { x with counts := mergeCounts x.counts e.seq rank d.length d })).sendCounts
          e.group e.seq d).putExpert { e with stage := 1 })
        runOrdered n cc fuel
      else if e.stage == 1 && countsIn? cs e.seq (s.gSize e.group) then do
        let plan := e.plan cs rank
        modify (fun s => s.putExpert { e with stage := 2 })
        plan.forM (admitRow e)
      else pure ()

/-! ### The end -/

def Expert.settled (e : Expert) : Bool :=
  (!e.ordered || e.stage == 2) && e.choices.all (fun c => c.done.isSome && c.wait.isEmpty)

/-- The placement record of a choice (R376). -/
def Expert.record (e : Expert) (c : Choice) : List Byte :=
  let x := match e.route c.tok c.cand with
    | some r => r.expert
    | none => 0xFFFF
  let d := c.done.getD (1, 0)
  leBytes x 2 ++ leBytes d.1 1 ++ leBytes c.cand 1 ++ leBytes d.2 4

/-- The bytes of a choice's row, and the place of its last piece among all that arrived. -/
def Expert.rowOf (e : Expert) (c : Choice) : List Byte :=
  (sortOn (·.2.2.1) (e.pieces.filter (fun p => p.1 == c.tok && p.2.1 == c.ch))).flatMap (·.2.2.2)
def Expert.lastPiece (e : Expert) (c : Choice) : Nat :=
  (e.pieces.zipIdx).foldl (fun a p => if p.1.1 == c.tok && p.1.2.1 == c.ch then p.2 else a) 0

def Expert.gate (e : Expert) (c : Choice) : Word := match e.route c.tok c.cand with
  | some r => r.gate
  | none => 0#32

/-- y_t of R377: products and sums rounded, in order of arrival, or of choice where ordered. -/
def Expert.outRow (e : Expert) (t : Nat) : List Word :=
  let ps := e.choices.filter (fun c => c.tok == t && (match c.done with
    | some d => d.1 == 0
    | none => false))
  let ps := if e.ordered then sortOn (·.ch) ps else sortOn e.lastPiece ps
  let total := (sortOn (·.ch) ps).foldl (fun (a : Option Word) c => match a with
    | none => some (e.gate c)
    | some w => some (fadd w (e.gate c)).1) none
  let g (c : Choice) : Word := if e.renorm then (fdiv (e.gate c) (total.getD 0#32)).1 else e.gate c
  let term (c : Choice) : List Word := (backRow e (e.rowOf c)).map (fun o => (fmul (g c) o).1)
  match ps with
  | [] => List.replicate e.toks.cols 0#32
  | c :: r => r.foldl (fun a x => List.zipWith (fun u v => (fadd u v).1) a (term x)) (term c)

def expertWrite (e : Expert) : HM Unit := do
  let s ← get
  let p := (s.holder e.core).getD 8
  let w := s.whoCore e.core 0
  match e.out with
  | some d => (List.range e.count).forM (fun t =>
      hubPut w e.core p d.loc (d.elemAddr t 0)
        ((e.outRow t).flatMap (fun v => leBytes (plainWordCode d.fmt (dy32 d.tscale) 0 v).1 d.fmt.bytes)))
  | none => (sortOn (fun c => c.tok * 8 + c.ch) e.choices).zipIdx.forM (fun c => hubWr w p (e.place + 8 * c.2) (e.record c.1))

def dropExpert (s : State) (e : Expert) : State :=
  s.onFabric (fun f => { f with experts := f.experts.filter (fun x => !(x.core == e.core && x.cc == e.cc)) })

/-- The counts of a DISPATCH that has ended are no longer needed. -/
def dropCounts (s : State) (e : Expert) : State :=
  if e.ordered then s.onGroup e.group (fun x => { x with counts := x.counts.filter (fun c => c.seq != e.seq) }) else s

/-- Run a part of a DISPATCH or COMBINE; a stop of R219 or R409 ends the command with that status. -/
def expertGuard (e : Expert) (x : HM Unit) : HM Unit :=
  tryCatch x (fun r => match r with
    | .wait => throw .wait
    | .status c a => modify (fun s =>
        let fl := match s.expertNo e.core e.cc with
          | some y => y.flags
          | none => e.flags
        (dropExpert s e).failFlight e.core e.cc fl c a))

/-- End the command once every choice is settled. -/
def expertEnd (n cc : Nat) : HM Unit := do
  match (← get).expertNo n cc with
  | none => pure ()
  | some e =>
    if !e.settled then pure () else
    expertGuard e (do
      expertWrite e
      modify (fun s => (dropCounts (dropExpert s e) e).landFlight n cc e.flags))

/-- Start the choices of a command. -/
def expertStart (n cc : Nat) : HM Unit := do
  match (← get).expertNo n cc with
  | none => pure ()
  | some e => do
    if e.combine then pure ()
    else if e.ordered then expertGuard e (runOrdered n cc 3)
    else expertGuard e (e.choices.forM (fun c => claim e c))
    expertEnd n cc

/-! ### DISPATCH and COMBINE (R373, R377) -/

/-- The routes of T tokens, C candidates each. -/
def routesOf (s : State) (g t c : Nat) (b : List Byte) : List Route :=
  (List.range t).flatMap (fun i => (List.range c).map (fun j =>
    let x := leAt b (128 * i + 8 * j) 2
    ⟨i, j, x, w32 (leAt b (128 * i + 8 * j + 4) 4), s.lead g x⟩))

def expertChecks (b : List Byte) (combine : Bool) : List (Bool × Nat) :=
  let w := leAt b 28 4
  let k := bits w 3 0
  let c := bits w 8 4
  [(bits w 31 12 == 0 && leAt b 40 24 == 0, 0x12),
   (decide (1 ≤ k) && decide (k ≤ 8) && decide (k ≤ c) && decide (c ≤ 16), 0x12),
   ([0, 8, 16].all (fun o => decide (leAt b o 8 < 2 ^ 48)) && (!combine || decide (leAt b 32 8 < 2 ^ 48)), 0x12),
   (aligned (leAt b 8 8) 8 && aligned (leAt b 16 8) 8, 0x05)]

/-- The common start of DISPATCH and COMBINE: the command as it goes into flight. -/
def expertOperands (n : Nat) (c : Cmd) (combine : Bool) : CM Expert := do
  let g ← groupArg n c 0
  need (aligned (addrOf c.w1) 64) 0x05
  let b := (← rdAt n (locOf c.w1) (addrOf c.w1) 64).1
  needAll (expertChecks b combine)
  let w := leAt b 28 4
  let t := leAt b 24 4
  let q8 := bit w 10
  let (toks, _) ← useDesc n false (leAt b 0 8)
  let out ← (if combine then do return some (← useDesc n false (leAt b 32 8)).1 else return none)
  need ((!(q8 || combine) || (!toks.fmt.isSlab && toks.fmt != .int8 && toks.fmt != .int32)) && (match out with
    | some d => !d.fmt.isSlab && d.fmt != .int8 && d.fmt != .int32
    | none => true)) 0x04
  need (decide (t ≤ toks.rows) && (match out with
    | some d => decide (t ≤ d.rows) && d.cols == toks.cols
    | none => true)) 0x06
  needRange toks
  match out with
  | some d => needRange d
  | none => pure ()
  let r ← rdVa n (leAt b 8 8) (128 * t)
  let s ← getS
  let k := s.core n
  return {
    core := n
    cc := k.cc
    combine := combine
    group := g
    toks := toks
    out := out
    place := leAt b 16 8
    count := t
    k := bits w 3 0
    c := bits w 8 4
    policy := bit w 9
    q8 := q8
    renorm := bit w 11
    flags := 0
    ordered := k.reckon
    seq := (s.group g).nextOrder
    stage := 0
    routes := routesOf s g t (bits w 8 4) r.1
    choices := []
    pieces := [] }

def expertLaunch (n : Nat) (c : Cmd) (e : Expert) : CM Bool := do
  modS (fun s => s.onFabric (fun f => { f with experts := f.experts ++ [e] }))
  modS (fun s => s.onCore n (fun k => { k with flights := k.flights ++ [⟨c, (k.cp + 2 ^ 48 - 32) % 2 ^ 48, k.cc, [], e.group, e.seq⟩] }))
  liftH (expertStart n e.cc)
  modS State.settled
  return false

def dispatchBody (n : Nat) (c : Cmd) : CM Bool := do
  let e ← expertOperands n c false
  let live := (← getS).gState e.group == 3
  let cs := (List.range e.count).flatMap (fun t => (List.range e.k).map (fun i => (⟨t, i, i, [], none⟩ : Choice)))
  if e.ordered then modS (fun s => s.onGroup e.group (fun x => { x with nextOrder := (x.nextOrder + 1) % 4096 }))
  expertLaunch n c { e with choices := cs, ordered := e.ordered && live }

def execDispatch (n : Nat) (c : Cmd) (s : State) : Host.Outcome State Fault Refusal :=
  answer (.dispatch n c) (pilotRun n c (dispatchBody n c) s)

/-- The READs of a placed row (R377; log entry 30): the payload of each holds the number of bytes. -/
def readRow (e : Expert) (c : Choice) (dev slot row : Nat) : HM (Choice) := do
  let len := (e.rowBytes + 7) / 8 * 8
  let qs ← (pieces 256 0 (len / 256 + 2) len).mapM (fun x => do
    let r := (← get).toMember e.group dev 0x02 (rowTarget slot row (x.1 / 8)) (leBytes x.2 8)
    set r.1
    return (dev, r.2, x.1))
  return { c with wait := qs }

/-- The choice that a placement record describes. -/
def recordChoice (e : Expert) (t i : Nat) (b : List Byte) : HM (Choice × Nat) := do
  let c : Choice := ⟨t, i, leAt b 3 1, [], some (leAt b 2 1, leAt b 4 4)⟩
  if leAt b 2 1 != 0 then return (c, 0)
  match (e.route t (leAt b 3 1)).map (fun r => (r.expert, r.lead)) with
  | some (x, Lead.slot dev slot _) =>
    if x == leAt b 0 2 then return (← readRow e c dev slot (leAt b 4 4), 0) else return ({ c with done := some (2, 0) }, 1)
  | _ => return ({ c with done := some (2, 0) }, 1)

def combineBody (n : Nat) (c : Cmd) : CM Bool := do
  let e ← expertOperands n c true
  let b ← rdVa n e.place (8 * e.count * e.k)
  let cs ← liftH ((List.range e.count).flatMap (fun t => (List.range e.k).map (fun i => (t, i))) |>.mapM (fun x =>
    recordChoice e x.1 x.2 ((b.1.drop (8 * (x.1 * e.k + x.2))).take 8)))
  expertLaunch n c { e with choices := cs.map (·.1), flags := if cs.any (fun x => x.2 == 1) then 1 else 0, ordered := e.ordered, stage := 2 }

def execCombine (n : Nat) (c : Cmd) (s : State) : Host.Outcome State Fault Refusal :=
  answer (.combine n c) (pilotRun n c (combineBody n c) s)

/-! ### What comes back -/

/-- The command and choice that wait for an answer of device d to SSEQ q, with the byte offset. -/
def State.waiter (s : State) (d q : Nat) : Option (Expert × Choice × Nat) :=
  s.fabric.experts.findSome? (fun e => e.choices.findSome? (fun c =>
    (c.wait.find? (fun w => w.1 == d && w.2.1 == q)).map (fun w => (e, c, w.2.2))))

/-- An outstanding request of a choice is answered. -/
def noWait (e : Expert) (c : Choice) (d q : Nat) : Choice × HM Unit :=
  let c := { c with wait := c.wait.filter (fun w => !(w.1 == d && w.2.1 == q)) }
  (c, setChoice e c)

/-- An acknowledged row write (R331). -/
def expertAck (d q : Nat) : HM Unit := do
  match (← get).waiter d q with
  | none => pure ()
  | some (e, c, _) => do
    (noWait e c d q).2
    expertEnd e.core e.cc

/-- The old value of a slot cursor (R374). -/
def expertClaimed (d q n : Nat) : HM Unit := do
  match (← get).waiter d q with
  | none => pure ()
  | some (e, c, _) => do
    expertGuard e (claimed e (noWait e c d q).1 n)
    expertEnd e.core e.cc

/-- A piece of an expert's output row (R377). -/
def expertPiece (d q : Nat) (b : List Byte) : HM Unit := do
  match (← get).waiter d q with
  | none => pure ()
  | some (e, c, off) => do
    (noWait e c d q).2
    modify (fun s => match s.expertNo e.core e.cc with
      | some x => s.putExpert { x with pieces := x.pieces ++ [(c.tok, c.ch, off, b)] }
      | none => s)
    expertEnd e.core e.cc

/-- Counts of another member (R375). -/
def expertCounts (g rank : Nat) (k : Packet) : HM Unit := do
  let b := k.payload
  let pairs := (List.range ((b.length - 8) / 8)).map (fun i => (leAt b (8 + 8 * i) 4, leAt b (12 + 8 * i) 4))
  let pairs := if leAt b 0 8 = 0 then [] else pairs
  modify (fun s => s.onGroup g (fun x => { x with counts := mergeCounts x.counts k.dseq rank (leAt b 0 8) pairs }))
  let es := (← get).fabric.experts.filter (fun e => e.group == g && e.ordered && !e.combine)
  es.forM (fun e => do
    expertGuard e (runOrdered e.core e.cc 3)
    expertEnd e.core e.cc)

end Sys2Proof.Machine
end

