-- ==== Sys2Proof/Machine/Packets.lean ====
section
/-! DEFINITION. The packets that a device takes for itself, one row for each, and the writes and times of a collective group (R319, R329 to
R335, R349 to R353, R359 to R362, R364, R374, R377). -/
namespace Sys2Proof.Machine

/-- Run hub work of a packet; none where it must wait. What an error has done before it stays. -/
def State.tryHub (s : State) (x : HM Unit) : Option State :=
  match s.hub x with
  | (.error .wait, _) => none
  | (_, t) => some t

/-! ### Chunks (R359, R362) -/

/-- The descriptor that a packet names by the low bits of its DSEQ: none when it has retired, `some none` while it is not posted or not
started. -/
def State.chunkPost (s : State) (g dseq : Nat) : Option (Option Posted) :=
  let x := s.group g
  match x.queue.find? (fun y => y.dseq % 4096 == dseq) with
  | some y => some (if y.started then some y else none)
  | none => if (dseq + 4096 - x.nextDseq % 4096) % 4096 < 2048 then some none else none

def Group.stagedAt (x : Group) (rank dseq chunk : Nat) : Option Staged :=
  x.staged.find? (fun c => c.rank == rank && c.dseq == dseq && c.chunk == chunk)

/-- Which chunk of a descriptor a packet of a rank means by its number along a segment: the first expected one with that number that has not
arrived (R359; log entry 26). -/
def State.chunkNumber (s : State) (g rank chunk : Nat) (y : Posted) : Nat :=
  let m := s.gSize g
  match (expected y.desc m (s.myRank g)).find? (fun e =>
    e.1 == rank && e.2.1 != lastMark && wireChunk y.desc m e.2.1 == chunk && !y.arrived.contains (e.1, e.2.1)) with
  | some e => e.2.1
  | none => chunk

/-- Chunks in progress: staged or in a running sum (R359). -/
def Group.progress (x : Group) : List (Nat × Nat) :=
  let a : List (Nat × Nat) := x.staged.map (fun c => (c.dseq, c.chunk))
  let b : List (Nat × Nat) := x.queue.flatMap (fun y => y.sums.map (fun z => (y.dseq, z.1)))
  (a ++ b).eraseDups

/-- Whether a tree waits for a child of lower rank first (R358). -/
def State.childEarly (s : State) (g rank chunk : Nat) (y : Posted) : Bool :=
  let m := s.gSize g
  let r := s.myRank g
  cOp y.desc == 1 && cAlgo y.desc == 1 && !cDirect y.desc && !cArrival y.desc &&
  (treeKids (cRoot y.desc) (cFan y.desc) m r).any (fun k => decide (k < rank) && chunk / Nat.max (maxChunks y.desc m) 1 / m == 0 &&
    !y.arrived.contains (k, chunk))

/-- Whether a packet of a chunk finds room: its chunk is being received, or a slot pair is free (R27, R359). A chunk has one slot for what comes in,
so two children's parts of it come one after the other. -/
def State.chunkRoom (s : State) (g rank : Nat) (chunk : Nat) (y : Posted) : Bool :=
  let x := s.group g
  if (x.stagedAt rank y.dseq chunk).isSome then true
  else if !cReducing y.desc then true
  else if s.childEarly g rank chunk y then false
  else if x.staged.any (fun c => c.dseq == y.dseq && c.chunk == chunk) then false
  else x.progress.contains (y.dseq, chunk) || decide (x.progress.length < x.slots / 2)

/-- The bytes of a packet join their chunk. -/
def stageBytes (l : List Staged) (rank dseq chunk off : Nat) (b : List Byte) : List Staged :=
  match l.find? (fun c => c.rank == rank && c.dseq == dseq && c.chunk == chunk) with
  | some c => l.map (fun x => if x = c then { c with data := wcMerge c.data off b } else x)
  | none => l ++ [⟨rank, dseq, chunk, wcMerge [] off b, false⟩]

def chunkDataIn (k : Packet) (s : State) : Option State := s.onceOnly k (fun s =>
  match s.inEpoch k with
  | none => none
  | some (false, s) => some s
  | some (true, s) =>
    let g := k.group
    match (s.group g).rankOf k.src, s.chunkPost g k.dseq with
    | some rank, some (some y) =>
      let id := s.chunkNumber g rank k.chunk y
      if s.chunkRoom g rank id y then
        some (s.onGroup g (fun x => { x with staged := stageBytes x.staged rank y.dseq id (256 * k.inChunk) k.payload }))
      else none
    | some _, some none => none
    | _, _ => some s)

/-- An error in the slot that holds the chunk of a packet (R406): corrected, or the slot's chunk is poisoned. -/
def State.storeError (s : State) (g rank dseq chunk : Nat) (e : HubErr) : State :=
  let s := if e.ue then s.onGroup g (fun x => { x with
    staged := x.staged.map (fun c => if c.rank == rank && c.dseq == dseq && c.chunk == chunk then { c with poison := true } else c) }) else s
  s.sramNote (if e.ue then 0x05 else 0x04) e.kind (s.gPart g) e.unit 0xFFFF e.word

/-- The errors that the reduction store shows after a packet's bytes have joined their chunk, where the chunk has a slot. -/
def State.storeErrors (s : State) (k : Packet) (errs : List HubErr) : State :=
  let g := k.group
  match (s.group g).rankOf k.src, s.chunkPost g k.dseq with
  | some rank, some (some y) =>
    let id := s.chunkNumber g rank k.chunk y
    if cReducing y.desc && !cDirect y.desc && ((s.group g).stagedAt rank y.dseq id).isSome then
      errs.foldl (fun s e => s.storeError g rank y.dseq id e) s
    else s
  | _, _ => s

def execChunkData (l : Nat) (k : Packet) (errs : List HubErr) (s : State) : Host.Outcome State Fault Refusal :=
  answer (.chunkData l k errs) (packetIn l k (fun s => (chunkDataIn k s).map (fun t => t.storeErrors k errs)) s)

/-- The place where zero-copy bytes of a rank collect for the check (log entry 22). -/
def directKey : Nat := 65536

/-- A chunk that fails its check (R362, R364): recorded and counted; asked for again up to three times, unless its adds have been made. -/
def State.chunkBad (s : State) (g rank : Nat) (k : Packet) (y : Posted) : State :=
  let id := s.chunkNumber g rank k.chunk y
  let s := (s.countFld .collGroupErr 0 g 0 15 0 1).log (LogRec.base 0x0D 5 (s.gPart g) g)
  if cDirect y.desc && cReducing y.desc then
    s.onPosted g y.dseq (fun z => { z with status := 2, arrived := z.arrived ++ [(rank, id)] })
  else
    let n := match y.retries.find? (fun r => r.1 == (rank, id)) with
      | some r => r.2 + 1
      | none => 1
    if n ≥ 4 then s.breakGroup g 8 2
    else
      let s := s.onPosted g y.dseq (fun z => { z with
        retries := ((rank, id), n) :: z.retries.filter (fun r => r.1 != (rank, id)) })
      (s.toRank g rank 0x01 (collTarget 3 (s.group g).epoch y.dseq k.chunk 0) []).1

def chunkEndIn (k : Packet) (s : State) : Option State := s.onceOnly k (fun s =>
  match s.inEpoch k with
  | none => none
  | some (false, s) => some s
  | some (true, s) =>
    let g := k.group
    match (s.group g).rankOf k.src, s.chunkPost g k.dseq with
    | some rank, some (some y) =>
      let n := leAt k.payload 4 4
      let op := leAt k.payload 8 4
      if op % 256 != cOp y.desc || leAt k.payload 12 4 != cCount y.desc % 2 ^ 32 then some (s.breakGroup g 9 1)
      else
        let id := s.chunkNumber g rank k.chunk y
        let key := if cDirect y.desc then (directKey, 2 ^ 20) else (y.dseq, id)
        let st : List Byte := match (s.group g).stagedAt rank key.1 key.2 with
          | some c => c.data.map (fun x => x.2)
          | none => []
        if st.length < n then none
        else
          let b := st.take n
          let bad := ((s.group g).stagedAt rank key.1 key.2).any (·.poison)
          let s := s.onGroup g (fun x => { x with
            staged := x.staged.filter (fun c => !(c.rank == rank && c.dseq == key.1 && c.chunk == key.2)) })
          if crc32c b == w32 (leAt k.payload 0 4) then
            s.engine (do
              guarded g y.dseq (arriveChunk g y.dseq rank id y.desc b (bit op 8) bad)
              kick g 2100)
          else (s.chunkBad g rank k y).engine (kick g 2100)
    | some _, some none => none
    | _, _ => some s)

def execChunkEnd (l : Nat) (k : Packet) (s : State) : Host.Outcome State Fault Refusal :=
  answer (.chunkEnd l k) (packetIn l k (chunkEndIn k) s)

def chunkRetryIn (k : Packet) (s : State) : Option State := s.onceOnly k (fun s =>
  match s.inEpoch k with
  | none => none
  | some (false, s) => some s
  | some (true, s) =>
    let g := k.group
    match (s.group g).rankOf k.src, s.chunkPost g k.dseq with
    | some rank, some (some y) =>
      match y.kept.find? (fun c => c.rank == rank && wireChunk y.desc (s.gSize g) c.chunk == k.chunk) with
      | some c => some (s.sendChunk g y.dseq rank c.chunk c.bytes c.coded)
      | none => some s
    | _, _ => some s)

def execChunkRetryRequest (l : Nat) (k : Packet) (s : State) : Host.Outcome State Fault Refusal :=
  answer (.chunkRetryRequest l k) (packetIn l k (chunkRetryIn k) s)

/-! ### Cards and aborts (R350 to R353) -/

def groupCardIn (k : Packet) (s : State) : Option State := s.onceOnly k (fun s =>
  match s.formingKey (bits k.target 31 0) with
  | none => some s
  | some g => (s.takeCard g k.src (Card.parse k.payload)).engine (kick g 2100))

def execGroupCard (l : Nat) (k : Packet) (s : State) : Host.Outcome State Fault Refusal :=
  answer (.groupCard l k) (packetIn l k (groupCardIn k) s)

/-- The FORMING group that an abort means: the one it names, or else the first that has its sender as a member (log entry 31). -/
def State.abortedForm (s : State) (k : Packet) : Option Nat :=
  let has (g : Nat) : Bool := s.gState g == 2 && ((s.group g).rankOf k.src).isSome
  if has k.group then some k.group else (s.fabric.groups.find? (fun x => has x.1)).map (·.1)

def abortIn (k : Packet) (s : State) : Option State := s.onceOnly k (fun s =>
  let g := k.group
  if s.gState g == 3 && ((s.group g).rankOf k.src).isSome then
    if k.epoch == (s.group g).epoch % 65536 then some (s.breakGroup g 10 1) else some (s.stale g)
  else match s.abortedForm k with
    | some f => some (s.endForming f 10 false)
    | none => some s)

def execAbortPacket (l : Nat) (k : Packet) (s : State) : Host.Outcome State Fault Refusal :=
  answer (.abortPacket l k) (packetIn l k (abortIn k) s)

/-- A write of COLL_GROUP (R349, R353, R379): IRQ_EN, then FORM or ABORT by the state that it finds. None: a page of the member table or of the
queue is away, and the write waits. -/
def collGroupWrite (m : Master) (g : Nat) (v : Word) (s : State) : Option State :=
  let s := s.unlatch m
  if !s.reachesGroup m g then some s else
  let st := s.gState g
  let s := s.setFld .collGroup 0 g 0 0 0 (b2n (v.getLsbD 0))
  if v.getLsbD 1 && (st == 1 || st == 4) then
    match s.startForm g with
    | none => none
    | some t => (if t.gState g == 2 then t.finishForm g else t).engine (kick g 2100)
  else if v.getLsbD 2 && st == 3 then some (s.breakGroup g 11 1).settled
  else some s

def execForm (m : Master) (g : Nat) (v : Word) (s : State) : Host.Outcome State Fault Refusal :=
  answerBy m (.form m g v) s ((collGroupWrite m g v s).getD s)

def execGroupAbort (m : Master) (g : Nat) (v : Word) (s : State) : Host.Outcome State Fault Refusal :=
  answerBy m (.groupAbort m g v) s ((collGroupWrite m g v s).getD s)

def cardSend (g : Nat) (s : State) : State := if s.gState g == 2 then s.sendCard g else s

def execCardSend (g : Nat) (s : State) : Host.Outcome State Fault Refusal := answer (.cardSend g) (cardSend g s)

def formationTimeout (g : Nat) (s : State) : State := if s.gState g == 2 then s.endForming g 5 true else s

def execFormationTimeout (g : Nat) (s : State) : Host.Outcome State Fault Refusal :=
  answer (.formationTimeout g) (formationTimeout g s)

/-- The wait ends (R352): a difference that is left sets TIME_WARN. -/
def syncReqWaitEnd (g : Nat) (s : State) : State :=
  if s.gState g == 2 && (s.group g).syncWait then
    let s := if (s.group g).apart.isEmpty then s else s.setFld .collGroup 0 g 0 24 24 1
    let t := ((s.onGroup g (fun x => { x with syncWait := false })).sendCard g).finishForm g
    (t.engine (kick g 2100)).getD s
  else s

def execSyncReqWaitEnd (g : Nat) (s : State) : Host.Outcome State Fault Refusal :=
  answer (.syncReqWaitEnd g) (syncReqWaitEnd g s)

/-! ### Slots (R361, R374, R377) -/

def Packet.slot (k : Packet) : Nat := bits k.target 59 48
def Packet.slotRow (k : Packet) : Nat := bits k.target 47 16
def Packet.slotOff (k : Packet) : Nat := 8 * bits k.target 15 0

/-- The answer to an ATOMIC: the old value, and its poison mark in a second word of the payload (R262, R319; log entry 22). -/
def State.answerOld (s : State) (k : Packet) (old : Nat × Bool) : State :=
  s.plainPacket 0x05 k.vc k.src k.part 0 k.sseq k.target (leBytes old.1 8 ++ (if old.2 then leBytes 1 8 else []))

/-- An atomic add is answered with the old value, which is kept for duplicates (R332). -/
def State.atomicAnswer (s : State) (k : Packet) (old : Nat × Bool) : State :=
  let x := s.src k.src
  (s.setSrc k.src { x with atomics := ((k.sseq, old.1, old.2) :: x.atomics).take 64 }).answerOld k old

/-- The add of an ATOMIC: a slot claim adds 1 to the slot's cursor, an address takes the type in TARGET[50:49] (log entry 22). -/
def atomicAdd (l : Nat) (k : Packet) (s : State) : HM (Option (Nat × Bool)) :=
  if k.kind == some 5 then
    match s.slotPlace (Packet.slot k) with
    | some x => do return some (← hubAdd (whoLink l x.part) x.part x.inBase .int64 1)
    | none => return none
  else if k.kind.isSome then return none
  else do
    let ty := AddTy.ofCode (bits k.target 50 49)
    let a := bits k.target 47 0
    if a % ty.bytes != 0 then return none
    return some (← hubAdd (whoLink l k.part) k.part a ty (leAt k.payload 0 8))

def atomicIn (l : Nat) (k : Packet) (s : State) : Option State :=
  let r := s.acceptRequest k
  if !r.1 then
    match (s.src k.src).atomics.find? (fun a => a.1 == k.sseq) with
    | some a => if (s.src k.src).inc == k.incarn then
        some (r.2.answerOld k a.2).settled else some r.2.settled
    | none => some r.2.settled
  else match r.2.hub (atomicAdd l k r.2) with
    | (.error .wait, _) => none
    | (.ok (some old), t) => some (t.atomicAnswer k old).settled
    | (_, t) => some t.settled

def execAtomicPacket (l : Nat) (k : Packet) (s : State) : Host.Outcome State Fault Refusal :=
  answer (.atomicPacket l k) (packetIn l k (atomicIn l k) s)

def execSlotClaim (l : Nat) (k : Packet) (s : State) : Host.Outcome State Fault Refusal :=
  answer (.slotClaim l k) (packetIn l k (atomicIn l k) s)

/-- A READ is carried out each time that it comes (R319). Its payload holds the number of bytes, and a poisoned line is not sent (R409). The
answer is padded to whole units of PLEN (log entry 22). -/
def readIn (l : Nat) (k : Packet) (s : State) : Option State :=
  let len := Nat.min (leAt k.payload 0 8) 256
  let place : Option (Nat × Nat) :=
    if k.kind == some 6 then (s.slotPlace (Packet.slot k)).map (fun x =>
      (x.part, x.outBase + Packet.slotRow k * x.pitch + Packet.slotOff k))
    else if k.kind.isSome then none else some (k.part, bits k.target 47 0)
  match place with
  | none => some s
  | some (p, a) =>
    match s.hub (hubRd (whoLink l p) p a len) with
    | (.error .wait, _) => none
    | (.ok (b, false), t) => some (t.plainPacket 0x03 k.vc k.src k.part 0 k.sseq k.target (padded b)).settled
    | (_, t) => some t

def execReadPacket (l : Nat) (k : Packet) (s : State) : Host.Outcome State Fault Refusal :=
  answer (.readPacket l k) (packetIn l k (readIn l k) s)

/-! ### Writes and reductions at addresses (R256, R364) -/

/-- The rank of a sender whose packet to an address is of a zero-copy descriptor, which a member of a READY group alone sends, with the
descriptor; `some none` while none of this device has started (R364). -/
def State.directFrom (s : State) (k : Packet) : Option (Option (Nat × Posted)) :=
  if s.gState k.group != 3 then none else
  match (s.group k.group).rankOf k.src with
  | none => none
  | some r => some (((s.group k.group).queue.find? (fun y => y.started && cDirect y.desc)).map (fun y => (r, y)))

/-- Bytes to an address: they are written, or added element by element; a zero-copy packet is kept for its check as well, and a translation
fault gives its descriptor status 5 (R356). One that comes before its descriptor has started waits. -/
def addressIn (l : Nat) (k : Packet) (s : State) : Option State := s.onceOnly k (fun s =>
  let a := bits k.target 47 0
  let b := k.payload.take (k.payload.length - bits k.target 62 60)
  if s.directFrom k == some none then none else
  let z := (s.directFrom k).getD none
  let p := if z.isSome then s.gPart k.group else k.part
  let ty := AddTy.ofCode (bits k.target 50 49)
  let act : HM Unit :=
    if k.typ == 0x06 then (List.range (b.length / ty.bytes)).forM (fun i => do
      let _ ← hubAdd (whoLink l p) p (a + i * ty.bytes) ty (leAt b (i * ty.bytes) ty.bytes))
    else hubWr (whoLink l p) p a b
  match s.hub act with
  | (.error .wait, _) => none
  | (.error (.status _ _), t) => match z with
    | some (_, y) => some (t.onPosted k.group y.dseq (fun w => { w with status := 5 }))
    | none => some t
  | (.ok _, t) => match z with
    | some (r, _) => some (t.onGroup k.group (fun x => { x with staged := stageBytes x.staged r directKey (2 ^ 20) a b }))
    | none => some t)

def execReducePacket (l : Nat) (k : Packet) (s : State) : Host.Outcome State Fault Refusal :=
  answer (.reducePacket l k) (packetIn l k (if k.kind == some 0 then chunkDataIn k else addressIn l k) s)

/-- A row of a slot is written at its place in the input buffer (R372, R374). -/
def slotWriteIn (l : Nat) (k : Packet) (s : State) : Option State := s.onceOnly k (fun s =>
  match s.slotPlace (Packet.slot k) with
  | none => some s
  | some x => s.tryHub (hubWr (whoLink l x.part) x.part (x.inBase + 64 + Packet.slotRow k * x.pitch + Packet.slotOff k) k.payload))

def execSlotRow (l : Nat) (k : Packet) (s : State) : Host.Outcome State Fault Refusal :=
  answer (.slotRow l k) (packetIn l k (if k.typ == 0x02 then readIn l k else slotWriteIn l k) s)

/-- Claim counts of an ordered DISPATCH (log entry 29). -/
def countsIn (k : Packet) (s : State) : Option State := s.onceOnly k (fun s =>
  match s.inEpoch k with
  | none => none
  | some (false, s) => some s
  | some (true, s) => match (s.group k.group).rankOf k.src with
    | none => some s
    | some r => s.tryHub (expertCounts k.group r k))

/-- A WRITE by its KIND, or to its address (R361). -/
def writeIn (l : Nat) (k : Packet) (s : State) : Option State :=
  match k.kind with
  | none => addressIn l k s
  | some 0 => chunkDataIn k s
  | some 1 => groupCardIn k s
  | some 2 => chunkEndIn k s
  | some 3 => chunkRetryIn k s
  | some 4 => abortIn k s
  | some 6 => slotWriteIn l k s
  | some 7 => countsIn k s
  | some _ => s.onceOnly k some

def execWritePacket (l : Nat) (k : Packet) (s : State) : Host.Outcome State Fault Refusal :=
  answer (.writePacket l k) (packetIn l k (writeIn l k) s)

/-- An add to an object of the source's partition: TARGET names the object, the payload the amount (R231; log entry 22). -/
def syncAddIn (k : Packet) (s : State) : Option State := s.onceOnly k (fun s =>
  let o := bits k.target 13 0
  let a := leAt k.payload 0 4
  some (if s.objHeld k.part o && a != 0 then s.syncAdd o a else s))

def execSyncAddPacket (l : Nat) (k : Packet) (s : State) : Host.Outcome State Fault Refusal :=
  answer (.syncAddPacket l k) (packetIn l k (syncAddIn k) s)

/-! ### Answers (R319, R329, R331) -/

/-- The request of this device that an answer names: the first answer takes it, later ones find none (R319). -/
def State.asked (s : State) (k : Packet) (typ : Nat) : Bool :=
  (s.dest k.src).unacked.any (fun u => u.pkt.sseq == k.sseq && u.pkt.typ == typ)

def readRspIn (k : Packet) (s : State) : Option State :=
  if !s.asked k 0x02 then some s
  else (s.retireRequest k.src k.sseq).engine (expertPiece k.src k.sseq k.payload)

def execReadRsp (l : Nat) (k : Packet) (s : State) : Host.Outcome State Fault Refusal :=
  answer (.readRsp l k) (packetIn l k (readRspIn k) s)

def atomicRspIn (k : Packet) (s : State) : Option State :=
  if !s.asked k 0x04 then some s
  else (s.retireRequest k.src k.sseq).engine (expertClaimed k.src k.sseq (leAt k.payload 0 8))

def execAtomicRsp (l : Nat) (k : Packet) (s : State) : Host.Outcome State Fault Refusal :=
  answer (.atomicRsp l k) (packetIn l k (atomicRspIn k) s)

/-- One acknowledged SSEQ: the request is no longer kept, and neither is a chunk whose end it is (R362). -/
def ackOne (d q : Nat) : HM Unit := do
  let s ← get
  match (s.dest d).unacked.find? (fun u => u.pkt.sseq == q && [0x01, 0x06, 0x07].contains u.pkt.typ) with
  | none => pure ()
  | some u => do
    set (s.retireRequest d q)
    match u.group with
    | none => pure ()
    | some g => do
      modify (fun s => s.onGroup g (fun x => { x with queue := x.queue.map (fun y => { y with
        kept := y.kept.filter (fun c => !(c.sseq == q && (match x.members[c.rank]? with
          | some m => m.1 == d
          | none => false))) }) }))
      kick g 2100
      expertAck d q

/-- An ACK names up to 64 requests (R331; log entry 20). -/
def ackIn (k : Packet) (s : State) : Option State :=
  s.engine ((List.range (Nat.min k.target 64)).forM (fun i => ackOne k.src (leAt k.payload (4 * i) 4)))

def execAckPacket (l : Nat) (k : Packet) (s : State) : Host.Outcome State Fault Refusal :=
  answer (.ackPacket l k) (packetIn l k (ackIn k) s)

def unreachIn (k : Packet) (s : State) : Option State := some (s.failRequest (k.target % 4096) k.sseq).settled

def execUnreach (l : Nat) (k : Packet) (s : State) : Host.Outcome State Fault Refusal :=
  answer (.unreach l k) (packetIn l k (unreachIn k) s)

/-- 200 µs without an answer (R333): the same packet goes again, and after 8 resends the request is unroutable. -/
def endToEndResend (d q : Nat) (s : State) : State :=
  match (s.dest d).unacked.find? (fun u => u.pkt.sseq == q) with
  | none => s
  | some u =>
    if u.resends ≥ 8 then ((s.gcnt 1).failRequest d q).settled
    else
      let s := s.onDest d (fun x => { x with unacked := x.unacked.map (fun y => if y = u then { y with resends := y.resends + 1 } else y) })
      let s := match s.route d with
        | some (l, _) => s.lcnt l 7 1
        | none => s
      let r := s.launch u.pkt
      (if r.2 then r.1 else r.1.answerUnroutable u.pkt).settled

def execEndToEndResend (dest sseq : Nat) (s : State) : Host.Outcome State Fault Refusal :=
  answer (.endToEndResend dest sseq) (endToEndResend dest sseq s)

/-! ### Ethernet mode (R334, R335) -/

/-- A packet for this device by its type (R319); MGMT packets stand as rows of their own and act here as nothing. -/
def deliverPacket (l : Nat) (k : Packet) (s : State) : Option State :=
  match k.typ with
  | 0x01 => writeIn l k s
  | 0x02 => readIn l k s
  | 0x03 => readRspIn k s
  | 0x04 => atomicIn l k s
  | 0x05 => atomicRspIn k s
  | 0x06 => if k.kind == some 0 then chunkDataIn k s else addressIn l k s
  | 0x07 => syncAddIn k s
  | 0x09 => ackIn k s
  | 0x0A => unreachIn k s
  | 0x0B => beaconIn k s
  | _ => some s

/-- Take the packets of a frame in order; none while one of them must wait. -/
def takeFrame (l : Nat) (s : State) : List Packet → Option State
  | [] => some s
  | k :: t =>
    if k.rsv || !packetTypes.contains k.typ || !k.wf then takeFrame l (s.gcnt 3) t
    else match packetTry l k (deliverPacket l k) s with
      | none => none
      | some u => takeFrame l u t

/-- Pause the neighbour's priority of a frame that must wait, and let it go on once the frame is taken (R335; log entry 141). -/
def State.pauseFor (s : State) (l pcp : Nat) (on : Bool) : State :=
  if (s.link l).pausing.contains pcp == on then s
  else (s.onLink l (fun x => { x with pausing := setTo x.pausing pcp on })).emit (.pfc l pcp on)

/-- A frame's packets are taken in order, all of them or, while one must wait, none. The MAC address of link l is MAC_BASE + 32 × DEVID + l. -/
def ethernetFrame (l : Nat) (f : EthFrame) (s : State) : State :=
  if !s.linkUp l || !(s.link l).eth then s else
  let t := (s.lcnt l 3 f.fec.corrected).lcnt l 2 f.fec.lost
  let mine := s.rd64 .lnkMacBaseLo .lnkMacBaseHi + 32 * s.devId + l
  if !f.fcsOk || f.dst != mine || f.etherType != s.fld .lnkFabric 0 0 0 31 16 then t.lcnt l 6 1
  else
    let pcp := (s.link l).pcp ((f.pkts.head?).elim 0 Packet.vc)
    match takeFrame l t f.pkts with
    | some u => u.pauseFor l pcp false
    | none => s.pauseFor l pcp true

def execEthernetFrame (l : Nat) (f : EthFrame) (s : State) : Host.Outcome State Fault Refusal :=
  answer (.ethernetFrame l f) (ethernetFrame l f s)

/-- A paused PCP stalls its virtual channel; the end of the pause lets what waits go. -/
def priorityFlowControl (l pcp : Nat) (pause : Bool) (s : State) : State :=
  if !s.linkUp l || !(s.link l).eth then s
  else (s.onLink l (fun x => { x with paused := setTo x.paused pcp pause })).pumpPass l

def execPriorityFlowControl (l pcp : Nat) (pause : Bool) (s : State) : Host.Outcome State Fault Refusal :=
  answer (.priorityFlowControl l pcp pause) (priorityFlowControl l pcp pause s)

end Sys2Proof.Machine
end

