-- ==== Sys2Proof/Machine/Links.lean ====
section
/-! DEFINITION. Link states and their writes (R311 to R316, R324, R339 to R345), Meridian time (R368, R369, R371) and the Chart registers
(R372, R382). -/
namespace Sys2Proof.Machine

/-- The management path, or a partition with device management that is not Resetting (R278, R440). -/
def State.devMgmt (s : State) (m : Master) : Bool :=
  match m with
  | .mgmt => true
  | .vf p => s.vfLive p && s.partMgmt p
  | _ => false

/-! ### Widths (R311) -/

def laneCount (usable : Nat) : Nat := b2n (bit usable 0) + b2n (bit usable 1) + b2n (bit usable 2) + b2n (bit usable 3)

/-- The largest of 4, 2 and 1 lanes that the usable lanes and the module allow. -/
def laneWidth (usable lanes : Nat) : Nat :=
  let n := Nat.min (laneCount usable) lanes
  if n ≥ 4 then 4 else if n ≥ 2 then 2 else n

/-- WIDTH of R341. -/
def widthCode (usable lanes : Nat) : Nat := match laneWidth usable lanes with
  | 4 => 3
  | n => n

def State.reason (s : State) (l r : Nat) : State := s.setFld .lnkStatus l 0 0 16 14 r
/-- The option of a link (R310): a backplane as LNK_CTL shows it (R340), which a device start takes from the image; otherwise the cage's. -/
def State.option (s : State) (l : Nat) : LinkOption :=
  if s.fld .lnkCtl l 0 0 11 11 == 1 then .kr4 else
  match s.start.image with
  | some im => im.sections.options.getD l .gaui
  | none => .gaui
def State.backplane (s : State) (l : Nat) : Bool := s.option l == .kr4
def State.linkEnabled (s : State) (l : Nat) : Bool := s.fld .lnkCtl l 0 0 31 31 == 1

def State.phase (s : State) : Nat := s.fld .lcStatus 0 0 0 31 28
def State.setPhase (s : State) (k : Nat) : State := s.setFld .lcStatus 0 0 0 31 28 k

/-- An enabled link leaves DISABLED: for IDENTIFY, or for DETECT on a backplane (R312). Links run from step 6 of start-up, never after a
failure of it, and never in a clock halt (R446, R447, R464). -/
def State.beginLink (s : State) (l : Nat) : State :=
  if s.clockHalt || s.phase < 6 || s.phase > 10 then s else
  let s := s.reason l 0
  if s.backplane l then (s.onLink l (fun x => { x with lanes := 4 })).enterDetect l else s.setLinkState l 1

/-- The link is UP at its width (R311, R312). -/
def State.linkIsUp (s : State) (l : Nat) : State :=
  let usable := s.fld .lnkStatus l 0 0 25 22
  ((s.setLinkState l 7).setFld .lnkStatus l 0 0 27 26 (widthCode usable (s.link l).lanes)).onLink l (fun x => { x with
    active := ((List.range 4).filter (bit usable)).take (laneWidth usable x.lanes) })

/-! ### LNK_CTL (R312, R313, R340) -/

/-- ENABLE leaves 0: an UP link passes through DOWN, every other goes to DISABLED at once. -/
def State.disableLink (s : State) (l : Nat) : State :=
  let st := s.linkState l
  if st == 7 then s.linkDown l else if st == 8 then s else s.setLinkState l 0

/-- A write of LNK_CTL: MODE only while DISABLED; then RETRAIN and the change of ENABLE. -/
def writeLnkCtl (m : Master) (l : Nat) (v : Word) (s : State) : State :=
  let s := s.unlatch m
  if !s.devMgmt m then s else
  let old := s.rd .lnkCtl l
  let new := Reg.lnkCtl.spec.write old v
  let new := if s.linkState l == 0 then new else setBits new 30 30 (getBits old 30 30)
  let s := s.wr .lnkCtl l 0 0 new
  let s := if v.getLsbD 28 && s.linkUp l then s.linkDown l else s
  let s := if v.getLsbD 31 then (if s.linkState l == 0 then s.beginLink l else s) else s.disableLink l
  s.settled

def execLinkEnable (m : Master) (l : Nat) (v : Word) (s : State) : Host.Outcome State Fault Refusal :=
  answerBy m (.linkEnable m l v) s (writeLnkCtl m l v s)

def execLinkDisable (m : Master) (l : Nat) (v : Word) (s : State) : Host.Outcome State Fault Refusal :=
  answerBy m (.linkDisable m l v) s (writeLnkCtl m l v s)

def execRetrain (m : Master) (l : Nat) (v : Word) (s : State) : Host.Outcome State Fault Refusal :=
  answerBy m (.retrain m l v) s (writeLnkCtl m l v s)

/-! ### Identification (R312, R316) -/

/-- A host interface of 212.5 Gb/s per lane with 4, 2 or 1 lanes (R316). -/
def hostFits (h : Nat × Nat) : Bool := h.1 == 2125 && (h.2 == 4 || h.2 == 2 || h.2 == 1)

/-- The lanes of the widest such interface. -/
def ModuleRead.lanes (r : ModuleRead) : Nat := (r.hosts.filter hostFits).foldl (fun n h => Nat.max n h.2) 0

/-- The first check of R316 that a module fails, by its REASON: the image gives the cage's identifiers and its limit for copper, which the
option 800GBASE-CR4 names (log entry 140). -/
def State.moduleRefusal (s : State) (l : Nat) (r : ModuleRead) : Option Nat :=
  let cage : List Nat × Nat := match s.start.image with
    | some im => (im.sections.idents.getD l [], im.sections.copperMax.getD l 0)
    | none => ([], 0)
  if !cage.1.contains r.ident then some 2
  else if !r.hosts.any hostFits then some 3
  else if s.option l == .cr4 && decide (r.length > cage.2) then some 4
  else if r.power > s.fld .lnkCtl l 0 0 7 0 then some 5
  else none

/-- The segment of the module bus that serves a cage (R475). -/
def State.segOf (s : State) (l : Nat) : Nat := match s.start.image with
  | some im => im.sections.cageSeg.getD l 32
  | none => 32

/-- The cages of enabled links for which `f` holds. -/
def State.cages (s : State) (f : Nat → Bool) : List Nat :=
  (List.range 32).filter (fun l => !s.backplane l && s.linkState l != 0 && f l)

/-- A cage whose module does not answer, or whose segment is isolated: ABSENT with REASON 1 (R316, R477). -/
def State.cageAbsent (s : State) (l : Nat) : State :=
  let s := if s.linkUp l then s.linkDown l else s
  ((s.setLinkState l 2).reason l 1).wr .lnkModule l 0 0 0#32

/-- A segment that a recovery could not free is isolated, with its cages (R477). -/
def State.isolateSegment (s : State) (seg : Nat) : State :=
  let s := (s.orReg .pwrSbSeg 0 0 0 (2 ^ seg)).log (LogRec.base 0x10 7 0xF seg)
  ((s.cages (fun l => s.segOf l == seg)).foldl (fun s l => s.cageAbsent l) s).settled

/-- The fault lies on the trunk: every segment is isolated, and every cage is absent (R477). -/
def State.isolateTrunk (s : State) : State :=
  let s := (s.wr .pwrSbSeg 0 0 0 0xFFFFFFFF#32).setFld .pwrSbStatus 0 0 0 31 31 1
  ((s.cages (fun _ => true)).foldl (fun s l => s.cageAbsent l) s).settled

/-- A sideband line is declared stuck: its bit, and a record unless the bit stands already (R480). -/
def State.declareStuck (s : State) (line : Nat) (high : Bool) : State :=
  let b := 2 * line + b2n high
  if (s.rd .pwrSbStatus).getLsbD b then s
  else (s.orReg .pwrSbStatus 0 0 0 (2 ^ b)).log (LogRec.base 0x10 7 0xF line)

def moduleIdentify (l : Nat) (r : ModuleRead) (s : State) : State :=
  if s.linkState l != 1 then s
  else if r.busFails then
    if r.trunk then (s.declareStuck 1 false).isolateTrunk else (s.isolateSegment (r.seg % 32)).cageAbsent l
  else if !r.answers then s.cageAbsent l
  else
    let s := s.wr .lnkModule l 0 0 (w32 (r.ident % 256 * 2 ^ 24 + r.power % 256 * 2 ^ 16 + r.length % 256 * 2 ^ 8 + r.pclass % 8 * 2 ^ 5 + 16))
    match s.moduleRefusal l r with
    | some why => ((s.setLinkState l 3).reason l why).linkRecord l
    | none => ((s.reason l 0).onLink l (fun x => { x with lanes := ModuleRead.lanes r })).enterDetect l

def execModuleIdentify (l : Nat) (r : ModuleRead) (s : State) : Host.Outcome State Fault Refusal :=
  answer (.moduleIdentify l r) (moduleIdentify l r s)

/-- Whether the segment of a cage is isolated, which suspends its poll (R477). -/
def State.isolated (s : State) (l : Nat) : Bool := decide (s.segOf l < 32) && (s.rd .pwrSbSeg).getLsbD (s.segOf l)

def absentPoll (l : Nat) (answers : Bool) (s : State) : State :=
  if s.linkState l == 2 && answers && !s.isolated l then (s.reason l 0).setLinkState l 1 else s

def execAbsentPoll (l : Nat) (answers : Bool) (s : State) : Host.Outcome State Fault Refusal :=
  answer (.absentPoll l answers) (absentPoll l answers s)

def identityMemoryChange (l : Nat) (s : State) : State :=
  if s.linkState l == 3 || s.linkState l == 9 then (s.reason l 0).setLinkState l 1 else s

def execIdentityMemoryChange (l : Nat) (s : State) : Host.Outcome State Fault Refusal :=
  answer (.identityMemoryChange l) (identityMemoryChange l s)

/-! ### Detection, training, configuration (R311, R312, R314, R324, R342) -/

def receiverDetect (l usable : Nat) (crossed : Bool) (s : State) : State :=
  if s.linkState l != 4 || (s.link l).refLost then s
  else if crossed then ((s.setLinkState l 9).reason l 6).linkRecord l
  else
    let s := s.onLink l (fun x => { x with detected := usable % 16 })
    if usable % 16 != 0 then s.setLinkState l 5 else s

def execReceiverDetect (l usable : Nat) (crossed : Bool) (s : State) : Host.Outcome State Fault Refusal :=
  answer (.receiverDetect l usable crossed) (receiverDetect l usable crossed s)

def detectRetry (l : Nat) (s : State) : State := if s.linkState l == 4 then s.enterDetect l else s

def execDetectRetry (l : Nat) (s : State) : Host.Outcome State Fault Refusal := answer (.detectRetry l) (detectRetry l s)

/-- The lanes that passed receiver detect and training at this end, which its training frames name, and of them those that the peer names too
are usable (R311). A link that has no other end's CONFIG to go through is UP; otherwise this end sends its configuration block (R312, R324). -/
def trainingDone (l : Nat) (t : TrainResult) (s : State) : State :=
  if s.linkState l != 5 then s else
  let mine := (s.link l).detected &&& t.trained &&& 15
  let usable := mine &&& t.peer
  let s := s.emit (.training l mine)
  let s := ((s.setFld .lnkStatus l 0 0 25 22 usable).setFld .lnkStatus l 0 0 21 18 t.polInv).setFld .lnkStatus l 0 0 17 17 (b2n t.remapped)
  if widthCode usable (s.link l).lanes = 0 then s.enterDetect l
  else if (s.link l).eth then s.linkIsUp l
  else (s.setLinkState l 6).emit (.config l ⟨true, false, Config.blockVersion, s.devId, l, s.pools⟩)

def execTrainingDone (l : Nat) (t : TrainResult) (s : State) : Host.Outcome State Fault Refusal :=
  answer (.trainingDone l t) (trainingDone l t s)

def trainTimeout (l : Nat) (s : State) : State := if s.linkState l == 5 then s.enterDetect l else s

def execTrainTimeout (l : Nat) (s : State) : Host.Outcome State Fault Refusal := answer (.trainTimeout l) (trainTimeout l s)

/-- A block of another mode or version is a mismatch (R312). The peer's pool sizes are the credits advertised and available, and this end's
receive buffer is free (R324). -/
def configurationBlock (l : Nat) (b : ConfigBlock) (s : State) : State :=
  if s.linkState l != 6 || !b.valid then s
  else if b.ethernet || b.version != Config.blockVersion then (s.setLinkState l 9).reason l 7
  else
    let s := s.wr .lnkPeer l 0 0 (w32 (2 ^ 31 + b.link % 32 * 2 ^ 26 + b.dev % 4096))
    let s := s.onLink l (fun x => { x with free := s.pools })
    let s := (List.range 8).foldl (fun s k =>
      s.wr .lnkCredit l k 0 (w32 (b.pools.getD k 0 % 2048 * 2 ^ 16 + b.pools.getD k 0 % 2048))) s
    s.linkIsUp l

def execConfigurationBlock (l : Nat) (b : ConfigBlock) (s : State) : Host.Outcome State Fault Refusal :=
  answer (.configurationBlock l b) (configurationBlock l b s)

def configTimeout (l : Nat) (s : State) : State := if s.linkState l == 6 then (s.setLinkState l 9).reason l 7 else s

def execConfigTimeout (l : Nat) (s : State) : Host.Outcome State Fault Refusal := answer (.configTimeout l) (configTimeout l s)

def fecLockLoss (l : Nat) (s : State) : State := if s.linkUp l then (s.linkDown l).settled else s

def execFecLockLoss (l : Nat) (s : State) : Host.Outcome State Fault Refusal := answer (.fecLockLoss l) (fecLockLoss l s)

/-- After 1 ms in DOWN: DETECT, or DISABLED where ENABLE was written 0 (R312, R313). -/
def downTimeout (l : Nat) (s : State) : State :=
  if s.linkState l != 8 then s else if s.linkEnabled l then s.enterDetect l else s.setLinkState l 0

def execDownTimeout (l : Nat) (s : State) : Host.Outcome State Fault Refusal := answer (.downTimeout l) (downTimeout l s)

/-! ### Fault injection registers (R338, R345) -/

def fiMatchWrite (m : Master) (l r : Nat) (v : Word) (s : State) : State :=
  let s := s.unlatch m
  if !s.devMgmt m then s else
  let s := s.wr .lnkFiMatch l r 0 (Reg.lnkFiMatch.spec.write (s.rd .lnkFiMatch l r) v)
  let s := s.onLink l (fun x => { x with fiMatch := tabSet x.fiMatch r 0 0 })
  s.setFld .lnkStatus l 0 0 12 12 (b2n ((List.range 8).any (fun i => s.fld .lnkFiMatch l i 0 31 31 == 1)))

def execFiMatchWrite (m : Master) (l r : Nat) (v : Word) (s : State) : Host.Outcome State Fault Refusal :=
  answerBy m (.fiMatchWrite m l r v) s (fiMatchWrite m l r v s)

/-! ### Meridian time (R368, R369) -/

/-- An exchange of R368: a request goes to the neighbour. -/
def meridianExchange (l : Nat) (s : State) : State :=
  let s := s.merChoose
  if !nativeUp s l then s else s.mgmt l mgmtRequest (leBytes 0 8)

def execMeridianExchange (l : Nat) (s : State) : Host.Outcome State Fault Refusal :=
  answer (.meridianExchange l) (meridianExchange l s)

def meridianRequest (l : Nat) (s : State) : State :=
  if !nativeUp s l then s else
  let s := s.merChoose
  s.mgmt l mgmtResponse (leBytes s.now 8 ++ leBytes 0 8 ++ leBytes s.fabric.merPrio 1 ++ leBytes s.fabric.merDev 2 ++
    leBytes (s.fld .collMerStatus 0 0 0 23 17) 1 ++ leBytes 0 4)

def execMeridianRequest (l : Nat) (s : State) : Host.Outcome State Fault Refusal :=
  answer (.meridianRequest l) (meridianRequest l s)

/-- Twice θ in nanoseconds. -/
def MerResponse.theta2 (r : MerResponse) : Int := ((r.t2 : Int) - r.t1) + ((r.t3 : Int) - r.t4)

def saturate16 (x : Int) : Nat := (BitVec.ofInt 16 (max (-32768) (min 32767 x))).toNat

/-- The correction by the θ of the parent link, and the state that follows. -/
def State.merCorrect (s : State) (t2 : Int) : State :=
  let mag := t2.natAbs
  let s := s.setFld .collMerStatus 0 0 0 15 0 (saturate16 (2 * t2))
  let s := if mag > 20000 then
      (s.setFld .collMerStatus 0 0 0 16 16 1).onFabric (fun f => { f with merNs := (((f.merNs : Int) + t2 / 2).toNat) % 2 ^ 64, merRatePpm := 0 })
    else s.onFabric (fun f => { f with merRatePpm := max (-200) (min 200 (t2 / 2)) })
  let good := if mag < 8 then Nat.min (s.fabric.merGood + 1) 8 else 0
  let s := s.onFabric (fun f => { f with merGood := good })
  if good ≥ 8 then s.setFld .collMerStatus 0 0 0 31 30 2
  else if mag > 16 then s.setFld .collMerStatus 0 0 0 31 30 1
  else s

def meridianResponse (l : Nat) (r : MerResponse) (s : State) : State :=
  if !nativeUp s l then s else
  let s := (s.onFabric (fun f => { f with merOffers := tabPut f.merOffers l (some (r.prio, r.dev, r.hops)) })).merChoose
  match s.merChoice.2 with
  | some (p, _) => if p == l then s.merCorrect (MerResponse.theta2 r) else s
  | none => s

def execMeridianResponse (l : Nat) (r : MerResponse) (s : State) : Host.Outcome State Fault Refusal :=
  answer (.meridianResponse l r) (meridianResponse l r s)

/-! ### The Chart registers (R382) -/

def State.chartWrite (s : State) : State :=
  let i := s.fld .chartSel 0 0 0 15 0
  let ws (k : Nat) : List Word := (List.range k).map (fun j => s.rd .chartData 0 j)
  if s.fld .chartSel 0 0 0 16 16 == 0 then s.onFabric (fun f => { f with chart := tabSet f.chart i (List.replicate 4 0#32) (ws 4) })
  else if i < 4096 then s.onFabric (fun f => { f with slotTab := tabSet f.slotTab i (List.replicate 6 0#32) (ws 6) })
  else s

def State.chartRead (s : State) : State :=
  let i := s.fld .chartSel 0 0 0 15 0
  let ws := if s.fld .chartSel 0 0 0 16 16 == 0 then s.chartEntry i else if i < 4096 then s.slotEntry i else []
  (List.range 6).foldl (fun s j => s.wr .chartData 0 j 0 (ws.getD j 0#32)) s

/-- A write of CHART_CMD: a WRITE from a source that may not write sets DENIED and does nothing else. -/
def chartCmdWrite (m : Master) (v : Word) (s : State) : State :=
  let s := s.unlatch m
  if s.devMgmt m then
    let s := if v.getLsbD 1 then (s.setFld .chartCmd 0 0 0 31 31 0).chartWrite else s
    if v.getLsbD 0 then s.chartRead else s
  else if v.getLsbD 1 then s.setFld .chartCmd 0 0 0 31 31 1
  else s

def execChartRead (m : Master) (v : Word) (s : State) : Host.Outcome State Fault Refusal :=
  answerBy m (.chartRead m v) s (chartCmdWrite m v s)

def execChartWrite (m : Master) (v : Word) (s : State) : Host.Outcome State Fault Refusal :=
  answerBy m (.chartWrite m v) s (chartCmdWrite m v s)

end Sys2Proof.Machine
end

