-- ==== Sys2Proof/Machine/Helm.lean ====
section
/-! DEFINITION. Helm: the requests of a partition (R281 to R288, R298) and the cores, pages, objects, groups and queues that they give. -/
namespace Sys2Proof.Machine

/-! ### Cores -/

/-- The image's values for the registers at [a, a + len) of BAR0 (R6, R45, R446). -/
def State.loadRegs (s : State) (a len : Nat) : State :=
  match s.start.image with
  | none => s
  | some im => im.sections.regs.foldl (fun s x =>
      if x.1 < a || x.1 ≥ a + len then s else
      match regFind x.1 with
      | some r => s.wr r.reg r.b r.i r.j (r.reg.spec.loadImage (s.rd r.reg r.b r.i r.j) x.2)
      | none => s) s

/-- Every codebook of core n as the image gives it; what the image leaves out is the default set (R45). -/
def State.loadCodebooks (s : State) (n : Nat) : State :=
  match s.start.image with
  | none => s
  | some im => im.sections.codebooks.foldl (fun s x => match regFind (0x01000000 + n * 0x10000 + x.1) with
      | some r => if r.reg == .convCb4 || r.reg == .convCb8 then s.putCodebook r x.2 else s
      | none => s) s

def coreBlockAt (n : Nat) : Nat := 0x01000000 + n * 0x10000

/-- The performance registers of core n (R496). -/
def perfBlockAt (n : Nat) : Nat := 0x05000000 + n * 0x100

/-- The registers of core n's block and its performance counters at their values after device start (R280, R496). -/
def State.freshCoreRegs (s : State) (n : Nat) : State :=
  let s := { s with regs := s.regs.filter (fun x => (x.1 < coreBlockAt n || x.1 ≥ coreBlockAt n + 0x10000) &&
    (x.1 < perfBlockAt n || x.1 ≥ perfBlockAt n + 0x100)) }
  (s.loadRegs (coreBlockAt n) 0x10000).loadCodebooks n

/-- The arrays after a core reset: rows in flight discarded, both banks free and not ready (R91). -/
def State.resetArrays (s : State) (n : Nat) : State :=
  let s := s.onCore n (fun k => { k with banks := [], staged := [] })
  let s := s.wr .arrEpoch n 0 0 Reg.arrEpoch.spec.resetVal
  (List.range 4).foldl (fun s a => s.wr .arrFree n a 0 0xFFFFFFFF#32) s

/-- The core reset of R91, R189 and R204: pilot and arrays at their reset state, the generators reseeded with the partition's default seed.
Core store, accumulators, codebooks, program store and mailbox stay. -/
def State.resetCore (s : State) (n : Nat) : State :=
  let seed := match s.holder n with
    | some p => (match (s.part p).plan with
      | some x => x.seed
      | none => 0#64)
    | none => 0#64
  (s.onCore n (fun k => { Core.init with
    cs := k.cs, csPoison := k.csPoison, acc := k.acc, mailbox := k.mailbox, np := k.np, seed := seed, seeded := (s.holder n).isSome, lhNext := k.lhNext,
    lhTurn := k.lhTurn, tagCount := k.tagCount, tagArmed := k.tagArmed })).resetArrays n

/-- A core that leaves or enters a partition is cleared (R280). -/
def State.clearCore (s : State) (n : Nat) : State := (s.setCore n Core.init).freshCoreRegs n

/-- ARR_CONST of core (i, j) of a Constellation rectangle (R105). -/
def constWord (r : Rect) (i j : Nat) : Word :=
  w32 (r.handle * 2 ^ 19 + (r.h - 1) * 2 ^ 15 + (r.w - 1) * 2 ^ 11 + i * 2 ^ 7 + j * 2 ^ 3 + b2n (i + 1 == r.h) * 4 + b2n (j == 0) * 2 + 1)

/-- A core that no partition holds and that is not withheld. -/
def State.coreFree (s : State) (n : Nat) : Bool := decide (n < s.nCores) && (s.holder n).isNone && !s.withheld n

def State.handleUsed (s : State) (h : Nat) : Bool := s.parts.any (fun x => x.2.rects.any (fun r => r.handle == h))

/-- Whether a rectangle lies in the grid. -/
def rectFits (g : Grade) (o w h : Nat) : Bool := decide (o % 16 + w ≤ 16) && decide (o / 16 + h ≤ g.rows)

def State.rectFree (s : State) (o w h : Nat) : Bool :=
  rectFits s.grade o w h && (Rect.cores ⟨0, w, h, o, false⟩).all s.coreFree

/-- Give a rectangle to a partition: its cores are cleared, seeded and, for Constellation, told of it (R189, R280, R284). -/
def State.giveRect (s : State) (p : Nat) (r : Rect) : State :=
  let seed := match (s.part p).plan with
    | some x => x.seed
    | none => 0#64
  let s := s.onPart p (fun x => { x with rects := x.rects ++ [r] })
  let s := r.cores.zipIdx.foldl (fun s c =>
    let s := (s.clearCore c.1).onCore c.1 (fun k => ({ k with np := c.2 }).reseed seed)
    if r.const then s.wr .arrConst c.1 0 0 (constWord r (c.2 / r.w) (c.2 % r.w)) else s) s
  if r.spans then s.retarget else s

def State.takeRect (s : State) (p : Nat) (r : Rect) : State :=
  let s := r.cores.foldl (fun s n => s.clearCore n) (s.onPart p (fun x => { x with rects := x.rects.filter (fun y => y != r) }))
  if r.spans then s.retarget else s

/-- Helm begins to bring the dies to one clock for a rectangle of partition p (R21, R97), and ends that. -/
def State.joinDies (s : State) (p : Nat) : State := (s.onPower (fun x => { x with joining := some p })).retarget
def State.unjoin (s : State) (p : Nat) : State :=
  if s.power.joining == some p then (s.onPower (fun x => { x with joining := none })).retarget else s

/-! ### Requests (R281, R285) -/

/-- The latched request of a partition, where it is for `code`. -/
def State.request? (s : State) (p code : Nat) : Option (Bool × List Nat) :=
  match (s.part p).request with
  | some (c, irq, args) => if c == code then some (irq, args) else none
  | none => none

/-- End a request: results, DONE, and the interrupt where it was asked for. -/
def State.endRequest (s : State) (p code : Nat) (irq : Bool) (result : Nat) (res : List Nat) : State :=
  let s := ((s.unjoin p).onPart p (fun x => { x with request := none }))
  let s := if result = 0 then (res.zipIdx).foldl (fun s r => s.wr .helmReqRes 0 p r.2 (w32 r.1)) s else s
  let s := s.wr .helmReqStatus 0 p 0 (setBits (setBits (setBits (setBits (s.rd .helmReqStatus 0 p) 31 31 0) 30 30 1) 15 8 code) 7 0 result)
  if irq then s.raise p 2 0 0 result else s

/-- What serving a request comes to: a result with no effect, or the state with the results; `wait`: not yet, with the state meanwhile. -/
inductive Served where
  | no (result : Nat)
  | ok (s : State) (res : List Nat)
  | wait (s : State)

/-- The partition whose request Helm serves next: round robin from the one whose turn it is (R281). -/
def State.nextRequest (s : State) : Option Nat :=
  ((List.range 8).map (fun i => (s.reqTurn + i) % 8)).find? (fun p => (s.part p).request.isSome)

/-- The turn passes from partition p to the next. -/
def State.passTurn (s : State) (p : Nat) : State := { s with reqTurn := (p + 1) % 8 }

/-- Serve a partition's request of a code, when it is its turn: refused as "in use" while the partition is frozen, ignored while it resets
(R279). A request that must wait gives up its turn. -/
def serve (p code : Nat) (f : State → List Nat → Served) (s : State) : State :=
  if s.nextRequest != some p then s else
  match s.request? p code with
  | none => s
  | some (irq, args) =>
    if s.partState p == 2 then (s.passTurn p).endRequest p code irq 4 []
    else if s.partState p != 1 then s
    else match f (s.passTurn p) args with
      | .no r => (s.passTurn p).endRequest p code irq r []
      | .ok t res => t.endRequest p code irq 0 res
      | .wait t => t

def arg (l : List Nat) (k : Nat) : Nat := l.getD k 0
def arg64 (l : List Nat) (k : Nat) : Nat := arg l k + arg l (k + 1) * 2 ^ 32

/-- The quotas of a partition (R277). -/
def State.quota (s : State) (p : Nat) (f : PlanPart → Nat) : Nat := match (s.part p).plan with
  | some x => f x
  | none => 0

/-- The cores of a job. -/
def Part.jobCores (x : Part) (j : Job) : List Nat := match x.rectNo j.handle with
  | some r => r.cores
  | none => []

/-! ### CORE_ALLOC and CORE_FREE (R284, R291) -/

/-- A Constellation rectangle that spans both dies is given once they run at one clock (R21, R97). -/
def servedAlloc (p : Nat) (s : State) (a : List Nat) : Served :=
  let w := bits (arg a 0) 4 0
  let h := bits (arg a 0) 12 8
  let fixed := bit (arg a 0) 16
  let o := bits (arg a 1) 7 0
  let x := s.part p
  if w < 1 || w > 16 || h < 1 || h > 12 || bits (arg a 0) 7 5 != 0 || bits (arg a 0) 15 13 != 0 || bits (arg a 0) 31 18 != 0 ||
    (fixed && !rectFits s.grade o w h) || (!fixed && decide (h > s.grade.rows)) then .no 3
  else if x.cores.length + w * h > s.quota p PlanPart.cores then .no 1
  else match (if fixed then (if s.rectFree o w h then some o else none) else (List.range s.nCores).find? (fun i => s.rectFree i w h)),
      (List.range 256).find? (fun i => !s.handleUsed i) with
    | some o, some id =>
      let r : Rect := ⟨id, w, h, o, bit (arg a 0) 17⟩
      if r.spans && !s.clocksEqual then .wait (s.joinDies p) else .ok (s.giveRect p r) [id, o]
    | _, _ => .no 2

def execCoreAlloc (p : Nat) (s : State) : Host.Outcome State Fault Refusal := answer (.coreAlloc p) (serve p 0x01 (servedAlloc p) s)

/-- Whether a job that runs, is preempted or is saved holds a rectangle (R291). -/
def Part.rectBusy (x : Part) (h : Nat) : Bool := x.queues.any (fun q => match q.head with
  | some j => j.handle == h && j.st != .waiting
  | none => false)

def servedFree (p : Nat) (s : State) (a : List Nat) : Served :=
  let x := s.part p
  match x.rectNo (arg a 0) with
  | none => .no 5
  | some r => if x.rectBusy r.handle then .no 4 else .ok (s.takeRect p r) []

def execCoreFree (p : Nat) (s : State) : Host.Outcome State Fault Refusal := answer (.coreFree p) (serve p 0x02 (servedFree p) s)

/-! ### MAP, UNMAP and PROTECT (R286 to R290) -/

/-- The frames that a partition's small pages lie in, with the places taken in each. -/
def Part.smallFrames (x : Part) : List Nat :=
  ((x.pages.filter (·.small)).filterMap (fun g => g.frame.map (fun f => f / frameSize))).eraseDups

/-- The first free 64 KiB place in a frame that already holds small pages. -/
def Part.smallRoom (x : Part) : Option Nat :=
  x.smallFrames.findSome? (fun f => ((List.range 32).map (fun i => f * frameSize + i * 0x10000)).find? (fun a =>
    !x.pages.any (fun g => g.frame == some a)))

/-- Bytes against the mapped quota: frames whole, swapped pages by their size (R286). -/
def Part.mappedBytes (x : Part) : Nat :=
  frameSize * ((x.pages.filter (fun g => !g.small)).length + x.smallFrames.length) +
  0x10000 * (x.pages.filter (fun g => g.small && g.frame.isNone)).length

def Part.swapUsed (x : Part) : Nat := ((x.pages.filter (fun g => g.frame.isNone)).map Page.size).sum
/-- The 64 KiB units of a page. -/
def Page.units (g : Page) : Nat := g.size / 0x10000

/-- The lowest free place for a page of n units in a swap area, on a boundary of its size: at its start, or after a page that is there. None
where it has no room, and an area of size 0 has none (R276, R289). -/
def Part.freeSlot (x : Part) (n area : Nat) : Option Nat :=
  let away := x.pages.filter (fun g => g.frame.isNone)
  (sortOn id (0 :: away.map (fun g => (g.slot + g.units + n - 1) / n * n))).find? (fun k =>
    decide ((k + n) * 0x10000 ≤ area) && away.all (fun g => decide (g.slot + g.units ≤ k) || decide (k + n ≤ g.slot)))

/-- The physical address of a place in a partition's swap area, in the host memory window (R247, R276, R289). -/
def State.swapAddr (s : State) (p slot : Nat) : Nat := hostWindow + (s.quota p PlanPart.swapBase + slot * 0x10000) % 2 ^ 50

/-- Place one new page: in a frame if one is free, otherwise in the swap area; none where neither has room. -/
def State.placePage (s : State) (p va : Nat) (small : Bool) (at_ : Nat) : Option State :=
  let x := s.part p
  let mk (f : Option Nat) (slot : Nat) : Page := ⟨va, small, bit at_ 0, bit at_ 1, bit at_ 2, f, slot, 0, none⟩
  let add (x : Part) (g : Page) : Part := { x with pages := insertOn Page.va g x.pages }
  let zero (f : Nat) (t : State) : State := t.memDo (whoHelm p) (fun m => m.fill f (if small then 0x10000 else frameSize))
  match (if small then x.smallRoom else none), x.freeFrames with
  | some a, _ => some (zero a (s.setPart p (add x (mk (some a) 0))))
  | none, f :: t => some (zero (f * frameSize) (s.setPart p (add { x with freeFrames := t } (mk (some (f * frameSize)) 0))))
  | none, [] =>
    if bit at_ 2 then none
    else (x.freeSlot (if small then 1 else 32) (s.quota p PlanPart.swapBytes)).map (fun k => s.setPart p (add x (mk none k)))

def State.placePages (s : State) (p va : Nat) (small : Bool) (at_ : Nat) : Nat → Option State
  | 0 => some s
  | n + 1 => match s.placePage p va small at_ with
    | none => none
    | some t => t.placePages p (va + (if small then 0x10000 else frameSize)) small at_ n

/-- The range that MAP, UNMAP and PROTECT name, if it is aligned and within the space. -/
def pageRange (a : List Nat) : Option (Nat × Nat × Bool) :=
  let small := bit (arg a 3) 3
  let size := if small then 0x10000 else frameSize
  let va := arg64 a 0
  if va % size != 0 || arg a 2 = 0 || va + arg a 2 * size > 2 ^ 48 || bits (arg a 3) 31 4 != 0 then none
  else some (va, arg a 2 * size, small)

def servedMap (p : Nat) (s : State) (a : List Nat) : Served :=
  match pageRange a with
  | none => .no 3
  | some (va, len, small) =>
    if (s.part p).pages.any (fun g => decide (g.va < va + len) && decide (va < g.va + g.size)) then .no 3
    else match s.placePages p va small (arg a 3) (arg a 2) with
      | none =>
        if (s.part p).mappedBytes + len > s.quota p PlanPart.mapped then .no 1 else .no 2
      | some t => if (t.part p).mappedBytes > s.quota p PlanPart.mapped then .no 1 else .ok t []

def execMap (p : Nat) (s : State) : Host.Outcome State Fault Refusal := answer (.map p) (serve p 0x03 (servedMap p) s)

/-- The device memory of the tensor whose descriptor stands at an address of core n's command. -/
def State.tensorRanges (s : State) (n : Nat) (loc : Bool) (a : Nat) : List (Nat × Nat) :=
  (if loc then [] else [(a, 128)]) ++ (match s.sightDesc n loc a with
    | some d => d.device
    | none => [])

/-- The device memory that a conversion in flight uses: its destination and residual. -/
def Conversion.ranges (v : Conversion) : List (Nat × Nat) := v.desc.device ++ (match v.resid with
  | some r => r.device
  | none => [])

/-- The device memory that a command in flight uses: the operand of a CPASS that waits, and the destination of a BEACON. -/
def State.flightRanges (s : State) (n : Nat) (f : Flight) : List (Nat × Nat) :=
  if f.cmd.op == 0x12 then s.tensorRanges n (locOf f.cmd.w1) (addrOf f.cmd.w1)
  else if f.cmd.op == 0x31 && !locOf f.cmd.w2 then [(addrOf f.cmd.w2, f.vals.getD 1 0)]
  else []

/-- The device memory of a DISPATCH or COMBINE in flight: its tensors and its placement records. -/
def Expert.ranges (e : Expert) : List (Nat × Nat) :=
  e.toks.device ++ (match e.out with
    | some d => d.device
    | none => []) ++ [(e.place, 128 * e.count)]

/-- The device memory of a collective descriptor of a group of m members: the descriptor, its buffers, its table of sizes and what that names
(R355, R357). -/
def State.collRanges (s : State) (p m : Nat) (x : Posted) : List (Nat × Nat) :=
  let d := x.desc
  let len (k : Nat) : Nat := cCount d * dtypeBytes (cDtype d) * k
  (x.addr, 64) :: (match cOp d with
    | 5 => (cSizes d, 32 * m) :: (List.range m).flatMap (fun k => match s.peek p (cSizes d + 32 * k) 32 with
      | some b => [(cSrc d + leAt b 0 8, leAt b 8 8), (cDst d + leAt b 16 8, leAt b 24 8)]
      | none => [])
    | 6 => []
    | o => [(cSrc d, len (if o == 2 then m else 1)), (cDst d, len (if o == 3 then m else 1))])

/-- The device memory that commands and collectives of a partition are using (R288). -/
def State.usedRanges (s : State) (p : Nat) : List (Nat × Nat) :=
  let x := s.part p
  x.cores.flatMap (fun n => (s.core n).convs.flatMap Conversion.ranges ++ (s.core n).flights.flatMap (fun f => s.flightRanges n f)) ++
  (s.fabric.experts.filter (fun e => x.cores.contains e.core)).flatMap Expert.ranges ++
  x.groups.flatMap (fun g => ((s.group g).queue.filter (fun d => d.started)).flatMap (fun d => s.collRanges p (s.group g).members.length d))

/-- Whether one of some pages of a partition is in use. Every other command ends within one step, and a page in transfer moves within one. -/
def State.pagesUsed (s : State) (p : Nat) (gs : List Page) : Bool :=
  let l := s.usedRanges p
  gs.any (fun g => l.any (fun r => decide (0 < r.2) && decide (r.1 < g.va + g.size) && decide (g.va < r.1 + r.2)))

/-- The pages of a range, if the range is wholly mapped with pages of its size. -/
def Part.pagesIn (x : Part) (va len : Nat) (small : Bool) : Option (List Page) :=
  let gs := x.pages.filter (fun g => decide (va ≤ g.va) && decide (g.va < va + len))
  if gs.all (fun g => g.small == small) && (gs.map Page.size).sum == len then some gs else none

/-- A page leaves its frame or its slot; a frame without pages is free again. -/
def State.dropPage (s : State) (p : Nat) (g : Page) : State :=
  let x := s.part p
  let rest := { x with pages := x.pages.filter (fun h => h.va != g.va) }
  match g.frame with
  | none => s.setPart p { rest with swap := rest.swap.filter (fun w => w.slot != g.slot) }
  | some f =>
    let s := { s with mem := s.mem.forceRange (f / 64) (g.size / 64) }
    let fr := f / frameSize
    s.setPart p (if g.small && rest.smallFrames.contains fr then rest else { rest with freeFrames := setAdd rest.freeFrames fr })

def servedUnmap (p : Nat) (s : State) (a : List Nat) : Served :=
  match pageRange [arg a 0, arg a 1, arg a 2, arg a 3 &&& 8] with
  | none => .no 3
  | some (va, len, small) => match (s.part p).pagesIn va len small with
    | none => .no 5
    | some gs => if s.pagesUsed p gs then .wait s else .ok (gs.foldl (fun s g => s.dropPage p g) s) []

def execUnmap (p : Nat) (s : State) : Host.Outcome State Fault Refusal := answer (.unmap p) (serve p 0x04 (servedUnmap p) s)

def servedProtect (p : Nat) (s : State) (a : List Nat) : Served :=
  match pageRange a with
  | none => .no 3
  | some (va, len, small) => match (s.part p).pagesIn va len small with
    | none => .no 5
    | some gs =>
      if s.pagesUsed p gs then .wait s else
      let v := arg a 3
      .ok (s.onPart p (fun x => { x with pages := x.pages.map (fun g =>
        if decide (va ≤ g.va) && decide (g.va < va + len) then { g with w := bit v 0, h := bit v 1, p := bit v 2 } else g) })) []

def execProtect (p : Nat) (s : State) : Host.Outcome State Fault Refusal := answer (.protect p) (serve p 0x05 (servedProtect p) s)

/-! ### SYNC_ALLOC and SYNC_FREE (R283, R285) -/

/-- The lowest run of `n` free objects from k on: the run so far starts at `start`. -/
def freeRun (held : Nat → Bool) (n : Nat) : Nat → Nat → Nat → Option Nat
  | 0, _, _ => none
  | fuel + 1, k, start =>
    if held k then freeRun held n fuel (k + 1) (k + 1)
    else if k + 1 - start ≥ n then some start
    else freeRun held n fuel (k + 1) start

/-- An object passes to a partition with its counter and threshold at 0 (R229). -/
def State.freshObject (s : State) (p o : Nat) : State :=
  ((s.wr .helmSyncCount 0 o 0 0#32).wr .helmSyncIrq 0 o 0 0#32).wr .helmSyncCtl 0 o 0 (w32 (p * 16 + 8))

def servedSyncAlloc (p : Nat) (s : State) (a : List Nat) : Served :=
  let n := arg a 0
  if n < 1 || n > 1024 then .no 3
  else if (s.part p).objects.length + n > s.quota p PlanPart.objects then .no 1
  else
    let held := s.parts.flatMap (fun x => x.2.objects)
    match freeRun held.contains n 16384 0 0 with
    | none => .no 2
    | some o =>
      let s := (List.range n).foldl (fun s i => s.freshObject p (o + i)) s
      .ok (s.onPart p (fun x => { x with objects := sortOn id (x.objects ++ (List.range n).map (· + o)) })) [o]

def execSyncAlloc (p : Nat) (s : State) : Host.Outcome State Fault Refusal := answer (.syncAlloc p) (serve p 0x06 (servedSyncAlloc p) s)

/-- Whether a core, or the saved context of one, names an object: it waits on it, or a command in flight will signal it. -/
def Core.names (k : Core) (o : Nat) : Bool :=
  let sig (c : Cmd) : Bool := c.sig && c.sigObj == o
  (match k.pilot with
    | .waitSync j _ _ => j == o
    | _ => false) ||
  k.convs.any (fun v => sig v.cmd) || k.sends.any (fun m => sig m.cmd) || k.flights.any (fun f => sig f.cmd) || k.blocked.any sig

/-- Whether an object is named by a job that runs or is saved, by a command of one, or by a descriptor in a queue (R285). -/
def State.objectBusy (s : State) (p o : Nat) : Bool :=
  let x := s.part p
  let posted (d : Posted) : Bool := bit (leAt d.desc 40 4) 31 && leAt d.desc 40 4 % 2 ^ 14 == o
  x.queues.any (fun q => match q.head with
    | some j => j.st != .waiting && ((j.doneEn && j.doneObj == o) || j.contexts.any (fun k => k.2.names o))
    | none => false) ||
  x.cores.any (fun n => (s.core n).names o) ||
  x.groups.any (fun g => (s.group g).queue.any posted || (s.group g).stalled.any (fun d => posted d.1))

/-- An object returns to the free pool with its registers at reset. -/
def State.dropObject (s : State) (p o : Nat) : State :=
  let s := (((s.wr .helmSyncCount 0 o 0 0#32).wr .helmSyncIrq 0 o 0 0#32).wr .helmSyncCtl 0 o 0 0#32)
  let s := { s with addIssued := tabSet s.addIssued o 0 0, addApplied := tabSet s.addApplied o 0 0 }
  s.onPart p (fun x => { x with objects := setDel x.objects o })

def servedSyncFree (p : Nat) (s : State) (a : List Nat) : Served :=
  let o := arg a 0
  let n := arg a 1
  if n < 1 || o + n > 16384 then .no 3
  else
    let os := (List.range n).map (· + o)
    if !os.all ((s.part p).objects.contains) then .no 5
    else if os.any (s.objectBusy p) then .no 4
    else .ok (os.foldl (fun s k => s.dropObject p k) s) []

def execSyncFree (p : Nat) (s : State) : Host.Outcome State Fault Refusal := answer (.syncFree p) (serve p 0x07 (servedSyncFree p) s)

/-! ### GROUP_ALLOC and GROUP_FREE (R283, R349) -/

def State.slotsHeld (s : State) (p : Nat) : Nat := ((s.part p).groups.map (fun g => (s.group g).slots)).sum

def servedGroupAlloc (p : Nat) (s : State) (a : List Nat) : Served :=
  let n := arg a 0
  if n > 128 then .no 3
  else if (s.part p).groups.length + 1 > s.quota p PlanPart.groups || s.slotsHeld p + n > s.quota p PlanPart.slots then .no 1
  else match (List.range 256).find? (fun g => s.gState g == 0) with
    | none => .no 2
    | some g =>
      let s := (s.setGState g 1 0).onGroup g (fun _ => { Group.init with part := p, slots := n })
      .ok (s.onPart p (fun x => { x with groups := setAdd x.groups g })) [g]

def execGroupAlloc (p : Nat) (s : State) : Host.Outcome State Fault Refusal := answer (.groupAlloc p) (serve p 0x08 (servedGroupAlloc p) s)

/-- A group returns to the free pool with its registers at reset. -/
def State.dropGroup (s : State) (p g : Nat) : State :=
  let s := { s with regs := s.regs.filter (fun x => x.1 < 0x04000000 + g * 0x40 || x.1 ≥ 0x04000000 + g * 0x40 + 0x40) }
  (s.onFabric (fun f => { f with groups := tabPut f.groups g none })).onPart p (fun x => { x with groups := setDel x.groups g })

def servedGroupFree (p : Nat) (s : State) (a : List Nat) : Served :=
  let g := arg a 0
  if g > 255 then .no 3
  else if !(s.part p).groups.contains g then .no 5
  else if s.gState g == 2 || s.gState g == 3 || !(s.group g).queue.isEmpty then .no 4
  else .ok (s.dropGroup p g) []

def execGroupFree (p : Nat) (s : State) : Host.Outcome State Fault Refusal := answer (.groupFree p) (serve p 0x09 (servedGroupFree p) s)

/-! ### LINK_SHARE (R298) -/

/-- Whether the shares of all partitions on a link still fit when p has (a, b). -/
def State.shareFits (s : State) (p l a b : Nat) : Bool :=
  let others := s.parts.filter (fun x => x.1 != p)
  let sum (f : Nat × Nat → Nat) : Nat := (others.map (fun x => f (tabGet x.2.shares l (0, 0)))).sum
  decide (sum Prod.fst + a ≤ 256) && decide (sum Prod.snd + b ≤ 256)

def servedShare (p : Nat) (s : State) (a : List Nat) : Served :=
  let q := s.quota p PlanPart.linkShare
  if arg a 0 > 31 && arg a 0 != 0xFF then .no 3
  else if arg a 1 > q || arg a 2 > q then .no 1
  else
    let ls := if arg a 0 == 0xFF then List.range 32 else [arg a 0]
    if !ls.all (fun l => s.shareFits p l (arg a 1) (arg a 2)) then .no 2
    else .ok (s.onPart p (fun x => { x with shares := ls.foldl (fun t l => tabSet t l (0, 0) (arg a 1, arg a 2)) x.shares })) []

def execLinkShare (p : Nat) (s : State) : Host.Outcome State Fault Refusal := answer (.linkShare p) (serve p 0x0A (servedShare p) s)

/-! ### WQ_CREATE and WQ_DESTROY (R283, R291, R294) -/

/-- Whether [a, a + len) lies in pinned pages of a partition. -/
def Part.pinned (x : Part) (a len : Nat) : Bool :=
  (pieces 0x10000 a (len / 0x10000 + 2) len).all (fun q => match x.page? q.1 with
    | some g => g.p && g.frame.isSome
    | none => false)

def servedWqCreate (p : Nat) (s : State) (a : List Nat) : Served :=
  let base := arg64 a 0
  let n := arg a 2
  let prio := bits (arg a 3) 2 0
  let x := s.part p
  if base % 64 != 0 || base + 64 * n > 2 ^ 48 || n < 16 || n > 65536 || 2 ^ Nat.log2 n != n || bits (arg a 3) 15 3 != 0 ||
    prio > s.quota p PlanPart.ceiling || !x.pinned base (64 * n) then .no 3
  else if x.queues.length + 1 > s.quota p PlanPart.queues then .no 1
  else match (List.range 64).find? (fun q => !x.queues.any (fun y => y.q == q)) with
    | none => .no 2
    | some q =>
      let s := (s.wr .helmWqTail 0 p q 0#32).wr .helmWqHead 0 p q 0#32
      .ok (s.setPart p { x with queues := insertOn Queue.q ⟨q, base, n, prio, bits (arg a 3) 31 16, none⟩ x.queues }) [q]

def execWqCreate (p : Nat) (s : State) : Host.Outcome State Fault Refusal := answer (.wqCreate p) (serve p 0x0B (servedWqCreate p) s)

def Part.queue? (x : Part) (q : Nat) : Option Queue := x.queues.find? (fun y => y.q == q)
def State.setQueue (s : State) (p : Nat) (y : Queue) : State :=
  s.onPart p (fun x => { x with queues := x.queues.map (fun z => if z.q == y.q then y else z) })

def servedWqDestroy (p : Nat) (s : State) (a : List Nat) : Served :=
  match (s.part p).queue? (arg a 0) with
  | none => .no 5
  | some y =>
    let busy : Bool := match y.head with
      | some j => j.st != .waiting
      | none => false
    if busy then .no 4
    else
      let s := (s.wr .helmWqTail 0 p y.q 0#32).wr .helmWqHead 0 p y.q 0#32
      .ok (s.onPart p (fun x => { x with queues := x.queues.filter (fun z => z.q != y.q) })) []

def execWqDestroy (p : Nat) (s : State) : Host.Outcome State Fault Refusal := answer (.wqDestroy p) (serve p 0x0C (servedWqDestroy p) s)

/-- A write of HELM_REQ_CMD (R281): the arguments are latched with the code; an unknown code ends at once. -/
def State.requestWrite (s : State) (p : Nat) (v : Word) : State :=
  if s.partState p != 1 && s.partState p != 2 then s
  else if s.fld .helmReqStatus 0 p 0 31 31 == 1 then s.setFld .helmReqStatus 0 p 0 29 29 1
  else
    let code := getBits v 7 0
    let args := (List.range 8).map (fun k => (s.rd .helmReqArg 0 p k).toNat)
    let s := s.setFld .helmReqStatus 0 p 0 31 31 1
    if code < 1 || code > 12 then s.endRequest p code (v.getLsbD 8) (if s.partState p == 2 then 4 else 6) []
    else s.onPart p (fun x => { x with request := some (code, v.getLsbD 8, args) })

end Sys2Proof.Machine
end

