-- ==== Sys2Proof/Machine/Convert.lean ====
section
/-! DEFINITION. CONVERT, CKPT and SXSTEP, the tile queue, and the step of the output edge converter (R107, R109, R111, R114, R117, R126 to
R128, R133, R157, R158, R395). -/
namespace Sys2Proof.Machine

/-! ### Starting a conversion -/

/-- Where the tiles of a run go, in the order in which they enter the queue (R214, R109). DEDUCED (log entry 130): in transposed mode tile t
of array a goes to row + 32a and column + 32 (t − FIRST_TILE). -/
def TileRun.jobs (r : TileRun) (row col : Nat) : List TileJob :=
  (List.range r.count).flatMap (fun i => ((List.range 4).filter (bit r.arrays)).map (fun a =>
    if r.trans then ⟨a, r.first + i, row + 32 * a, col + 32 * i⟩ else ⟨a, r.first + i, row + 32 * i, col + 32 * a⟩))

/-- Whether the command holds every tile of each stretch of `size` columns that it writes (R114, R117). -/
def wholeStretches (d : Desc) (js : List TileJob) (size : Nat) : Bool :=
  js.all (fun j => decide (d.cols ≤ j.col) || decide (d.rows ≤ j.row) ||
    (List.range (size / 32)).all (fun k =>
      let c := j.col - j.col % size + 32 * k
      decide (d.cols ≤ c) || js.any (fun x => x.row == j.row && x.col == c)))

/-- The checks that Prism and glints make of a conversion (R114, R117). -/
def needCover (d : Desc) (js : List TileJob) : CM Unit :=
  needAll [(d.glint == 0 || wholeStretches d js 128, 0x06),
    (d.prism == 0 || (d.cols % d.prism == 0 && (d.prism ≤ 32 || wholeStretches d js d.prism)), 0x09)]

/-- The residual descriptor of a destination (R133). -/
def readResid (n : Nat) (d : Desc) : CM (Option Desc) := do
  if d.residual == 0 then return none
  let r ← readDesc n d.loc d.residual
  needAll [(r.fmt == .q4c, 0x04), (r.rows == d.rows && r.cols == d.cols, 0x06),
    (r.prism == d.prism && r.seed == d.seed, 0x08)]
  needRange r
  return some r

/-- The threshold set of a descriptor (R142, R143). -/
def State.thresholds (s : State) (n : Nat) (d : Desc) : List Word := (List.range 4).map (fun k => s.rd .convSextantThresh n d.thr k)

/-- The SFN mode of a command that starts now (R171, R180). -/
def State.sfnForce (s : State) (n : Nat) : Nat := s.fld .vecCtl n 0 0 5 4

/-- Instruction k of bank b. -/
def State.progWord (s : State) (n b k : Nat) : DWord :=
  BitVec.ofNat 64 ((s.rd .vecProgLo n b k).toNat + (s.rd .vecProgHi n b k).toNat * 2 ^ 32)

/-- An instruction that no program may hold (R165). -/
def badInstr (i : DWord) : Bool :=
  decide (bits i.toNat 63 58 > 0x13) || i.getLsbD 32 || (bits i.toNat 63 58 == 0x0E && bits i.toNat 38 35 == 15)

/-- The check of R165 from index k on, over at most `fuel` instructions. -/
def State.progOk (s : State) (n b : Nat) : Nat → Nat → Bool
  | 0, _ => false
  | fuel + 1, k =>
    let i := s.progWord n b k
    !badInstr i && (i.getLsbD 33 || (decide (k < 31) && s.progOk n b fuel (k + 1)))

def State.runBank (s : State) (n : Nat) : Nat := s.fld .vecCtl n 0 0 0 0

/-- The vector operand record of a command that runs a program over tiles, with the range of its vectors (R215). -/
def takeVec (n off : Nat) : CM VecOperands := do
  let v ← readVec n off
  need ([v.colVec, v.rowVec].all (fun x => match x with
    | some (o, bf) => decide (o + (if bf then 64 else 128) ≤ shadowBase)
    | none => true)) 0x11
  return v

/-- The record of a command whose first group begins with it, its program checked in the running bank (R165). -/
def startVec (n off : Nat) : CM VecOperands := do
  let v ← takeVec n off
  let s ← getS
  need (s.progOk n (s.runBank n) 32 v.prog) 0x0A
  return v

/-- The tile queue takes the next tile of the oldest conversion that has one, up to 16 entries (R157, R158). -/
def State.feedQueue (s : State) (n : Nat) : Nat → State
  | 0 => s
  | fuel + 1 =>
    let k := s.core n
    if k.tileq.length ≥ 16 then s else
    match k.convs.find? (fun v => !v.feed.isEmpty) with
    | none => s
    | some v => match v.feed with
      | [] => s
      | j :: rest =>
        let el := ((k.tileWords j.a j.t).zipIdx).foldl (fun t x => tabSet t x.2 0#32 x.1) []
        let e : TileEntry := ⟨v.cc, j, el, s.hdr n j.a j.t, v.vec.isNone, 0⟩
        let s := s.onCore n (fun k => { k with
          tileq := k.tileq ++ [e]
          convs := k.convs.map (fun x => if x.cc == v.cc then { x with feed := rest } else x) })
        s.feedQueue n fuel

/-- The operands of CONVERT and CKPT, checked against a destination, and the conversion in flight (R109, R114, R117, R213, R214). -/
def startConversion (n : Nat) (c : Cmd) (d : Desc) (ckpt : Bool) : CM Bool := do
  needDest d
  let r ← tileRun (← w3 n c 0)
  let row ← w3 n c 1
  let col ← w3 n c 2
  need (col % 32 == 0) 0x06
  need (!r.trans || (32 * r.count) % 128 == 0 || decide (col + 32 * r.count ≥ d.cols)) 0x06
  let js := r.jobs row col
  needCover d js
  let rd ← readResid n d
  needRange d
  let vec ← (if c.w2.getLsbD 63 then (do return some (← takeVec n (bits c.w2.toNat 21 0))) else
    return none)
  let s ← getS
  let k := s.core n
  let v : Conversion := ⟨c, (k.cp + 2 ^ 48 - 32) % 2 ^ 48, k.cc, d, rd, s.thresholds n d, s.sfnForce n, r.trans, ckpt, vec, js, js.length,
    0, 0, 0, false⟩
  setS (s.setCore n { k with convs := k.convs ++ [v] })
  modS (fun s => s.feedQueue n 16)
  return false

def convertBody (n : Nat) (c : Cmd) : CM Bool := do
  let (d, _) ← useDesc n (locOf c.w1) (addrOf c.w1)
  startConversion n c d false

def execConvert (n : Nat) (c : Cmd) (s : State) : Host.Outcome State Fault Refusal :=
  answer (.convert n c) (pilotRun n c (convertBody n c) s)

/-- CKPT (R395): a Q8C destination without residual and stochastic rounding, and neither statistics nor PROMOTE. -/
def ckptBody (n : Nat) (c : Cmd) : CM Bool := do
  let d ← readDesc n (locOf c.w1) (addrOf c.w1)
  needAll [(d.fmt == .q8c, 0x04), (d.residual == 0 && !d.stoch, 0x12)]
  startConversion n c d true

def execCkpt (n : Nat) (c : Cmd) (s : State) : Host.Outcome State Fault Refusal :=
  answer (.ckpt n c) (pilotRun n c (ckptBody n c) s)

/-! ### SXSTEP (R128) -/

def sxstepBody (n : Nat) (c : Cmd) : CM Bool := do
  let a := addrOf c.w1
  need (aligned a 32) 0x05
  let f ← rdAt n (locOf c.w1) (a + 16) 4
  wrAt n (locOf c.w1) a (leBytes 0 16) false
  let v := leNat f.1
  if bit v 0 then wrAt n (locOf c.w1) (a + 16) (leBytes ((v ||| 2) - 1) 4) f.2
  return true

def execSxstep (n : Nat) (c : Cmd) (s : State) : Host.Outcome State Fault Refusal :=
  answer (.sxstep n c) (pilotRun n c (sxstepBody n c) s)

/-! ### The converter's step (R111, R158) -/

/-- The conversion and the length of the window at the head of core n's queue; none while a tile of it is still to come. -/
def Core.window (k : Core) : Option (Conversion × Nat) :=
  match k.tileq with
  | [] => none
  | h :: _ => match k.convs.find? (fun v => v.cc == h.cc) with
    | none => none
    | some v =>
      let p := closePrefix v.desc.span k.tileq 16 1
      let es := k.tileq.take p
      if v.feed.any (fun j => es.any (fun e => e.job.same v.desc.span j)) then none else some (v, p)

/-- A tile as the converter takes it, in the destination's orientation (R109). -/
def TileEntry.tile (v : Conversion) (e : TileEntry) : Tile :=
  let at_ (i : Nat) : Word := tabGet e.elems (if v.trans then 32 * (i % 32) + i / 32 else i) 0#32
  ⟨e.job.row, e.job.col, getBits e.hdr 2 0, (List.range 1024).map at_, e.hdr.getLsbD 4⟩

def Conversion.spec (v : Conversion) : Spec := ⟨v.cmd, v.cc, addrOf v.cmd.w1, v.desc, v.resid, v.thr⟩

/-- Count a tile towards R127. -/
def countConv (n cc : Nat) (r : Bool × Bool) : CM Unit :=
  modS (fun s => s.onCore n (fun k => { k with convs := k.convs.map (fun x =>
    if x.cc == cc then { x with emitted := x.emitted + b2n r.1, fallen := x.fallen + b2n r.2 } else x) }))

/-- Steps 3 to 10 over the tiles of a window: pass one by stretch, then each tile in queue order. -/
def convertWindow (n : Nat) (v : Conversion) (es : List TileEntry) : CM Unit := do
  let w := v.spec
  es.forM (fun e => flagIf (e.flags != 0) e.flags)
  if !w.desc.fmt.isSlab then es.forM (fun e => emitPlain n w (e.tile v))
  else do
    let same := TileJob.same w.desc.span
    let heads := es.zipIdx.filter (fun x => !(es.take x.2).any (fun h => same h.job x.1.job))
    let rs ← heads.mapM (fun h => prepare n w ((es.filter (fun e => same e.job h.1.job)).map (TileEntry.tile v)))
    let all := rs.flatMap id
    es.forM (fun e => do
      match all.find? (fun r => r.tile.row == e.job.row && r.tile.col == e.job.col) with
      | some r => do
        let x ← emitNarrow n w r
        countConv n v.cc (x.1, x.2.1)
        noteTile n w x.2.2
      | none => pure ())

/-- The counts of a conversion at its end (R127), unless it is a CKPT. -/
def settleCounts (n cc : Nat) : CM Unit := do
  match ((← getS).core n).convs.find? (fun x => x.cc == cc) with
  | some v => if v.ckpt then pure () else addCounts n v.spec v.emitted v.fallen
  | none => pure ()

/-- A conversion leaves the core: its entries, its place in the vector engine, and the codebook writes that waited for it (R51). -/
def Core.dropConv (k : Core) (cc : Nat) : Core :=
  let live := match k.tileq.find? (fun e => !e.vecLeft) with
    | some e => e.cc == cc
    | none => false
  { k with
    stirred := true
    convs := k.convs.filter (fun x => x.cc != cc)
    tileq := k.tileq.filter (fun e => e.cc != cc)
    engine := if live then { k.engine with active := false, ended := false, group := 0, pc := 0 } else k.engine }

/-- Whether a conversion reads a codebook register (R51). -/
def Conversion.reads (v : Conversion) (r : Reg) (i : Nat) : Bool :=
  let dest : Bool := match r, v.desc.fmt with
    | .convCb4, .q4c => v.desc.codebook == i
    | .convCb8, f => f.isSlab && rungBook v.desc .q8c % 4 == i
    | _, _ => false
  dest || (match v.resid with
    | some d => r == .convCb4 && d.codebook == i
    | none => false)

/-- Whether a write to a register of core n is held (R51). -/
def Core.holdsCodebook (k : Core) (a : RegAt) : Bool := k.convs.any (fun v => v.reads a.reg a.i)

/-- The held codebook writes take effect in the order in which they came, up to one that a conversion still holds (R24, R51). -/
def State.releaseCodebooks (s : State) (n : Nat) : State :=
  let k := s.core n
  let held (x : Nat × Word) : Bool := match regFind x.1 with
    | some a => k.holdsCodebook a
    | none => false
  let go := k.cbHeld.takeWhile (fun x => !held x)
  let s1 := s.setCore n { k with cbHeld := k.cbHeld.drop go.length }
  go.foldl (fun s x => match regFind x.1 with
    | some a => s.putCodebook a x.2
    | none => s) s1

/-- The end of a conversion, completed or stopped. -/
def State.endConv (s : State) (n : Nat) (v : Conversion) (flags : Nat) (stop : Option (Nat × Nat)) : State :=
  let s := ((s.onCore n (fun k => k.dropConv v.cc)).releaseCodebooks n).feedQueue n 16
  match stop with
  | none => s.complete n v.cmd v.cc flags
  | some (code, a) => s.failed n v.cmd v.cp v.cc code flags a

/-- A stopped conversion: its counts are settled as far as they can be. -/
def State.stopConv (s : State) (n : Nat) (v : Conversion) (flags code a : Nat) : State :=
  match (settleCounts n v.cc).run.run ⟨s, flags, none⟩ with
  | (_, r) => r.s.endConv n v r.flags (some (code, a))

/-- The converter takes the window at the head of the queue, once every tile of it is there and has left the vector engine. -/
def tileConversion (n : Nat) (s : State) : State :=
  if s.clockHalt then s else
  let k := s.core n
  match k.window with
  | none => s
  | some (v, p) =>
    let es := k.tileq.take p
    if !es.all (·.vecLeft) then s else
    match (convertWindow n v es).run.run ⟨s, v.flags, none⟩ with
    | (.error .wait, _) => s
    | (.error (.status code a), r) => r.s.stopConv n v r.flags code a
    | (.ok _, r) =>
      let s1 := r.s.onCore n (fun k => { k with
        tileq := k.tileq.drop p
        convs := k.convs.map (fun x => if x.cc == v.cc then { x with left := x.left - p, flags := r.flags } else x) })
      if v.left > p then s1.feedQueue n 16
      else match (settleCounts n v.cc).run.run ⟨s1, r.flags, none⟩ with
        | (.error .wait, _) => s
        | (.error (.status code a), r) => r.s.endConv n v r.flags (some (code, a))
        | (.ok _, r) => r.s.endConv n v r.flags none

def execTileConversion (n : Nat) (errs : List SramErr) (s : State) : Host.Outcome State Fault Refusal :=
  answer (.tileConversion n errs) (tileConversion n (s.sramErrors n errs))

end Sys2Proof.Machine
end

