-- ==== Sys2Proof/Machine/Special.lean ====
section
/-! DEFINITION. The special functions of R170 to R173 and the normal transform of R193: the real functions in fixed point, the error bounds
that the rules state, and the results that these hold a free value to (log entries 6 and 137). -/
namespace Sys2Proof.Machine

/-! ### Real functions in fixed point: an integer x stands for x ÷ 2^128 (log entry 137) -/

abbrev Fx := Int

def Fx.one : Fx := 2 ^ 128
def Fx.ofDy (d : Dy) : Fx := d.floorAt (-128)
def Fx.dy (x : Fx) : Dy := ⟨x, -128⟩
def Fx.times (x y : Fx) : Fx := x * y / 2 ^ 128
def Fx.over (x y : Fx) : Fx := x * 2 ^ 128 / y
/-- x held to [−k, k]. -/
def Fx.within (k : Nat) (x : Fx) : Fx := Max.max (-(k * Fx.one)) (Min.min x (k * Fx.one))
/-- num ÷ den. -/
def Fx.ratio (num den : Int) : Fx := num * 2 ^ 128 / den

def fxLn2 : Fx := 0xb17217f7d1cf79abc9e3b39803f2f6af
def fxHalfPi : Fx := 0x1921fb54442d18469898cc51701b839a2
/-- 2 ÷ √π, √½ and 1 ÷ √(2π). -/
def fxTwoRootPi : Fx := 0x120dd750429b6d11ae3a914fed7fd8688
def fxRootHalf : Fx := 0xb504f333f9de6484597d89b3754abe9f
def fxInvRootTwoPi : Fx := 0x662114cf50d942343f2cf1402eae38bf

/-- Σ of the terms that follow `term`, each the one before times x, times num k and divided by den k, for k from `k` on. -/
def series (x : Fx) (num den : Nat → Int) : Nat → Nat → Fx → Fx
  | 0, _, term => term
  | fuel + 1, k, term => term + series x num den fuel (k + 1) (term.times x * num k / den k)

/-- e^x = m · 2^k with m in [1, 2). -/
def fxExp2 (x : Fx) : Fx × Int :=
  let k := x / fxLn2
  (series (x - k * fxLn2) (fun _ => 1) (fun i => (i : Int) + 1) 40 0 Fx.one, k)

/-- e^x for x up to 128, to the grid. -/
def fxExp (x : Fx) : Fx :=
  let r := fxExp2 x
  if 0 ≤ r.2 then r.1 * (2 ^ r.2.toNat : Nat) else r.1 / ((2 ^ (-r.2).toNat : Nat) : Int)

/-- ln x for x in [1, 2]: 2 · artanh((x − 1) ÷ (x + 1)). -/
def fxLn1 (x : Fx) : Fx :=
  let z := (x - Fx.one).over (x + Fx.one)
  2 * series (z.times z) (fun i => 2 * i + 1) (fun i => 2 * i + 3) 45 0 z

/-- erf x = 2 ÷ √π · e^(−x²) · Σ 2^i x^(2i+1) ÷ (1 · 3 ⋯ (2i+1)), and ±1 from 9 on. -/
def fxErf (x : Fx) : Fx :=
  if 9 * Fx.one ≤ x then Fx.one else if x ≤ -(9 * Fx.one) then -Fx.one else
  let q := x.times x
  (fxTwoRootPi.times (fxExp (-q))).times (series q (fun _ => 2) (fun i => 2 * i + 3) 300 0 x)

def fxSigmoid (x : Fx) : Fx := Fx.one.over (Fx.one + fxExp (-(x.within 80)))
def fxTanh (x : Fx) : Fx := 2 * fxSigmoid (2 * x.within 40) - Fx.one
def fxSoftplus (x : Fx) : Fx := Max.max x 0 + fxLn1 (Fx.one + fxExp (-(if 0 ≤ x then x else -x).within 80))
/-- Φ and φ of the standard normal distribution. -/
def fxPhi (x : Fx) : Fx := (Fx.one + fxErf ((x.within 16).times fxRootHalf)) / 2
def fxDensity (x : Fx) : Fx := let y := x.within 16; fxInvRootTwoPi.times (fxExp (-(y.times y) / 2))
/-- The argument of the tanh form of GELU (R170) and its derivative. -/
def fxGeluArg (x : Fx) : Fx := (Fx.ratio 79788456 100000000).times (x + (Fx.ratio 44715 1000000).times (x.times (x.times x)))
def fxGeluSlope (x : Fx) : Fx := (Fx.ratio 79788456 100000000).times (Fx.one + 3 * (Fx.ratio 44715 1000000).times (x.times x))

/-- The cosine and sine of the angle of k ÷ 2^24 of a turn; exact at the quarter turns. -/
def fxTurn (k : Nat) : Fx × Fx :=
  let q := k / 2 ^ 22 % 4
  let a := fxHalfPi.times (Fx.ratio (k % 2 ^ 22 : Nat) (2 ^ 22))
  let s := series (a.times a) (fun _ => -1) (fun i => (2 * i + 2) * (2 * i + 3)) 30 0 a
  let c := series (a.times a) (fun _ => -1) (fun i => (2 * i + 1) * (2 * i + 2)) 30 0 Fx.one
  match q with
  | 0 => (c, s) | 1 => (-s, c) | 2 => (-c, -s) | _ => (s, -c)

/-! ### The functions of R170 -/

/-- The value of function `func` at a finite number inside its domain: the real function to within the grid of the fixed point, relative
to the result for exp and the reciprocals (R170). -/
def sfnReal (func : Nat) (x : Dy) : Dy :=
  let v := Fx.ofDy x
  -- x = m · 2^e with m in [1, 2), for a positive x
  let e := x.log2
  let m := Fx.ofDy (x.scale (-e))
  match func with
  | 0 => x.mul (fxPhi v).dy
  | 1 => x.mul (fxSigmoid (2 * fxGeluArg (v.within 16))).dy
  | 2 => (fxErf v).dy
  | 3 => x.mul (fxSigmoid v).dy
  | 4 => (fxSoftplus v).dy
  | 5 => (fxSigmoid v).dy
  | 6 => (fxTanh v).dy
  | 7 => let r := fxExp2 (v.within 256); (Fx.dy r.1).scale r.2
  | 8 => Fx.dy (fxLn1 m + e * fxLn2)
  | 9 => let r := (Fx.dy (Fx.one.over (Fx.ofDy (x.abs.scale (-e))))).scale (-e); if x.isNeg then r.neg else r
  | 10 =>
    let h := e / 2
    (Fx.dy (Fx.one.over (isqrt ((Fx.ofDy (x.scale (-2 * h))).toNat * 2 ^ 128)))).scale (-h)
  | 12 => Fx.dy (fxPhi v + (v.within 16).times (fxDensity v))
  | 13 =>
    let w := v.within 16
    let t := fxTanh (fxGeluArg w)
    Fx.dy ((Fx.one + t) / 2 + (w.times ((Fx.one - t.times t).times (fxGeluSlope w))) / 2)
  | 14 => let w := v.within 80; let g := fxSigmoid w; Fx.dy (g + w.times (g.times (Fx.one - g)))
  | _ => Dy.zero

/-! ### The bounds of R173 -/

/-- One unit in the last place of FP32 at a number (R173, R193). -/
def ulp32 (y : Dy) : Dy := Dy.pow2 (if y.isZero then fp32.qmin else max (y.log2 - 23) fp32.qmin)

/-- The value of an FP32 word for a comparison with a bound: an infinity counts as the first number beyond the range. -/
def wordVal (w : Word) : Dy :=
  match fv w with
  | .inf n => ⟨if n then -1 else 1, 128⟩
  | v => v.dy

/-- Fast-mode error of R173: relative where the flag is set, numerator and denominator. -/
def fastError : Nat → Bool × Nat × Nat
  | 0 => (false, 4, 1000) | 1 => (false, 4, 1000) | 2 => (false, 3, 1000) | 3 => (false, 6, 1000) | 4 => (false, 2, 1000)
  | 5 => (false, 1, 1000) | 6 => (false, 3, 1000) | 7 => (true, 24, 100000) | 8 => (false, 5, 10000) | 9 => (true, 1, 1000)
  | 10 => (true, 2, 1000) | _ => (false, 8, 1000)

/-- The n of precise mode (R173). -/
def preciseUlps : Nat → Nat
  | 0 => 4 | 1 => 4 | 2 => 3 | 3 => 4 | 4 => 3 | 5 => 3 | 6 => 3 | 7 => 2 | 8 => 2 | 9 => 1 | 10 => 2 | _ => 4

/-- Whether a word lies within the bounds of R173 of the value y. The relative bounds of fast mode leave room for the rounding of a
subnormal result. -/
def withinSfn (func : Nat) (precise : Bool) (y : Dy) (w : Word) : Bool :=
  if isNaN32 w then false else
  let err := ((wordVal w).sub y).abs
  if precise then
    let n := Dy.ofNat (preciseUlps func)
    let u := n.mul (ulp32 (dy32 (rne32 y)))
    err.le (if y.abs.lt (Dy.pow2 (-7)) then u.max (n.scale (-30)) else u)
  else
    let (rel, num, den) := fastError func
    let bound := if rel then ((Dy.ofNat num).mul y.abs).add ((Dy.ofNat den).scale (-150)) else Dy.ofNat num
    ((Dy.ofNat den).mul err).le bound

/-- A value held to the bounds of R173: itself inside them, and the correctly rounded value otherwise, which lies inside them. -/
def holdSfn (func : Nat) (precise : Bool) (y : Dy) (w : Word) : Word := if withinSfn func precise y w then w else rne32 y

/-! ### The two modes (R172, R173) -/

/-- The half-width of the interval of a function that is not range-reduced (R170). -/
def fastHalf : Nat → Nat
  | 2 => 3
  | 3 => 8 | 4 => 8 | 5 => 8 | 14 => 8
  | _ => 4

/-- Breakpoint k of a function in fast mode: the interval's lower end, and the table of the stepping above it (R172, R173). -/
def sfnBreak (func : Nat) (lo : Dy) (k : Nat) : Word := if k = 0 then rne32 lo else Config.sfnBreak func k

/-- The piecewise linear approximation of R172 at x, over 16 segments from `lo` on, of a real function f: each step rounds to FP32
(log entry 137). -/
def sfnLinear (func : Nat) (lo : Dy) (f : Dy → Dy) (x : Word) : Word :=
  let k := (List.range 16).foldl (fun a k => if !flt x (sfnBreak func lo k) then k else a) 0
  let b := sfnBreak func lo k
  (fadd (rne32 (f (dy32 b))) (fmul (Config.sfnSlope func k) (fsub x b).1).1).1

/-- Fast mode inside the interval of the function (R172): range reduction for exp, log and the reciprocals, the odd functions odd. -/
def sfnFast (func : Nat) (x : Word) : Word :=
  let d := dy32 x
  let e := d.log2
  match func with
  | 7 =>
    let r := fxExp2 ((Fx.ofDy d).within 256)
    let t := (Fx.ofDy d).within 256 - r.2 * fxLn2
    let m := sfnLinear 7 Dy.zero (fun z => let q := fxExp2 ((Fx.ofDy z).times fxLn2); (Fx.dy q.1).scale q.2) (rne32 (Fx.dy (t.over fxLn2)))
    rne32 ((dy32 m).scale r.2)
  | 8 => rne32 ((dy32 (sfnLinear 8 Dy.one (sfnReal 8) (rne32 (d.scale (-e))))).add (Fx.dy (e * fxLn2)))
  | 9 =>
    let m := dy32 (sfnLinear 9 Dy.one (sfnReal 9) (rne32 (d.abs.scale (-e))))
    rne32 ((if d.isNeg then m.neg else m).scale (-e))
  | 10 => rne32 ((dy32 (sfnLinear 10 Dy.one (sfnReal 10) (rne32 (d.scale (-2 * (e / 2)))))).scale (-(e / 2)))
  | _ =>
    let lo : Dy := ⟨-(fastHalf func : Int), 0⟩
    if (func == 2 || func == 6) && neg32 x then fneg (sfnLinear func lo (sfnReal func) (fabs x))
    else sfnLinear func lo (sfnReal func) x

/-- The value of a special function that R170 does not fix, within the bounds of R173. An odd function is odd in fast mode (R172). -/
def sfnValue (func : Nat) (precise : Bool) (x : Word) : Word :=
  let y := sfnReal func (dy32 x)
  if precise then holdSfn func true y (Config.sfn func x) else holdSfn func false y (sfnFast func x)

/-! ### The normal pair (R193) -/

/-- The exact transform of u1 and u2 for finite A and B: A + B · r · cos or sin of 2π · u2, with u1′ = u1 + 2^−24. -/
def normalReal (a b : Dy) (u1 u2 : Nat) (second : Bool) : Dy :=
  let n := u1 + 1
  let e := Nat.log2 n
  -- −ln u1′ = (24 − e) ln 2 − ln(n ÷ 2^e)
  let l := (24 - (e : Int)) * fxLn2 - fxLn1 (Fx.ratio n (2 ^ e : Nat))
  let r : Fx := isqrt ((2 * l).toNat * 2 ^ 128)
  let t := fxTurn u2
  a.add (b.mul (Fx.dy (r.times (if second then t.2 else t.1))))

/-- A value of the pair within 8 ulp of the exact transform: the free value where it lies so, and the correctly rounded value otherwise.
Where A or B is not finite no rule states a value, and it is free (log entry 6). -/
def normalValue (a b : Word) (u1 u2 : Nat) (second : Bool) : Word :=
  let v := Config.normal a b u1 u2 second
  if !isFin32 a || !isFin32 b then v else
  let y := normalReal (dy32 a) (dy32 b) u1 u2 second
  if !isNaN32 v && ((wordVal v).sub y).abs.le ((Dy.ofNat 8).mul (ulp32 y)) then v else rne32 y

end Sys2Proof.Machine
end

