-- ==== Sys2Proof/Machine/RowOps.lean ====
section
/-! DEFINITION. The ordered reductions (R153 to R156), the special functions (R170 to R173) and the row statistics (R174 to R176). -/
namespace Sys2Proof.Machine

/-! ### The order of R153 -/

/-- Combine a further stride of elements into the lanes, lane by lane. -/
def combineLanes {α : Type} (f : α → α → α) : List α → List α → List α
  | a :: t, b :: u => f a b :: combineLanes f t u
  | l, _ => l

/-- The strides of w elements that follow the first, at most `fuel`. -/
def strides {α : Type} (f : α → α → α) (w : Nat) : Nat → List α → List α → List α
  | 0, acc, _ => acc
  | fuel + 1, acc, l => if l.isEmpty then acc else strides f w fuel (combineLanes f acc (l.take w)) (l.drop w)

/-- One level of the binary tree: neighbours combine, an odd one stays. -/
def pairUp {α : Type} (f : α → α → α) : List α → List α
  | a :: b :: t => f a b :: pairUp f t
  | l => l

def tree {α : Type} (f : α → α → α) : Nat → List α → List α
  | 0, l => l
  | fuel + 1, l => tree f fuel (pairUp f l)

/-- Lanes per row. -/
def rowLanes (len : Nat) : Nat := if len ≤ 1 then 1 else Nat.min 256 (2 ^ (Nat.log2 (len - 1) + 1))

/-- A row combined in the order of R153; none for an empty row. -/
def orderedReduce {α : Type} (f : α → α → α) (l : List α) : Option α :=
  let w := rowLanes l.length
  (tree f 8 (strides f w (l.length / w + 1) (l.take w) (l.drop w))).head?

/-! ### Sum, maximum and minimum (R154 to R156) -/

/-- The ordered sum, with NI for the elements, and IV and OF for the additions. -/
def orderedSum (l : List Word) : Word × VFlags :=
  match orderedReduce (fun (a b : Word × VFlags) => let r := fadd a.1 b.1; (r.1, a.2 ||| b.2 ||| r.2)) (l.map (fun x => (x, 0))) with
  | none => (0#32, 0)
  | some r => (if isNaN32 r.1 then cnan else r.1, (r.2 &&& 5) ||| niOf l)

/-- The winner of two elements with their indices: a NaN first, then by value, then the lower index. -/
def combineBest (better : Word → Word → Bool) (a b : Word × Nat) : Word × Nat :=
  let low := if a.2 ≤ b.2 then a else b
  if isNaN32 a.1 || isNaN32 b.1 then (if isNaN32 a.1 && isNaN32 b.1 then low else if isNaN32 a.1 then a else b)
  else if better a.1 b.1 then a else if better b.1 a.1 then b else low

def orderedBest (better : Word → Word → Bool) (l : List Word) : Word × Nat × VFlags :=
  match orderedReduce (combineBest better) l.zipIdx with
  | none => (0#32, 0, 0)
  | some r => (if isNaN32 r.1 then cnan else r.1, r.2, niOf l)

def orderedMax (l : List Word) : Word × Nat × VFlags := orderedBest (fun a b => flt b a) l
def orderedMin (l : List Word) : Word × Nat × VFlags := orderedBest flt l

/-- A reduction by its selector: value, index (0 for a sum), flags. -/
def reduceRow (op : Nat) (l : List Word) : Word × Nat × VFlags :=
  match op with
  | 0 => let r := orderedSum l; (r.1, 0, r.2)
  | 1 => orderedMax l
  | _ => orderedMin l

/-! ### Special functions (R170 to R173) -/

def one32 : Word := 0x3F800000#32
def mone32 : Word := 0xBF800000#32

/-- The fast interval of a function and its values outside: half-width, the value below, the value above (none is x). -/
def fastRange : Nat → Option (Nat × Word × Option Word)
  | 0 => some (4, 0#32, none)
  | 1 => some (4, 0#32, none)
  | 2 => some (3, mone32, some one32)
  | 3 => some (8, 0#32, none)
  | 4 => some (8, 0#32, none)
  | 5 => some (8, 0#32, some one32)
  | 6 => some (4, mone32, some one32)
  | 12 => some (4, 0#32, some one32)
  | 13 => some (4, 0#32, some one32)
  | 14 => some (8, 0#32, some one32)
  | _ => none

/-- The results that R170 states of a number or infinity; none where R173 only bounds the value. -/
def sfnFixed (f : Nat) (precise : Bool) (x : Word) : Option (Word × VFlags) :=
  let neg := neg32 x
  let inf := isInf32 x
  let zero := isFin32 x && (dy32 x).isZero
  match f with
  -- e^x leaves the range from the first x above ln (2^128) on
  | 7 => if inf then some (if neg then 0#32 else pinf, 0) else if zero then some (one32, 0)
    else if !neg && decide (0x42B17218 ≤ x.toNat) then some (pinf, 4) else none
  | 8 => if zero then some (ninf, 2) else if neg then some (cnan, 1) else if inf then some (pinf, 0) else none
  | 9 => if zero then some (if neg then ninf else pinf, 2) else if inf then some (if neg then 0x80000000#32 else 0#32, 0) else none
  | 10 => if zero then some (if neg then ninf else pinf, 2) else if neg then some (cnan, 1) else if inf then some (0#32, 0) else none
  | 11 => some (if neg || zero then 0#32 else one32, 0)
  | _ => match fastRange f with
    | none => none
    | some (h, below, above) =>
      let big := inf || (!precise && (Dy.ofNat h).lt (dy32 x).abs)
      if big then some (if neg then below else above.getD x, 0)
      else if zero && (f == 2 || f == 6) then some (x, 0)
      else none

/-- FUNC(a) in fast or precise mode with its flags: what R170 fixes, or a value within the bounds of R173 (log entry 6). A result of 0 of any
function that is not odd is +0. -/
def sfnEval (f : Nat) (precise : Bool) (x : Word) : Word × VFlags :=
  if isNaN32 x then (cnan, 16) else
  match sfnFixed f precise x with
  | some r => r
  | none =>
    let v := sfnValue f precise x
    let r := if f != 2 && f != 6 && v == 0x80000000#32 then 0#32 else v
    (r, (if isInf32 r then 4 else 0) |||
      (if isFin32 r && decide ((fabs r).toNat < 0x00800000) && Config.sfnInexact f precise x then 8 else 0))

/-- The mode in force (R171, R180). -/
def sfnMode (force : Nat) (precise : Bool) : Bool := if force == 1 then false else if force == 2 then true else precise

/-! ### Row statistics (R174 to R176) -/

/-- Row results with flags. -/
abbrev RowOut := List Word × VFlags

/-- A row with a NaN or an infinity: NI for a NaN, IV for an infinity (R175); none where every element is finite. -/
def nonFiniteRow (l : List Word) : Option VFlags :=
  if l.all isFin32 then none else some (niOf l ||| (if l.any isInf32 then 1 else 0))

/-- Map with flags. -/
def mapF (f : Word → Word × VFlags) (l : List Word) : RowOut :=
  let r := l.map f
  (r.map (·.1), r.foldl (fun a x => a ||| x.2) 0)

def len32 (l : List Word) : Word := rne32 (Dy.ofNat l.length)

/-- The sum of squares over L, each square rounded once. -/
def meanSquare (l : List Word) : Word × VFlags :=
  let q := mapF (fun x => fmul x x) l
  let s := orderedSum q.1
  let r := fdiv s.1 (len32 l)
  (r.1, (q.2 ||| s.2 ||| r.2) &&& 15 ||| niOf l)

/-- The variance of R175 of a finite row: var, d, m_d. -/
def varianceOf (l : List Word) : (Word × List Word × Word) × VFlags :=
  let n := len32 l
  let c := l.headD 0#32
  let d := mapF (fun x => fsub x c) l
  let s1 := orderedSum d.1
  let q := mapF (fun x => fmul x x) d.1
  let s2 := orderedSum q.1
  let m := fdiv s1.1 n
  let a := fdiv s2.1 n
  let b := fmul m.1 m.1
  let v := fsub a.1 b.1
  let var := if neg32 v.1 && !isNaN32 v.1 then 0#32 else v.1
  ((var, d.1, m.1), d.2 ||| s1.2 ||| q.2 ||| s2.2 ||| m.2 ||| a.2 ||| b.2 ||| v.2)

/-- Layer normalisation of a row; γ and β by column. -/
def layerNorm (l : List Word) (eps : Word) (gam bet : List Word) : RowOut :=
  match nonFiniteRow l with
  | some f => (l.map (fun _ => cnan), f)
  | none =>
    let v := varianceOf l
    let e := fadd v.1.1 eps
    let r := sfnEval 10 true e.1
    let out := v.1.2.1.zipIdx.map (fun x =>
      let a := fsub x.1 v.1.2.2
      let b := fmul a.1 r.1
      let y := ffma b.1 (gam.getD x.2 one32) (bet.getD x.2 0#32)
      (y.1, a.2 ||| b.2 ||| y.2))
    (out.map (·.1), out.foldl (fun a x => a ||| x.2) (v.2 ||| e.2 ||| r.2))

def rmsNorm (l : List Word) (eps : Word) (gam : List Word) : RowOut :=
  match nonFiniteRow l with
  | some f => (l.map (fun _ => cnan), f)
  | none =>
    let q := meanSquare l
    let e := fadd q.1 eps
    let r := sfnEval 10 true e.1
    let out := l.zipIdx.map (fun x =>
      let a := fmul x.1 r.1
      let y := fmul a.1 (gam.getD x.2 one32)
      (y.1, a.2 ||| y.2))
    (out.map (·.1), out.foldl (fun a x => a ||| x.2) (q.2 ||| e.2 ||| r.2))

/-- Softmax (R174, R176): the exp in the mode in force. -/
def softmax (l : List Word) (tau : Word) (precise : Bool) : RowOut :=
  if l.any isNaN32 then (l.map (fun _ => cnan), 16) else
  let z := mapF (fun x => fmul tau x) l
  if z.1.any (fun x => isNaN32 x || x == pinf) || z.1.all (· == ninf) then (l.map (fun _ => cnan), z.2 ||| 1) else
  let m := orderedMax z.1
  let e := mapF (fun x => let d := fsub x m.1; let r := sfnEval 7 precise d.1; (r.1, d.2 ||| r.2)) z.1
  let s := orderedSum e.1
  let y := mapF (fun x => fdiv x s.1) e.1
  (y.1, z.2 ||| e.2 ||| s.2 ||| y.2)

/-- A row statistic by its selector: one result for mean, variance and RMS, one for each element otherwise. -/
def rowStat (op : Nat) (l : List Word) (s0 : Word) (gam bet : List Word) (precise : Bool) : RowOut :=
  match op with
  | 0 => let s := orderedSum l; let r := fdiv s.1 (len32 l); ([r.1], (s.2 ||| r.2) &&& 15 ||| niOf l)
  | 1 => match nonFiniteRow l with
    | some f => ([cnan], f)
    | none => let v := varianceOf l; ([v.1.1], v.2)
  | 2 => let q := meanSquare l; let r := fsqrt q.1; ([r.1], (q.2 ||| r.2) &&& 15 ||| niOf l)
  | 3 => layerNorm l s0 gam bet
  | 4 => rmsNorm l s0 gam
  | _ => softmax l s0 precise

end Sys2Proof.Machine
end

