-- ==== Sys2Proof/Machine/Vector.lean ====
section
/-! DEFINITION. The vector engine: group boundaries and bank changes (R158 to R160, R165 to R169, R190), the micro-program instructions
(R163, R164, R166, R170, R171) and the program store (R167, R168, R183). -/
namespace Sys2Proof.Machine

/-! ### What an instruction sees -/

/-- The 256 lanes of a group: registers keyed lane × 16 + register, the scalar latch, SFN_FORCE of the command, and the lanes that
compute: all, but for an UPDATE at the edge of its master (R386). -/
structure Lanes where
  regs : Tab Word
  latch : List Word
  force : Nat
  live : Nat → Bool := fun _ => true

/-- The value of a source field in lane l (R163). -/
def Lanes.src (x : Lanes) (i : DWord) (f l : Nat) : Word :=
  if f < 16 then tabGet x.regs (16 * l + f) 0#32
  else if f < 31 then x.latch.getD (f - 16) 0#32
  else w32 i.toNat

def srcA (i : DWord) : Nat := bits i.toNat 53 49
def srcB (i : DWord) : Nat := bits i.toNat 48 44
def srcC (i : DWord) : Nat := bits i.toNat 43 39
def vecOp (i : DWord) : Nat := bits i.toNat 63 58
def vecEnd (i : DWord) : Bool := i.getLsbD 33

/-- An instruction over the lanes: the 256 results, if it writes any, the flags, and the core with its generators. -/
abbrev VecFn := DWord → Lanes → Core → Option (List Word) × VFlags × Core

/-- An instruction that works lane by lane. -/
def perLane (f : DWord → Word → Word → Word → Word × VFlags) : VecFn := fun i x k =>
  let r := (List.range 256).map (fun l => f i (x.src i (srcA i) l) (x.src i (srcB i) l) (x.src i (srcC i) l))
  (some (r.map (·.1)), r.zipIdx.foldl (fun a y => if x.live y.2 then a ||| y.1.2 else a) 0, k)

def fnNop : VecFn := fun _ _ k => (none, 0, k)
def fnMov : VecFn := perLane (fun _ a _ _ => (a, niOf [a]))
def fnAdd : VecFn := perLane (fun _ a b _ => fadd a b)
def fnSub : VecFn := perLane (fun _ a b _ => fsub a b)
def fnMul : VecFn := perLane (fun _ a b _ => fmul a b)
def fnFma : VecFn := perLane (fun _ a b c => ffma a b c)
def fnMin : VecFn := perLane (fun _ a b _ => fmin a b)
def fnMax : VecFn := perLane (fun _ a b _ => fmax a b)
def fnAbs : VecFn := perLane (fun _ a _ _ => (fabs a, niOf [a]))
def fnNeg : VecFn := perLane (fun _ a _ _ => (fneg a, niOf [a]))
def fnSel : VecFn := perLane (fun _ a b c => (if flt 0#32 c then a else b, niOf [a, b, c]))
def fnCmplt : VecFn := perLane (fun _ a b _ => (if flt a b then one32 else 0#32, niOf [a, b]))
def fnDiv : VecFn := perLane (fun _ a b _ => fdiv a b)
def fnSqrt : VecFn := perLane (fun _ a _ _ => fsqrt a)
def fnCvtb : VecFn := perLane (fun _ a _ _ => cvtb a)
/-- SFN in the mode of R171. -/
def fnSfn : VecFn := fun i x k => perLane (fun i a _ _ => sfnEval (bits i.toNat 38 35) (sfnMode x.force (i.getLsbD 34)) a) i x k
/-- RAND: lane l draws from generator l (R184, R186). -/
def fnRand : VecFn := fun _ _ k =>
  let r := (List.range 256).foldl (fun (st : List Word × Core) l =>
    let d := st.2.draw l
    (rne32 ⟨draw24 d.1, -24⟩ :: st.1, d.2)) ([], k)
  (some r.1.reverse, 0, r.2)
def fnRot : VecFn := fun i x k =>
  let r := (List.range 256).map (fun l => x.src i (srcA i) ((l + bits i.toNat 7 0) % 256))
  (some r, niOf ((List.range 256).filterMap (fun l => if x.live l then r[l]? else none)), k)

/-- An instruction that gives every lane of a tile row one value of the row. -/
def perRow (f : List Word → Word × VFlags) : VecFn := fun i x k =>
  let rows := (List.range 8).map (fun q => f ((List.range 32).map (fun j => x.src i (srcA i) (32 * q + j))))
  (some (rows.flatMap (fun r => List.replicate 32 r.1)), rows.zipIdx.foldl (fun a r =>
    if (List.range 32).any (fun j => x.live (32 * r.2 + j)) then a ||| r.1.2 else a) 0, k)
def fnRowsum : VecFn := perRow orderedSum
def fnRowmax : VecFn := perRow (fun l => let r := orderedMax l; (r.1, r.2.2))

/-- The instruction of each opcode (R164). -/
def vecFn : Nat → VecFn
  | 0x01 => fnMov | 0x02 => fnAdd | 0x03 => fnSub | 0x04 => fnMul | 0x05 => fnFma | 0x06 => fnMin | 0x07 => fnMax
  | 0x08 => fnAbs | 0x09 => fnNeg | 0x0A => fnSel | 0x0B => fnCmplt | 0x0C => fnDiv | 0x0D => fnSqrt | 0x0E => fnSfn
  | 0x0F => fnRand | 0x10 => fnRot | 0x11 => fnRowsum | 0x12 => fnRowmax | 0x13 => fnCvtb | _ => fnNop

/-- Run one instruction: its results go to DST in every lane that computes. -/
def runVec (f : VecFn) (i : DWord) (x : Lanes) (k : Core) : Lanes × VFlags × Core :=
  let r := f i x k
  match r.1 with
  | none => (x, r.2)
  | some l => ({ x with regs := l.zipIdx.foldl (fun t y =>
      if x.live y.2 then tabSet t (16 * y.2 + bits i.toNat 57 54) 0#32 y.1 else t) x.regs }, r.2)

/-! ### Groups (R159, R160) -/

/-- A compensated element of a tile of count c, with OF where it rounds to an infinity (R131, R146). -/
def compensate (c : Nat) (w : Word) : Word × VFlags :=
  if c = 0 then (w, 0) else
  let v := scale32 w (16 * c)
  (v, if isFin32 w && isInf32 v then 4 else 0)

/-- An FP32 or BF16 element of core store, with its poison. -/
def Core.vecElem (k : Core) (off : Nat) (bf : Bool) (e : Nat) : Word × Bool :=
  if bf then let r := k.csRead (off + 2 * e) 2; (widen bf16 (leNat r.1), r.2)
  else let r := k.csRead (off + 4 * e) 4; (w32 (leNat r.1), r.2)

/-- The registers of group g at its start (R160), the flags, and whether an input was poisoned. -/
def Core.groupRegs (k : Core) (v : VecOperands) (comp g : Nat) (tile : Nat → Word) : Tab Word × VFlags × Bool :=
  (List.range 256).foldl (fun (st : Tab Word × VFlags × Bool) l =>
    let e := 256 * g + l
    let x := compensate comp (tile e)
    let get (p : Option (Nat × Bool)) (i : Nat) : Word × Bool := match p with
      | some q => k.vecElem q.1 q.2 i
      | none => (0#32, false)
    let a := get v.tile2 e
    let b := get v.colVec (l % 32)
    let c := get v.rowVec (8 * g + l / 32)
    let t := tabSet st.1 (16 * l) 0#32 x.1
    let t := tabSet t (16 * l + 1) 0#32 a.1
    let t := tabSet t (16 * l + 2) 0#32 b.1
    (tabSet t (16 * l + 3) 0#32 c.1, st.2.1 ||| x.2, st.2.2 || a.2 || b.2 || c.2)) ([], 0, false)

/-- The group in progress has ended: v0 goes to the entry, and after the fourth group the tile leaves the engine (R158 to R160). -/
def Core.finishGroup (k : Core) : Core :=
  let g := k.engine
  let idle : Engine := { g with active := false, ended := false, pc := 0, regs := [], flags := 0 }
  match k.engineEntry with
  | none => { k with engine := { idle with group := 0 } }
  | some (i, e, _) =>
    let el := (List.range 256).foldl (fun t l => tabSet t (256 * g.group + l) 0#32 (tabGet g.regs (16 * l) 0#32)) e.elems
    let last := g.group == 3
    let e := { e with
      elems := el
      flags := e.flags ||| g.flags
      vecLeft := last
      hdr := if last then setBits e.hdr 2 0 0 else e.hdr }
    { k with tileq := listSet k.tileq i e, engine := { idle with group := if last then 0 else g.group + 1 } }

/-- The bank flips at a group boundary where a change has been requested (R167). -/
def State.flipBank (s : State) (n : Nat) : State :=
  if s.fld .vecCtl n 0 0 1 1 == 1 then
    (s.setFld .vecCtl n 0 0 0 0 (1 - s.runBank n)).setFld .vecCtl n 0 0 1 1 0
  else s

/-- The next group begins, its program checked in the running bank (R160, R165): a program that fails before the first group of its command is
refused, and one that fails after a bank change stops its command with the flags of the tiles that have gone through the engine (R166). The
overflow of a compensated delivery is a flag of the tile, and no lane flag (R146). -/
def State.startGroup (s : State) (n : Nat) : State :=
  let k := s.core n
  match k.engineEntry with
  | none => s
  | some (i, e, v) => match v.vec with
    | none => s
    | some o =>
      if s.progOk n (s.runBank n) 32 o.prog then
        let r := k.groupRegs o (getBits e.hdr 2 0) k.engine.group (fun j => tabGet e.elems j 0#32)
        let e := { e with flags := e.flags ||| r.2.1, hdr := if r.2.2 then setBits e.hdr 4 4 1 else e.hdr }
        s.setCore n { k with
          tileq := listSet k.tileq i e
          convs := k.convs.map (fun x => if x.cc == v.cc then { x with begun := true } else x)
          engine := ⟨true, k.engine.group, o.prog, false, s.runBank n, r.1, 0⟩ }
      else if v.begun then
        s.stopConv n v ((k.tileq.filter (fun x => x.cc == v.cc)).foldl (fun a x => a ||| x.flags) v.flags) 0x42 0
      else s.endConv n v v.flags (some (0x0A, 0))

/-- A group boundary: the ended group leaves, a requested bank change takes effect, and the next group begins. -/
def groupBoundary (n : Nat) (s : State) : State :=
  if s.clockHalt then s else
  let g := (s.core n).engine
  if g.active && !g.ended then s
  else
    let s := if g.active then s.onCore n Core.finishGroup else s
    (s.flipBank n).startGroup n

def execGroupBoundary (n : Nat) (s : State) : Host.Outcome State Fault Refusal :=
  answer (.groupBoundary n) (groupBoundary n s)

/-- One micro-program instruction of the group in progress: it runs when it is the word that the running program holds at the engine's
place. -/
def vecStep (n : Nat) (f : VecFn) (i : DWord) (s : State) : State :=
  let k := s.core n
  let g := k.engine
  if s.clockHalt || !g.active || g.ended || s.progWord n g.bank g.pc != i then s else
  match k.engineEntry with
  | none => s
  | some (_, _, v) =>
    let o := (v.vec.map (·.latch)).getD []
    let r := runVec f i { regs := g.regs, latch := o, force := v.sfn } k
    let k := r.2.2
    let last := vecEnd i
    let s := s.setCore n { k with engine := { g with
      regs := r.1.regs
      flags := g.flags ||| r.2.1
      pc := if last then g.pc else g.pc + 1
      ended := last } }
    s.orReg .vecFlags n 0 0 r.2.1

def execVecNop (n : Nat) (i : DWord) (s : State) : Host.Outcome State Fault Refusal := answer (.vecNop n i) (vecStep n fnNop i s)
def execVecMov (n : Nat) (i : DWord) (s : State) : Host.Outcome State Fault Refusal := answer (.vecMov n i) (vecStep n fnMov i s)
def execVecAdd (n : Nat) (i : DWord) (s : State) : Host.Outcome State Fault Refusal := answer (.vecAdd n i) (vecStep n fnAdd i s)
def execVecSub (n : Nat) (i : DWord) (s : State) : Host.Outcome State Fault Refusal := answer (.vecSub n i) (vecStep n fnSub i s)
def execVecMul (n : Nat) (i : DWord) (s : State) : Host.Outcome State Fault Refusal := answer (.vecMul n i) (vecStep n fnMul i s)
def execFma (n : Nat) (i : DWord) (s : State) : Host.Outcome State Fault Refusal := answer (.fma n i) (vecStep n fnFma i s)
def execMin (n : Nat) (i : DWord) (s : State) : Host.Outcome State Fault Refusal := answer (.min n i) (vecStep n fnMin i s)
def execMax (n : Nat) (i : DWord) (s : State) : Host.Outcome State Fault Refusal := answer (.max n i) (vecStep n fnMax i s)
def execAbs (n : Nat) (i : DWord) (s : State) : Host.Outcome State Fault Refusal := answer (.abs n i) (vecStep n fnAbs i s)
def execNeg (n : Nat) (i : DWord) (s : State) : Host.Outcome State Fault Refusal := answer (.neg n i) (vecStep n fnNeg i s)
def execSel (n : Nat) (i : DWord) (s : State) : Host.Outcome State Fault Refusal := answer (.sel n i) (vecStep n fnSel i s)
def execCmplt (n : Nat) (i : DWord) (s : State) : Host.Outcome State Fault Refusal := answer (.cmplt n i) (vecStep n fnCmplt i s)
def execDiv (n : Nat) (i : DWord) (s : State) : Host.Outcome State Fault Refusal := answer (.div n i) (vecStep n fnDiv i s)
def execSqrt (n : Nat) (i : DWord) (s : State) : Host.Outcome State Fault Refusal := answer (.sqrt n i) (vecStep n fnSqrt i s)
def execSfn (n : Nat) (i : DWord) (s : State) : Host.Outcome State Fault Refusal := answer (.sfn n i) (vecStep n fnSfn i s)
def execRand (n : Nat) (i : DWord) (s : State) : Host.Outcome State Fault Refusal := answer (.rand n i) (vecStep n fnRand i s)
def execRot (n : Nat) (i : DWord) (s : State) : Host.Outcome State Fault Refusal := answer (.rot n i) (vecStep n fnRot i s)
def execRowsum (n : Nat) (i : DWord) (s : State) : Host.Outcome State Fault Refusal := answer (.rowsum n i) (vecStep n fnRowsum i s)
def execRowmax (n : Nat) (i : DWord) (s : State) : Host.Outcome State Fault Refusal := answer (.rowmax n i) (vecStep n fnRowmax i s)
def execCvtb (n : Nat) (i : DWord) (s : State) : Host.Outcome State Fault Refusal := answer (.cvtb n i) (vecStep n fnCvtb i s)

/-! ### Writes of a host to the program store and VEC_CTL -/

/-- Whether a master's write reaches the block of core n (R278, R440). -/
def State.reachesCore (s : State) (m : Master) (n : Nat) : Bool :=
  match m with
  | .mgmt => decide (n < s.nCores)
  | .vf p => s.vfLive p && s.holder n == some p
  | _ => false

/-- Whether a codebook write to the block of core n is held (R51): an access to the block that comes later waits for it, and meanwhile changes
nothing (R24, log entry 11). -/
def State.blockHeld (s : State) (n : Nat) : Bool := !(s.core n).cbHeld.isEmpty

/-- A write to the block of core n by a master that reaches it, in its order. -/
def State.coreWrite (s : State) (m : Master) (n : Nat) (f : State → State) : State :=
  if s.blockHeld n then s
  else
    let s := s.unlatch m
    if s.reachesCore m n then f s else s

/-- SWITCH: the change takes effect at the next group boundary, at once in an idle engine (R159, R167). -/
def State.requestSwitch (s : State) (n : Nat) : State :=
  let s := s.setFld .vecCtl n 0 0 1 1 1
  if (s.core n).engine.active then s else s.flipBank n

/-- A write of VEC_CTL (R180): SFN_FORCE, and SWITCH where its bit is set. -/
def State.writeVecCtl (s : State) (n : Nat) (v : Word) : State :=
  let s := s.setFld .vecCtl n 0 0 5 4 (getBits v 5 4)
  if v.getLsbD 1 then s.requestSwitch n else s

def execSwitch (m : Master) (n : Nat) (v : Word) (s : State) : Host.Outcome State Fault Refusal :=
  answerBy m (.switch m n v) s (s.coreWrite m n (fun s => s.writeVecCtl n v))

/-- A low word is held in its slot's staging register (R183). -/
def State.stageProg (s : State) (n b k : Nat) (v : Word) : State :=
  s.onCore n (fun c => { c with staged := tabPut c.staged (b * 32 + k) (some v) })

def execProgramStage (m : Master) (n b k : Nat) (v : Word) (s : State) : Host.Outcome State Fault Refusal :=
  answerBy m (.programStage m n b k v) s (s.coreWrite m n (fun s => s.stageProg n b k v))

/-- A high word commits its slot, or is refused for the running bank and recorded (R168, R183, R407). -/
def State.commitProg (s : State) (n b k : Nat) (v : Word) : State :=
  let low := (tabFind (s.core n).staged (b * 32 + k)).getD (s.rd .vecProgLo n b k)
  let s := s.onCore n (fun c => { c with staged := tabPut c.staged (b * 32 + k) none })
  if b == s.runBank n then
    let s := s.setFld .vecStatus n 0 0 3 3 1
    match s.holder n with
    | some p => (s.raise p 12 n 0 0).log (LogRec.base 0x12 0 p n)
    | none => s.log (LogRec.base 0x12 0 0xF n)
  else (s.wr .vecProgLo n b k low).wr .vecProgHi n b k v

def execProgramCommit (m : Master) (n b k : Nat) (v : Word) (s : State) : Host.Outcome State Fault Refusal :=
  answerBy m (.programCommit m n b k v) s (s.coreWrite m n (fun s => s.commitProg n b k v))

/-- CODEBOOK_REGISTER_WRITE (R43, R49 to R51): held while a conversion reads that codebook, and behind every write to the block that is held
(R24). -/
def State.codebookWrite (s : State) (a : RegAt) (v : Word) : State :=
  if (s.core a.b).holdsCodebook a || s.blockHeld a.b then
    s.onCore a.b (fun k => { k with cbHeld := k.cbHeld ++ [(a.addr, v)] })
  else s.putCodebook a v

def codebookRegisterWrite (m : Master) (off : Nat) (v : Word) (s : State) : State :=
  let s := s.unlatch m
  match regFind off with
  | some a => if (a.reg == .convCb4 || a.reg == .convCb8) && s.reachesCore m a.b then s.codebookWrite a v else s
  | none => s

def execCodebookRegisterWrite (m : Master) (off : Nat) (v : Word) (s : State) : Host.Outcome State Fault Refusal :=
  answerBy m (.codebookRegisterWrite m off v) s (codebookRegisterWrite m off v s)

end Sys2Proof.Machine
end

