-- ==== Sys2Proof/Machine/VecCmds.lean ====
section
/-! DEFINITION. The commands of the vector engine and the generators: REDUCE, ROWSTAT, VMAP, VPLOAD, VPSEL, SEED, RFILL and SAMPLE (R153 to
R156, R168, R169, R174 to R176, R189, R192 to R202, R213 to R215). -/
namespace Sys2Proof.Machine

/-! ### Rows of a source (R156, R174) -/

/-- A row of FP32 values with its poison. -/
structure Row where
  vals : List Word
  poison : Bool

/-- The FP32 value of an element of an FP32 or BF16 tensor (R63); a conversion quiets a NaN (R39). -/
def wideVal (f : Format) (c : Nat) : Word := if f == .bf16 then widen bf16 c else w32 c

/-- k elements of row r of a plain tensor from column c0 on. -/
def readWide (n : Nat) (d : Desc) (r c0 k : Nat) : CM Row := do
  let b ← rdAt n d.loc (d.elemAddr r c0) (k * d.fmt.bytes)
  return ⟨(List.range k).map (fun j => wideVal d.fmt (leAt b.1 (j * d.fmt.bytes) d.fmt.bytes)), b.2⟩

def isWide32 (f : Format) : Bool := f == .fp32 || f == .bf16

/-- The rows of a run of accumulator tiles that lie side by side, in the compensated form (R131). -/
def accRows (n : Nat) (r : RedSel) (down : Bool) (len cnt : Nat) : CM (List Row) := do
  let span := 32 * r.count
  need (if down then decide (len ≤ 32) && decide (cnt ≤ span) else decide (len ≤ span) && decide (cnt ≤ 32)) 0x06
  let s ← getS
  let k := s.core n
  let el (i j : Nat) : Word × VFlags := compensate (s.comp n r.a (r.first + j / 32)) (k.accAt r.a (32 * (r.first + j / 32) + i) (j % 32))
  let bad (j : Nat) : Bool := (s.hdr n r.a (r.first + j / 32)).getLsbD 4
  let rows := (List.range cnt).map (fun i => (List.range len).map (fun j => if down then el j i else el i j))
  flagIf (rows.any (fun l => l.any (fun x => x.2 != 0))) 4
  return rows.zipIdx.map (fun x => ⟨x.1.map (·.1), if down then bad x.2 else (List.range ((len + 31) / 32)).any (fun t => bad (32 * t))⟩)

/-- The rows of an FP32 or BF16 tensor in core store. -/
def coreRows (n : Nat) (c : Cmd) (down : Bool) (len cnt : Nat) : CM (List Row) := do
  let d ← readDesc n (locOf c.w1) (addrOf c.w1)
  needAll [(isWide32 d.fmt, 0x04), (d.loc, 0x12),
    (if down then decide (len ≤ d.rows) && decide (cnt ≤ d.cols) else decide (len ≤ d.cols) && decide (cnt ≤ d.rows), 0x06)]
  needRange d
  if down then
    (List.range cnt).mapM (fun j => do
      let l ← (List.range len).mapM (fun i => readWide n d i j 1)
      return ⟨l.flatMap (·.vals), l.any (·.poison)⟩)
  else (List.range cnt).mapM (fun i => readWide n d i 0 len)

/-- The rows that REDUCE and ROWSTAT read. -/
def sourceRows (n : Nat) (c : Cmd) (r : RedSel) (acc : Bool) : CM (List Row) := do
  let len ← w3 n c 1
  let cnt ← w3 n c 2
  need (decide (1 ≤ len) && decide (len ≤ 65536) && decide (1 ≤ cnt)) 0x06
  if acc then accRows n r r.axis len cnt else coreRows n c r.axis len cnt

/-! ### REDUCE (R156, R213, R393) -/

/-- REDUCE: its records go to the space that LOC names, or to a register. DESIGN CHOICE (log entry 136): the records of successive rows lie 8
bytes apart, and a register takes the record of a single row. -/
def reduceBody (n : Nat) (c : Cmd) : CM Bool := do
  let acc := c.w1.getLsbD 63
  let reg := c.w2.getLsbD 63
  let r ← redSel acc (← w3 n c 0)
  let rows ← sourceRows n c r acc
  let cc := ((← getS).core n).cc
  need (!reg || rows.length == 1) 0x06
  rows.zipIdx.forM (fun x => do
    let v := reduceRow r.op x.1.vals
    flag v.2.2
    modS (fun s => s.orReg .vecFlags n 0 0 v.2.2)
    if reg then setXTo n (c.idx 3) (BitVec.ofNat 64 (v.1.toNat + v.2.1 * 2 ^ 32)) x.1.poison
    else do
      let a := addrOf c.w2 + 8 * x.2
      wrAt n (locOf c.w2) a (leBytes v.1.toNat 4 ++ leBytes v.2.1 4) x.1.poison
      if nonFinite32 v.1 && !locOf c.w2 then
        noteNonFinite n c cc (addrOf c.w2) [⟨x.2, 0, a, isNaN32 v.1⟩])
  return true

def execReduce (n : Nat) (c : Cmd) (s : State) : Host.Outcome State Fault Refusal :=
  answer (.reduce n c) (pilotRun n c (reduceBody n c) s)

/-! ### Results to the output edge converter or to a plain tensor -/

/-- The words of the tile at (row, col) of a matrix of rows: elements outside it are +0. -/
def gridTile (rows : List Row) (row col : Nat) : Tile :=
  let band := (rows.drop row).take 32
  ⟨row, col, 0, (List.range 32).flatMap (fun i => match band[i]? with
    | some r => (List.range 32).map (fun j => r.vals.getD (col + j) 0#32)
    | none => List.replicate 32 0#32), band.any (·.poison)⟩

/-- Counts of R127 so far, and the stop that ended the work. -/
structure Emitted where
  emitted : Nat
  fallen : Nat
  stop : Option Stop

/-- Emit one tile of a narrow destination and count it. -/
def emitReady (n : Nat) (w : Spec) (e : Emitted) (r : Ready) : CM Emitted := do
  if e.stop.isSome then return e
  let x ← attempt (emitNarrow n w r) (false, false, [])
  let y ← attempt (noteTile n w x.1.2.2) ()
  return ⟨e.emitted + b2n x.1.1, e.fallen + b2n x.1.2.1, match x.2 with
    | some z => some z
    | none => y.2⟩

/-- Write tiles to a destination that are converted together. -/
def emitTiles (n : Nat) (w : Spec) (ts : List Tile) (e : Emitted) : CM Emitted := do
  if e.stop.isSome then return e
  if !w.desc.fmt.isSlab then
    ts.foldlM (fun (e : Emitted) t => do
      if e.stop.isSome then return e
      let x ← attempt (emitPlain n w t) ()
      return { e with stop := x.2 }) e
  else do
    let rs ← attempt (prepare n w ts) []
    if rs.2.isSome then return { e with stop := rs.2 }
    rs.1.foldlM (emitReady n w) e

/-- Settle the counts of a destination (R127) and let a stop that came before take effect. -/
def settle (n : Nat) (w : Spec) (e : Emitted) : CM Unit := do
  let x ← attempt (addCounts n w e.emitted e.fallen) ()
  match e.stop, x.2 with
  | some y, _ => throw y
  | none, some y => throw y
  | none, none => pure ()

/-- A destination of ROWSTAT or VMAP with its checks: any format that the converter writes (R60 to R62, R174). -/
def vecDest (n : Nat) (c : Cmd) (js : List TileJob) : CM Spec := do
  let (d, _) ← useDesc n (locOf c.w2) (addrOf c.w2)
  needDest d
  needRange d
  needCover d js
  let rd ← readResid n d
  let s ← getS
  return ⟨c, (s.core n).cc, addrOf c.w2, d, rd, s.thresholds n d⟩

/-- The tiles of a matrix of k rows and m columns. -/
def gridJobs (k m : Nat) : List TileJob :=
  (List.range ((k + 31) / 32)).flatMap (fun i => (List.range ((m + 31) / 32)).map (fun j => ⟨0, 0, 32 * i, 32 * j⟩))

/-- Group consecutive tiles by stretch of one band, or one by one. -/
def byQuarter (span : Nat) : List TileJob → List (List TileJob)
  | [] => []
  | j :: t => match byQuarter span t with
    | (x :: g) :: rest => if decide (span > 32) && j.same span x then (j :: x :: g) :: rest else [j] :: (x :: g) :: rest
    | l => [j] :: l

/-- Run a body over the groups of tiles and settle the counts of R127. -/
def emitGroups (n : Nat) (w : Spec) (js : List TileJob) (tile : TileJob → CM Tile) : CM Unit := do
  let r ← (byQuarter w.desc.span js).foldlM (fun (e : Emitted) g => do
    if e.stop.isSome then return e
    let ts ← attempt (g.mapM tile) []
    if ts.2.isSome then return { e with stop := ts.2 }
    emitTiles n w ts.1 e) ⟨0, 0, none⟩
  settle n w r

/-! ### ROWSTAT -/

/-- A vector of the record, element by column; a poison mark with it. -/
def statVec (n : Nat) (p : Option (Nat × Bool)) (len : Nat) : CM (List Word × Bool) := do
  match p with
  | none => return ([], false)
  | some (o, bf) => do
    need (decide (o + len * (if bf then 2 else 4) ≤ shadowBase)) 0x11
    let k := (← getS).core n
    let l := (List.range len).map (fun e => k.vecElem o bf e)
    return (l.map (·.1), l.any (·.2))

def rowstatBody (n : Nat) (c : Cmd) : CM Bool := do
  let acc := c.w1.getLsbD 63
  let r ← statSel acc (← w3 n c 0)
  let rows ← sourceRows n c r acc
  let len ← w3 n c 1
  let v ← readVec n (← w3 n c 3)
  let width := if r.op ≥ 3 then len else 1
  let w ← vecDest n c (gridJobs rows.length width)
  need (decide (rows.length ≤ w.desc.rows) && decide (width ≤ w.desc.cols)) 0x06
  let gam ← statVec n v.colVec len
  let bet ← statVec n v.rowVec len
  let force := (← getS).sfnForce n
  let out ← rows.mapM (fun x => do
    let y := rowStat r.op x.vals (v.latch.getD 0 0#32) gam.1 bet.1 (sfnMode force false)
    flag y.2
    modS (fun s => s.orReg .vecFlags n 0 0 y.2)
    return (⟨y.1, x.poison || gam.2 || bet.2⟩ : Row))
  -- rows and columns beyond the results stay as they were in a plain tensor
  let d := { w.desc with rows := rows.length }
  let d := if d.fmt.isSlab then d else { d with cols := width }
  emitGroups n { w with desc := d } (gridJobs rows.length width) (fun j => return gridTile out j.row j.col)
  return true

def execRowstat (n : Nat) (c : Cmd) (s : State) : Host.Outcome State Fault Refusal :=
  answer (.rowstat n c) (pilotRun n c (rowstatBody n c) s)

/-! ### VMAP (R159, R160, R213) -/

/-- Run a program of a bank from index k to its END over one group. -/
def State.runProg (s : State) (n b : Nat) : Nat → Nat → Lanes → VFlags → Core → Lanes × VFlags × Core
  | 0, _, x, f, k => (x, f, k)
  | fuel + 1, pc, x, f, k =>
    let i := s.progWord n b pc
    let r := runVec (vecFn (vecOp i)) i x k
    if vecEnd i then (r.1, f ||| r.2.1, r.2.2) else s.runProg n b fuel (pc + 1) r.1 (f ||| r.2.1) r.2.2

/-- A tile through the engine: its four groups in order. -/
def vecTile (n : Nat) (v : VecOperands) (t : Tile) : CM Tile := do
  let s ← getS
  let tab := t.words.zipIdx.foldl (fun (a : Tab Word) x => tabSet a x.2 0#32 x.1) []
  let b := s.runBank n
  let force := s.sfnForce n
  let r := (List.range 4).foldl (fun (st : List Word × VFlags × Bool × Core) g =>
    let k := st.2.2.2
    let i := k.groupRegs v t.comp g (fun e => tabGet tab e 0#32)
    let y := s.runProg n b 32 v.prog { regs := i.1, latch := v.latch, force := force } 0 k
    (st.1 ++ (List.range 256).map (fun l => tabGet y.1.regs (16 * l) 0#32), st.2.1 ||| i.2.1 ||| y.2.1, st.2.2.1 || i.2.2, y.2.2))
    ([], 0, false, s.core n)
  setS ((s.setCore n r.2.2.2).orReg .vecFlags n 0 0 r.2.1)
  flag r.2.1
  return { t with comp := 0, words := r.1, poison := t.poison || r.2.2.1 }

/-- The tile of a source at a place: elements outside the tensor are +0. -/
def readTile (n : Nat) (d : Desc) (row col : Nat) : CM Tile := do
  let rows ← (List.range (Nat.min 32 (d.rows - row))).mapM (fun i => readWide n d (row + i) col (Nat.min 32 (d.cols - col)))
  let t := gridTile rows 0 0
  return { t with row := row, col := col }

def vmapBody (n : Nat) (c : Cmd) : CM Bool := do
  let d ← readDesc n (locOf c.w1) (addrOf c.w1)
  need (isWide32 d.fmt) 0x04
  needRange d
  let cnt ← w3 n c 1
  need (decide (1 ≤ cnt) && decide (cnt ≤ ((d.rows + 31) / 32) * ((d.cols + 31) / 32))) 0x06
  let v ← startVec n (← w3 n c 0)
  let js := (gridJobs d.rows d.cols).take cnt
  let w ← vecDest n c js
  emitGroups n w js (fun j => do vecTile n v (← readTile n d j.row j.col))
  return true

def execVmap (n : Nat) (c : Cmd) (s : State) : Host.Outcome State Fault Refusal :=
  answer (.vmap n c) (pilotRun n c (vmapBody n c) s)

/-! ### VPLOAD and VPSEL (R168, R169) -/

def vploadBody (n : Nat) (c : Cmd) : CM Bool := do
  let b := bits c.w2.toNat 0 0
  let first := bits c.w2.toNat 5 1
  let cnt := bits c.w2.toNat 11 6
  needAll [(aligned (addrOf c.w1) 8, 0x05), (decide (1 ≤ cnt) && decide (cnt ≤ 32) && decide (first + cnt ≤ 32), 0x06)]
  let r ← rdAt n (locOf c.w1) (addrOf c.w1) (8 * cnt)
  let s ← getS
  if b == s.runBank n then stopAt 0x41 0
  setS ((List.range cnt).foldl (fun s j =>
    (s.wr .vecProgLo n b (first + j) (w32 (leAt r.1 (8 * j) 4))).wr .vecProgHi n b (first + j) (w32 (leAt r.1 (8 * j + 4) 4))) s)
  return true

def execVpload (n : Nat) (c : Cmd) (s : State) : Host.Outcome State Fault Refusal :=
  answer (.vpload n c) (pilotRun n c (vploadBody n c) s)

def vpselBody (n : Nat) (c : Cmd) : CM Bool := do
  modS (fun s => s.setFld .vecCtl n 0 0 0 0 (bits c.w1.toNat 0 0))
  return true

def execVpsel (n : Nat) (c : Cmd) (s : State) : Host.Outcome State Fault Refusal :=
  answer (.vpsel n c) (pilotRun n c (vpselBody n c) s)

/-! ### SEED (R189) and RFILL (R192, R193) -/

def seedBody (n : Nat) (c : Cmd) : CM Bool := do
  let v ← w3 n c 0
  modS (fun s => s.onCore n (fun k => k.reseed (BitVec.ofNat 64 v)))
  return true

def execSeed (n : Nat) (c : Cmd) (s : State) : Host.Outcome State Fault Refusal :=
  answer (.seed n c) (pilotRun n c (seedBody n c) s)

/-- A draw of a lane of core n as a 64-bit output. -/
def drawOf (n l : Nat) : CM DWord := do
  let s ← getS
  let d := (s.core n).draw l
  setS (s.setCore n d.2)
  return d.1

/-- One row of a fill: its bytes. -/
def fillRow (n dist : Nat) (a b : Word) (r len : Nat) : CM (List Byte) := do
  let lane (c : Nat) : Nat := laneOf r c
  match dist with
  | 0 => do
    let l ← (List.range len).mapM (fun c => do
      let d ← drawOf n (lane c)
      let x := uniform a b (draw24 d)
      flag x.2
      return leBytes x.1.toNat 4)
    return l.flatMap id
  | 1 => do
    let l ← (List.range len).mapM (fun c => do
      let d ← drawOf n (lane c)
      return leBytes (draw32 d) 4)
    return l.flatMap id
  | 2 => do
    let l ← (List.range ((len + 1) / 2)).mapM (fun i => do
      let d1 ← drawOf n (lane (2 * i))
      let d2 ← drawOf n (lane (2 * i))
      let v (k : Bool) : List Byte := leBytes (normalValue a b (draw24 d1) (draw24 d2) k).toNat 4
      return v false ++ (if 2 * i + 1 < len then v true else []))
    return l.flatMap id
  | _ => do
    let l ← (List.range (len / 8)).mapM (fun i => do
      let q ← (List.range 8).mapM (fun j => do
        let d ← drawOf n (lane (8 * i + j))
        return if flt (rne32 ⟨draw24 d, -24⟩) a then 2 ^ j else 0)
      return BitVec.ofNat 8 (q.foldl (· + ·) 0))
    return l

def rfillBody (n : Nat) (c : Cmd) : CM Bool := do
  let d ← readDesc n (locOf c.w1) (addrOf c.w1)
  let dist ← w3 n c 0
  let a ← w3 n c 1
  let b ← w3 n c 2
  let len := if dist == 3 then 8 * d.cols else d.cols
  let want : Format := match dist with
    | 1 => .int32
    | 3 => .int8
    | _ => .fp32
  needAll [(d.fmt == want || decide (dist > 3), 0x04), (decide (dist ≤ 3) && decide (1 ≤ len) && decide (len ≤ 65536), 0x06)]
  needRange d
  (List.range d.rows).forM (fun r => do
    let l ← fillRow n dist (w32 a) (w32 b) r len
    wrAt n d.loc (d.elemAddr r 0) l false)
  return true

def execRfill (n : Nat) (c : Cmd) (s : State) : Host.Outcome State Fault Refusal :=
  answer (.rfill n c) (pilotRun n c (rfillBody n c) s)

/-! ### SAMPLE (R194 to R202) -/

/-- What the sampler finds of a row: index, P_DRAW, P_FULL, KEPT, STATUS; and what its arithmetic flags. -/
structure Sampled where
  index : Nat
  pDraw : Word
  pFull : Word
  kept : Nat
  status : Nat
  flags : VFlags

def noChoice (status : Nat) (flags : VFlags) : Sampled := ⟨0xFFFFFFFF, cnan, cnan, 0, status, flags⟩

/-- The exponentials of z − m and their sum (R195). -/
def expRow (z : List Word) : List Word × Word × VFlags :=
  let m := orderedMax z
  let e := mapF (fun x => let d := fsub x m.1; let r := sfnEval 7 true d.1; (r.1, d.2 ||| r.2)) z
  let s := orderedSum e.1
  (e.1, s.1, e.2 ||| s.2)

/-- Prefix sums, each addition rounded. -/
def prefixSums : Word → List Word → List Word × VFlags
  | _, [] => ([], 0)
  | a, x :: t =>
    let s := fadd a x
    let r := prefixSums s.1 t
    (s.1 :: r.1, s.2 ||| r.2)

/-- Indices of the finite elements, by value descending, then by index. -/
def insertDesc (z : List Word) (i : Nat) : List Nat → List Nat
  | [] => [i]
  | j :: t => if flt (z.getD j 0#32) (z.getD i 0#32) then i :: j :: t else j :: insertDesc z i t
def orderDesc (z : List Word) : List Nat :=
  ((List.range z.length).filter (fun i => isFin32 (z.getD i 0#32))).foldl (fun l i => insertDesc z i l) []

/-- Whether a row needs a draw: what is settled without one, or z (R195, R196). -/
def sampleStart (x : List Word) (t : Word) : Sampled ⊕ (List Word × VFlags) :=
  if x.any (fun v => isNaN32 v || v == pinf) then .inl (noChoice 2 1) else
  let tau := if (dy32 t).isZero then pinf else (fdiv one32 t).1
  if tau == pinf then
    if x.all (· == ninf) then .inl (noChoice 3 0) else
    let b := orderedMax x
    let e := expRow x
    let p := fdiv (e.1.getD b.2.1 0#32) e.2.1
    .inl ⟨b.2.1, one32, p.1, 1, 1, e.2.2 ||| p.2⟩
  else
    let z := mapF (fun v => fmul tau v) x
    if z.1.any (· == pinf) then .inl (noChoice 2 (z.2 ||| 1))
    else if z.1.all (· == ninf) then .inl (noChoice 3 z.2)
    else .inr z

/-- The choice of R195 with the fraction u. -/
def samplePick (z : List Word × VFlags) (k : Nat) (p : Word) (u : Nat) : Sampled :=
  let e := expRow z.1
  let order := orderDesc z.1
  let cand := if k = 0 then order else order.take k
  let ec := cand.map (fun i => e.1.getD i 0#32)
  let cs := match ec with
    | [] => ([], 0)
    | a :: t => let r := prefixSums a t; (a :: r.1, r.2)
  let thr := fmul p (cs.1.getLastD 0#32)
  let kept := match cs.1.findIdx? (fun v => !flt v thr.1) with
    | some i => i + 1
    | none => cs.1.length
  let fin := cs.1.getD (kept - 1) 0#32
  let t := fmul (rne32 ⟨u, -24⟩) fin
  let i := ((List.range kept).find? (fun i => flt t.1 (cs.1.getD i 0#32))).getD (kept - 1)
  let pick := cand.getD i 0
  let a := fdiv (e.1.getD pick 0#32) fin
  let b := fdiv (e.1.getD pick 0#32) e.2.1
  ⟨pick, a.1, b.1, kept, 0, z.2 ||| e.2.2 ||| cs.2 ||| thr.2 ||| t.2 ||| a.2 ||| b.2⟩

def Sampled.bytes (x : Sampled) : List Byte :=
  leBytes x.index 4 ++ leBytes x.pDraw.toNat 4 ++ leBytes x.pFull.toNat 4 ++ leBytes x.kept 2 ++ leBytes x.status 1 ++ leBytes 0 1

/-- A row that has written its record (R201, R202). -/
def State.rowDone (s : State) (n status : Nat) : State :=
  let s := (s.countFld .smpCount n 0 0 31 0 1).setFld .smpStatus n 0 0 5 4 status
  if status ≥ 2 then s.orReg .smpStatus n 0 0 0x100 else s

def sampleRow (n : Nat) (x : Row) (t : Word) (k : Nat) (p : Word) (dst : Nat) : CM Unit := do
  let y ← (match sampleStart x.vals t with
    | .inl r => return r
    | .inr z => do
      let d ← drawOf n 256
      return samplePick z k p (draw24 d))
  flag y.flags
  wrCs n dst y.bytes x.poison
  modS (fun s => s.rowDone n y.status)

def sampleBody (n : Nat) (c : Cmd) : CM Bool := do
  let d ← readDesc n (locOf c.w1) (addrOf c.w1)
  let t := w32 (← w3 n c 0)
  let k ← w3 n c 1
  let p := w32 (← w3 n c 2)
  let off := bits c.w2.toNat 21 0
  let tOk := isFin32 t && (!neg32 t || (dy32 t).isZero)
  let pOk := isFin32 p && Dy.zero.lt (dy32 p) && (dy32 p).le Dy.one
  needAll [(isWide32 d.fmt, 0x04), (d.loc, 0x12), (decide (1 ≤ d.cols) && decide (d.cols ≤ 262144), 0x06),
    (tOk && decide (k ≤ 256) && pOk && !((dy32 p).lt Dy.one && k == 0), 0x0B), (decide (off + 16 * d.rows ≤ shadowBase), 0x11)]
  needRange d
  (List.range d.rows).forM (fun r => do
    let x ← readWide n d r 0 d.cols
    sampleRow n x t k p (off + 16 * r))
  return true

def execSample (n : Nat) (c : Cmd) (s : State) : Host.Outcome State Fault Refusal :=
  answer (.sample n c) (pilotRun n c (sampleBody n c) s)

end Sys2Proof.Machine
end

