-- ==== Sys2Proof/Machine/Training.lean ====
section
/-! DEFINITION. UPDATE (R383 to R388), LOSSW (R390, R391) and REPLAY (R396, R397). -/
namespace Sys2Proof.Machine

/-! ### UPDATE -/

/-- A destination of UPDATE: its conversion, the register that feeds it, and whether it is the backward copy. -/
structure UpdDest where
  spec : Spec
  reg : Nat
  bwd : Bool

/-- What an UPDATE works by: its four inputs, its destinations in the order of their writes, its program, latch and SFN_FORCE. -/
structure UpdArgs where
  ins : List (Option Desc)
  dests : List UpdDest
  rows : Nat
  cols : Nat
  row0 : Nat
  count : Nat
  prog : Nat
  latch : List Word
  force : Nat

/-- An optional descriptor: none for address 0. -/
def optDesc (n : Nat) (loc : Bool) (a : Nat) (may : Bool) : CM (Option Desc) := do
  if may && a == 0 then return none
  let r ← useDesc n loc a
  return some r.1

/-- The refusals of R385 over the descriptors in the order of R384. -/
def updChecks (b : List Byte) (ds : List (Option Desc)) (row0 count : Nat) : List (Bool × Nat) :=
  let get (i : Nat) : Option Desc := ds.getD i none
  let on (i : Nat) (p : Desc → Bool) : Bool := match get i with
    | some d => p d
    | none => true
  let n := match get 0 with
    | some d => d.rows
    | none => 0
  let k := match get 0 with
    | some d => d.cols
    | none => 0
  let pools (i j : Nat) : Bool := match get i, get j with
    | some x, some y => !(x.fmt.isSlab && y.fmt.isSlab && x.fbPool == y.fbPool)
    | _, _ => true
  [(leAt b 64 1 < 32 && (List.range 15).all (fun j => decide (leAt b (65 + j) 1 < 64)) && leAt b 80 48 == 0, 0x12),
   ((get 4).isSome == (get 5).isSome, 0x12),
   (pools 2 3 && pools 4 5, 0x12),
   (on 6 (fun d => d.residual == 0) && on 7 (fun d => d.residual == 0), 0x12),
   (on 0 (fun d => d.fmt == .fp32) && on 1 (fun d => d.fmt != .int8 && d.fmt != .int32), 0x04),
   ((List.range 7).all (fun i => on i (fun d => d.rows == n && d.cols == k)), 0x06),
   (on 7 (fun d => d.rows == k && d.cols == n && d.trans) && on 6 (fun d => !d.trans), 0x06),
   (decide (1 ≤ count) && decide (row0 + count ≤ n) && row0 % 128 == 0 && (count % 128 == 0 || row0 + count == n), 0x06),
   ([1, 2, 3, 4, 5].all (fun i => on i (fun d => d.prism == 0)), 0x08),
   ([6, 7].all (fun i => on i (fun d => d.prism == 0 || d.cols % d.prism == 0)), 0x09)]

/-- Read and check the operands of UPDATE. -/
def updArgs (n : Nat) (c : Cmd) : CM UpdArgs := do
  let a := addrOf c.w1
  let loc := locOf c.w1
  need (aligned a 128) 0x05
  let b := (← rdAt n loc a 128).1
  need ((List.range 8).all (fun i => decide (leAt b (8 * i) 8 < 2 ^ 48))) 0x12
  let ds ← (List.range 8).mapM (fun i => optDesc n loc (leAt b (8 * i) 8) (i == 4 || i == 5 || i == 7))
  let row0 ← w3 n c 0
  let count ← w3 n c 1
  needAll (updChecks b ds row0 count)
  let s ← getS
  need (s.progOk n (s.runBank n) 32 (leAt b 64 1)) 0x0A
  let k := s.core n
  let outs : List (Nat × Nat) := [(0, 0), (3, 1), (5, 2), (6, 3), (7, 3)]
  let dests ← outs.mapM (fun x => match ds.getD x.1 none with
    | none => return none
    | some d => do
      needDest d
      needRange d
      let r ← (if x.1 == 3 || x.1 == 5 then readResid n d else return none)
      return some (⟨⟨c, k.cc, d.addr, d, r, s.thresholds n d⟩, x.2, x.1 == 7⟩ : UpdDest))
  match ds.getD 0 none with
  | none => refuse 0x12
  | some m =>
    return ⟨[ds.getD 0 none, ds.getD 1 none, ds.getD 2 none, ds.getD 4 none], dests.filterMap id, m.rows, m.cols, row0, count,
      leAt b 64 1, (List.range 15).map (fun j => w32 (k.xval (leAt b (65 + j) 1)).toNat), s.sfnForce n⟩

/-- A tile of an input in FP32 (R68), with its poison. -/
def readFp32Tile (n : Nat) (d : Option Desc) (row col : Nat) : CM (List Word × Bool) := do
  match d with
  | none => return (List.replicate 1024 0#32, false)
  | some d => do
    let l ← (List.range 32).mapM (fun i => readSegment n d (row + i) col)
    let v := l.flatMap (fun x => x.1.map El.toFp32)
    flag (v.foldl (fun a x => a ||| x.2) 0)
    return (v.map (·.1), l.any (·.2))

/-- A tile after the update program: the values of v0, v2, v3 and v4, and its poison. -/
structure UpdTile where
  row : Nat
  col : Nat
  outs : List (List Word)
  poison : Bool

/-- Run the update program over one tile (R386). A tile wholly beyond the master is neither read nor computed. -/
def updTile (n : Nat) (u : UpdArgs) (p : Nat × Nat) : CM UpdTile := do
  let row := p.1
  let col := p.2
  if decide (row ≥ u.rows) || decide (col ≥ u.cols) then return ⟨row, col, List.replicate 4 (List.replicate 1024 0#32), false⟩
  let ins ← u.ins.mapM (fun d => readFp32Tile n d row col)
  let s ← getS
  let b := s.runBank n
  let r := (List.range 4).foldl (fun (st : List (Tab Word) × VFlags × Core) g =>
    let regs := (List.range 256).foldl (fun t l => (List.range 4).foldl (fun t q =>
      tabSet t (16 * l + q) 0#32 ((ins.getD q ([], false)).1.getD (256 * g + l) 0#32)) t) []
    let live (l : Nat) : Bool := decide (row + 8 * g + l / 32 < u.rows) && decide (col + l % 32 < u.cols)
    let y := s.runProg n b 32 u.prog { regs := regs, latch := u.latch, force := u.force, live := live } 0 st.2.2
    (st.1 ++ [y.1.regs], st.2.1 ||| y.2.1, y.2.2)) ([], 0, s.core n)
  setS ((s.setCore n r.2.2).orReg .vecFlags n 0 0 r.2.1)
  flag r.2.1
  let out (q : Nat) : List Word := r.1.flatMap (fun t => (List.range 256).map (fun l => tabGet t (16 * l + q) 0#32))
  return ⟨row, col, [out 0, out 2, out 3, out 4], ins.any (·.2)⟩

/-- A tile as one destination takes it: the backward copy transposed (R109). -/
def UpdDest.tile (d : UpdDest) (t : UpdTile) : Tile :=
  let w := t.outs.getD d.reg []
  if d.bwd then ⟨t.col, t.row, 0, (List.range 1024).map (fun i => w.getD (32 * (i % 32) + i / 32) 0#32), t.poison⟩
  else ⟨t.row, t.col, 0, w, t.poison⟩

/-- The prepared tiles of a destination over a window of a square. -/
def UpdDest.ready (n : Nat) (d : UpdDest) (ts : List UpdTile) : CM (List Ready) := do
  if !d.spec.desc.fmt.isSlab then return []
  let tiles := ts.map d.tile
  let m := d.spec.desc.span
  let same (x y : Tile) : Bool := x.row == y.row && x.col / m == y.col / m
  let heads := tiles.zipIdx.filter (fun x => !(tiles.take x.2).any (same x.1))
  let l ← heads.mapM (fun h => prepare n d.spec (tiles.filter (same h.1)))
  return l.flatMap id

/-- Write one tile to one destination, counting it. -/
def UpdDest.write (n : Nat) (d : UpdDest) (rs : List Ready) (t : UpdTile) (e : Emitted) : CM Emitted := do
  let x := d.tile t
  if !d.spec.desc.fmt.isSlab then do
    let r ← attempt (emitPlain n d.spec x) ()
    return { e with stop := r.2 }
  else match rs.find? (fun r => r.tile.row == x.row && r.tile.col == x.col) with
    | some r => emitReady n d.spec e r
    | none => return e

/-- Counts by destination, and the stop that ended the work. -/
structure UpdRun where
  counts : List (Nat × Nat)
  stop : Option Stop

/-- A window of a square: read and run its tiles, then write them in order, destination by destination (R386 to R388). -/
def updWindow (n : Nat) (u : UpdArgs) (r : UpdRun) (ps : List (Nat × Nat)) : CM UpdRun := do
  if r.stop.isSome then return r
  let ts ← attempt (ps.mapM (updTile n u)) []
  if ts.2.isSome then return { r with stop := ts.2 }
  let rs ← attempt (u.dests.mapM (fun d => d.ready n ts.1)) []
  if rs.2.isSome then return { r with stop := rs.2 }
  let work := ts.1.flatMap (fun t => u.dests.zipIdx.map (fun d => (t, d)))
  work.foldlM (fun (r : UpdRun) x => do
    if r.stop.isSome then return r
    let i := x.2.2
    let e ← x.2.1.write n (rs.1.getD i []) x.1 ⟨0, 0, none⟩
    let c := r.counts.getD i (0, 0)
    return ⟨listSet r.counts i (c.1 + e.emitted, c.2 + e.fallen), e.stop⟩) r

/-- The tiles of a square in row-major order, cut into the windows whose tiles a destination joins (R116, R190, R387). -/
def updWindows (u : UpdArgs) (row col : Nat) : List (List (Nat × Nat)) :=
  let at_ (i j : Nat) : Nat × Nat := (row + 32 * i, col + 32 * j)
  let tiles (bwd : Bool) : Nat := u.dests.foldl (fun m d => if d.bwd == bwd then Nat.max m (d.spec.desc.span / 32) else m) 1
  let down := tiles true
  let across := if down > 1 then 4 else tiles false
  (List.range (4 / down)).flatMap (fun i => (List.range (4 / across)).map (fun j =>
    (List.range down).flatMap (fun y => (List.range across).map (fun x => at_ (down * i + y) (across * j + x)))))

def updateBody (n : Nat) (c : Cmd) : CM Bool := do
  let u ← updArgs n c
  let squares := (List.range ((u.count + 127) / 128)).flatMap (fun i =>
    (List.range ((u.cols + 127) / 128)).map (fun j => (u.row0 + 128 * i, 128 * j)))
  let ws := squares.flatMap (fun q => updWindows u q.1 q.2)
  let r ← ws.foldlM (updWindow n u) ⟨u.dests.map (fun _ => (0, 0)), none⟩
  let ends ← u.dests.zipIdx.mapM (fun d => do
    let k := r.counts.getD d.2 (0, 0)
    let x ← attempt (addCounts n d.1.spec k.1 k.2) ()
    return x.2)
  match r.stop, ends.find? Option.isSome with
  | some x, _ => throw x
  | none, some (some x) => throw x
  | none, _ => return true

def execUpdate (n : Nat) (c : Cmd) (s : State) : Host.Outcome State Fault Refusal :=
  answer (.update n c) (pilotRun n c (updateBody n c) s)

/-! ### LOSSW (R390, R391) -/

/-- a = 2^−A, an A of 0 acting as 1 (R403). -/
def lossA (a : Nat) : Word := rne32 (Dy.pow2 (-(if a = 0 then 1 else a : Int)))

/-- A sample folded into the mean and the variance. -/
def State.lossFold (s : State) (p : Nat) (d : Word) : State :=
  let a := lossA (s.fld .helmLossCtl 0 p 0 27 24)
  let mean := s.rd .helmLossMean 0 p
  let var := s.rd .helmLossVar 0 p
  let m := (fadd mean (fmul a d).1).1
  let v := (fmul (fsub one32 a).1 (fadd var (fmul a (fmul d d).1).1).1).1
  let s := (s.wr .helmLossMean 0 p 0 m).wr .helmLossVar 0 p 0 v
  s.setFld .helmLossN 0 p 0 15 0 (Nat.min (s.fld .helmLossN 0 p 0 15 0 + 1) 65535)

/-- A spike: counted, kept in LAST, and reported where IRQ_EN says so. -/
def State.lossSpike (s : State) (p tag : Nat) (x : Word) : State :=
  let s := (s.countFld .helmLossSpikes 0 p 0 31 0 1).wr .helmLossLast 0 p 0 x
  if s.fld .helmLossCtl 0 p 0 30 30 == 1 then s.raise p 6 0 tag x.toNat else s

/-- Apply a sample to partition p's watch: the verdict and the state. -/
def State.lossSample (s : State) (p tag : Nat) (x : Word) : Nat × State :=
  if s.fld .helmLossCtl 0 p 0 31 31 == 0 then (3, s)
  else if nonFinite32 x then (1, s.lossSpike p tag x)
  else
    let num := s.fld .helmLossN 0 p 0 15 0
    if num = 0 then
      (2, ((s.wr .helmLossMean 0 p 0 x).wr .helmLossVar 0 p 0 0#32).setFld .helmLossN 0 p 0 15 0 1)
    else
      let d := (fsub x (s.rd .helmLossMean 0 p)).1
      let k := s.rd .helmLossK 0 p
      let warm := decide (num ≥ s.fld .helmLossCtl 0 p 0 15 0)
      if warm && flt 0#32 d && flt (fmul (fmul k k).1 (s.rd .helmLossVar 0 p)).1 (fmul d d).1 then (1, s.lossSpike p tag x)
      else (if warm then 0 else 2, s.lossFold p d)

def losswBody (n : Nat) (c : Cmd) : CM Bool := do
  let x ← w3 n c 0
  let p ← holderOf n
  let r := (← getS).lossSample p c.tag (w32 x)
  setS r.2
  setXTo n (c.idx 1) (BitVec.ofNat 64 r.1)
  return true

def execLossw (n : Nat) (c : Cmd) (s : State) : Host.Outcome State Fault Refusal :=
  answer (.lossw n c) (pilotRun n c (losswBody n c) s)

/-! ### REPLAY (R396, R397) -/

/-- The generator states of a core, lanes 0 to 255 and the sampler's as entry 256. -/
def Core.generators (k : Core) : Tab (DWord × DWord) := (List.range 257).map (fun l => (l, k.lane l))

/-- Where instance l lies in a record buffer. -/
def genAt (buf l : Nat) : Nat := if l = 256 then buf + 4096 else buf + 16 * l

/-- A mode 0 REPLAY: the generator states go to the buffer, and recording starts. -/
def recordStart (n : Nat) (loc : Bool) (buf cap : Nat) : CM Bool := do
  let k := (← getS).core n
  k.generators.forM (fun x => wrAt n loc (genAt buf x.1) (leBytes x.2.1.toNat 8 ++ leBytes x.2.2.toNat 8) false)
  modS (fun s => s.onCore n (fun k => { k with recording := some ⟨loc, buf, cap, 0, false⟩ }))
  return true

/-- A mode 1 REPLAY: recording stops, and the count goes into bits [62:0]. -/
def recordStop (n : Nat) : CM Bool := do
  match ((← getS).core n).recording with
  | none => return true
  | some r => do
    let old := leNat (← rdAt n r.loc (r.buf + 4112) 8).1
    wrAt n r.loc (r.buf + 4112) (leBytes (r.count + old / 2 ^ 63 * 2 ^ 63) 8) false
    modS (fun s => s.onCore n (fun k => { k with recording := none }))
    return true

/-- A mode 2 REPLAY begins: the record's generator states are loaded, and the entries follow. -/
def replayStart (n : Nat) (c : Cmd) (loc : Bool) (buf : Nat) : CM Bool := do
  if ((← getS).core n).inFlight != 0 then pause
  let w := leNat (← rdAt n loc (buf + 4112) 8).1
  need (!bit w 63) 0x12
  let gens ← (List.range 257).mapM (fun l => do
    let b := (← rdAt n loc (genAt buf l) 16).1
    return (l, (BitVec.ofNat 64 (leAt b 0 8), BitVec.ofNat 64 (leAt b 8 8))))
  let k := (← getS).core n
  modS (fun s => s.setCore n { k with
    lanes := gens
    replay := some ⟨c, (k.cp + 2 ^ 48 - 32) % 2 ^ 48, k.cc, loc, buf, 0, w % 2 ^ 63, 0, k.generators⟩ })
  return false

def replayBody (n : Nat) (c : Cmd) : CM Bool := do
  let buf := addrOf c.w1
  let mode ← w3 n c 0
  let rec_ := ((← getS).core n).recording.isSome
  let loc := locOf c.w1
  needAll [(aligned buf 4096, 0x05), (decide (mode ≤ 2) && !(rec_ && mode != 1), 0x12)]
  match mode with
  | 0 => recordStart n loc buf c.w2.toNat
  | 1 => recordStop n
  | _ => replayStart n c loc buf

/-- The meaning of a recordable command by its opcode. -/
def recordedBody (n : Nat) (c : Cmd) : CM Bool :=
  match c.op with
  | 0x00 => return true
  | 0x01 => copyBody n c | 0x02 => cscopyBody n c | 0x03 => gatherBody n c | 0x04 => scataddBody n c | 0x05 => atomicBody n c
  | 0x06 => fillBody n c | 0x07 => rfillBody n c | 0x08 => cbloadBody n c | 0x10 => wloadBody n c | 0x11 => passBody n c
  | 0x12 => cpassBody n c | 0x18 => treadBody n c | 0x19 => twriteBody n c | 0x1A => convertBody n c | 0x1B => sxstepBody n c
  | 0x1C => reduceBody n c | 0x1D => rowstatBody n c | 0x1E => vmapBody n c | 0x20 => vploadBody n c | 0x21 => vpselBody n c
  | 0x22 => seedBody n c | 0x23 => sampleBody n c | 0x34 => updateBody n c | 0x36 => ckptBody n c
  | _ => refuse 0x01

/-- SIG and IRQ cleared (R397). -/
def Cmd.quiet (c : Cmd) : Cmd := { c with w0 := c.w0 &&& ~~~0x600#64 }

/-- The entry that a replay issues next. -/
def replayEntry (n : Nat) (r : Replay) : CM (Cmd × List Nat) := do
  let b := (← rdAt n r.loc (r.buf + 4608 + 128 * r.idx) 128).1
  let w (i : Nat) : DWord := BitVec.ofNat 64 (leAt b (8 * i) 8)
  return (Cmd.quiet ⟨w 0, w 1, w 2, w 3⟩, (List.range 12).map (fun i => leAt b (32 + 8 * i) 8))

/-- Issue the next entry of a replay; the state stays where it must wait. -/
def replayStep (n : Nat) (r : Replay) (s : State) : Option State :=
  match (replayEntry n r).run.run ⟨s, 0, none⟩ with
  | (.error .wait, _) => none
  | (.error (.status code a), _) => some (s.failed n r.cmd r.cp (r.cc + r.idx + 1) code 0 a)
  | (.ok (c, vals), r0) =>
    let k := r0.s.core n
    if decide (k.inFlight ≥ 32) || !r0.s.inOrder n c (fun i => vals.getD i 0) || (c.bar && k.inFlight != 0) then none else
    let cc := (k.cc + 1) % 2 ^ 64
    let s1 := (r0.s.setCore n { k with cc := cc, replay := some { r with idx := r.idx + 1 } }).coreEvent n 0x02 1 none
    match (do checkCmd n c; recordedBody n c : CM Bool).run.run ⟨s1, 0, some vals⟩ with
    | (.ok true, x) => some (x.s.complete n c cc x.flags)
    | (.ok false, x) => some x.s
    | (.error .wait, _) => none
    | (.error (.status code a), x) =>
      some ((if code < 0x40 || code == 0x50 then s1 else x.s).failed n c r.cp cc code x.flags a)

/-- Entries are issued while they can be; after the last has completed the saved generator states return and REPLAY completes. -/
def replayRun (n : Nat) : Nat → State → State
  | 0, s => s
  | fuel + 1, s =>
    let k := s.core n
    match k.replay with
    | none => s
    | some r =>
      if r.idx < r.count then (match replayStep n r s with
        | some t => replayRun n fuel t
        | none => s)
      else if k.inFlight != 0 then s
      else (s.setCore n { k with replay := none, lanes := r.saved }).complete n r.cmd r.cc r.flags

/-- REPLAY: a mode 2 REPLAY goes on each time that it is presented, until its entries are done. -/
def replay (n : Nat) (c : Cmd) (s : State) : State :=
  let go (s : State) : State := match (s.core n).replay with
    | some r => if s.clockHalt || (s.core n).frozen then s else replayRun n (r.count - r.idx + 1) s
    | none => s
  match (s.core n).replay with
  | some r => if r.cmd == c then go s else s
  | none => go (pilotRun n c (replayBody n c) s)

def execReplay (n : Nat) (c : Cmd) (s : State) : Host.Outcome State Fault Refusal :=
  answer (.replay n c) (replay n c s)

end Sys2Proof.Machine
end

