-- ==== Sys2Proof/Machine/Jobs.lean ====
section
/-! DEFINITION. Jobs: work queues, scheduling, preemption, completion and abort (R291 to R297, R410, R460), demand paging (R289, R290) and
deadlock (R234, R235). -/
namespace Sys2Proof.Machine

/-! ### Entries of a work queue (R291) -/

/-- The address of entry i of a queue. -/
def Queue.entry (y : Queue) (i : Nat) : Nat := y.base + 64 * i

def State.wqHead (s : State) (p q : Nat) : Nat := s.fld .helmWqHead 0 p q 15 0
def State.wqTail (s : State) (p q : Nat) : Nat := s.fld .helmWqTail 0 p q 15 0
def State.setRun (s : State) (p q : Nat) (on : Bool) : State := s.setFld .helmWqHead 0 p q 16 16 (b2n on)

/-- Write CODE into an entry, and apply its DONE_OBJ add. -/
def State.finishEntry (s : State) (p : Nat) (y : Queue) (i code : Nat) (done : Bool) (obj add : Nat) : State :=
  let s := s.poke p (y.entry i + 32) (leBytes code 4)
  if done && add != 0 && s.objHeld p obj then s.syncAdd obj add else s

/-- The head job of a queue ends with a code; HEAD advances. -/
def State.endJob (s : State) (p : Nat) (y : Queue) (j : Job) (code : Nat) : State :=
  let s := s.finishEntry p y j.idx code j.doneEn j.doneObj j.doneAdd
  ((s.setFld .helmWqHead 0 p y.q 15 0 ((j.idx + 1) % y.entries)).setRun p y.q false).setQueue p { y with head := none }

/-- Bytes of an entry that must be 0. -/
def entryReserved (b : List Byte) : Bool := leAt b 12 4 != 0 || leAt b 36 28 != 0 || leAt b 9 3 != 0

/-- The job that an entry describes. -/
def parseJob (s : State) (i : Nat) (b : List Byte) : Job where
  idx := i
  start := leAt b 0 6
  handle := leAt b 8 1
  save := leAt b 16 6
  doneObj := leAt b 24 4 % 2 ^ 14
  doneEn := bit (leAt b 24 4) 31
  doneAdd := leAt b 28 4
  st := .waiting
  sliceDone := false
  since := s.hubCycles
  contexts := []
  regsSaved := []

/-- Helm takes the next entry of a queue whose head has none: an entry that cannot run ends at once, and the next is taken. -/
def State.takeEntry (s : State) (p q : Nat) : Nat → State
  | 0 => s
  | fuel + 1 =>
    match (s.part p).queue? q with
    | none => s
    | some y =>
      let i := s.wqHead p q
      if y.head.isSome || i == s.wqTail p q then s else
      match s.peek p (y.entry i) 64 with
      | none => s
      | some b =>
        let j := parseJob s i b
        if entryReserved b then (s.endJob p y j 0xFFFFFFFE).takeEntry p q fuel
        else if ((s.part p).rectNo j.handle).isNone then (s.endJob p y j 0xFFFFFFFA).takeEntry p q fuel
        else s.setQueue p { y with head := some j }

/-! ### Starting, saving and resuming (R292, R295, R296) -/

/-- Core n begins a job at `start` (R292): core store, accumulators, codebooks, program store, mailbox and generators stay. -/
def State.startCore (s : State) (n start : Nat) (reckon : Bool) : State :=
  let s := if (s.core n).fatal then s.resetCore n else s
  (s.resetArrays n).onCore n (fun k => { Core.init with
    cs := k.cs, csPoison := k.csPoison, acc := k.acc, mailbox := k.mailbox, np := k.np, seed := k.seed, seeded := k.seeded, lanes := k.lanes, lhNext := k.lhNext,
    lhTurn := k.lhTurn, tagCount := k.tagCount, tagArmed := k.tagArmed, cp := start, pilot := .running, reckon := reckon })

/-- A core after a job has left it: the pilot is halted and holds nothing of the job. -/
def State.idleCore (s : State) (n : Nat) : State :=
  s.onCore n (fun k => { k with pilot := .halted, blocked := none, haltCode := none, stopIssue := false, failures := [] })

def State.reckonOn (s : State) (p : Nat) : Bool := s.fld .helmReckon 0 p 0 0 0 == 1

/-- The context of a core: the core itself, with the registers of its block (R296). -/
def State.saveCore (s : State) (n : Nat) : Core × Tab Word :=
  let rs : Tab Word := s.regs.filter (fun (x : Nat × Word) => decide (coreBlockAt n ≤ x.1) && decide (x.1 < coreBlockAt n + 0x10000))
  ({ s.core n with stopIssue := false }, rs)

/-- Reload a context; a recorded wait is issued again and tested (R231, R295). -/
def State.restoreCore (s : State) (n : Nat) (k : Core) (rs : Tab Word) (reckon : Bool) : State :=
  let s := { s with regs := (s.regs.filter (fun (x : Nat × Word) => x.1 < coreBlockAt n)) ++ rs ++
    (s.regs.filter (fun (x : Nat × Word) => x.1 ≥ coreBlockAt n + 0x10000)) }
  let s := s.setCore n { k with reckon := reckon }
  match k.pilot, k.blocked with
  | .waitSync o t _, _ => s.onCore n (fun x => { x with pilot := .waitSync o t (decide (t ≤ (s.rd .helmSyncCount 0 o).toNat)) })
  | .waitMsg a t any, some c =>
    match s.pickMsg n c a t any with
    | none => s
    | some i => s.endRecv n c i
  | _, _ => s

/-- The bytes of one context record (R296). -/
def contextSize : Nat := 4653056

/-- The records of a job's cores are written to its save area, as far as its range lies in resident pages: their layout is internal, so every
byte is a free value (log entry 116). -/
def State.saveArea (s : State) (p va len : Nat) : State :=
  (s.part p).pages.foldl (fun s g => match g.frame with
    | none => s
    | some f =>
      let lo := Nat.max va g.va
      let hi := Nat.min (va + len) (g.va + g.size)
      if hi ≤ lo then s else
      let t := s.memDo (whoHelm p) (fun m => m.unknown s.free (f + (lo - g.va)) (hi - lo))
      { t with free := t.free + (hi - lo) }) s

/-- Start or resume the head job of a queue on its cores. -/
def State.runJob (s : State) (p : Nat) (y : Queue) (j : Job) : State :=
  let ns := (s.part p).jobCores j
  let reckon := s.reckonOn p
  let s := if j.st == .saved then
      ns.foldl (fun s n => s.restoreCore n (tabGet j.contexts n Core.init) (tabGet j.regsSaved n []) reckon)
        (s.hubEvent 0x42 (contextSize / 64 * ns.length) (whoHelm p))
    else ns.foldl (fun s n => s.startCore n j.start reckon) s
  let s := match (s.part p).queue? y.q with
    | some z => s.setQueue p { z with head := some { j with st := .running, sliceDone := false, contexts := [], regsSaved := [] } }
    | none => s
  s.setRun p y.q true

/-! ### Scheduling (R294) -/

/-- The queues whose jobs hold a core now. -/
def Part.holding (x : Part) (n : Nat) : Option (Queue × Job) :=
  x.queues.findSome? (fun y => match y.head with
    | some j => if (j.st == .running || j.st == .preempting) && (x.jobCores j).contains n then some (y, j) else none
    | none => none)

/-- The ready jobs of a partition in the order in which Helm considers them. -/
def Part.ready (x : Part) : List (Queue × Job) :=
  let l := x.queues.filterMap (fun y => match y.head with
    | some j => if j.st == .waiting || j.st == .saved then some (y, j) else none
    | none => none)
  sortOn (fun z => 7 - z.1.prio) (sortOn (fun z => z.2.since) l)

/-- Whether a job may have a core, and the queue that must give it up. -/
def Part.yields (x : Part) (y : Queue) (n : Nat) : Bool :=
  match x.holding n with
  | none => true
  | some (z, j) => j.st == .running && (decide (z.prio < y.prio) || (z.prio == y.prio && j.sliceDone))

/-- Begin the preemption of a queue's job: its pilots stop issuing. -/
def State.beginPreempt (s : State) (p q : Nat) : State :=
  match (s.part p).queue? q with
  | none => s
  | some y => match y.head with
    | some j =>
      let s := ((s.part p).jobCores j).foldl (fun s n => s.onCore n (fun k => { k with stopIssue := true })) s
      s.setQueue p { y with head := some { j with st := .preempting } }
    | none => s

/-- Consider one ready job: it starts where all its cores are idle; where all would yield, the jobs on them are preempted first. -/
def State.consider (s : State) (p : Nat) (y : Queue) (j : Job) : State :=
  let x := s.part p
  let ns := x.jobCores j
  if !ns.all (x.yields y) then s
  else
    let qs := (ns.filterMap (fun n => (x.holding n).map (fun z => z.1.q))).eraseDups
    if qs.isEmpty then s.runJob p y j else qs.foldl (fun s q => s.beginPreempt p q) s

/-- A scheduling point of partition p. -/
def State.schedule (s : State) (p : Nat) : State :=
  if s.partState p != 1 then s else
  let s := (s.part p).queues.foldl (fun s y => s.takeEntry p y.q 65537) s
  (s.part p).ready.foldl (fun s z => s.consider p z.1 z.2) s

/-- A write of HELM_WQ_TAIL (R291, R307): an index at or above the entry count is ignored. -/
def wqTailWrite (m : Master) (p q : Nat) (v : Word) (s : State) : State :=
  let s := s.unlatch m
  if !s.reaches m p then s else
  match (s.part p).queue? q with
  | none => s
  | some y =>
    let t := getBits v 15 0
    if t ≥ y.entries then s else ((s.setFld .helmWqTail 0 p q 15 0 t).touched m).schedule p

def execHelmWqTailWrite (m : Master) (p q : Nat) (v : Word) (s : State) : Host.Outcome State Fault Refusal :=
  answerBy m (.helmWqTailWrite m p q v) s (wqTailWrite m p q v s)

/-- The time slice of a running job has expired; a queue whose slice is 0 has none. -/
def timeSliceExpiry (p q : Nat) (s : State) : State :=
  match (s.part p).queue? q with
  | none => s
  | some y => match y.head with
    | some j => if y.slice = 0 || j.st != .running then s
        else (s.setQueue p { y with head := some { j with sliceDone := true } }).schedule p
    | none => s

def execTimeSliceExpiry (p q : Nat) (s : State) : Host.Outcome State Fault Refusal :=
  answer (.timeSliceExpiry p q) (timeSliceExpiry p q s)

/-- Whether every command in flight on some cores has ended. -/
def State.drained (s : State) (ns : List Nat) : Bool := ns.all (fun n => (s.core n).inFlight == 0)

/-- Preemption, once the work in flight has drained: contexts saved, cores freed, the job back at the head of its queue. -/
def preemption (p q : Nat) (s : State) : State :=
  match (s.part p).queue? q with
  | none => s
  | some y => match y.head with
    | none => s
    | some j =>
      let ns := (s.part p).jobCores j
      if j.st != .preempting || !s.drained ns then s else
      let saved := ns.map (fun n => (n, s.saveCore n))
      let j := { j with
        st := .saved
        since := s.hubCycles
        contexts := saved.foldl (fun t x => tabPut t x.1 (some x.2.1)) []
        regsSaved := saved.foldl (fun t x => tabPut t x.1 (some x.2.2)) [] }
      let s := ns.foldl (fun s n => s.idleCore n) (s.saveArea p j.save (contextSize * ns.length))
      (((s.setQueue p { y with head := some j }).setRun p q false)).schedule p

def execPreemption (p q : Nat) (s : State) : Host.Outcome State Fault Refusal := answer (.preemption p q) (preemption p q s)

/-! ### Completion (R292, R293) -/

/-- CODE of a job whose cores have all ended. -/
def State.jobCode (s : State) (ns : List Nat) : Nat :=
  if ns.any (fun n => (s.core n).fatal) then 0xFFFFFFFF
  else match (sortOn id ns).find? (fun n => ((s.core n).haltCode.getD 0) != 0) with
    | some n => (s.core n).haltCode.getD 0
    | none => 0

def jobCompletion (p q : Nat) (s : State) : State :=
  match (s.part p).queue? q with
  | none => s
  | some y => match y.head with
    | none => s
    | some j =>
      let ns := (s.part p).jobCores j
      let beyond (n : Nat) : Bool := (s.core n).pilot == .halted && ((s.core n).haltCode.isSome || (s.core n).fatal) &&
        (s.core n).failures.isEmpty
      if !(j.st == .running || j.st == .preempting) || !ns.all beyond || !s.drained ns then s else
      let code := s.jobCode ns
      let s := ns.foldl (fun s n => s.idleCore n) s
      (s.endJob p y j code).schedule p

def execJobCompletion (p q : Nat) (s : State) : Host.Outcome State Fault Refusal := answer (.jobCompletion p q) (jobCompletion p q s)

/-! ### Abort by poison (R410) -/

/-- The pilots of a job stop issuing. -/
def State.stopJob (s : State) (ns : List Nat) : State := ns.foldl (fun s n => s.onCore n (fun k => { k with stopIssue := true })) s

/-- The entries after a job's, up to TAIL, end without running. -/
def State.flushQueue (s : State) (p : Nat) (y : Queue) : Nat → Nat → State
  | 0, _ => s
  | fuel + 1, i =>
    if i == s.wqTail p y.q then s.setFld .helmWqHead 0 p y.q 15 0 i else
    let s := match s.peek p (y.entry i) 64 with
      | some b =>
        let j := parseJob s i b
        s.finishEntry p y i 0xFFFFFFFC j.doneEn j.doneObj j.doneAdd
      | none => s
    s.flushQueue p y fuel ((i + 1) % y.entries)

/-- The groups that hold a descriptor posted by some cores break as ABORT does. -/
def State.breakPosted (s : State) (ns : List Nat) : State :=
  ((s.fabric.groups.filter (fun g => (g.2.queue ++ g.2.stalled.map (·.1)).any (fun d => ns.contains d.core))).foldl (fun s g => s.breakGroup g.1 11 1) s).settled

/-- The first consumption among some cores: core and failure. -/
def State.consumed (s : State) (ns : List Nat) : Option (Nat × Failure) :=
  ns.findSome? (fun n => ((s.core n).failures.find? (fun f => f.status == 0x44)).map (fun f => (n, f)))

/-- The record is of the first consumption, and every further one of the job until its abort ends adds to REPEAT (R412). -/
def jobAbort (p q : Nat) (s : State) : State :=
  match (s.part p).queue? q with
  | none => s
  | some y => match y.head with
    | none => s
    | some j =>
      let ns := (s.part p).jobCores j
      match s.consumed ns with
      | none => s
      | some (n, f) =>
        if !(j.st == .running || j.st == .preempting) then s else
        let s := s.stopJob ns
        if !s.drained ns then s else
        let hits := (ns.flatMap (fun n => (s.core n).failures.filter (fun f => f.status == 0x44))).length
        let s := s.endJob p y j 0xFFFFFFFD
        let s := s.flushQueue p y 65537 ((j.idx + 1) % y.entries)
        let s := s.breakPosted ns
        let s := ns.foldl (fun s n => s.resetCore n) s
        let s := s.log { LogRec.base 0x07 0 p n with
          opcode := f.cmd.op, status := f.status, tag := f.cmd.tag, cc := f.cc, addr := f.faddr, flags := 1, repeats := hits - 1 }
        (s.raise p 9 q 0 j.idx).schedule p

def execJobAbort (p q : Nat) (s : State) : Host.Outcome State Fault Refusal := answer (.jobAbort p q) (jobAbort p q s)

/-! ### Core reset (R460) -/

def coreReset (m : Master) (n : Nat) (s : State) : State :=
  if s.blockHeld n then s else
  let s := s.unlatch m
  if !s.reachesCore m n then s else
  match s.jobOn n with
  | none => s.resetCore n
  | some (p, y, j) =>
    let ns := (s.part p).jobCores j
    let s := s.stopJob ns
    if !s.drained ns then s else
    let s := s.endJob p y j 0xFFFFFFFB
    (ns.foldl (fun s n => s.resetCore n) s).schedule p

def execCoreReset (m : Master) (n : Nat) (s : State) : Host.Outcome State Fault Refusal := answerBy m (.coreReset m n) s (coreReset m n s)

/-! ### Demand paging (R288 to R290) -/

/-- A page leaves device memory for the swap area, where that has room: its buffer entries first, then its bytes over the host port, and its
poison marks. -/
def State.pageOut (s : State) (p : Nat) (g : Page) : Option State :=
  match g.frame, (s.part p).freeSlot g.units (s.quota p PlanPart.swapBytes) with
  | some f, some slot =>
    let s := s.memDo (whoHelm p) (fun m => m.forceRange (f / 64) (g.size / 64))
    let cells : List Host.Cell := (s.mem.bytes.filter (fun (c : Host.Cell) => decide (f ≤ c.1) && decide (c.1 < f + g.size))).map (fun c => (c.1 - f, c.2))
    let bad : List Nat := (s.mem.poison.filter (fun l => decide (f / 64 ≤ l) && decide (l < (f + g.size) / 64))).map (fun l => l - f / 64)
    let s := ((s.emit (.hostWrite p (s.swapAddr p slot) g.size cells)).hubEvent 0x42 (g.size / 64) (whoHelm p)).hubEvent 0x4A (b2n !g.small) (whoHelm p)
    let x := (s.dropPage p g).part p
    some (s.setPart p { x with
      pages := insertOn Page.va { g with frame := none, slot := slot } x.pages
      swap := insertOn SwapPage.slot ⟨slot, cells, bad⟩ (x.swap.filter (fun w => w.slot != slot)) })
  | _, _ => none

/-- The page to give way: not pinned and not in use, lowest access counter, then lowest address. -/
def State.victim (s : State) (p : Nat) : Option Page :=
  match sortOn Page.counter ((s.part p).pages.filter (fun g => g.frame.isSome && !g.p && !s.pagesUsed p [g])) with
  | g :: _ => some g
  | [] => none

/-- A place for a page of the given size, paging out victims while there is none; a page whose counter is lowest goes first. -/
def State.makeRoom (s : State) (p : Nat) (small : Bool) : Nat → Option (Nat × State)
  | 0 => none
  | fuel + 1 =>
    let x := s.part p
    match (if small then x.smallRoom else none), x.freeFrames with
    | some a, _ => some (a, s)
    | none, f :: t => some (f * frameSize, s.setPart p { x with freeFrames := t })
    | none, [] => match (s.victim p).bind (s.pageOut p) with
      | some t => t.makeRoom p small fuel
      | none => none

def accessCounterHalving (s : State) : State :=
  { s with parts := s.parts.map (fun x => (x.1, { x.2 with pages := x.2.pages.map (fun g => { g with counter := g.counter / 2 }) })) }

def execAccessCounterHalving (s : State) : Host.Outcome State Fault Refusal := answer .accessCounterHalving (accessCounterHalving s)

/-! ### Deadlock (R234, R235, R297) -/

/-- A core blocked with nothing in flight, or halted. -/
def Core.blockedHere (k : Core) : Bool :=
  match k.pilot with
  | .waitSync _ _ met => !met && k.inFlight == 0
  | .waitMsg .. => k.inFlight == 0
  | _ => false

/-- The conditions of R234, with R297: those that hold now, and the marks of what broke one within the window. A page that a command waits for
is a paging transfer in progress. -/
def State.deadlocked (s : State) (p : Nat) : Bool :=
  let x := s.part p
  s.partState p == 1 && s.fld .helmPart 0 p 0 26 26 == 1 && !x.hostTouched &&
  x.cores.all (fun n => ((s.core n).blockedHere || (s.core n).pilot == .halted) && !(s.core n).stirred) && x.cores.any (fun n => (s.core n).blockedHere) &&
  x.groups.all (fun g => (s.group g).queue.isEmpty && (s.group g).beacons.isEmpty) &&
  !s.fabric.experts.any (fun e => x.cores.contains e.core) &&
  !s.fabric.links.any (fun l => (l.2.ahead ++ l.2.waiting).any (fun q => q.pkt.part == p && (q.pkt.src == s.devId || q.pkt.dest == s.devId))) &&
  !s.fabric.dests.any (fun d => d.2.waiting.any (fun u => u.pkt.part == p)) &&
  x.ready.isEmpty

/-- The wait of a blocked core as its record holds it (R235). -/
def State.waitRecord (s : State) (p n : Nat) : LogRec :=
  let k := s.core n
  let syn := match k.pilot with
    | .waitSync o t _ => t * 2 ^ 32 + (s.rd .helmSyncCount 0 o).toNat
    | _ => 0
  { LogRec.base 0x09 0 p n with detail := k.waitWord.toNat, syndrome := syn, cc := k.cc }

/-- A new window of R234 begins for partition p: the marks of the last are gone. -/
def State.newWindow (s : State) (p : Nat) : State :=
  let ns := (s.part p).cores
  { s.onPart p (fun x => { x with hostTouched := false }) with
    cores := s.cores.map (fun x => if ns.contains x.1 then (x.1, { x.2 with stirred := false }) else x) }

/-- The 1 ms window of a partition ends: frozen where every condition has held. -/
def deadlockWindow (p : Nat) (s : State) : State :=
  let dead := s.deadlocked p
  let s := s.newWindow p
  if !dead then s else
  let ns := (s.part p).cores
  let s := ns.foldl (fun s n => s.onCore n (fun k => { k with frozen := true })) (s.setFld .helmPart 0 p 0 31 30 2)
  let s := ns.foldl (fun s n => if (s.core n).blockedHere then s.log (s.waitRecord p n) else s) s
  s.raise p 10 0 0 0

def execDeadlockWindow (p : Nat) (s : State) : Host.Outcome State Fault Refusal := answer (.deadlockWindow p) (deadlockWindow p s)

end Sys2Proof.Machine
end

