-- ==== Sys2Proof/Machine/Resets.lean ====
section
/-! DEFINITION. Resets of the device and of a partition, clock halt (R279, R280, R411, R414, R448 to R452, R464), and what each keeps. -/
namespace Sys2Proof.Machine

/-! ### Ports and what a reset keeps (R432, R448) -/

def State.straps (s : State) : Nat := s.fld .lcStatus 0 0 0 13 12

/-- The number of host ports that the straps make (R432). -/
def portCount (sel : Nat) : Nat := if sel == 1 then 2 else if sel == 2 then 4 else 1

def State.ports (s : State) : List Nat := List.range (portCount s.straps)

/-- The registers that hold fuses: life-cycle state and unique identifier (R453, R459). -/
def State.fuseRegs (s : State) : State :=
  (s.setFld .lcStatus 0 0 0 27 26 s.fuses.lifecycle).wr64 .lcUidLo .lcUidHi 0 0 0 s.fuses.uid

/-- The straps of the ports, as sampled (R432). -/
def State.strapRegs (s : State) (straps : Nat) : State :=
  (s.setFld .lcStatus 0 0 0 13 12 straps).setFld .lcStatus 0 0 0 11 11 (b2n (straps % 4 == 3))

/-- The device at power-on: the reset state, with fuses and flash (R448). -/
def State.powerUp (s : State) : State :=
  ({ State.reset with
    grade := s.grade
    flash := s.flash
    fuses := s.fuses
    hubCycles := s.hubCycles
    free := s.free
    out := s.out
    pending := s.pending }).fuseRegs

/-- The Logbook and its fatal slot, which every reset but a power-on keeps (R413, R414, R448). -/
def Reliab.logbook (r : Reliab) : Reliab :=
  { Reliab.init with ring := r.ring, seq := r.seq, fatal := r.fatal, bmcQueue := r.bmcQueue }

/-- Registers that a board reset keeps: LOG_STATUS, and the energy since power-on. -/
def keptByBoard (a : Nat) : Bool := a == 0x80000 || a == 0xD0010 || a == 0xD0014

/-- Registers that a warm reset keeps beyond those: the event queues with their causes and masks, the ports, and telemetry (log entry 34). -/
def keptByWarm (a : Nat) : Bool :=
  keptByBoard a || (decide (0xA0000 ≤ a) && decide (a < 0xA0200)) || (decide (0xB0020 ≤ a) && decide (a < 0xB0030)) ||
  (decide (0xD0040 ≤ a) && decide (a < 0xD00C0))

/-- Aborts go to the peers of every READY group (R452). -/
def State.abortGroups (s : State) : State :=
  ((s.fabric.groups.filter (fun g => s.gState g.1 == 3)).foldl (fun s g => s.sendAborts g.1) s).settled

/-- A board reset (R448): step 1 of start-up begins. -/
def State.boardStart (s : State) (straps : Nat) : State :=
  let s := if s.clockHalt then s else s.abortGroups
  let t := s.powerUp
  let t := { t with
    regs := s.regs.filter (fun (x : Nat × Word) => keptByBoard x.1)
    rel := s.rel.logbook
    power := { Power.init with brake := s.power.brake, energyFrac := s.power.energyFrac }
    pins := { s.pins with mainPwrgd := true, sysRstN := true, fabReadyN := true, thermTripN := true, muxRstN := true } }
  (((t.fuseRegs.strapRegs straps).setPhase 1).setFld .lcStatus 0 0 0 3 0 1).setFld .pwrStatus 0 0 0 4 4 (b2n s.power.brake)

/-- The event queue of a partition outlives a warm reset, so that cause 14 reaches its host (R450, log entry 34). -/
def Part.queueOnly (x : Part) : Part := { Part.init with evq := x.evq, msixHold := x.msixHold, msixPend := x.msixPend }

/-- A warm device reset or an error reset by its LAST_RESET code (R411, R448, R450): start-up goes on from step 2. -/
def State.restart (s : State) (cause : Nat) : State :=
  let s := s.ports.foldl (fun s k => s.sendMsix (.pf k) 0) s
  let s := (List.range 8).foldl (fun s p => if s.partState p == 1 then s.raise p 14 0 0 cause else s) s
  let s := s.abortGroups
  let t := s.powerUp
  let t := { t with
    regs := s.regs.filter (fun (x : Nat × Word) => keptByWarm x.1)
    rel := s.rel.logbook
    parts := s.parts.foldl (fun (l : Tab Part) (x : Nat × Part) => tabSet l x.1 Part.init x.2.queueOnly) []
    power := { Power.init with brake := s.power.brake, energyFrac := s.power.energyFrac, hotUnits := s.power.hotUnits, missed := s.power.missed }
    start := ⟨s.start.image, none⟩
    pins := { s.pins with fabReadyN := true, muxRstN := true }
    mctpEid := s.mctpEid
    vfHeld := s.vfHeld
    msixTab := s.msixTab }
  (((t.fuseRegs.strapRegs s.straps).setPhase 2).setFld .lcStatus 0 0 0 3 0 cause).setFld .pwrStatus 0 0 0 4 4 (b2n s.power.brake)

/-- A warm device reset by command or quorum waits for a commit of the Almanac and for the changes that wait for one (R452); a second one
merges with it (R451). A clock halt ends by a board reset or a power-on alone (R464). -/
def State.warmReset (s : State) (cause : Nat) : State :=
  if s.clockHalt then s
  else if s.rel.writing.isSome || s.rel.dirty then
    if s.start.resetWait.isSome then s else { s with start := { s.start with resetWait := some cause } }
  else s.restart cause

/-! ### Fatal records and the error reset (R411, R414) -/

/-- A record that is also held in the fatal slot, unless it is taken. -/
def State.logFatalRec (s : State) (r : LogRec) : State :=
  let s := s.log { r with flags := r.flags ||| 2 }
  if s.rel.fatal.isSome then s
  else (s.onRel (fun x => { x with fatal := s.newest })).setFld .logStatus 0 0 0 31 31 1

/-- An error of class 0x03, 0x06 or 0x0A. The location of the error, where it has one, is entered again once the Almanac is read (R421, log entry
143). -/
def State.errorReset (s : State) (r : LogRec) (owed : Option (Nat × Nat × Nat × Nat × Nat × Nat) := none) : State :=
  ((s.logFatalRec r).restart 4).onRel (fun x => { x with owed := owed })

/-! ### Clock halt (R464) -/

/-- A link goes to DISABLED with all that it held. -/
def State.linkOff (s : State) (l : Nat) : State :=
  let s := (s.setLinkState l 0).setFld .lnkStatus l 0 0 27 26 0
  let s := (List.range 8).foldl (fun s k => s.wr .lnkCredit l k 0 0#32) s
  (s.onLink l (fun x => { Link.init with fiMatch := x.fiMatch, refLost := x.refLost })).merChoose

/-- The effects of R464, once: clocks and controllers stop, links are off, FAB_READY_N and MUX_RST_N are released, and the record. -/
def State.haltClocks (s : State) : State :=
  if s.clockHalt then s else
  let s := (List.range 32).foldl (fun s l => s.linkOff l) s
  ({ s with clockHalt := true, pins := { s.pins with fabReadyN := true, muxRstN := true } }).logFatalRec (LogRec.base 0x11 8 0xF 0)

/-! ### Partition reset (R279, R280, R450 to R452) -/

/-- What a partition holds goes back to the free pools: groups, jobs, queues, cores, pages and objects. -/
def State.strip (s : State) (p : Nat) : State :=
  let s := ((s.part p).groups.foldl (fun s g => if s.gState g == 2 then s.sendAborts g else s.breakGroup g 11 1) s).settled
  let s := (s.part p).groups.foldl (fun s g => s.dropGroup p g) s
  let ns := (s.part p).cores
  let s := s.onFabric (fun f => { f with experts := f.experts.filter (fun e => !ns.contains e.core) })
  let s := ((s.part p).rects.foldl (fun s r => s.takeRect p r) s).unjoin p
  let s := (s.part p).objects.foldl (fun s o => s.dropObject p o) s
  let s := (s.part p).queues.foldl (fun s y => (s.wr .helmWqTail 0 p y.q 0#32).wr .helmWqHead 0 p y.q 0#32) s
  s.onPart p (fun x => { x with queues := [], pages := [], freeFrames := x.frames, swap := [], request := none, shares := [], bar2Held := [] })

/-- A partition reset begins: absorbed during a device start, merged with one in progress (R451). -/
def State.resetPartition (s : State) (p : Nat) : State :=
  if s.phase != 10 || s.clockHalt || !(s.partState p == 1 || s.partState p == 2) then s else
  let s := (s.strip p).setFld .helmPart 0 p 0 31 30 3
  let s := s.wr .helmReqStatus 0 p 0 (setBits (s.rd .helmReqStatus 0 p) 31 31 0)
  s.setFld .perfDumpCtl 0 p 0 31 31 0

/-- The partitions whose virtual function is on a port. -/
def State.partsOn (s : State) (k : Nat) : List Nat :=
  (List.range 8).filter (fun p => s.partState p != 0 && s.partPort p == k)

/-- A port reset (R448): the port's functions, with their interrupt tables, and a partition reset of each partition on the port. -/
def State.resetPort (s : State) (k : Nat) : State :=
  let fns : List Nat := fnNo (.pf k) :: (s.partsOn k).map (fun p => fnNo (.vf p))
  let s := { s with msixTab := s.msixTab.filter (fun (x : Nat × Word) => !fns.contains (x.1 / 0x10000)) }
  let s := s.setFld .lcPort 0 k 0 31 22 0
  (s.partsOn k).foldl (fun s p => s.resetPartition p) s

/-- The end of a partition reset, unless a cleared VF Enable or its port's PCIE_PERST_N holds it (R450): the reserved frames are filled with
zeros. -/
def State.endPartitionReset (s : State) (p : Nat) : State :=
  let k := s.partPort p
  if s.partState p != 3 || s.phase != 10 || s.clockHalt || s.vfHeld.contains k || !s.pins.perstN.getD k true then s else
  let s := (s.part p).frames.foldl (fun s f => s.memDo (whoHelm p) (fun m => m.fill (f * frameSize) frameSize)) s
  (s.setFld .helmPart 0 p 0 31 30 1).raise p 13 0 0 0

end Sys2Proof.Machine
end

