-- ==== Sys2Proof/Machine/Faults.lean ====
section
/-! DEFINITION. The fault history and what it leads to: commits of the Almanac (R417 to R420), the move of a frame (R422), Lighthouse checking
(R424 to R426), and the census (R299 to R302). -/
namespace Sys2Proof.Machine

/-! ### Commits (R418, R420) -/

/-- Where the image in use places the Almanac, and before a start has one the place of R441 (R417). -/
def State.almPlace (s : State) : Nat := match s.start.image with
  | some m => m.sections.almanacAt
  | none => 0x03010000

def Flash.almanac (f : Flash) (place : Nat) : AlmSectors := tabGet f.almanacs place AlmSectors.erased
/-- The sectors of the Almanac in use. -/
def State.sectors (s : State) : AlmSectors := s.flash.almanac s.almPlace
def State.onSectors (s : State) (f : AlmSectors → AlmSectors) : State :=
  { s with flash := { s.flash with almanacs := tabSet s.flash.almanacs s.almPlace AlmSectors.erased (f s.sectors) } }

/-- A copy as Helm writes it. -/
def almCopy (seq base : Nat) (l : List AlmEntry) : AlmCopy := ⟨true, seq, l.length, base, true, l⟩
/-- A copy is valid by its magic word and its CRC. -/
def AlmCopy.valid (c : AlmCopy) : Bool := c.magicOk && c.crcOk

/-- The count words of sector 4. -/
def countWords : Nat := 16382

/-- The numbers of a copy and of the other one: 0 copy A, 1 copy B. -/
def otherCopy (k : Nat) : Nat := 1 - k

/-- The start of a commit: the copy that is not in use is erased. -/
def State.beginCommit (s : State) : State :=
  let full := decide (s.sectors.countUsed ≥ countWords)
  let c := almCopy ((s.rel.copySeq + 1) % 2 ^ 32) (s.rel.base + (if full then 16384 else 0)) s.rel.entries
  let s := s.onRel (fun r => { r with writing := some c, dirty := false })
  s.onSectors (fun f => { f with copies := listSet f.copies (otherCopy s.rel.inUse) none })

/-- The end of a commit: its copy is in use; a full sector 4 is erased and takes the new BASE. -/
def State.endCommit (s : State) (c : AlmCopy) : State :=
  let k := otherCopy s.rel.inUse
  let s := s.onSectors (fun f => { f with copies := listSet f.copies k (some c) })
  let s := if s.sectors.countUsed ≥ countWords then s.onSectors (fun f => { f with countBase := some c.base, countUsed := 0 }) else s
  s.onRel (fun r => { r with writing := none, inUse := k, copySeq := c.seq, base := c.base })

def almanacCommit (s : State) : State := if s.rel.dirty && s.rel.writing.isNone then s.beginCommit else s

def execAlmanacCommit (s : State) : Host.Outcome State Fault Refusal := answer .almanacCommit (almanacCommit s)

/-- A warm reset that waits begins when nothing is left to commit (R452). -/
def almanacCommitDone (s : State) : State :=
  match s.rel.writing with
  | none => s
  | some c =>
    let s := s.endCommit c
    match s.start.resetWait with
    | none => s
    | some cause => if s.rel.dirty then s.beginCommit else s.restart cause

def execAlmanacCommitDone (s : State) : Host.Outcome State Fault Refusal := answer .almanacCommitDone (almanacCommitDone s)

/-! ### Frame migration (R422) -/

/-- The bytes and poison marks of a frame, taken to another frame. -/
def Mem.copyFrame (m : Mem) (f g : Nat) : Mem :=
  let a := f * frameSize
  let b := g * frameSize
  let m := m.forceRange (a / 64) (frameSize / 64)
  let cells : List Host.Cell := m.bytes.filter (fun (c : Host.Cell) => decide (a ≤ c.1) && decide (c.1 < a + frameSize))
  let bad : List Nat := m.poison.filter (fun l => decide (a / 64 ≤ l) && decide (l < (a + frameSize) / 64))
  let m := m.fill b frameSize
  { m with
    bytes := cells.foldl (fun (l : List Host.Cell) (c : Host.Cell) => tabSet l (b + (c.1 - a)) 0#8 c.2) m.bytes
    poison := bad.foldl (fun l i => setAdd l (b / 64 + (i - a / 64))) m.poison }

/-- A page whose frame is f moves with it. -/
def Page.moved (f g : Nat) (x : Page) : Page :=
  match x.frame with
  | some a => if a / frameSize = f then { x with frame := some (g * frameSize + a % frameSize) } else x
  | none => x

def Part.moveFrame (x : Part) (f g : Nat) : Part :=
  { x with
    pages := x.pages.map (Page.moved f g)
    frames := setAdd (setDel x.frames f) g
    freeFrames := if x.freeFrames.contains f then setAdd (setDel x.freeFrames f) g else x.freeFrames }

/-- Entries of a frame that were pending are permanent, their frame retired. -/
def State.settleEntries (s : State) (f : Nat) : State :=
  s.onRel (fun r => { r with
    entries := r.entries.map (fun e => if e.kind == 1 && e.st == 3 && e.location / frameSize == f then { e with st := 2 } else e), dirty := true })

/-! ### Lighthouse (R424 to R426) -/

/-- RATE_LOG2 of an array: 8 on watch, otherwise the register's value within 8 to 16. -/
def State.lhRate (s : State) (n a : Nat) : Nat :=
  if s.onWatch n a then 8 else Nat.max 8 (Nat.min 16 (s.fld .logLhCtl 0 0 0 3 0))

/-- A mismatch: the tile is poisoned, the record names both arrays, and both enter watch. -/
def State.lhMismatch (s : State) (n a t b : Nat) : State :=
  let s := (s.setFld .arrHdr n a t 4 4 1).countFld .logLhMism 0 0 0 31 0 1
  let r := s.note 0 0x0F n a a (2 ^ b)
  let s := (r.1.note 0 0x0F n b b (2 ^ a)).1
  s.log { LogRec.base 0x0F 0 ((s.holder n).getD 0xF) n with sub := a, detail := b, flags := r.2 }

/-- The interval of array a has run out: the pass of tile t is checked by the next partner in turn, and the array draws its next interval. -/
def lighthouseSample (n a t next : Nat) (agree : Bool) (s : State) : State :=
  let k := s.core n
  let on := s.fld .logLhCtl 0 0 0 31 31 == 1 || s.onWatch n a
  if !on || s.clockHalt || tabGet k.lhNext a 0 != 0 || next < 1 || next ≥ 2 ^ (s.lhRate n a + 1) then s else
  let turn := tabGet k.lhTurn a 0
  let s := s.onCore n (fun k => { k with lhNext := tabSet k.lhNext a 0 next, lhTurn := tabSet k.lhTurn a 0 ((turn + 1) % 3) })
  let s := s.countFld .logLhSamples 0 0 0 31 0 1
  if agree then s else s.lhMismatch n a t ((a + turn + 1) % 4)

def execLighthouseSample (n a t next : Nat) (agree : Bool) (s : State) : Host.Outcome State Fault Refusal :=
  answer (.lighthouseSample n a t next agree) (lighthouseSample n a t next agree s)

/-! ### Census (R299 to R302) -/

/-- An equation: pool, index, the terms of its left side and its total (R301). -/
structure CensusEq where
  pool : Nat
  idx : Nat
  terms : List Nat
  total : Nat
  deriving DecidableEq, Repr

def CensusEq.holds (e : CensusEq) : Bool := e.terms.sum == e.total

/-- The cores of a partition, free, and withheld: a withheld core counts as withheld alone. -/
def State.coreEq (s : State) : CensusEq :=
  let held := (s.parts.flatMap (fun x => x.2.cores)).filter (fun n => !s.withheld n)
  let free := (List.range s.nCores).filter (fun n => (s.holder n).isNone && !s.withheld n)
  ⟨0, 0, [held.length, free.length, s.rel.withheld.length], s.nCores⟩

/-- Frames held by partitions, held by Helm, free and retired: the free ones are those that no list names. -/
def State.frameEq (s : State) : CensusEq :=
  let held := s.parts.flatMap (fun x => x.2.frames)
  let named := (held ++ s.mem.control ++ s.rel.retired).eraseDups
  ⟨1, 0, [held.length, s.mem.control.length, s.grade.frames - named.length, s.rel.retired.length], s.grade.frames⟩

/-- Swap pages of 64 KiB (log entry 35): those holding a page, and free. -/
def State.swapEqs (s : State) : List CensusEq :=
  s.parts.map (fun x =>
    let total := s.quota x.1 PlanPart.swapBytes / 0x10000
    let held := x.2.swapUsed / 0x10000
    ⟨2, x.1, [held, total - held], total⟩)

def State.objectEq (s : State) : CensusEq :=
  let held := s.parts.flatMap (fun x => x.2.objects)
  ⟨3, 0, [held.length, 16384 - held.eraseDups.length], 16384⟩

/-- The adds of an object that are issued and not applied: an add is applied in the step that issues it, and a link add in the step in which
the device accepts it, past the duplicate window, so that none is in transit at the strobe. -/
def addsInTransit : Nat := 0

/-- Adds applied and in transit, against those issued. -/
def State.addEqs (s : State) : List CensusEq :=
  ((s.addIssued.map (·.1) ++ s.addApplied.map (·.1)).eraseDups).map (fun o =>
    ⟨4, o, [tabGet s.addApplied o 0, addsInTransit], tabGet s.addIssued o 0⟩)

def State.groupEq (s : State) : CensusEq :=
  let held := s.parts.flatMap (fun x => x.2.groups)
  ⟨5, 0, [held.length, ((List.range 256).filter (fun g => s.gState g == 0)).length], 256⟩

def State.slotEq (s : State) : CensusEq :=
  let held := (List.range 8).map (fun p => s.slotsHeld p)
  let kept := (List.range 8).map (fun p => s.quota p PlanPart.slots)
  ⟨6, 0, [held.sum, kept.sum - held.sum, 128 - kept.sum], 128⟩

/-- The index of a credit pool of a link: link, VC and class. -/
def poolIdx (l k : Nat) : Nat := l + k / 2 * 32 + k % 2 * 128

/-- The link credits (R301, R324, R325): of each native link in service and each pool the credits of the sender and the places of the receive
buffer; and the equation across the link that the last credit census of R325 found false. -/
def State.linkEqs (s : State) : List CensusEq :=
  s.fabric.links.flatMap (fun l =>
    (if nativeUp s l.1 then (List.range 8).flatMap (fun k =>
        [⟨7, poolIdx l.1 k, [s.fld .lnkCredit l.1 k 0 10 0, l.2.spent.getD k 0], s.fld .lnkCredit l.1 k 0 26 16⟩,
         ⟨7, poolIdx l.1 k, [l.2.free.getD k 0, l.2.occupied.getD k 0, l.2.owed.getD k 0], s.pools.getD k 0⟩])
      else []) ++
    l.2.badPool.toList.map (fun b => ⟨7, poolIdx l.1 b.1, [b.2.1], b.2.2⟩))

def State.censusEqs (s : State) : List CensusEq :=
  [s.coreEq, s.frameEq] ++ s.swapEqs ++ [s.objectEq] ++ s.addEqs ++ [s.groupEq, s.slotEq] ++ s.linkEqs

/-- The record of a false equation: the pool in STATUS, the index in ADDR, both sides in SYNDROME and the first term in DETAIL (log
entry 36). -/
def CensusEq.record (e : CensusEq) : LogRec :=
  { LogRec.base 0x0A 3 0xF 0 with
    status := e.pool, addr := e.idx, syndrome := e.terms.sum * 2 ^ 32 + e.total, detail := e.terms.headD 0 }

def census (s : State) : State :=
  if s.phase != 10 || s.clockHalt then s else
  match s.censusEqs.find? (fun e => !e.holds) with
  | none => s.setFld .helmCensus 0 0 0 30 0 (s.fld .helmCensus 0 0 0 30 0 + 1)
  | some e =>
    let s := s.errorReset e.record
    (s.setFld .helmCensus 0 0 0 31 31 1).wr .helmCensusPool 0 0 0 (w32 (e.pool * 2 ^ 28 + e.idx % 2 ^ 18))

def execCensus (s : State) : Host.Outcome State Fault Refusal := answer .census (census s)

end Sys2Proof.Machine
end

