-- ==== Sys2Proof/Machine/MemEvents.lean ====
section
/-! DEFINITION. The memory controllers as the commands of file 08 reach them: requests to a line, error correction and capture, ageing of the
write-combining buffer, patrol scrub, temperature, refresh, margining and the end of the initial fill (R245, R249 to R275), with the reads by which
Helm moves pages and frames (R289, R290, R422) and the errors of the hub's own storage (R406). -/
namespace Sys2Proof.Machine

/-! ### Errors of a line (R258 to R261, R273) -/

/-- The SOURCE codes of MEM_ERR_INFO (R273). -/
def sourceCode : MemSource → Nat
  | .demand => 0
  | .narrow => 1
  | .adder => 2
  | .merge => 3
  | .paging => 4
  | .scrub => 5
  | .migration => 6

/-- MEM_ERR_INFO for an error at a physical address. -/
def errInfo (g : Grade) (src : MemSource) (pa : Nat) (ue : Bool) (symbols syn : Nat) : Nat :=
  2 ^ 31 + b2n ue * 2 ^ 30 + sourceCode src * 2 ^ 26 + chanOf g pa * 2 ^ 21 + pcOf pa * 2 ^ 20 + symbols % 16 * 2 ^ 16 + syn % 2 ^ 16

/-- Capture an error, or note an overrun (R273). -/
def State.capture (s : State) (st pa info : Nat) : State :=
  let old := s.rd .memErrInfo st
  if !old.getLsbD 31 || (bit info 30 && !old.getLsbD 30) then
    ((s.wr .memErrInfo st 0 0 (w32 (info + b2n (old.getLsbD 29) * 2 ^ 29))).wr .memErrAddrLo st 0 0 (w32 (pa - pa % 64))).wr .memErrAddrHi st 0 0
      (w32 (pa >>> 32))
  else s.setFld .memErrInfo st 0 0 29 29 1

/-- The record of a memory error with its Almanac entry (R407, R413, R421). -/
def State.memNote (s : State) (cls pa syn : Nat) : State × LogRec :=
  let g := s.grade
  let st := stackOf g pa
  let sub := chanOf g pa * 2 + pcOf pa
  let r := s.note 1 cls st sub (pa - pa % 64) 0
  (r.1, { LogRec.base cls 1 ((s.frameHolder (pa / frameSize)).getD 0xF) st with
    sub := sub, addr := pa - pa % 64, syndrome := syn, flags := r.2, detail := (s.rd .memErrInfo st).toNat })

/-- The frame of the page that a virtual address of a partition lies in. -/
def Part.frameAt (x : Part) (va : Nat) : List Nat := match x.page? va with
  | some g => g.frame.toList.map (· / frameSize)
  | none => []

/-- The frames that hold command lists: of the list of every job that has begun, where it started and where each of its cores, or their saved
contexts, stand in it now (R261, log entry 85). -/
def Part.listFrames (x : Part) (cpOf : Nat → Nat) : List Nat :=
  x.queues.flatMap (fun y => match y.head with
    | none => []
    | some j => if j.st == .waiting then [] else
      x.frameAt j.start ++ (if j.st == .saved then j.contexts.flatMap (fun k => x.frameAt k.2.cp) else (x.jobCores j).flatMap (fun n => x.frameAt (cpOf n))))

/-- The frames that the control maps mark (R261): those of Helm's own state, and those of command lists. -/
def State.controlMap (s : State) : List Nat := s.mem.control ++ s.parts.flatMap (fun x => x.2.listFrames (fun n => (s.core n).cp))

/-- Whether a line lies in a frame that the control map marks (R261). -/
def State.controlLine (s : State) (line : Nat) : Bool := s.controlMap.contains (line * 64 / frameSize)

/-- The bytes of a line as a read delivers them are written back (R259, R260). -/
def Mem.putLine (m : Mem) (line : Nat) (data : List Byte) : Mem := { m with bytes := cellsWrite m.bytes (line * 64) (data.take 64) }

/-- An error that the controller takes for a correctable one is counted, captured and recorded (R259). -/
def State.corrected (s : State) (src : MemSource) (pa symbols syn : Nat) : State :=
  let st := stackOf s.grade pa
  let s := (s.countFld .memCeCount st 0 0 31 0 1).capture st pa (errInfo s.grade src pa false symbols syn)
  let r := s.memNote 0x01 pa syn
  r.1.log r.2

/-- What a read of a line meets (R258 to R261): the state, and whether it delivers data. What is miscorrected is delivered and written back as
if it were right. -/
def State.lineError (s : State) (src : MemSource) (line : Nat) (e : Ecc) : State × Bool :=
  let pa := line * 64
  let st := stackOf s.grade pa
  match e with
  | .clean => (s, true)
  | .ce symbols syn => (s.corrected src pa symbols syn, true)
  | .wrong symbols syn data =>
    let s := s.corrected src pa symbols syn
    ({ s with mem := s.mem.putLine line data }, true)
  | .ue syn data =>
    let s := (s.countFld .memUeCount st 0 0 31 0 1).capture st pa (errInfo s.grade src pa true 0xF syn)
    if s.controlLine line then
      let r := s.memNote 0x03 pa syn
      (r.1.errorReset r.2 (some (1, 0x03, r.2.unit, r.2.sub, r.2.addr, s.rel.starts)), false)
    else
      let r := s.memNote 0x02 pa syn
      let m := r.1.mem.putLine line data
      (({ r.1 with mem := { m with poison := setAdd m.poison line } }).log r.2, true)

/-- The controllers accept requests once the fill has ended (R265), and none in a clock halt. -/
def State.memoryOn (s : State) : Bool := !s.clockHalt && decide (8 ≤ s.phase) && decide (s.phase ≤ 10)

/-- Whose event a request of a source is (R498). -/
def srcWho : MemSource → Who
  | .paging => ⟨4, 0, none, none⟩
  | .migration => ⟨4, 0, none, none⟩
  | _ => ⟨0, 0, none, none⟩

/-- A read of a line: its buffer entry goes first, unless patrol scrub reads it (R249, R251). -/
def State.readLine (s : State) (src : MemSource) (line : Nat) (e : Ecc) : State :=
  let w := srcWho src
  let s := if src == .scrub then s else s.memDo w (fun m => m.forceOut line)
  let s := s.hubEvent 0x42 1 w
  let s := if src == .narrow then s.hubEvent 0x45 1 w else s
  let r := s.lineError src line e
  if !r.2 || src == .scrub then r.1 else
  let d := r.1.mem.look (line * 64) 64
  r.1.emit (.memData line d.1 d.2)

/-- A memory-side add to an element of a line (R254 to R256, R262). -/
def State.addLine (s : State) (line off ty amount : Nat) (poison : Bool) (e : Ecc) : State :=
  let w := srcWho .adder
  let s := s.memDo w (fun m => m.forceOut line)
  let r := s.lineError .adder line e
  if !r.2 then r.1 else
  let t := AddTy.ofCode (ty % 4)
  if off % t.bytes != 0 || off + t.bytes > 64 then r.1 else
  let a := r.1.mem.addAt t (line * 64 + off) amount poison
  ((r.1.memDo w (fun _ => a.1)).hubEvent 0x46 1 w).emit (.memData line (leBytes a.2.1 t.bytes) a.2.2)

/-- An error in the hub's control state (R406, R411): corrected, or the start of an error reset. -/
def State.hubError (s : State) (e : HubErr) : State :=
  if e.ue then
    let r := s.note e.kind 0x06 e.unit 0xFFFF e.word 0
    r.1.errorReset { LogRec.base 0x06 e.kind 0xF e.unit with flags := r.2 } (some (e.kind, 0x06, e.unit, 0xFFFF, e.word, s.rel.starts))
  else s.sramNote 0x04 e.kind 0xF e.unit 0xFFFF e.word

/-- Errors that the hub's tables show while a request passes, ahead of the request. -/
def State.hubErrors (s : State) (errs : List HubErr) : State :=
  errs.foldl (fun s e => if s.memoryOn then s.hubError e else s) s

def memoryRequest (q : MemReq) (e : Ecc) (errs : List HubErr) (s : State) : State :=
  let s := s.hubErrors errs
  if !s.memoryOn then s else
  match q with
  | .read src line => if s.grade.physRange (line * 64) == .memory then s.readLine src line e else s
  | .write line off data poison =>
    if s.grade.physRange (line * 64) == .memory && off + data.length ≤ 64 then
      s.memDo ⟨0, 0, none, none⟩ (fun m => m.write s.grade (line * 64 + off) data poison)
    else s
  | .add line off ty amount poison => if s.grade.physRange (line * 64) == .memory then s.addLine line off ty amount poison e else s

def execMemoryRequest (q : MemReq) (e : Ecc) (errs : List HubErr) (s : State) : Host.Outcome State Fault Refusal :=
  answer (.memoryRequest q e errs) (memoryRequest q e errs s)

/-- An old entry leaves by read-modify-write: the line is read and corrected first. -/
def writeCombiningAgeOut (line : Nat) (e : Ecc) (s : State) : State :=
  if !s.memoryOn then s else
  match s.mem.wc.find? (fun x => x.line == line) with
  | none => s
  | some _ =>
    let r := s.lineError .merge line e
    if r.2 then r.1.memDo ⟨0, 0, none, none⟩ (fun m => m.forceOut line) else r.1

def execWriteCombiningAgeOut (line : Nat) (e : Ecc) (s : State) : Host.Outcome State Fault Refusal :=
  answer (.writeCombiningAgeOut line e) (writeCombiningAgeOut line e s)

/-! ### BAR2 writes (R435) -/

/-- Whether every page of a range is mapped with H, and with W. -/
def Part.hostPages (x : Part) (va len : Nat) : Bool × Bool :=
  let gs := (pieces 0x10000 va (len / 0x10000 + 2) (Nat.max len 1)).map (fun q => x.page? q.1)
  (gs.all (fun g => g.any (fun y => y.h)), gs.all (fun g => g.any (fun y => y.w)))

def whoPort (k p : Nat) : Who := ⟨3, k, some p, none⟩

def State.countUr (s : State) (p : Nat) : State := s.countFld .lcPort 0 (s.partPort p) 0 7 0 1

/-- A BAR2 write, with the poison of its TLP (R262): discarded where its pages do not take it, none while a page of it is away. -/
def State.bar2Do (s : State) (p va : Nat) (data : List Byte) (poison : Bool) : Option State :=
  let ok := (s.part p).hostPages va data.length
  if !ok.1 then some (s.countUr p)
  else if !ok.2 then some (s.countFld .lcPort 0 (s.partPort p) 0 15 8 1)
  else match s.hub (hubWr (whoPort (s.partPort p) p) p va data poison) with
    | (.ok _, t) => some t
    | (.error _, _) => none

/-- The BAR2 writes that waited are performed in their order, up to one whose page is still away. -/
def State.drainBar2 (s : State) (p : Nat) : Nat → State
  | 0 => s
  | k + 1 => match (s.part p).bar2Held with
    | [] => s
    | w :: t => match s.bar2Do p w.1 w.2.1 w.2.2 with
      | none => s
      | some r => (r.onPart p (fun x => { x with bar2Held := t })).drainBar2 p k

/-! ### The pages and frames that Helm moves (R289, R290, R422) -/

/-- The errors that reads of lines meet, as long as the controllers answer. -/
def State.lineErrors (s : State) (src : MemSource) (here : Nat → Bool) (lines : List (Nat × Ecc)) : State :=
  (lines.filter (fun x => here x.1)).foldl (fun s x => if s.memoryOn then (s.lineError src x.1 x.2).1 else s) s

/-- The physical lines of the resident pages of a partition. -/
def Part.holdsLine (x : Part) (l : Nat) : Bool :=
  x.pages.any (fun g => g.frame.any (fun f => decide (f ≤ l * 64) && decide (l * 64 < f + g.size)))

/-- The errors that Helm's reads of the pages that give way meet: of the lines that pages hold before room is made and not after. -/
def State.pageOutErrors (s : State) (p : Nat) (small : Bool) (lines : List (Nat × Ecc)) : State :=
  match s.makeRoom p small 40 with
  | none => s
  | some (_, t) => s.lineErrors .paging (fun l => (s.part p).holdsLine l && !(t.part p).holdsLine l) lines

/-- A page comes back: its bytes, its poisoned lines, and as poisoned the lines whose host read failed, which are recorded. The BAR2 writes that
waited for it follow. -/
def pageIn (p va : Nat) (h : HostPage) (lines : List (Nat × Ecc)) (s : State) : State :=
  match (s.part p).page? va with
  | none => s
  | some g =>
    if g.frame.isSome then s else
    match (s.pageOutErrors p g.small lines).makeRoom p g.small 40 with
    | none => s
    | some (f, s) =>
      let w : SwapPage := (s.part p).swapPage g.slot
      let s : State := (s.emit (.hostRead p (s.swapAddr p g.slot) g.size)).hubEvent 0x4A (b2n !g.small) (whoHelm p)
      let lines := h.failed.filter (fun l => decide (l < g.size / 64))
      let back (m : Mem) : Mem :=
        let m := m.fill f g.size
        { m with
          bytes := w.bytes.foldl (fun b (c : Host.Cell) => tabSet b (f + c.1) 0#8 c.2) m.bytes
          poison := (w.poison ++ lines).foldl (fun l i => setAdd l (f / 64 + i)) m.poison }
      let s := (s.memDo (whoHelm p) back).onPart p (fun x => { x with
        pages := x.pages.map (fun (y : Page) => if y.va == g.va then { y with frame := some f, slot := 0 } else y)
        swap := x.swap.filter (fun y => y.slot != g.slot) })
      let s := lines.foldl (fun s l => s.log { LogRec.base 0x02 3 p 0 with addr := f + 64 * l }) s
      s.drainBar2 p (s.part p).bar2Held.length

def execPageIn (p va : Nat) (h : HostPage) (lines : List (Nat × Ecc)) (s : State) : Host.Outcome State Fault Refusal :=
  answer (.pageIn p va h lines) (pageIn p va h lines s)

/-- A held frame with a permanent location moves to a free frame once it is out of use; a pinned one, a control frame, and one for which no
frame is free stay pending. `lines` are the errors that the reads of the copy meet (R259, R260). -/
def frameMigration (pa : Nat) (lines : List (Nat × Ecc)) (s : State) : State :=
  let f := pa / frameSize
  if !s.rel.entries.any (fun e => e.kind == 1 && e.st == 3 && e.location / frameSize == f) || s.clockHalt then s else
  match s.frameHolder f with
  | none => s
  | some p =>
    let pinned := (s.part p).pages.any (fun g => g.p && g.frame.any (fun a => a / frameSize == f))
    let used := s.pagesUsed p ((s.part p).pages.filter (fun g => g.frame.any (fun a => a / frameSize == f)))
    if pinned || used || s.controlMap.contains f then s else
    match s.freeFrom s.grade.frames 0 with
    | none => s
    | some g => match s.retire f with
      | none => s.setService
      | some t =>
        let t := t.lineErrors .migration (fun l => l * 64 / frameSize == f) lines
        let t := (t.memDo (whoHelm p) (fun m => m.copyFrame f g)).hubEvent 0x42 (frameSize / 64) (whoHelm p)
        (t.onPart p (fun x => x.moveFrame f g)).settleEntries f

def execFrameMigration (pa : Nat) (lines : List (Nat × Ecc)) (s : State) : Host.Outcome State Fault Refusal :=
  answer (.frameMigration pa lines) (frameMigration pa lines s)

/-! ### Patrol scrub (R263, R264, R274) -/

/-- The lines of a pseudo-channel. -/
def scrubLines : Nat := 12582912

/-- The line of rank p in increasing physical address among those that a pseudo-channel of a stack holds (R248, R263): of the granules 2j and
2j + 1 of the stack exactly one has a 256-byte piece on the channel, with two lines of the pseudo-channel. -/
def scrubLine (g : Grade) (st chan pc p : Nat) : Nat :=
  let j := p / 2
  let v := chan ^^^ (j % 32)
  let h := 2 * j + v / 16 % 2
  ((h * g.stacks + st) * 4096 + v % 16 * 256 + p % 2 * 128 + pc * 64) / 64

/-- The class of what a scrub read finds, by which the records of one step are ordered (R412). -/
def eccClass (s : State) (line : Nat) : Ecc → Nat
  | .clean => 0
  | .ce .. => 1
  | .wrong .. => 1
  | .ue .. => if s.controlLine line then 3 else 2

def patrolScrubRead (st : Nat) (errs : List (Nat × Ecc)) (s : State) : State :=
  if !s.memoryOn || st ≥ s.nStacks || s.fld .memScrubCtl st 0 0 8 8 == 0 then s else
  let pos := s.fld .memScrubPos st 0 0 23 0
  let at_ (x : Nat × Ecc) : Nat := scrubLine s.grade st (x.1 / 2 % 32) (x.1 % 2) pos
  let es := sortOn (fun x => eccClass s (at_ x) x.2) (errs.filter (fun x => decide (x.1 < 64)))
  let last := decide (pos + 1 ≥ scrubLines)
  let s := s.setFld .memScrubPos st 0 0 23 0 (if last then 0 else pos + 1)
  let s := if last then s.setFld .memScrubPos st 0 0 31 24 (s.fld .memScrubPos st 0 0 31 24 + 1) else s
  let s := s.hubEvent 0x42 64 (srcWho .scrub)
  es.foldl (fun s x => if s.memoryOn then (s.lineError .scrub (at_ x) x.2).1 else s) s

def execPatrolScrubRead (st : Nat) (errs : List (Nat × Ecc)) (s : State) : Host.Outcome State Fault Refusal :=
  answer (.patrolScrubRead st errs) (patrolScrubRead st errs s)

/-- A per-bank refresh takes a slot of the channel and changes nothing that the spec lets anything observe. -/
def hbmRefresh (_ : Nat) (s : State) : State := s

def execHbmRefresh (st : Nat) (s : State) : Host.Outcome State Fault Refusal := answer (.hbmRefresh st) (hbmRefresh st s)

/-! ### Margining (R267 to R269, R275) -/

/-- Who reaches a stack block: the management path, a partition with device management, and in the bring-up hold such a partition although
it is Resetting (R267, R278). -/
def State.holdMgmt (s : State) (m : Master) : Bool :=
  s.devMgmt m || (match m with
    | .vf p => s.phase == 8 && s.partMgmt p
    | _ => false)

/-- A write of MEM_MARGIN_CTL: a START outside the hold sets REFUSED and does nothing else. -/
def marginStart (m : Master) (st : Nat) (v : Word) (s : State) : State :=
  let s := s.unlatch m
  if !s.holdMgmt m || st ≥ s.nStacks then s
  else if v.getLsbD 31 then
    if s.phase != 8 then s.setFld .memMarginResult st 0 0 30 30 1
    else
      let s := s.wr .memMarginCtl st 0 0 (Reg.memMarginCtl.spec.write (s.rd .memMarginCtl st) v)
      (s.setFld .memMarginResult st 0 0 31 30 0).setFld .memStatus st 0 0 3 3 1
  else s.wr .memMarginCtl st 0 0 (Reg.memMarginCtl.spec.write (s.rd .memMarginCtl st) v)

def execMarginStart (m : Master) (st : Nat) (v : Word) (s : State) : Host.Outcome State Fault Refusal :=
  answerBy m (.marginStart m st v) s (marginStart m st v s)

/-- Every line of a pseudo-channel at zero, clean (R269). -/
def Mem.refill (m : Mem) (g : Grade) (st chan pc : Nat) : Mem :=
  let other (line : Nat) : Bool := !(stackOf g (line * 64) == st && chanOf g (line * 64) == chan && pcOf (line * 64) == pc)
  { m with
    bytes := m.bytes.filter (fun (c : Host.Cell) => other (c.1 / 64))
    poison := m.poison.filter other
    wc := m.wc.filter (fun e => other e.line) }

def marginByte (x : Int) : Nat := (BitVec.ofInt 8 x).toNat

def marginRunDone (st : Nat) (r : MarginResult) (s : State) : State :=
  if s.clockHalt || s.fld .memStatus st 0 0 3 3 == 0 then s else
  let hi := if r.fail0 then 0 else marginByte r.high
  let lo := if r.fail0 then 0 else marginByte r.low
  let s := s.wr .memMarginResult st 0 0 (w32 (2 ^ 31 + b2n r.fail0 * 2 ^ 29 + hi * 2 ^ 8 + lo))
  let s := s.setFld .memStatus st 0 0 3 3 0
  { s with mem := s.mem.refill s.grade st (s.fld .memMarginCtl st 0 0 25 21) (s.fld .memMarginCtl st 0 0 20 20) }

def execMarginRunDone (st : Nat) (r : MarginResult) (s : State) : Host.Outcome State Fault Refusal :=
  answer (.marginRunDone st r) (marginRunDone st r s)

end Sys2Proof.Machine
end

