-- ==== Sys2Proof/Machine/Perf.lean ====
section
/-! DEFINITION. Performance counters beyond their counting: owners, tagging, stage records and periodic dumps (R494 to R509). -/
namespace Sys2Proof.Machine

/-- The owner of a hub counter: a partition, or none for the device scope (R495, R509). -/
def State.hubOwner (s : State) (c : Nat) : Option Nat :=
  let o := s.fld .perfHubEvt 0 c 0 31 28
  if o < 8 then some o else none

/-- Whether a master reaches hub counter c (R495, R506). -/
def State.reachesHub (s : State) (m : Master) (c : Nat) : Bool :=
  s.devMgmt m || (match m with
    | .vf p => s.vfLive p && s.hubOwner c == some p
    | _ => false)

/-- A write of PERF_HUB_EVT: OWNER is written by the management path alone, and a new owner finds the counter and its event code at 0. -/
def writeHubEvt (m : Master) (c : Nat) (v : Word) (s : State) : State :=
  if !s.reachesHub m c then s else
  let old := s.rd .perfHubEvt 0 c
  let new := Reg.perfHubEvt.spec.write old v
  if m != .mgmt then s.wr .perfHubEvt 0 c 0 (setBits new 31 28 (getBits old 31 28))
  else if getBits new 31 28 == getBits old 31 28 then s.wr .perfHubEvt 0 c 0 new
  else (s.wr .perfHubEvt 0 c 0 (setBits new 7 0 0)).wr64 .perfHubCntLo .perfHubCntHi 0 c 0 0

def execOwnerWrite (m : Master) (k : Nat) (v : Word) (s : State) : Host.Outcome State Fault Refusal :=
  answerBy m (.ownerWrite m k v) s (writeHubEvt m k v (s.unlatch m))

/-! ### Tagged commands and stage records (R500 to R502) -/

def State.tagRate (s : State) (n : Nat) : Nat := Nat.max 4 (s.fld .perfCoreCtl 0 n 0 28 25)

/-- The interval of core n has run out: its next tensor command is tagged, and the next interval is drawn. -/
def tagInterval (n interval : Nat) (s : State) : State :=
  let k := s.core n
  if s.fld .perfCoreCtl 0 n 0 29 29 == 0 || s.clockHalt || k.tagArmed || k.tagCount != 0 || interval < 1 || interval ≥ 2 ^ (s.tagRate n + 1) then s
  else s.onCore n (fun k => { k with tagArmed := true, tagCount := interval })

def execTagInterval (n interval : Nat) (s : State) : Host.Outcome State Fault Refusal :=
  answer (.tagInterval n interval) (tagInterval n interval s)

/-- The 64 bytes of a stage record (R501). -/
def StageTimes.bytes (r : StageTimes) (n : Nat) : List Byte :=
  leBytes r.issue 8 ++ leBytes r.cc 8 ++ leBytes n 2 ++ leBytes r.opcode 1 ++ leBytes r.status 1 ++ leBytes r.tag 2 ++ leBytes r.flags 2 ++
  leBytes r.start 4 ++ leBytes r.first 4 ++ leBytes r.last 4 ++ leBytes r.done 4 ++ leBytes r.stallMem 4 ++ leBytes r.stallArb 4 ++
  leBytes r.rdBytes 8 ++ leBytes r.wrBytes 8

def State.ringSize (s : State) (p : Nat) : Nat := 2 ^ (Nat.max 6 (Nat.min 20 (s.fld .perfRingCtl 0 p 0 4 0)))
def State.ringBase (s : State) (p : Nat) : Nat := s.rd64 .perfRingBaseLo .perfRingBaseHi 0 p

/-- Write a record at TAIL and advance it; a full ring counts the record as lost. HEAD and TAIL run free modulo 2^32 (log entry 37). -/
def State.ringPut (s : State) (p : Nat) (b : List Byte) : State :=
  if s.fld .perfRingCtl 0 p 0 31 31 == 0 then s else
  let tail := (s.rd .perfRingTail 0 p).toNat
  let head := (s.rd .perfRingHead 0 p).toNat
  if (tail + 2 ^ 32 - head) % 2 ^ 32 ≥ s.ringSize p then s.countFld .perfRingLost 0 p 0 31 0 1
  else (s.poke p (s.ringBase p + 64 * (tail % s.ringSize p)) b).wr .perfRingTail 0 p 0 (w32 (tail + 1))

def stageRecord (n : Nat) (r : StageTimes) (s : State) : State :=
  if !s.tagged.contains (n, r.cc) || s.clockHalt then s else
  let s := { s with tagged := s.tagged.filter (fun x => x != (n, r.cc)) }
  match s.holder n with
  | some p => s.ringPut p (StageTimes.bytes r n)
  | none => s

def execStageRecord (n : Nat) (r : StageTimes) (s : State) : Host.Outcome State Fault Refusal :=
  answer (.stageRecord n r) (stageRecord n r s)

/-! ### Periodic dumps (R503 to R505) -/

/-- The cores of a partition in increasing number, and the hub counters that it owns. -/
def State.dumpCores (s : State) (p : Nat) : List Nat := sortOn id (s.part p).cores
def State.dumpHubs (s : State) (p : Nat) : List Nat := (List.range 32).filter (fun c => s.hubOwner c == some p)

/-- The bytes of a dump record after its SEQ (R504). -/
def State.dumpBody (s : State) (p : Nat) : List Byte :=
  let cs := s.dumpCores p
  let hs := s.dumpHubs p
  leBytes s.now 8 ++ leBytes cs.length 2 ++ leBytes hs.length 2 ++ List.replicate 44 0#8 ++
  cs.flatMap (fun n => (List.range 8).flatMap (fun k => leBytes (s.rd64 .perfCoreCntLo .perfCoreCntHi 0 n k) 8)) ++
  hs.flatMap (fun c => leBytes (s.rd64 .perfHubCntLo .perfHubCntHi 0 c) 8)

/-- The size of a dump buffer: the record rounded up to 128 bytes. -/
def State.dumpSize (s : State) (p : Nat) : Nat :=
  (64 + 64 * (s.dumpCores p).length + 8 * (s.dumpHubs p).length + 127) / 128 * 128

def State.dumpBase (s : State) (p : Nat) : Nat := s.rd64 .perfDumpBaseLo .perfDumpBaseHi 0 p

/-- A dump falls due: the counters as they stand now go to the buffer of its number, SEQ last. -/
def periodicDump (p : Nat) (s : State) : State :=
  if s.fld .perfDumpCtl 0 p 0 31 31 == 0 || s.clockHalt then s
  else if s.partState p != 1 then s.countFld .perfDumpSkip 0 p 0 31 0 1
  else
    let n := tabGet s.dumps p 0
    let b := s.dumpBody p
    let at_ := s.dumpBase p + n % 2 * s.dumpSize p
    let s := s.poke p at_ (List.replicate 8 0xFF#8)
    let s := (s.poke p (at_ + 8) b).poke p at_ (leBytes n 8)
    { s with dumps := tabSet s.dumps p 0 (n + 1) }

def execPeriodicDump (p : Nat) (s : State) : Host.Outcome State Fault Refusal := answer (.periodicDump p) (periodicDump p s)

/-- Whether a master reaches the dump and ring registers of a partition (R506). -/
def State.reachesPerf (s : State) (m : Master) (p : Nat) : Bool := s.devMgmt m || s.reaches m p

/-- A write of PERF_DUMP_CTL: ENABLE with a buffer that is not wholly pinned is ignored and sets ERR. The numbers of dumps start at 0. -/
def writeDumpCtl (m : Master) (p : Nat) (v : Word) (s : State) : State :=
  if !s.reachesPerf m p then s
  else if v.getLsbD 31 && !((s.part p).pinned (s.dumpBase p) (2 * s.dumpSize p) && s.dumpBase p % 128 == 0) then
    s.setFld .perfDumpCtl 0 p 0 30 30 1
  else
    let was := s.fld .perfDumpCtl 0 p 0 31 31
    let s := s.wr .perfDumpCtl 0 p 0 (Reg.perfDumpCtl.spec.write (s.rd .perfDumpCtl 0 p) v)
    if was == 0 && v.getLsbD 31 then { s with dumps := tabSet s.dumps p 0 0 } else s

def execDumpEnable (m : Master) (p : Nat) (v : Word) (s : State) : Host.Outcome State Fault Refusal :=
  answerBy m (.dumpEnable m p v) s (writeDumpCtl m p v (s.unlatch m))

/-- A write of PERF_RING_CTL: EN with a ring that is not wholly pinned is ignored and sets ERR, as for a dump (R505, R509). -/
def State.writeRingCtl (s : State) (p : Nat) (v : Word) : State :=
  let size := 2 ^ (Nat.max 6 (Nat.min 20 (getBits v 4 0)))
  if v.getLsbD 31 && !(s.part p).pinned (s.ringBase p) (64 * size) then s.setFld .perfDumpCtl 0 p 0 30 30 1
  else s.wr .perfRingCtl 0 p 0 (Reg.perfRingCtl.spec.write (s.rd .perfRingCtl 0 p) v)

end Sys2Proof.Machine
end

