-- ==== Sys2Proof/Machine/Power.lean ====
section
/-! DEFINITION. Clocks, sideband buses and power: clock losses, core frequency and voltage, the governor, thermal control and the sideband lines
(R461 to R493). -/
namespace Sys2Proof.Machine

/-! ### Steps of the core clocks (R467, R468) -/

/-- A step of a die completes. -/
def State.stepDie (s : State) (d : Nat) : State :=
  if !s.slewing d then s else
  let f := s.freq d
  (s.setFld .clkCore 0 d 0 20 20 0).setFld .clkCore 0 d 0 6 0 (if getAt s.power.stepUp d false then f + 1 else f - 1)

/-- While the dies are linked and equal they take each step together (R467). -/
def coreClockStep (d : Nat) (s : State) : State :=
  if s.clockHalt then s
  else if s.linked && s.freq 0 == s.freq 1 && s.slewing 0 && s.slewing 1 then ((s.stepDie 0).stepDie 1).retarget
  else (s.stepDie d).retarget

def execCoreClockStep (d : Nat) (s : State) : Host.Outcome State Fault Refusal := answer (.coreClockStep d) (coreClockStep d s)

/-- The regulator reports the commanded voltage reached: a cap of a failed transition ends. -/
def avsTransitionDone (d : Nat) (s : State) : State :=
  if s.freq d == 0 || s.clockHalt then s else
  let v := s.volt d
  (s.onPower (fun p => { p with confirmed := listSet p.confirmed d v, cap := listSet p.cap d none })).retarget

def execAvsTransitionDone (d : Nat) (s : State) : Host.Outcome State Fault Refusal :=
  answer (.avsTransitionDone d) (avsTransitionDone d s)

/-- The highest step whose voltage is at or below a voltage. -/
def State.stepFor (s : State) (mv : Nat) : Nat :=
  ((List.range 49).reverse.find? (fun i => decide (getAt s.fuses.vmin i 600 + s.fld .clkLimit 0 0 0 22 16 ≤ mv))).getD 0 + 16

/-- A transition that fails (R479): AVS_FAULT, the record, and the die's frequency held to what the last confirmed voltage allows. -/
def State.avsFault (s : State) (d mv : Nat) : State :=
  let s := (s.setFld .pwrStatus 0 0 0 5 5 1).log (LogRec.base 0x11 8 0xF d)
  (s.onPower (fun p => { p with confirmed := listSet p.confirmed d mv, cap := listSet p.cap d (some (Nat.min (s.freq d) (s.stepFor mv))) })).retarget

def avsTimeout (d confirmedMv : Nat) (s : State) : State :=
  if s.freq d == 0 || s.clockHalt then s else s.avsFault d confirmedMv

def execAvsTimeout (d confirmedMv : Nat) (s : State) : Host.Outcome State Fault Refusal :=
  answer (.avsTimeout d confirmedMv) (avsTimeout d confirmedMv s)

/-! ### The governor (R481 to R484) -/

/-- LIMIT in mW: 0, and a value above ENVELOPE, act as ENVELOPE (R483). -/
def State.limitMw (s : State) : Nat :=
  let l := s.fld .pwrCtl 0 0 0 19 8
  let e := s.fld .pwrCtl 0 0 0 31 20
  1000 * (if l = 0 || l > e then e else l)

/-- f and pace after an iteration of the loop. -/
def governorStep (brake : Bool) (f pace floor ceil limit pa : Nat) (overI : Bool) (g : GovernorInput) : Nat × Nat :=
  if brake then (floor, 16)
  else if pa > limit || overI then
    let n := if 20 * pa > 21 * limit then 4 else 1
    if f > floor then (Nat.max floor (f - n), pace) else (f, Nat.max 8 (pace - 4))
  else if pace < 64 then (f, if pa + 4 * g.m ≤ limit then pace + 4 else pace)
  else if f < ceil && g.raiseDue && pa * f + g.c ≤ limit * f then (f + 1, pace)
  else (f, pace)

/-- The effective pace (R483, R486) and the flags that follow from the loops. -/
def State.showPace (s : State) : State :=
  let p := Nat.min s.power.pace s.power.thermalPace
  (s.setFld .pwrStatus 0 0 0 19 13 p).setFld .pwrStatus 0 0 0 3 3
    (b2n (decide (s.power.thermalPace < 64) || s.power.ceiling.any (fun c => decide (c < 64))))

/-- Add 10 µs of a power in mW to the energy (R492). -/
def State.addEnergy (s : State) (pa : Nat) : State :=
  let e := s.power.energyFrac + pa
  (s.wr64 .pwrEnergyLo .pwrEnergyHi 0 0 0 (s.rd64 .pwrEnergyLo .pwrEnergyHi + e / 100000)).onPower (fun p => { p with energyFrac := e % 100000 })

def governorLoop (g : GovernorInput) (s : State) : State :=
  if s.clockHalt then s else
  let pa := ((g.pa : Int) + (if s.power.stale then 0 else s.power.calib)).toNat
  let limit := s.limitMw
  let overI := decide (g.icc > 1000 * s.fld .pwrIcc 0 0 0 10 0)
  let r := governorStep s.power.brake s.power.f s.power.pace s.floorF s.ceilF limit pa overI g
  let unmet := !s.power.brake && decide (pa > limit) && decide (s.power.f ≤ s.floorF) && decide (s.power.pace ≤ 8)
  let ceil := s.ceilF
  let s := s.onPower (fun p => { p with f := r.1, pace := r.2, raw := g.pa, ceil := ceil })
  let s := (s.setFld .pwrStatus 0 0 0 31 20 (Nat.min (pa / 1000) 4095)).setFld .pwrStatus 0 0 0 6 6 (b2n unmet)
  let s := (s.setFld .pwrStatus 0 0 0 2 2 (b2n overI)).setFld .pwrStatus 0 0 0 1 1 (b2n (decide (pa > limit)))
  let s := (List.range 3).foldl (fun s i => match g.mv[i]? with
    | some v => s.setFld .pwrRail 0 i 0 31 16 v
    | none => s) s
  ((s.addEnergy pa).showPace).retarget

def execGovernorLoop (g : GovernorInput) (s : State) : Host.Outcome State Fault Refusal := answer (.governorLoop g) (governorLoop g s)

/-- The estimate is brought to Σ V × I, unless telemetry is stale. -/
def governorCalibration (watts : Nat) (s : State) : State :=
  if s.clockHalt || s.power.stale then s else s.onPower (fun p => { p with calib := (1000 * watts : Nat) - (p.raw : Int) })

def execGovernorCalibration (watts : Nat) (s : State) : Host.Outcome State Fault Refusal :=
  answer (.governorCalibration watts) (governorCalibration watts s)

def pwrBrakeFall (s : State) : State :=
  let s := s.onPower (fun p => { p with brake := true })
  let s := s.setFld .pwrStatus 0 0 0 4 4 1
  if s.clockHalt then s
  else let f := s.floorF
    ((s.onPower (fun p => { p with f := f, pace := 16 })).showPace).retarget

def execPwrBrakeFall (s : State) : Host.Outcome State Fault Refusal := answer .pwrBrakeFall (pwrBrakeFall s)

/-- The loop resumes from FLOOR and a pace of 16. -/
def pwrBrakeRise (s : State) : State :=
  ((s.onPower (fun p => { p with brake := false })).setFld .pwrStatus 0 0 0 4 4 0).retarget

def execPwrBrakeRise (s : State) : Host.Outcome State Fault Refusal := answer .pwrBrakeRise (pwrBrakeRise s)

/-! ### Thermal control (R485 to R487) -/

def State.throttleC (s : State) : Nat := Nat.min 95 (s.fld .pwrTherm 0 0 0 7 0)

/-- The temperature of die 0, die 1 or the hub in units of 0.125 °C. -/
def State.dieTemp (s : State) (u : Nat) : Int := (BitVec.ofNat 16 (s.fld .pwrTemp 0 u 0 15 0)).toInt

/-- A trip: THERM_TRIP_N low, the clock halt, TRIP, and HW_TRIP where a comparator fired. -/
def State.trip (s : State) (hw : Bool) : State :=
  let s := ({ s with pins := { s.pins with thermTripN := false } }).haltClocks
  let s := s.setFld .pwrTherm 0 0 0 31 31 1
  if hw then s.setFld .pwrTherm 0 0 0 30 30 1 else s

/-- Note a unit's temperature (in °C × 8): dies and hub 0 to 2, stacks from 3. Entry into throttling is recorded; it ends 2 °C below. -/
def State.noteHeat (s : State) (u : Nat) (t : Int) : State :=
  let th : Int := 8 * s.throttleC
  if t ≥ th then
    if s.power.hotUnits.contains u then s
    else (s.onPower (fun p => { p with hotUnits := setAdd p.hotUnits u })).log (LogRec.base 0x11 8 0xF u)
  else if t ≤ th - 16 then s.onPower (fun p => { p with hotUnits := setDel p.hotUnits u })
  else s

def thermalSample (u hot : Nat) (temp : Int) (s : State) : State :=
  let s := (s.setFld .pwrTemp 0 u 0 15 0 (BitVec.ofInt 16 temp).toNat).setFld .pwrTemp 0 u 0 23 16 hot
  let s := if s.clockHalt then s else s.noteHeat u temp
  if temp ≥ 840 then s.trip false else s

def execThermalSample (u hot : Nat) (temp : Int) (s : State) : Host.Outcome State Fault Refusal :=
  answer (.thermalSample u hot temp) (thermalSample u hot temp s)

/-- Every 1 ms a stack is read: TEMP, double refresh above 85 °C, throttling and trip. -/
def hbmTemperatureReadout (st temp : Nat) (s : State) : State :=
  if st ≥ s.nStacks || s.clockHalt then s else
  let s := (s.setFld .memStatus st 0 0 23 16 temp).setFld .memStatus st 0 0 4 4 (b2n (decide (temp > 85)))
  let s := s.noteHeat (3 + st) (8 * temp : Nat)
  if temp ≥ 105 then s.trip false else s

def execHbmTemperatureReadout (st temp : Nat) (s : State) : Host.Outcome State Fault Refusal :=
  answer (.hbmTemperatureReadout st temp) (hbmTemperatureReadout st temp s)

def thermalCeilingStep (d : Nat) (s : State) : State :=
  if s.clockHalt then s else
  let t := s.dieTemp d
  let th : Int := 8 * s.throttleC
  let c := getAt s.power.ceiling d 64
  let c' := if t ≥ th then Nat.max 16 (c - 1) else if t ≤ th - 16 then Nat.min 64 (c + 1) else c
  ((s.onPower (fun p => { p with ceiling := listSet p.ceiling d c' })).showPace).retarget

def execThermalCeilingStep (d : Nat) (s : State) : Host.Outcome State Fault Refusal :=
  answer (.thermalCeilingStep d) (thermalCeilingStep d s)

/-- The hub and the stacks at their latest readouts, in units of 0.125 °C. -/
def State.paceTemps (s : State) : List Int :=
  s.dieTemp 2 :: (List.range s.nStacks).map (fun st => ((8 * s.fld .memStatus st 0 0 23 16 : Nat) : Int))

def thermalPaceStep (s : State) : State :=
  if s.clockHalt then s else
  let th : Int := 8 * s.throttleC
  let p := s.power.thermalPace
  let p' := if s.paceTemps.any (fun t => decide (t ≥ th)) then Nat.max 8 (p - 4)
    else if s.paceTemps.all (fun t => decide (t ≤ th - 16)) then Nat.min 64 (p + 4) else p
  (s.onPower (fun x => { x with thermalPace := p' })).showPace

def execThermalPaceStep (s : State) : Host.Outcome State Fault Refusal := answer .thermalPaceStep (thermalPaceStep s)

def execThermalTrip (u : Nat) (s : State) : Host.Outcome State Fault Refusal := answer (.thermalTrip u) (s.trip true)

/-! ### Regulators and sideband lines (R474 to R480) -/

/-- A poll of a rail's regulator: its reading, or a miss, of which the third in a row is recorded. The voltages of rails 0 to 2 come from
the on-die monitors (R492). -/
def pmbusPoll (r mv curr : Nat) (ok : Bool) (s : State) : State :=
  if ok then
    let s := s.setFld .pwrRail 0 r 0 15 0 curr
    let s := if r < 3 then s else s.setFld .pwrRail 0 r 0 31 16 mv
    s.onPower (fun p => { p with missed := tabSet p.missed r 0 0, stale := false })
  else
    let k := tabGet s.power.missed r 0 + 1
    let s := s.onPower (fun p => { p with missed := tabSet p.missed r 0 k })
    if k == 3 then s.log (LogRec.base 0x10 7 0xF r) else s

def execPmbusPoll (r mv curr : Nat) (ok : Bool) (s : State) : Host.Outcome State Fault Refusal :=
  answer (.pmbusPoll r mv curr ok) (pmbusPoll r mv curr ok s)

/-- Each responder's STATUS_WORD is recorded, then CLEAR_FAULTS is sent. -/
def pmbAlert (status : List (Nat × Nat)) (s : State) : State :=
  (status.foldl (fun s x => s.log { LogRec.base 0x11 8 0xF x.1 with syndrome := x.2 % 2 ^ 16 }) s).emit .pmbClear

def execPmbAlert (status : List (Nat × Nat)) (s : State) : Host.Outcome State Fault Refusal := answer (.pmbAlert status) (pmbAlert status s)

/-- A line of R480 is declared stuck, with what that leads to; lines 4 to 9 have no stuck-high rule. -/
def sidebandStuck (line : Nat) (high : Bool) (s : State) : State :=
  if high && 4 ≤ line && line ≤ 9 then s else
  let s := s.declareStuck line high
  match line with
  | 0 => s.isolateTrunk
  | 1 => s.isolateTrunk
  | 2 => s.onPower (fun p => { p with stale := true })
  | 3 => s.onPower (fun p => { p with stale := true })
  | 4 => if s.freq 0 == 0 || s.clockHalt then s else s.avsFault 0 (getAt s.power.confirmed 0 750)
  | 5 => if s.freq 1 == 0 || s.clockHalt then s else s.avsFault 1 (getAt s.power.confirmed 1 750)
  | _ => s

def execSidebandStuck (line : Nat) (high : Bool) (s : State) : Host.Outcome State Fault Refusal :=
  answer (.sidebandStuck line high) (sidebandStuck line high s)

/-- A target that stretches SCL for 25 ms: MUX_RST_N frees the line, and the segment is at fault, or the trunk is (R475, R477, R480). -/
def clockStretchTimeout (cage seg : Nat) (freed : Bool) (s : State) : State :=
  if freed then (s.isolateSegment seg).cageAbsent (cage % 32) else (s.declareStuck 0 false).isolateTrunk

def execClockStretchTimeout (cage seg : Nat) (freed : Bool) (s : State) : Host.Outcome State Fault Refusal :=
  answer (.clockStretchTimeout cage seg freed) (clockStretchTimeout cage seg freed s)

/-- A retest of an isolated segment: passing, it is isolated no more and its cages go to IDENTIFY; the trunk is then free too. -/
def segmentRetest (seg : Nat) (passed : Bool) (s : State) : State :=
  if !(s.rd .pwrSbSeg).getLsbD seg || !passed then s else
  let s := (s.setFld .pwrSbSeg 0 0 0 seg seg 0).setFld .pwrSbStatus 0 0 0 31 31 0
  (s.cages (fun l => s.segOf l == seg && s.linkState l == 2)).foldl (fun s l => (s.reason l 0).setLinkState l 1) s

def execSegmentRetest (seg : Nat) (passed : Bool) (s : State) : Host.Outcome State Fault Refusal :=
  answer (.segmentRetest seg passed) (segmentRetest seg passed s)

/-! ### Clock losses (R463, R464) -/

/-- What is lost shows in CLK_STATUS; the clocks halt. -/
def State.loseClock (s : State) (k : ClockLoss) : State :=
  match k with
  | .sysRef => ({ s with pins := { s.pins with sysRef := false } }).setFld .clkStatus 0 0 0 17 17 0
  | .hubPll => s.setFld .clkStatus 0 0 0 0 0 0
  | .corePll d => s.setFld .clkStatus 0 0 0 (1 + d) (1 + d) 0
  | .divider st => s.setFld .clkStatus 0 0 0 (4 + st) (4 + st) 0

def execClockHalt (k : ClockLoss) (s : State) : Host.Outcome State Fault Refusal := answer (.clockHalt k) ((s.loseClock k).haltClocks)

/-- Housekeeping goes on with SYS_REFCLK ÷ 4. -/
def crystalLoss (s : State) : State :=
  if !s.pins.xtal then s else
  let s := { s with pins := { s.pins with xtal := false } }
  (s.setFld .clkStatus 0 0 0 16 16 0).log (LogRec.base 0x11 8 0xF 0)

def execCrystalLoss (s : State) : Host.Outcome State Fault Refusal := answer .crystalLoss (crystalLoss s)

/-- A link that loses its reference: from TRAIN, CONFIG or UP it goes to DOWN, and it stays in DETECT until the reference returns. -/
def State.loseRef (s : State) (l : Nat) : State :=
  let s := s.onLink l (fun x => { x with refLost := true })
  if s.linkUp l then s.linkDown l
  else if s.linkState l == 5 || s.linkState l == 6 then s.setLinkState l 8
  else s

def sdsRefclkLoss (q : Nat) (s : State) : State :=
  let s := { s with pins := { s.pins with sdsRef := listSet s.pins.sdsRef q false } }
  let s := s.setFld .clkStatus 0 0 0 (18 + q) (18 + q) 0
  ((List.range 8).foldl (fun s i => s.loseRef (8 * q + i)) s).settled

def execSdsRefclkLoss (q : Nat) (s : State) : Host.Outcome State Fault Refusal := answer (.sdsRefclkLoss q) (sdsRefclkLoss q s)

def sdsRefclkReturn (q : Nat) (s : State) : State :=
  let s := { s with pins := { s.pins with sdsRef := listSet s.pins.sdsRef q true } }
  let s := s.setFld .clkStatus 0 0 0 (18 + q) (18 + q) 1
  (List.range 8).foldl (fun s i => s.onLink (8 * q + i) (fun x => { x with refLost := false })) s

def execSdsRefclkReturn (q : Nat) (s : State) : Host.Outcome State Fault Refusal := answer (.sdsRefclkReturn q) (sdsRefclkReturn q s)

/-- PCIE_REFCLK0 feeds the domain's PLL, so that its loss resets every port. -/
def pcieRefclkLoss (k : Nat) (s : State) : State :=
  let s := { s with pins := { s.pins with pcieRef := listSet s.pins.pcieRef k false } }
  if k == 0 then s.ports.foldl (fun s i => s.resetPort i) (s.setFld .clkStatus 0 0 0 3 3 0) else s.resetPort k

def execPcieRefclkLoss (k : Nat) (s : State) : Host.Outcome State Fault Refusal := answer (.pcieRefclkLoss k) (pcieRefclkLoss k s)

def pcieRefclkReturn (k : Nat) (s : State) : State :=
  let s := { s with pins := { s.pins with pcieRef := listSet s.pins.pcieRef k true } }
  if k == 0 && !s.clockHalt then s.setFld .clkStatus 0 0 0 3 3 1 else s

def execPcieRefclkReturn (k : Nat) (s : State) : Host.Outcome State Fault Refusal := answer (.pcieRefclkReturn k) (pcieRefclkReturn k s)

end Sys2Proof.Machine
end

