-- ==== Sys2Proof/Machine/Boot.lean ====
section
/-! DEFINITION. Start-up: power, the choice and the checks of the image, the Almanac at a start, the row maps, and the steps of R446 (R14 to R17,
R246, R265, R420, R422, R432, R441 to R447, R472, R473). -/
namespace Sys2Proof.Machine

/-! ### Power and the resets of the whole device (R448, R471 to R473) -/

/-- The management path and the BMC target answer from the end of the power-on reset, with rails 1 and 2 good (R439, R472). -/
def State.bmcOn (s : State) : Bool := s.pins.auxPwrgd && s.pins.hubPwrgd && s.phase != 0

/-- The power-on reset ends: the straps are sampled and step 1 begins. -/
def powerOn (straps : Nat) (s : State) : State :=
  if s.phase != 0 then s else
  let s := { s with pins := { s.pins with auxPwrgd := true, hubPwrgd := true, mainPwrgd := true, sysRstN := true } }
  (s.fuseRegs.strapRegs straps).setPhase 1

def execPowerOn (straps : Nat) (s : State) : Host.Outcome State Fault Refusal := answer (.powerOn straps) (powerOn straps s)

def boardReset (straps : Nat) (s : State) : State :=
  if s.pins.auxPwrgd && s.pins.hubPwrgd && s.phase != 0 then s.boardStart straps else s

def execBoardReset (straps : Nat) (s : State) : Host.Outcome State Fault Refusal := answer (.boardReset straps) (boardReset straps s)

/-- The actions of a clock halt, and MAIN_OFF (R473). -/
def mainPwrgdFall (s : State) : State :=
  let s := s.haltClocks
  ({ s with pins := { s.pins with mainPwrgd := false } }).setFld .pwrStatus 0 0 0 0 0 1

def execMainPwrgdFall (s : State) : Host.Outcome State Fault Refusal := answer .mainPwrgdFall (mainPwrgdFall s)

/-- Every output is released, and what follows is a power-on (R473). -/
def hubPwrgdFall (s : State) : State :=
  let t := s.powerUp
  { t with pins := { t.pins with auxPwrgd := false, hubPwrgd := false, mainPwrgd := false } }

def execHubPwrgdFall (s : State) : Host.Outcome State Fault Refusal := answer .hubPwrgdFall (hubPwrgdFall s)

/-! ### Images and their checks (R441 to R445, R453) -/

def Image.magic (m : Image) : Nat := leAt m.body 0 4
def Image.format (m : Image) : Nat := leAt m.body 4 2
def Image.gradeCode (m : Image) : Nat := leAt m.body 6 2
def Image.version (m : Image) : Nat := leAt m.body 8 4
def Image.length (m : Image) : Nat := leAt m.body 12 4

def Image.headerOk (m : Image) : Bool :=
  Image.magic m == 0x4E4F4143 && Image.format m == 1 && decide (Image.length m ≤ 0x1000000) && m.crcsOk

/-- The key slots whose images a life-cycle state accepts (R453). -/
def slotAccepted (lifecycle slot : Nat) : Bool :=
  match lifecycle with
  | 0 => decide (slot ≤ 4)
  | 2 => decide (1 ≤ slot) && decide (slot ≤ 4)
  | _ => slot == 0

/-- R443: the key is the one fused in its slot, the slot is in force, and the signature verifies. -/
def State.signatureOk (s : State) (m : Image) : Bool :=
  s.fuses.keys.any (fun k => k.1 == m.keySlot && k.2 == sha384Of m.pubKey) && !s.fuses.revoked.contains m.keySlot &&
  slotAccepted s.fuses.lifecycle m.keySlot && ecdsaVerify m.pubKey m.sig (sha384Of m.body)

/-- The frames that a start retires: the first 256 with a permanent HBM location (R422). -/
def retiredAt (l : List AlmEntry) : List Nat :=
  (((l.filter (fun e => e.kind == 1 && decide (2 ≤ e.st))).map (fun e => e.location / frameSize)).eraseDups.take 256).foldl setAdd []

/-- The valid copy of higher sequence, with its number (R417). -/
def AlmSectors.newest (f : AlmSectors) : Option (Nat × AlmCopy) :=
  let valid (k : Nat) : Option AlmCopy := (f.copies.getD k none).filter AlmCopy.valid
  match valid 0, valid 1 with
  | some a, some b => if a.seq < b.seq then some (1, b) else some (0, a)
  | some a, none => some (0, a)
  | none, some b => some (1, b)
  | none, none => none

/-- The number of frames that a start with an image retires: by the Almanac at the place that the image names. -/
def Flash.retiredCount (f : Flash) (x : Sections) : Nat := match (f.almanac x.almanacAt).newest with
  | some (_, c) => (retiredAt (c.entries.take c.count)).length
  | none => 0

/-- The plan against the totals of R301, the ports of R432 and the largest quorum (R277, R445); Helm's own frames count too. -/
def State.planOk (s : State) (retired : Nat) (x : Sections) : Bool :=
  let sum (f : PlanPart → Nat) : Nat := (x.plan.map f).sum
  decide (sum PlanPart.frames + retired + helmFrameCount ≤ s.grade.frames) && decide (sum PlanPart.slots ≤ 128) &&
  decide (sum PlanPart.cores ≤ s.nCores) && decide (sum PlanPart.linkShare ≤ 256) && decide (x.quorum ≤ 4) &&
  x.plan.all (fun y => decide (y.part < 8) && decide (y.port < portCount s.straps))

/-- The first check of R445 that an image fails, by its FAIL code; 0 where it passes them all. -/
def State.imageFail (s : State) (m : Image) : Nat :=
  if !Image.headerOk m then 2
  else if !s.signatureOk m then 3
  else if Image.gradeCode m != s.grade.code then 4
  else if m.sections.envelope > s.grade.watts then 5
  else if !s.planOk (s.flash.retiredCount m.sections) m.sections then 6
  else if !m.sections.codebooksOnGrid then 7
  else 0

/-! ### The directory and the choice of an image (R441, R444) -/

/-- The valid directory copy of higher sequence: its place, sequence, ACTIVE and PENDING. -/
def Flash.directory (f : Flash) : Option (Nat × Nat × Nat × Option Nat) :=
  match f.dirs.getD 0 none, f.dirs.getD 1 none with
  | some a, some b => if a.1 < b.1 then some (1, b) else some (0, a)
  | some a, none => some (0, a)
  | none, some b => some (1, b)
  | none, none => none

/-- Write the directory copy of older sequence, or the one that is not valid. -/
def Flash.writeDir (f : Flash) (active : Nat) (pend : Option Nat) : Flash :=
  match f.directory with
  | some (k, q, _) => { f with dirs := listSet f.dirs (1 - k) (some (q + 1, active, pend)) }
  | none => { f with dirs := listSet f.dirs 0 (some (1, active, pend)) }

def Flash.slot (f : Flash) (k : Nat) : Option Image := f.slots.getD k none

/-- The FAIL code of a slot: 1 where it holds no image. -/
def State.slotFail (s : State) (k : Nat) : Nat :=
  match s.flash.slot k with
  | some m => s.imageFail m
  | none => 1

/-- The partitions of a plan by port. -/
def planKey (x : Sections) : List (Nat × Nat) := sortOn (·.1) (x.plan.map (fun y => (y.part, y.port)))

/-- Whether a pending slot must wait for a power-on or board reset: a warm start whose plan in that slot differs from the running one. -/
def State.defers (s : State) (k : Nat) : Bool :=
  decide (s.fld .lcStatus 0 0 0 3 0 ≥ 2) && (match s.start.image, s.flash.slot k with
    | some a, some b => planKey a.sections != planKey b.sections
    | _, _ => false)

/-- The slot that ACTIVE, and then the other one, gives; or the FAIL code of ACTIVE. -/
def State.pickActive (s : State) (a : Nat) : Except Nat Nat :=
  if s.slotFail a == 0 then .ok a
  else if s.slotFail (1 - a) == 0 then .ok (1 - a)
  else .error (s.slotFail a)

/-- The slot with the valid image of higher version, where no directory copy is valid. -/
def State.pickNewest (s : State) : Except Nat Nat :=
  let v (k : Nat) : Nat := match s.flash.slot k with
    | some m => Image.version m
    | none => 0
  match s.slotFail 0 == 0, s.slotFail 1 == 0 with
  | true, true => .ok (if v 0 < v 1 then 1 else 0)
  | true, false => .ok 0
  | false, true => .ok 1
  | false, false => .error 1

/-- Choose the image of a start: the slot or FAIL code, with the directory and LC_STATUS as the choice leaves them. -/
def State.chooseSlot (s : State) : Except Nat Nat × State :=
  match s.flash.directory with
  | none => (s.pickNewest, s)
  | some (_, _, a, none) => (s.pickActive a, s)
  | some (_, _, a, some k) =>
    if s.defers k then (s.pickActive a, s.setFld .lcStatus 0 0 0 10 10 1)
    else if s.slotFail k == 0 then (.ok k, s)
    else (s.pickActive a, ({ s with flash := s.flash.writeDir a none }).setFld .lcStatus 0 0 0 9 9 1)

/-! ### The Almanac at a start (R417, R420, R422) -/

/-- BASE by the cases of R420. -/
def AlmSectors.takeBase (f : AlmSectors) : Nat :=
  match f.newest, f.countBase with
  | some (_, c), some v => Nat.max v c.base
  | some (_, c), none => c.base
  | none, some v => v
  | none, none => 0

/-- Program the first erased count word; where none is left, the commit and the erase of sector 4 come first. -/
def State.programStart (s : State) : State :=
  let s := s.onRel (fun r => { r with base := s.sectors.takeBase })
  if s.sectors.countUsed ≥ countWords then
    let b := s.rel.base + 16384
    let c := almCopy ((s.rel.copySeq + 1) % 2 ^ 32) b s.rel.entries
    let k := otherCopy s.rel.inUse
    let s := s.onSectors (fun f => { copies := listSet f.copies k (some c), countBase := some b, countUsed := 1 })
    s.onRel (fun r => { r with copySeq := c.seq, inUse := k, base := b, starts := b + 1, dirty := false })
  else
    let n := s.sectors.countUsed + 1
    let s := s.onSectors (fun f => { f with countBase := some (f.countBase.getD s.rel.base), countUsed := n })
    s.onRel (fun r => { r with starts := r.base + n })

/-- The location whose error began the error reset behind this start is entered (R421, log entry 143). -/
def State.enterOwed (s : State) : State := match s.rel.owed with
  | none => s
  | some (kind, cls, unit, sub, loc, starts) =>
    ((s.onRel (fun r => { r with owed := none, starts := starts })).note kind cls unit sub loc 0).1

/-- Read the Almanac, retire the frames with permanent locations, and program the start count. -/
def State.readAlmanac (s : State) : State :=
  let s := match s.sectors.newest with
    | some (k, c) => s.onRel (fun r => { r with entries := c.entries.take c.count, inUse := k, copySeq := c.seq })
    | none => s.onRel (fun r => { r with entries := [], service := true })
  let s := s.enterOwed
  let gone := retiredAt s.rel.entries
  let settles (e : AlmEntry) : Bool := e.kind == 1 && e.st == 3 && gone.contains (e.location / frameSize)
  let beyond := s.rel.entries.any (fun e => e.kind == 1 && decide (2 ≤ e.st) && !gone.contains (e.location / frameSize))
  let s := s.onRel (fun r => { r with
    retired := gone
    service := r.service || beyond
    dirty := r.dirty || r.entries.any settles
    entries := r.entries.map (fun e => if settles e then { e with st := 2 } else e) })
  let s := s.programStart
  s.setFld .lnkDevid 0 0 0 27 12 s.rel.starts

/-! ### Row maps (R14 to R17, R423) -/

/-- The permanent entries of the cores of a die, oldest first. -/
def State.coreFaults (s : State) (d : Nat) : List AlmEntry :=
  sortOn AlmEntry.last (s.rel.entries.filter (fun e => e.kind == 0 && e.st == 2 && e.unit % 16 / 8 == d))

/-- The physical rows of a die that a map may use, and the map that leaves one of them out as the spare: the last, or a row given. -/
def State.goodRows (s : State) (d : Nat) : List Nat := (List.range 13).filter (fun r => !s.fuses.deadRows.contains (d, r))
def State.mapWithout (s : State) (d : Nat) (spare : Option Nat) : List Nat :=
  let g := s.goodRows d
  (match spare with
    | some r => g.filter (fun x => x != r)
    | none => g).take s.grade.rows

/-- The row map of a die, and the cores that stay withheld: the first core to fail has its row replaced, every later one is withheld. -/
def State.dieMap (s : State) (d : Nat) : List Nat × List Nat :=
  let plain := s.mapWithout d none
  match s.coreFaults d with
  | [] => (plain, [])
  | e :: t =>
    let out := plain.getD (e.unit / 16) 13
    let map := s.mapWithout d (some out)
    (map, t.filterMap (fun x =>
      if x.last ≤ e.last then
        (map.findIdx? (fun r => r == plain.getD (x.unit / 16) 13)).map (fun i => i * 16 + x.unit % 16)
      else some x.unit))

def State.loadRowMaps (s : State) : State :=
  let a := s.dieMap 0
  let b := s.dieMap 1
  s.onRel (fun r => { r with rowMaps := [a.1, b.1], withheld := (a.2 ++ b.2).foldl setAdd [] })

/-! ### The steps of a start (R446, R447) -/

/-- A start-up that fails stops at its step. -/
def State.failStart (s : State) (code : Nat) : State :=
  let s := (s.setFld .lcStatus 0 0 0 23 16 code).setPhase 11
  s.ports.foldl (fun s k => s.sendMsix (.pf k) 1) s

/-- The fields of registers that the board and limit sections give, whatever the values for whole registers say: the power envelope (R4, R445)
and the cages on the backplane (R310). -/
def State.loadBoard (s : State) (x : Sections) : State :=
  let s := s.setFld .pwrCtl 0 0 0 31 20 x.envelope
  (List.range 32).foldl (fun s l => s.setFld .lnkCtl l 0 0 11 11 (b2n (x.options.getD l .gaui == .kr4))) s

/-- Step 4: the plan's partitions are Resetting, and the registers outside the core blocks take the image's values. -/
def State.openPlan (s : State) (k : Nat) (m : Image) : State :=
  let s := { s with start := { s.start with image := some m } }
  let s := ((s.loadRegs 0 0x01000000).loadRegs 0x02000000 0x04000000).loadBoard m.sections
  let s := ((s.setFld .lcStatus 0 0 0 8 8 k).wr .lcImage 0 0 0 (w32 (Image.version m))).setFld .lcReset 0 0 0 6 4 m.sections.quorum
  let s := { s with parts := s.parts.filter (fun (x : Nat × Part) => m.sections.plan.any (fun y => y.part == x.1)) }
  let s := (List.range 8).foldl (fun s p => s.wr .helmPart 0 p 0 0#32) s
  m.sections.plan.foldl (fun s y =>
    (s.wr .helmPart 0 y.part 0 (w32 (3 * 2 ^ 30 + y.port % 4 * 2 ^ 28 + b2n y.mgmt * 2 ^ 27 + b2n y.deadlock * 2 ^ 26))).onPart y.part
      (fun x => { x with plan := some y })) s

/-- Step 5: locks, references and core clocks, which start at FLOOR on the 0.75 V of the regulators (R462, R463, R468, R479). -/
def State.lockClocks (s : State) : State :=
  let p := s.pins
  let refs (l : List Bool) : Nat := (List.range 4).foldl (fun a i => a + b2n (l.getD i true) * 2 ^ i) 0
  let s := { s with pins := { s.pins with sysRef := true } }
  let s := s.wr .clkStatus 0 0 0 (w32 (refs p.sdsRef * 2 ^ 18 + 2 ^ 17 + b2n p.xtal * 2 ^ 16 + (2 ^ s.nStacks - 1) * 16 +
    b2n (p.pcieRef.getD 0 true) * 8 + 7))
  let f := s.floorF
  let s := s.onPower (fun x => { x with ceil := s.ceilF })
  let s := (List.range 2).foldl (fun s d => (s.setFld .clkCore 0 d 0 6 0 f).setFld .clkCore 0 d 0 31 22 750) s
  s.retarget

/-- Steps 6 and 7: links begin, and the fill of every stack. -/
def State.beginFill (s : State) : State :=
  let s := (s.setPhase 7).onFabric (fun f => { f with links := [] })
  let s := (List.range 32).foldl (fun s l =>
    let s := s.onLink l (fun x => { x with refLost := !s.pins.sdsRef.getD (l / 8) true })
    if s.linkEnabled l then s.beginLink l else s) s.merChoose
  let s := (List.range s.nStacks).foldl (fun s st => s.setFld .memStatus st 0 0 2 2 1) s
  { s with mem := Mem.init }

/-- Stacks that fail training (R246). -/
def State.failStacks (s : State) (l : List Nat) : State :=
  (l.foldl (fun s st => s.setFld .memStatus st 0 0 1 1 1) s).failStart 8

/-- A device start up to the initial fill (steps 2 to 7). -/
def deviceStart (f : StartFacts) (s : State) : State :=
  if s.clockHalt || !(s.phase == 1 || s.phase == 2) then s else
  let s := { s with nonce := f.nonce, votes := [] }
  let r := s.chooseSlot
  match r.1 with
  | .error code => ({ r.2 with start := ⟨none, none⟩ }).failStart code
  | .ok k => match r.2.flash.slot k with
    | none => ({ r.2 with start := ⟨none, none⟩ }).failStart 1
    | some m =>
      let s := r.2.openPlan k m
      if !f.pllOk then s.failStart 9 else
      let s := s.lockClocks.readAlmanac.loadRowMaps
      let bad := f.stackFail.filter (fun st => decide (st < s.nStacks))
      if bad.isEmpty then s.beginFill else s.failStacks bad

def execDeviceStart (f : StartFacts) (s : State) : Host.Outcome State Fault Refusal := answer (.deviceStart f) (deviceStart f s)

/-! ### Step 9, and the end of the fill -/

/-- The lowest n free frames, set aside for a partition (R277). -/
def State.takeFrames (s : State) (p : Nat) : Nat → State
  | 0 => s
  | n + 1 => match s.freeFrom s.grade.frames 0 with
    | some f => (s.onPart p (fun x => { x with frames := setAdd x.frames f, freeFrames := setAdd x.freeFrames f })).takeFrames p n
    | none => s

/-- The frames that Helm keeps: the highest that are not retired (R261, log entry 85). -/
def State.helmFrames (s : State) : List Nat :=
  (((List.range (s.rel.retired.length + helmFrameCount)).map (fun i => s.grade.frames - 1 - i)).filter (fun f => !s.rel.retired.contains f)).take
    helmFrameCount

/-- Step 9: Helm's tables, reservations, codebooks and core registers; partitions Active; a pending slot in use becomes ACTIVE (R444); the
reset ends, and with it MISMATCH (R308). -/
def State.finishStart (s : State) : State :=
  let s := { s with mem := { s.mem with control := s.helmFrames } }
  let s := (List.range 8).foldl (fun s p => s.takeFrames p (s.quota p PlanPart.frames)) s
  let s := s.loadRegs 0x01000000 0x01000000
  let s := (List.range s.nCores).foldl (fun s n => s.loadCodebooks n) s
  let s := (List.range 8).foldl (fun s p => if s.partState p == 3 then s.setFld .helmPart 0 p 0 31 30 1 else s) s
  let k := s.fld .lcStatus 0 0 0 8 8
  let s := match s.flash.directory with
    | some (_, _, _, some j) => if j == k then { s with flash := s.flash.writeDir k none } else s
    | _ => s
  (({ s with pins := { s.pins with fabReadyN := false } }).setFld .helmCensus 0 0 0 31 31 0).setPhase 10

def State.holdEnabled (s : State) : Bool := match s.start.image with
  | some m => m.sections.holdEnabled
  | none => false

/-- The fill ends: the stacks are ready, and start-up goes on with the bring-up hold or with step 9. -/
def initialFillDone (s : State) : State :=
  if s.clockHalt || s.phase != 7 then s else
  let s := (List.range s.nStacks).foldl (fun s st => (s.setFld .memStatus st 0 0 2 2 0).setFld .memStatus st 0 0 0 0 1) s
  if s.holdEnabled then s.setPhase 8 else s.finishStart

def execInitialFillDone (s : State) : Host.Outcome State Fault Refusal := answer .initialFillDone (initialFillDone s)

/-- Command 0x04 of R440: the hold ends; outside it the command is refused. -/
def releaseBringUpHold (s : State) : State :=
  if !s.bmcOn then s
  else if s.clockHalt || s.phase != 8 then s.emit (.mgmt 4 false [])
  else (s.finishStart).emit (.mgmt 4 true [])

def execReleaseBringUpHold (s : State) : Host.Outcome State Fault Refusal := answer .releaseBringUpHold (releaseBringUpHold s)

end Sys2Proof.Machine
end

