-- ==== Sys2Proof/Machine/Lifecycle.lean ====
section
/-! DEFINITION. Resets of ports and partitions by their commands, votes, the life cycle, the BMC path and JTAG (R432, R436 to R441, R448 to R455,
R519). -/
namespace Sys2Proof.Machine

/-! ### Event queue and holdoff (R437, R438, R457) -/

/-- A write of POP removes the oldest entry; the stalled commands come again. -/
def State.popEvent (s : State) (p : Nat) : State := s.onPart p (fun x => { x with evq := x.evq.drop 1 })

def helmEvqPop (m : Master) (p : Nat) (s : State) : State :=
  let s := s.unlatch m
  if s.reaches m p then s.popEvent p else s

def execHelmEvqPop (m : Master) (p : Nat) (s : State) : Host.Outcome State Fault Refusal := answerBy m (.helmEvqPop m p) s (helmEvqPop m p s)

/-- The interval of a vector ends: one message for all the requests in between, which begins another interval. -/
def msixHoldoffEnd (p v : Nat) (s : State) : State :=
  let x := s.part p
  if s.clockHalt || !x.msixHold.contains v then s
  else if x.msixPend.contains v then
    let hold := if s.fld .helmIrqHoldoff 0 p 0 15 0 == 0 then setDel x.msixHold v else x.msixHold
    (s.setPart p { x with msixPend := setDel x.msixPend v, msixHold := hold }).sendMsix (.vf p) v
  else s.setPart p { x with msixHold := setDel x.msixHold v }

def execMsixHoldoffEnd (p v : Nat) (s : State) : Host.Outcome State Fault Refusal := answer (.msixHoldoffEnd p v) (msixHoldoffEnd p v s)

/-! ### Ports (R432, R448, R450, R519) -/

/-- A port that has lanes and is powered. -/
def State.portLive (s : State) (k : Nat) : Bool := !s.clockHalt && s.phase != 0 && decide (k < portCount s.straps)

def setPerst (k : Nat) (high : Bool) (s : State) : State := { s with pins := { s.pins with perstN := listSet s.pins.perstN k high } }

def pciePerst (k : Nat) (s : State) : State := (setPerst k false s).resetPort k

def execPciePerst (k : Nat) (s : State) : Host.Outcome State Fault Refusal := answer (.pciePerst k) (pciePerst k s)

def execPciePerstRelease (k : Nat) (s : State) : Host.Outcome State Fault Refusal := answer (.pciePerstRelease k) (setPerst k true s)

def execPcieLinkDown (k : Nat) (s : State) : Host.Outcome State Fault Refusal := answer (.pcieLinkDown k) (s.resetPort k)

/-- The lanes of each port (R432). -/
def portLanes (sel : Nat) : Nat := 16 / portCount sel

/-- A port trains: at 64 GT/s in FLIT mode, below it with or without (R432). -/
def pcieLinkUp (k rate width : Nat) (flit : Bool) (s : State) : State :=
  let fits := decide (1 ≤ rate) && decide (rate ≤ 6) && [1, 2, 4, 8, 16].contains width && decide (width ≤ portLanes s.straps) && (flit || decide (rate < 6))
  if !s.portLive k || !s.pins.perstN.getD k true || !s.pins.pcieRef.getD k true || !s.pins.pcieRef.getD 0 true || !fits then s
  else s.setFld .lcPort 0 k 0 31 22 (2 ^ 9 + rate * 2 ^ 6 + width * 2 + b2n flit)

def execPcieLinkUp (k rate width : Nat) (flit : Bool) (s : State) : Host.Outcome State Fault Refusal :=
  if k < 4 then .next (pcieLinkUp k rate width flit s) else .fault .illFormed

/-- Clearing VF Enable resets the port's partitions and holds them in Resetting. -/
def vfEnableClear (k : Nat) (s : State) : State :=
  if !s.portLive k then s else
  let s := { s with vfHeld := setAdd s.vfHeld k }
  (s.partsOn k).foldl (fun s p => s.resetPartition p) (s.setFld .lcPort 0 k 0 21 21 0)

/-- A Function Level Reset (R433, R448): of a virtual function a partition reset of its partition; of a physical function its interrupt table,
and VF Enable, which is a register of that function, is cleared (log entry 142). -/
def functionLevelReset (f : Master) (s : State) : State :=
  match f with
  | .vf p => s.resetPartition p
  | .pf k => if !s.portLive k then s else
    vfEnableClear k { s with msixTab := s.msixTab.filter (fun (x : Nat × Word) => x.1 / 0x10000 != fnNo (.pf k)) }
  | _ => s

def execFunctionLevelReset (f : Master) (s : State) : Host.Outcome State Fault Refusal :=
  answer (.functionLevelReset f) (functionLevelReset f s)

def execVfEnableClear (k : Nat) (s : State) : Host.Outcome State Fault Refusal := answer (.vfEnableClear k) (vfEnableClear k s)

/-- Setting it again releases the partitions that it held. -/
def vfEnableSet (k : Nat) (s : State) : State :=
  if !s.portLive k then s else
  let held := s.vfHeld.contains k
  let s := ({ s with vfHeld := setDel s.vfHeld k }).setFld .lcPort 0 k 0 21 21 1
  if held then (s.partsOn k).foldl (fun s p => s.endPartitionReset p) s else s

def execVfEnableSet (k : Nat) (s : State) : Host.Outcome State Fault Refusal := answer (.vfEnableSet k) (vfEnableSet k s)

def execPartitionResetDone (p : Nat) (s : State) : Host.Outcome State Fault Refusal := answer (.partitionResetDone p) (s.endPartitionReset p)

/-- A configuration request: Request Retry Status until step 4 of a start from power-on or board reset ends (R446), none from a port without
lanes. The functions are TotalVFs = 0 after a failure in steps 2 to 4 (R433, R447). -/
def configurationRequest (k : Nat) (s : State) : State :=
  if !s.portLive k then s
  else if s.phase < 5 && s.fld .lcStatus 0 0 0 3 0 < 2 then s.emit (.configRetry k)
  else
    let n := match s.start.image with
      | some m => (m.sections.plan.filter (fun y => y.port == k)).length
      | none => 0
    s.emit (.configAnswer k n (if n = 0 then 0 else (match s.start.image with
      | some m => m.sections.bar2Size.getD k 0
      | none => 0)))

def execConfigurationRequest (k : Nat) (s : State) : Host.Outcome State Fault Refusal :=
  if k < 4 then .next (configurationRequest k s) else .fault .illFormed

/-! ### Warm device reset (R440, R449) -/

/-- Command 0x03: accepted unless the clocks have halted (R464). -/
def warmDeviceReset (s : State) : State :=
  if !s.bmcOn then s else (s.emit (.mgmt 3 (!s.clockHalt) [])).warmReset 2

def execWarmDeviceReset (s : State) : Host.Outcome State Fault Refusal := answer .warmDeviceReset (warmDeviceReset s)

/-- The vote of a partition's port, in the bring-up hold too (R267); at the quorum every vote is cleared and the reset starts. -/
def State.vote (s : State) (p : Nat) : State :=
  if !(s.vfLive p || s.phase == 8) || s.clockHalt || !s.partMgmt p then s else
  let s := { s with votes := setAdd s.votes (s.partPort p) }
  let q := s.fld .lcReset 0 0 0 6 4
  if q != 0 && s.votes.length ≥ q then ({ s with votes := [] }).warmReset 3 else s

def lcResetVote (p : Nat) (s : State) : State := (s.unlatch (.vf p)).vote p

def execLcResetVote (p : Nat) (s : State) : Host.Outcome State Fault Refusal := answerBy (.vf p) (.lcResetVote p) s (lcResetVote p s)

def voteLapse (k : Nat) (s : State) : State := { s with votes := setDel s.votes k }

def execVoteLapse (k : Nat) (s : State) : Host.Outcome State Fault Refusal := answer (.voteLapse k) (voteLapse k s)

/-! ### Life cycle (R453, R454) -/

def Fuses.ownerSlot (f : Fuses) : Bool := f.keys.any (fun k => decide (1 ≤ k.1) && decide (k.1 ≤ 4))

def State.fuseState (s : State) (k : Nat) : State := ({ s with fuses := { s.fuses with lifecycle := k } }).fuseRegs

/-- A management write of LC_SEAL. -/
def State.seal (s : State) (v : Word) : State :=
  if v == 0x5345414C#32 && s.fuses.lifecycle == 1 && s.fuses.ownerSlot then s.fuseState 2 else s

def lcSeal (v : Word) (s : State) : State := if s.bmcOn then (s.unlatch .mgmt).seal v else s

def execLcSeal (v : Word) (s : State) : Host.Outcome State Fault Refusal := answer (.lcSeal v) (lcSeal v s)

/-- Command 0x05: LC_UID and a fresh nonce. -/
def readNonce (nonce : DWord) (s : State) : State :=
  if !s.bmcOn then s else
  let u := s.fuses.uid
  ({ s with nonce := nonce }).emit (.mgmt 5 true [u % 2 ^ 32, u / 2 ^ 32 % 2 ^ 32, nonce.toNat % 2 ^ 32, nonce.toNat / 2 ^ 32])

def execReadNonce (nonce : DWord) (s : State) : Host.Outcome State Fault Refusal := answer (.readNonce nonce) (readNonce nonce s)

/-- The checks of a token (R454). -/
def State.tokenOk (s : State) (t : List Byte) : Bool :=
  t.length == 256 && leAt t 0 4 == 0x4B544C55 && leAt t 4 8 == s.fuses.uid && leAt t 12 8 == s.nonce.toNat && leAt t 20 1 == 3 &&
  (t.drop 117).all (· == 0#8) && s.fuses.lifecycle == 2 &&
  ecdsaVerify Config.ubfetasKey ((t.drop 21).take 96) (sha384Of (t.take 21))

/-- Every data memory at zero. -/
def State.wipe (s : State) : State :=
  let cores : Tab Core := s.cores.map (fun x => (x.1, { x.2 with cs := [], csPoison := [], acc := [] }))
  let groups : Tab Group := s.fabric.groups.map (fun x => (x.1, { x.2 with staged := [] }))
  { s with
    mem := { s.mem with bytes := [], poison := [], wc := [] }
    cores := cores
    fabric := { s.fabric with groups := groups } }

/-- The steps of an accepted token, up to the reset: the Almanac is kept. -/
def State.unlock (s : State) : State :=
  let f := { s.flash with dirs := [none, none], slots := [none, none] }
  let u := { s.fuses with revoked := [1, 2, 3, 4].foldl setAdd s.fuses.revoked }
  ({ s with flash := f, fuses := u }).wipe.fuseState 3

/-- Command 0x06: the nonce changes whether or not the token is accepted. -/
def submitUnlockToken (token : List Byte) (nonce : DWord) (s : State) : State :=
  if !s.bmcOn then s else
  let ok := s.tokenOk token
  let s := ({ s with nonce := nonce }).emit (.mgmt 6 ok [])
  if ok then (s.unlock).warmReset 2 else s

def execSubmitUnlockToken (token : List Byte) (nonce : DWord) (s : State) : Host.Outcome State Fault Refusal :=
  answer (.submitUnlockToken token nonce) (submitUnlockToken token nonce s)

/-- The fatal slot is empty again (R414). -/
def State.dropFatal (s : State) : State := (s.onRel (fun r => { r with fatal := none })).setFld .logStatus 0 0 0 31 31 0

def clearFatalSlot (s : State) : State := if s.bmcOn then s.dropFatal.emit (.mgmt 7 true []) else s

def execClearFatalSlot (s : State) : Host.Outcome State Fault Refusal := answer .clearFatalSlot (clearFatalSlot s)

/-- The owner slots that are fused and in force. -/
def Fuses.inForce (f : Fuses) : List Nat :=
  [1, 2, 3, 4].filter (fun k => f.keys.any (fun x => x.1 == k) && !f.revoked.contains k)

/-- Command 0x08, in Sealed: never the last slot in force. -/
def revokeKeySlot (slot : Nat) (s : State) : State :=
  if !s.bmcOn then s else
  let ok := s.fuses.lifecycle == 2 && s.fuses.inForce.contains slot && decide (s.fuses.inForce.length > 1)
  let s := if ok then { s with fuses := { s.fuses with revoked := setAdd s.fuses.revoked slot } } else s
  s.emit (.mgmt 8 ok [])

def execRevokeKeySlot (slot : Nat) (s : State) : Host.Outcome State Fault Refusal := answer (.revokeKeySlot slot) (revokeKeySlot slot s)

/-- Key slots not yet fused take their digests. -/
def Fuses.fuse (f : Fuses) (keys : List (Nat × List Byte)) : Fuses :=
  { f with keys := keys.foldl (fun l k => if k.1 ≤ 4 && !l.any (fun x => x.1 == k.1) then insertOn (·.1) k l else l) f.keys }

/-- Vendor provisioning: Blank goes to Maker; in Maker further slots are fused; later states have no provisioning. -/
def vendorProvisioning (keys : List (Nat × List Byte)) (s : State) : State :=
  if s.fuses.lifecycle ≤ 1 then ({ s with fuses := s.fuses.fuse keys }).fuseState 1 else s

def execVendorProvisioning (keys : List (Nat × List Byte)) (s : State) : Host.Outcome State Fault Refusal :=
  answer (.vendorProvisioning keys) (vendorProvisioning keys s)

/-! ### JTAG (R455) -/

def idcode (g : Grade) : Nat := match g with
  | .mfc4412 => 0x1441256F
  | .mfc4408 => 0x1440856F

def execJtagInstruction (k : JtagInstr) (s : State) : Host.Outcome State Fault Refusal :=
  match k with
  | .priv _ => if s.fuses.lifecycle == 2 then .next (s.emit (.jtag 0)) else .refused .privateDebug
  | .idcode => .next (s.emit (.jtag (idcode s.grade)))
  | .bypass => .next (s.emit (.jtag 0))
  | .samplePreload => .next s
  | .extest => .next s

/-! ### The BMC path (R428, R439, R441) -/

def mctpControl (k : MctpReq) (s : State) : State :=
  if !s.bmcOn then s else
  match k with
  | .setEndpointId e => ({ s with mctpEid := e }).emit (.mctp [e])
  | .getEndpointId => s.emit (.mctp [s.mctpEid])
  | .getMessageTypes => s.emit (.mctp [0, 1, 0x7F])

def execMctpControl (k : MctpReq) (s : State) : Host.Outcome State Fault Refusal := answer (.mctpControl k) (mctpControl k s)

def pldmDiscovery (k : PldmReq) (s : State) : State :=
  if !s.bmcOn then s else
  match k with
  | .getTypes => s.emit (.mctp [0, 2, 5])
  | .getVersion ty => s.emit (.mctp [ty, (Config.pldmVersion ty).toNat])

def execPldmDiscovery (k : PldmReq) (s : State) : Host.Outcome State Fault Refusal := answer (.pldmDiscovery k) (pldmDiscovery k s)

/-- The sensors of R439: temperatures of die 0, die 1 and the hub, of the stacks, device power, rail voltages, PHASE and LIFECYCLE. -/
def State.sensor (s : State) (k : Nat) : Nat :=
  if k < 3 then s.fld .pwrTemp 0 k 0 15 0
  else if k < 15 then s.fld .memStatus (k - 3) 0 0 23 16
  else if k = 15 then s.fld .pwrStatus 0 0 0 31 20
  else if k < 26 then s.fld .pwrRail 0 (k - 16) 0 31 16
  else if k = 26 then s.phase
  else s.fuses.lifecycle

/-- A read of a sensor; any other number takes the oldest Logbook record from the queue of platform events (R428). -/
def pldmPlatform (sensor : Nat) (s : State) : State :=
  if !s.bmcOn then s
  else if sensor < 28 then s.emit (.mctp [s.sensor sensor])
  else match s.rel.bmcQueue with
    | [] => s
    | q :: t => (s.onRel (fun r => { r with bmcQueue := t })).emit (.pldmEvent q.bytes)

def execPldmPlatform (sensor : Nat) (s : State) : Host.Outcome State Fault Refusal := answer (.pldmPlatform sensor) (pldmPlatform sensor s)

/-- The slot in use as ACTIVE: the directory's, or the running one where no copy is valid. -/
def State.activeSlot (s : State) : Nat := match s.flash.directory with
  | some (_, _, a, _) => a
  | none => s.fld .lcStatus 0 0 0 8 8

/-- A firmware update: the slot that is not ACTIVE is programmed, and once its signature verifies it is PENDING. -/
def pldmFirmwareUpdate (img : Image) (s : State) : State :=
  if !s.bmcOn then s else
  let a := s.activeSlot
  let s := { s with flash := { s.flash with slots := listSet s.flash.slots (1 - a) (some img) } }
  if s.signatureOk img then { s with flash := s.flash.writeDir a (some (1 - a)) } else s

def execPldmFirmwareUpdate (img : Image) (s : State) : Host.Outcome State Fault Refusal :=
  answer (.pldmFirmwareUpdate img) (pldmFirmwareUpdate img s)

end Sys2Proof.Machine
end

