-- ==== Sys2Proof/Machine/HostIf.lean ====
section
/-! DEFINITION. What a master's accesses meet: BAR0 with its filters, the MSI-X block, register writes of every kind, the management path, and
BAR2 (R5 to R10, R24, R243, R246, R267, R278, R303, R339, R378, R379, R382, R402, R409, R429, R433 to R435, R440, R456, R488, R506, R531). -/
namespace Sys2Proof.Machine

/-! ### Who reaches a register (R278 and the rules beside it) -/

/-- Whose a register of the global block is: an object's holder's (R243), its partition's (R303, R402, R428, R457), that of partitions with device
management (R278, R339), or shown to all and written by the management path alone (R278, R429, R456). -/
inductive Scope where
  | object | own | managed | shown
  deriving DecidableEq, Repr

def Reg.scope : Reg → Scope
  | .helmSyncCount => .object
  | .helmSyncAdd => .object
  | .helmSyncIrq => .object
  | .helmSyncCtl => .object
  | .lnkDevid => .managed
  | .lnkFabric => .managed
  | .lnkMacBaseLo => .managed
  | .lnkMacBaseHi => .managed
  | .lnkGcnt => .managed
  | .lnkRoutePri => .managed
  | .lnkRouteAlt => .managed
  | .clkCore => .managed
  | .clkLimit => .managed
  | .clkStatus => .managed
  | .pwrCtl => .managed
  | .pwrStatus => .managed
  | .pwrIcc => .managed
  | .pwrEnergyLo => .managed
  | .pwrEnergyHi => .managed
  | .pwrTherm => .managed
  | .pwrRail => .managed
  | .pwrTemp => .managed
  | .pwrSbStatus => .managed
  | .pwrSbSeg => .managed
  | .helmCensus => .shown
  | .helmCensusPool => .shown
  | .logStatus => .shown
  | .logHead => .shown
  | .logLhCtl => .shown
  | .logLhSamples => .shown
  | .logLhMism => .shown
  | .logFatal => .shown
  | .almStatus => .shown
  | .almSeq => .shown
  | .almStarts => .shown
  | .almSel => .shown
  | .almData => .shown
  | .lcStatus => .shown
  | .lcImage => .shown
  | .lcReset => .shown
  | .lcSeal => .shown
  | .lcUidLo => .shown
  | .lcUidHi => .shown
  | .lcPort => .shown
  | _ => .own

/-- The registers of the part: a core, stack or counter set that the grade does not have reads 0 and ignores writes (R2, R246). -/
def State.exists? (s : State) (a : RegAt) : Bool :=
  match a.reg.spec.blk with
  | .core => decide (a.b < s.nCores)
  | .stack => decide (a.b < s.nStacks)
  | .perf => !(a.reg.spec.n1 == 192) || decide (a.i < s.nCores)
  | _ => true

/-- Whether a performance register is one that partition p reaches (R506). -/
def State.perfOf (s : State) (p : Nat) (a : RegAt) : Bool :=
  s.partMgmt p || (if a.reg.spec.n1 == 192 then s.holder a.i == some p
    else if a.reg.spec.n1 == 32 then s.hubOwner a.i == some p else a.i == p)

/-- The Chart's registers (R382): those of the collective block that partitions with device management reach, beside the registers of groups. -/
def Reg.isChart : Reg → Bool
  | .chartSel => true
  | .chartCmd => true
  | .chartData => true
  | _ => false

/-- Whether partition p reaches a register, to read it or to write it. -/
def State.partSees (s : State) (p : Nat) (a : RegAt) (write : Bool) : Bool :=
  match a.reg.spec.blk with
  | .core => s.holder a.b == some p
  | .link => s.partMgmt p
  | .stack => s.partMgmt p
  | .perf => s.perfOf p a
  | .coll => if a.reg.spec.n1 == 256 then (s.part p).groups.contains a.i
    else a.reg == .chartCmd && write || a.reg.isChart && s.partMgmt p
  | .glob => match a.reg.scope with
    | .object => s.objHeld p a.i
    | .own => a.i == p
    | .managed => s.partMgmt p
    | .shown => !write || (a.reg == .lcReset && s.partMgmt p)

/-- What a partition with device management reaches in the bring-up hold (R267); of the LC_ registers it writes the one of its vote (R456). -/
def holdSees (a : RegAt) (write : Bool) : Bool :=
  match a.reg.spec.blk with
  | .stack => true
  | .glob => (decide (0xC0000 ≤ a.addr) && decide (a.addr < 0xE0000)) ||
    (decide (0xB0000 ≤ a.addr) && decide (a.addr < 0xC0000) && (!write || a.reg == .lcReset))
  | _ => false

/-- How an access is met: not at all, as an Unsupported Request, by the bring-up hold's window, or by the function's own. -/
inductive Access where
  | silent | unsupported | hold | whole
  deriving DecidableEq, Repr

def State.access (s : State) (m : Master) : Access :=
  match m with
  | .mgmt => if s.bmcOn then .whole else .silent
  | .rdc n => if s.clockHalt || n ≥ s.nCores then .silent else .whole
  | .pf k => if s.phase == 0 || k ≥ portCount s.straps then .silent else if s.clockHalt then .unsupported else .whole
  | .vf p =>
    if s.phase == 0 then .silent
    else if s.clockHalt || s.partState p == 0 then .unsupported
    else if s.partState p != 3 then .whole
    else if s.phase == 8 && s.partMgmt p then .hold else .unsupported

/-- Whether a master reaches a register of the map, to read or to write it. -/
def State.sees (s : State) (m : Master) (a : RegAt) (write : Bool) : Bool :=
  s.exists? a && (match m with
    | .mgmt => true
    | .rdc n => !write && a.reg.spec.blk == .core && a.b == n
    | .pf _ => !write && a.reg.spec.blk == .glob && a.reg.scope == .shown
    | .vf p => if s.access m == .hold then holdSees a write else s.partSees p a write)

/-! ### The MSI-X block (R433, R434, R438) -/

def msixBase : Nat := 0x06000000
def vectors : Master → Nat
  | .pf _ => 4
  | .vf _ => 16
  | _ => 0

def inMsix (off : Nat) : Bool := decide (msixBase ≤ off) && decide (off < msixBase + 0x10000)

def State.msixSeen (s : State) (m : Master) (off : Nat) : Word :=
  let o := off - msixBase
  if o % 4 == 0 && (o < 16 * vectors m || o == 0x8000) then s.msixRd m o else 0#32

/-- A write to the table: a vector that is unmasked sends the message that was pending. -/
def State.msixStore (s : State) (m : Master) (off : Nat) (v : Word) : State :=
  let o := off - msixBase
  if o % 4 != 0 || o ≥ 16 * vectors m then s
  else if o % 16 == 12 then
    let s := s.msixWr m o (v &&& 1#32)
    let k := o / 16
    if !v.getLsbD 0 && (s.msixRd m 0x8000).getLsbD k then (s.msixWr m 0x8000 (setBits (s.msixRd m 0x8000) k k 0)).emit (.msix m k) else s
  else s.msixWr m o (if o % 16 == 0 then setBits v 1 0 0 else v)

/-! ### Reads (R5, R7, R9, R531) -/

/-- What a master reads at an offset, and the state after: an offset that it does not see reads 0. -/
def State.barRead (s : State) (m : Master) (off : Nat) : Word × State :=
  if inMsix off && s.access m == .whole then (s.msixSeen m off, s.unlatch m) else
  match regFind off with
  | some a => if s.sees m a false then s.readReg m a else (0#32, s.unlatch m)
  | none => (0#32, s.unlatch m)

/-- Whether an access waits for a held write to the same core block (R24, R51). -/
def State.offHeld (s : State) (off : Nat) : Bool := match regFind off with
  | some a => a.reg.spec.blk == .core && s.blockHeld a.b
  | none => false

/-- Whether a write waits so: a codebook write joins the writes that are held. -/
def State.writeHeld (s : State) (off : Nat) : Bool := match regFind off with
  | some a => a.reg.spec.blk == .core && s.blockHeld a.b && !(a.reg == .convCb4 || a.reg == .convCb8)
  | none => false

def hostRead (m : Master) (off : Nat) (s : State) : State :=
  if s.offHeld off then s else
  match s.access m with
  | .silent => s
  | .unsupported => s.emit (.unsupported m off)
  | _ => let r := s.barRead m off
    r.2.emit (.readData m off r.1)

def execLowWordRead (m : Master) (off : Nat) (s : State) : Host.Outcome State Fault Refusal := answer (.lowWordRead m off) (hostRead m off s)

def execReadClear (m : Master) (off : Nat) (s : State) : Host.Outcome State Fault Refusal := answer (.readClear m off) (hostRead m off s)

/-- Command 0x01 of R440. -/
def mgmtRegisterRead (off : Nat) (s : State) : State :=
  if !s.bmcOn || s.offHeld off then s else
  let r := s.barRead .mgmt off
  r.2.emit (.mgmt 1 true [r.1.toNat])

def execMgmtRegisterRead (off : Nat) (s : State) : Host.Outcome State Fault Refusal := answer (.mgmtRegisterRead off) (mgmtRegisterRead off s)

/-- A TLP that covers part of a register acts on none: a read completes with zeros, a write is discarded (R531). -/
def partialBar0Access (m : Master) (off : Nat) (write : Bool) (s : State) : State :=
  match m with
  | .mgmt => s
  | .rdc _ => s
  | _ => if write then s else match s.access m with
    | .silent => s
    | .unsupported => s.emit (.unsupported m off)
    | _ => s.emit (.readData m off 0#32)

def execPartialBar0Access (m : Master) (off : Nat) (write : Bool) (s : State) : Host.Outcome State Fault Refusal :=
  answer (.partialBar0Access m off write) (partialBar0Access m off write s)

/-! ### Writes (R7, R10, R243, R379, R440) -/

/-- Whether a register of a group is one of R379 that only IDLE and BROKEN let a write change. -/
def groupHeld : Reg → Bool
  | .collGroupCfg => true
  | .collGroupMembLo => true
  | .collGroupMembHi => true
  | .collGroupQLo => true
  | .collGroupQHi => true
  | .collGroupElo => true
  | .collGroupEhi => true
  | .collGroupShape => true
  | .collGroupKey => true
  | _ => false

/-- A write by the access codes alone. -/
def State.plainWrite (s : State) (a : RegAt) (v : Word) : State :=
  s.wr a.reg a.b a.i a.j (a.reg.spec.write (s.rd a.reg a.b a.i a.j) v)

/-- A write of LC_RESET: the vote of a partition's port (R449). -/
def State.voteWrite (s : State) (m : Master) (v : Word) : State :=
  match m with
  | .vf p => if v.getLsbD 31 then s.vote p else s
  | _ => s

/-- A write to a register that the master reaches: by the register's own rule, or by its access codes. -/
def State.regWrite (s : State) (m : Master) (a : RegAt) (v : Word) : State :=
  match a.reg with
  | .vecCtl => s.writeVecCtl a.b v
  | .vecProgLo => s.stageProg a.b a.i a.j v
  | .vecProgHi => s.commitProg a.b a.i a.j v
  | .convCb4 => s.codebookWrite a v
  | .convCb8 => s.codebookWrite a v
  | .coreReset => if v.getLsbD 0 then coreReset m a.b s else s
  | .helmSyncCount => syncObjectSet m a.i v s
  | .helmSyncAdd => syncObjectAdd m a.i v s
  | .memMarginCtl => marginStart m a.b v s
  | .helmReqCmd => s.requestWrite a.i v
  | .helmWqTail => wqTailWrite m a.i a.j v s
  | .lnkCtl => writeLnkCtl m a.b v s
  | .lnkFiMatch => fiMatchWrite m a.b a.i v s
  | .collGroup => (collGroupWrite m a.i v s).getD s
  | .chartCmd => chartCmdWrite m v s
  | .helmEvqPop => if v.getLsbD 0 then s.popEvent a.i else s
  | .lcReset => s.voteWrite m v
  | .lcSeal => s.seal v
  | .logStatus => if v.getLsbD 31 then s.dropFatal else s
  | .perfHubEvt => writeHubEvt m a.i v s
  | .perfDumpCtl => writeDumpCtl m a.i v s
  | .perfRingCtl => s.writeRingCtl a.i v
  | r => if groupHeld r && !(s.gState a.i == 1 || s.gState a.i == 4) then s else s.plainWrite a v

/-- A write by a master to an offset of BAR0: what it does not see ignores it, and the pair that it had open is broken (R5). -/
def State.barWrite (s : State) (m : Master) (off : Nat) (v : Word) : State :=
  let s := s.unlatch m
  if inMsix off then (if s.access m == .whole then s.msixStore m off v else s) else
  match regFind off with
  | some a => if s.sees m a true then s.regWrite m a v else s
  | none => s

/-- A write of a function; where the access is not met it is discarded. -/
def registerWrite (m : Master) (off : Nat) (v : Word) (s : State) : State :=
  if s.writeHeld off then s else
  match s.access m with
  | .silent => s
  | .unsupported => s
  | _ => s.barWrite m off v

def execRegisterWrite (m : Master) (off : Nat) (v : Word) (s : State) : Host.Outcome State Fault Refusal :=
  answerBy m (.registerWrite m off v) s (registerWrite m off v s)

/-- Command 0x02 of R440. -/
def mgmtRegisterWrite (off : Nat) (v : Word) (s : State) : State :=
  if s.bmcOn && !s.writeHeld off then (s.barWrite .mgmt off v).emit (.mgmt 2 true []) else s

def execMgmtRegisterWrite (off : Nat) (v : Word) (s : State) : Host.Outcome State Fault Refusal :=
  answer (.mgmtRegisterWrite off v) (mgmtRegisterWrite off v s)

/-! ### BAR2 (R435, R409) -/

/-- Whether a range lies in the BAR2 window of a partition's function (R434). -/
def State.inBar2 (s : State) (p va len : Nat) : Bool := match s.start.image with
  | some m => decide (va + len ≤ 2 ^ m.sections.bar2Size.getD (s.partPort p) 0)
  | none => false

/-- A read of [va, va + len): none while a page of it is away, or an earlier write of the function waits (R435). -/
def State.bar2Get (s : State) (p va len : Nat) : Option State :=
  match s.access (.vf p) with
  | .silent => some s
  | .whole =>
    if s.bar2Waits (.vf p) then none else
    if !s.inBar2 p va len then some (s.emit (.unsupported (.vf p) va)) else
    if !((s.part p).hostPages va len).1 then some ((s.countUr p).emit (.unsupported (.vf p) va)) else
    match s.hub (hubRd (whoPort (s.partPort p) p) p va len) with
    | (.ok (b, bad), t) => some (t.emit (if bad then .bar2Poisoned p len else .bar2Data p b))
    | (.error _, _) => none
  | _ => if s.partState p == 3 && !s.clockHalt then some ((s.countUr p).emit (.unsupported (.vf p) va)) else some (s.emit (.unsupported (.vf p) va))

def execBar2Read (p va len : Nat) (s : State) : Host.Outcome State Fault Refusal := answer (.bar2Read p va len) ((s.bar2Get p va len).getD s)

/-- A write, with the poison of its TLP (R262): it waits behind one that waits, and for its page; discarded where it is not allowed. -/
def State.bar2Put (s : State) (p va : Nat) (data : List Byte) (poison : Bool) : State :=
  let hold := s.onPart p (fun x => { x with bar2Held := x.bar2Held ++ [(va, data, poison)] })
  match s.access (.vf p) with
  | .whole =>
    if !s.inBar2 p va data.length then s
    else if s.bar2Waits (.vf p) then hold
    else (s.bar2Do p va data poison).getD hold
  | _ => s

def execBar2Write (p va : Nat) (data : List Byte) (poison : Bool) (s : State) : Host.Outcome State Fault Refusal :=
  answer (.bar2Write p va data poison) (s.bar2Put p va data poison)

end Sys2Proof.Machine
end

