-- ==== Sys2Proof/Machine/Dispatch.lean ====
section
/-! DEFINITION. The meaning of every command: one arm for each constructor of Instr. -/
namespace Sys2Proof.Machine

/-- The effect of a command on everything but the queue. -/
def exec (i : Instr) (s : State) : Host.Outcome State Fault Refusal :=
  match i with
  | .nop n c => Sys2Proof.Machine.execNop n c s
  | .copy n c => Sys2Proof.Machine.execCopy n c s
  | .cscopy n c => Sys2Proof.Machine.execCscopy n c s
  | .gather n c => Sys2Proof.Machine.execGather n c s
  | .scatadd n c => Sys2Proof.Machine.execScatadd n c s
  | .atomic n c => Sys2Proof.Machine.execAtomic n c s
  | .fill n c => Sys2Proof.Machine.execFill n c s
  | .rfill n c => Sys2Proof.Machine.execRfill n c s
  | .cbload n c => Sys2Proof.Machine.execCbload n c s
  | .wload n c errs => Sys2Proof.Machine.execWload n c errs s
  | .pass n c errs => Sys2Proof.Machine.execPass n c errs s
  | .cpass n c => Sys2Proof.Machine.execCpass n c s
  | .tread n c => Sys2Proof.Machine.execTread n c s
  | .twrite n c => Sys2Proof.Machine.execTwrite n c s
  | .convert n c => Sys2Proof.Machine.execConvert n c s
  | .sxstep n c => Sys2Proof.Machine.execSxstep n c s
  | .reduce n c => Sys2Proof.Machine.execReduce n c s
  | .rowstat n c => Sys2Proof.Machine.execRowstat n c s
  | .vmap n c => Sys2Proof.Machine.execVmap n c s
  | .vpload n c => Sys2Proof.Machine.execVpload n c s
  | .vpsel n c => Sys2Proof.Machine.execVpsel n c s
  | .seed n c => Sys2Proof.Machine.execSeed n c s
  | .sample n c => Sys2Proof.Machine.execSample n c s
  | .swait n c => Sys2Proof.Machine.execSwait n c s
  | .ssignal n c => Sys2Proof.Machine.execSsignal n c s
  | .sset n c => Sys2Proof.Machine.execSset n c s
  | .msend n c => Sys2Proof.Machine.execMsend n c s
  | .mrecv n c errs => Sys2Proof.Machine.execMrecv n c errs s
  | .fence n c => Sys2Proof.Machine.execFence n c s
  | .doorbell n c => Sys2Proof.Machine.execDoorbell n c s
  | .collpost n c => Sys2Proof.Machine.execCollpost n c s
  | .beacon n c => Sys2Proof.Machine.execBeacon n c s
  | .dispatch n c => Sys2Proof.Machine.execDispatch n c s
  | .combine n c => Sys2Proof.Machine.execCombine n c s
  | .update n c => Sys2Proof.Machine.execUpdate n c s
  | .lossw n c => Sys2Proof.Machine.execLossw n c s
  | .ckpt n c => Sys2Proof.Machine.execCkpt n c s
  | .replay n c => Sys2Proof.Machine.execReplay n c s
  | .halt n c => Sys2Proof.Machine.execHalt n c s
  | .retx n c => Sys2Proof.Machine.execRetx n c s
  | .li n c => Sys2Proof.Machine.execLi n c s
  | .mov n c => Sys2Proof.Machine.execMov n c s
  | .add n c => Sys2Proof.Machine.execAdd n c s
  | .sub n c => Sys2Proof.Machine.execSub n c s
  | .mul n c => Sys2Proof.Machine.execMul n c s
  | .addi n c => Sys2Proof.Machine.execAddi n c s
  | .and n c => Sys2Proof.Machine.execAnd n c s
  | .or n c => Sys2Proof.Machine.execOr n c s
  | .xor n c => Sys2Proof.Machine.execXor n c s
  | .shl n c => Sys2Proof.Machine.execShl n c s
  | .shr n c => Sys2Proof.Machine.execShr n c s
  | .sra n c => Sys2Proof.Machine.execSra n c s
  | .slt n c => Sys2Proof.Machine.execSlt n c s
  | .beq n c => Sys2Proof.Machine.execBeq n c s
  | .bne n c => Sys2Proof.Machine.execBne n c s
  | .blt n c => Sys2Proof.Machine.execBlt n c s
  | .bge n c => Sys2Proof.Machine.execBge n c s
  | .jmp n c => Sys2Proof.Machine.execJmp n c s
  | .call n c => Sys2Proof.Machine.execCall n c s
  | .ret n c => Sys2Proof.Machine.execRet n c s
  | .loop n c => Sys2Proof.Machine.execLoop n c s
  | .ld n c => Sys2Proof.Machine.execLd n c s
  | .st n c => Sys2Proof.Machine.execSt n c s
  | .rdc n c => Sys2Proof.Machine.execRdc n c s
  | .vecNop n w => Sys2Proof.Machine.execVecNop n w s
  | .vecMov n w => Sys2Proof.Machine.execVecMov n w s
  | .vecAdd n w => Sys2Proof.Machine.execVecAdd n w s
  | .vecSub n w => Sys2Proof.Machine.execVecSub n w s
  | .vecMul n w => Sys2Proof.Machine.execVecMul n w s
  | .fma n w => Sys2Proof.Machine.execFma n w s
  | .min n w => Sys2Proof.Machine.execMin n w s
  | .max n w => Sys2Proof.Machine.execMax n w s
  | .abs n w => Sys2Proof.Machine.execAbs n w s
  | .neg n w => Sys2Proof.Machine.execNeg n w s
  | .sel n w => Sys2Proof.Machine.execSel n w s
  | .cmplt n w => Sys2Proof.Machine.execCmplt n w s
  | .div n w => Sys2Proof.Machine.execDiv n w s
  | .sqrt n w => Sys2Proof.Machine.execSqrt n w s
  | .sfn n w => Sys2Proof.Machine.execSfn n w s
  | .rand n w => Sys2Proof.Machine.execRand n w s
  | .rot n w => Sys2Proof.Machine.execRot n w s
  | .rowsum n w => Sys2Proof.Machine.execRowsum n w s
  | .rowmax n w => Sys2Proof.Machine.execRowmax n w s
  | .cvtb n w => Sys2Proof.Machine.execCvtb n w s
  | .groupBoundary n => Sys2Proof.Machine.execGroupBoundary n s
  | .tileConversion n errs => Sys2Proof.Machine.execTileConversion n errs s
  | .lighthouseSample n a t next agree => Sys2Proof.Machine.execLighthouseSample n a t next agree s
  | .exceptionEntry n => Sys2Proof.Machine.execExceptionEntry n s
  | .jobAbort p q => Sys2Proof.Machine.execJobAbort p q s
  | .jobCompletion p q => Sys2Proof.Machine.execJobCompletion p q s
  | .swaitRelease n => Sys2Proof.Machine.execSwaitRelease n s
  | .messagePlacement dst src => Sys2Proof.Machine.execMessagePlacement dst src s
  | .coreAlloc p => Sys2Proof.Machine.execCoreAlloc p s
  | .coreFree p => Sys2Proof.Machine.execCoreFree p s
  | .map p => Sys2Proof.Machine.execMap p s
  | .unmap p => Sys2Proof.Machine.execUnmap p s
  | .protect p => Sys2Proof.Machine.execProtect p s
  | .syncAlloc p => Sys2Proof.Machine.execSyncAlloc p s
  | .syncFree p => Sys2Proof.Machine.execSyncFree p s
  | .groupAlloc p => Sys2Proof.Machine.execGroupAlloc p s
  | .groupFree p => Sys2Proof.Machine.execGroupFree p s
  | .linkShare p => Sys2Proof.Machine.execLinkShare p s
  | .wqCreate p => Sys2Proof.Machine.execWqCreate p s
  | .wqDestroy p => Sys2Proof.Machine.execWqDestroy p s
  | .helmWqTailWrite m p q v => Sys2Proof.Machine.execHelmWqTailWrite m p q v s
  | .timeSliceExpiry p q => Sys2Proof.Machine.execTimeSliceExpiry p q s
  | .preemption p q => Sys2Proof.Machine.execPreemption p q s
  | .pageIn p va h lines => Sys2Proof.Machine.execPageIn p va h lines s
  | .accessCounterHalving => Sys2Proof.Machine.execAccessCounterHalving s
  | .frameMigration pa lines => Sys2Proof.Machine.execFrameMigration pa lines s
  | .census => Sys2Proof.Machine.execCensus s
  | .deadlockWindow p => Sys2Proof.Machine.execDeadlockWindow p s
  | .syncObjectSet m k v => Sys2Proof.Machine.execSyncObjectSet m k v s
  | .syncObjectAdd m k v => Sys2Proof.Machine.execSyncObjectAdd m k v s
  | .switch m n v => Sys2Proof.Machine.execSwitch m n v s
  | .programStage m n b k v => Sys2Proof.Machine.execProgramStage m n b k v s
  | .programCommit m n b k v => Sys2Proof.Machine.execProgramCommit m n b k v s
  | .codebookRegisterWrite m off v => Sys2Proof.Machine.execCodebookRegisterWrite m off v s
  | .coreReset m n => Sys2Proof.Machine.execCoreReset m n s
  | .helmEvqPop m p => Sys2Proof.Machine.execHelmEvqPop m p s
  | .msixHoldoffEnd p v => Sys2Proof.Machine.execMsixHoldoffEnd p v s
  | .chartRead m v => Sys2Proof.Machine.execChartRead m v s
  | .chartWrite m v => Sys2Proof.Machine.execChartWrite m v s
  | .form m g v => Sys2Proof.Machine.execForm m g v s
  | .groupAbort m g v => Sys2Proof.Machine.execGroupAbort m g v s
  | .cardSend g => Sys2Proof.Machine.execCardSend g s
  | .formationTimeout g => Sys2Proof.Machine.execFormationTimeout g s
  | .syncReqWaitEnd g => Sys2Proof.Machine.execSyncReqWaitEnd g s
  | .groupCard l k => Sys2Proof.Machine.execGroupCard l k s
  | .abortPacket l k => Sys2Proof.Machine.execAbortPacket l k s
  | .chunkData l k errs => Sys2Proof.Machine.execChunkData l k errs s
  | .chunkEnd l k => Sys2Proof.Machine.execChunkEnd l k s
  | .chunkRetryRequest l k => Sys2Proof.Machine.execChunkRetryRequest l k s
  | .slotClaim l k => Sys2Proof.Machine.execSlotClaim l k s
  | .slotRow l k => Sys2Proof.Machine.execSlotRow l k s
  | .beaconPacket l k => Sys2Proof.Machine.execBeaconPacket l k s
  | .flitReceive l f => Sys2Proof.Machine.execFlitReceive l f s
  | .replayTimeout l => Sys2Proof.Machine.execReplayTimeout l s
  | .writePacket l k => Sys2Proof.Machine.execWritePacket l k s
  | .readPacket l k => Sys2Proof.Machine.execReadPacket l k s
  | .readRsp l k => Sys2Proof.Machine.execReadRsp l k s
  | .atomicPacket l k => Sys2Proof.Machine.execAtomicPacket l k s
  | .atomicRsp l k => Sys2Proof.Machine.execAtomicRsp l k s
  | .reducePacket l k => Sys2Proof.Machine.execReducePacket l k s
  | .syncAddPacket l k => Sys2Proof.Machine.execSyncAddPacket l k s
  | .ackPacket l k => Sys2Proof.Machine.execAckPacket l k s
  | .unreach l k => Sys2Proof.Machine.execUnreach l k s
  | .endToEndResend dest sseq => Sys2Proof.Machine.execEndToEndResend dest sseq s
  | .ethernetFrame l f => Sys2Proof.Machine.execEthernetFrame l f s
  | .priorityFlowControl l pcp pause => Sys2Proof.Machine.execPriorityFlowControl l pcp pause s
  | .creditCensus l => Sys2Proof.Machine.execCreditCensus l s
  | .censusMarker l => Sys2Proof.Machine.execCensusMarker l s
  | .censusEcho l counts => Sys2Proof.Machine.execCensusEcho l counts s
  | .configurationBlock l b => Sys2Proof.Machine.execConfigurationBlock l b s
  | .meridianExchange l => Sys2Proof.Machine.execMeridianExchange l s
  | .meridianRequest l => Sys2Proof.Machine.execMeridianRequest l s
  | .meridianResponse l r => Sys2Proof.Machine.execMeridianResponse l r s
  | .linkEnable m l v => Sys2Proof.Machine.execLinkEnable m l v s
  | .linkDisable m l v => Sys2Proof.Machine.execLinkDisable m l v s
  | .retrain m l v => Sys2Proof.Machine.execRetrain m l v s
  | .fiMatchWrite m l r v => Sys2Proof.Machine.execFiMatchWrite m l r v s
  | .moduleIdentify l r => Sys2Proof.Machine.execModuleIdentify l r s
  | .absentPoll l answers => Sys2Proof.Machine.execAbsentPoll l answers s
  | .identityMemoryChange l => Sys2Proof.Machine.execIdentityMemoryChange l s
  | .receiverDetect l usable crossed => Sys2Proof.Machine.execReceiverDetect l usable crossed s
  | .detectRetry l => Sys2Proof.Machine.execDetectRetry l s
  | .trainingDone l t => Sys2Proof.Machine.execTrainingDone l t s
  | .trainTimeout l => Sys2Proof.Machine.execTrainTimeout l s
  | .configTimeout l => Sys2Proof.Machine.execConfigTimeout l s
  | .fecLockLoss l => Sys2Proof.Machine.execFecLockLoss l s
  | .downTimeout l => Sys2Proof.Machine.execDownTimeout l s
  | .memoryRequest q e errs => Sys2Proof.Machine.execMemoryRequest q e errs s
  | .writeCombiningAgeOut line e => Sys2Proof.Machine.execWriteCombiningAgeOut line e s
  | .patrolScrubRead sk errs => Sys2Proof.Machine.execPatrolScrubRead sk errs s
  | .hbmTemperatureReadout sk temp => Sys2Proof.Machine.execHbmTemperatureReadout sk temp s
  | .marginStart m sk v => Sys2Proof.Machine.execMarginStart m sk v s
  | .marginRunDone sk r => Sys2Proof.Machine.execMarginRunDone sk r s
  | .almanacCommit => Sys2Proof.Machine.execAlmanacCommit s
  | .almanacCommitDone => Sys2Proof.Machine.execAlmanacCommitDone s
  | .tagInterval n interval => Sys2Proof.Machine.execTagInterval n interval s
  | .stageRecord n r => Sys2Proof.Machine.execStageRecord n r s
  | .periodicDump p => Sys2Proof.Machine.execPeriodicDump p s
  | .ownerWrite m k v => Sys2Proof.Machine.execOwnerWrite m k v s
  | .dumpEnable m p v => Sys2Proof.Machine.execDumpEnable m p v s
  | .governorLoop g => Sys2Proof.Machine.execGovernorLoop g s
  | .governorCalibration watts => Sys2Proof.Machine.execGovernorCalibration watts s
  | .coreClockStep d => Sys2Proof.Machine.execCoreClockStep d s
  | .avsTransitionDone d => Sys2Proof.Machine.execAvsTransitionDone d s
  | .avsTimeout d confirmedMv => Sys2Proof.Machine.execAvsTimeout d confirmedMv s
  | .thermalSample u hot temp => Sys2Proof.Machine.execThermalSample u hot temp s
  | .thermalCeilingStep d => Sys2Proof.Machine.execThermalCeilingStep d s
  | .thermalPaceStep => Sys2Proof.Machine.execThermalPaceStep s
  | .thermalTrip u => Sys2Proof.Machine.execThermalTrip u s
  | .pwrBrakeFall => Sys2Proof.Machine.execPwrBrakeFall s
  | .pwrBrakeRise => Sys2Proof.Machine.execPwrBrakeRise s
  | .pmbusPoll r mv curr ok => Sys2Proof.Machine.execPmbusPoll r mv curr ok s
  | .pmbAlert status => Sys2Proof.Machine.execPmbAlert status s
  | .clockStretchTimeout cage seg freed => Sys2Proof.Machine.execClockStretchTimeout cage seg freed s
  | .segmentRetest seg passed => Sys2Proof.Machine.execSegmentRetest seg passed s
  | .sidebandStuck line high => Sys2Proof.Machine.execSidebandStuck line high s
  | .clockHalt k => Sys2Proof.Machine.execClockHalt k s
  | .crystalLoss => Sys2Proof.Machine.execCrystalLoss s
  | .sdsRefclkLoss q => Sys2Proof.Machine.execSdsRefclkLoss q s
  | .pcieRefclkLoss k => Sys2Proof.Machine.execPcieRefclkLoss k s
  | .powerOn straps => Sys2Proof.Machine.execPowerOn straps s
  | .deviceStart f => Sys2Proof.Machine.execDeviceStart f s
  | .initialFillDone => Sys2Proof.Machine.execInitialFillDone s
  | .boardReset straps => Sys2Proof.Machine.execBoardReset straps s
  | .mainPwrgdFall => Sys2Proof.Machine.execMainPwrgdFall s
  | .hubPwrgdFall => Sys2Proof.Machine.execHubPwrgdFall s
  | .pciePerst k => Sys2Proof.Machine.execPciePerst k s
  | .pcieLinkDown k => Sys2Proof.Machine.execPcieLinkDown k s
  | .functionLevelReset f => Sys2Proof.Machine.execFunctionLevelReset f s
  | .vfEnableClear k => Sys2Proof.Machine.execVfEnableClear k s
  | .partitionResetDone p => Sys2Proof.Machine.execPartitionResetDone p s
  | .bar2Read p va len => Sys2Proof.Machine.execBar2Read p va len s
  | .bar2Write p va data poison => Sys2Proof.Machine.execBar2Write p va data poison s
  | .partialBar0Access m off write => Sys2Proof.Machine.execPartialBar0Access m off write s
  | .lowWordRead m off => Sys2Proof.Machine.execLowWordRead m off s
  | .readClear m off => Sys2Proof.Machine.execReadClear m off s
  | .registerWrite m off v => Sys2Proof.Machine.execRegisterWrite m off v s
  | .lcResetVote p => Sys2Proof.Machine.execLcResetVote p s
  | .voteLapse k => Sys2Proof.Machine.execVoteLapse k s
  | .lcSeal v => Sys2Proof.Machine.execLcSeal v s
  | .mgmtRegisterRead off => Sys2Proof.Machine.execMgmtRegisterRead off s
  | .mgmtRegisterWrite off v => Sys2Proof.Machine.execMgmtRegisterWrite off v s
  | .warmDeviceReset => Sys2Proof.Machine.execWarmDeviceReset s
  | .releaseBringUpHold => Sys2Proof.Machine.execReleaseBringUpHold s
  | .readNonce nonce => Sys2Proof.Machine.execReadNonce nonce s
  | .submitUnlockToken token nonce => Sys2Proof.Machine.execSubmitUnlockToken token nonce s
  | .clearFatalSlot => Sys2Proof.Machine.execClearFatalSlot s
  | .revokeKeySlot slot => Sys2Proof.Machine.execRevokeKeySlot slot s
  | .mctpControl k => Sys2Proof.Machine.execMctpControl k s
  | .pldmDiscovery k => Sys2Proof.Machine.execPldmDiscovery k s
  | .pldmPlatform sensor => Sys2Proof.Machine.execPldmPlatform sensor s
  | .pldmFirmwareUpdate img => Sys2Proof.Machine.execPldmFirmwareUpdate img s
  | .vfEnableSet k => Sys2Proof.Machine.execVfEnableSet k s
  | .vendorProvisioning keys => Sys2Proof.Machine.execVendorProvisioning keys s
  | .jtagInstruction k => Sys2Proof.Machine.execJtagInstruction k s
  | .invalidOpcode n c => Sys2Proof.Machine.execInvalidOpcode n c s
  | .hbmRefresh sk => Sys2Proof.Machine.execHbmRefresh sk s
  | .sdsRefclkReturn q => Sys2Proof.Machine.execSdsRefclkReturn q s
  | .pcieRefclkReturn k => Sys2Proof.Machine.execPcieRefclkReturn k s
  | .pciePerstRelease k => Sys2Proof.Machine.execPciePerstRelease k s
  | .pcieLinkUp k rate width flit => Sys2Proof.Machine.execPcieLinkUp k rate width flit s
  | .configurationRequest k => Sys2Proof.Machine.execConfigurationRequest k s

end Sys2Proof.Machine
end

