-- ==== Sys2Proof/Machine/Idle.lean ====
section
/-! DEFINITION. What happens by itself: one hub cycle, which a step takes when no command waits (log entry 10). Meridian time runs (R368), hub
cycles are counted (R497), and receive buffers return their credits (R323). -/
namespace Sys2Proof.Machine

/-- Meridian time over one hub cycle of 5/7 ns, with the rate correction of R368. -/
def State.meridianTick (s : State) : State :=
  let a : Nat := s.fabric.merFrac + (5 * (1000000 + s.fabric.merRatePpm)).toNat
  s.onFabric (fun f => { f with merFrac := a % 7000000, merNs := (f.merNs + a / 7000000) % 2 ^ 64 })

/-- The flit that a native link sends between packets, where it has something to say: the credits of one pool, at most 255 at a time
(R317, R323), or an ACK that no flit has carried (R321). -/
def State.returnCredits (s : State) (l : Nat) : State :=
  if !nativeUp s l then s else
  let x := s.link l
  match x.owed.findIdx? (fun c => c != 0) with
  | none => if x.told == x.ack then s else s.sendFlits l [idleFlit x.ack 0 0 false]
  | some k =>
    let n := Nat.min 255 (x.owed.getD k 0)
    (s.onLink l (fun x => { x with
      owed := poolSub x.owed k n, free := poolAdd x.free k n, echo := x.echo.map (fun c => poolSub c k n) })).sendFlits l [idleFlit x.ack k n false]

/-- One hub cycle. Clocks that have halted, and a device without power, stand still. -/
def idle (s : State) : State :=
  if s.clockHalt || s.fld .lcStatus 0 0 0 31 28 == 0 then s else
  let s := ({ s with hubCycles := s.hubCycles + 1 }).meridianTick
  let s := s.hubEvent 0x41 1 ⟨0, 0, none, none⟩
  (s.fabric.links.map (·.1)).foldl (fun s l => s.returnCredits l) s

end Sys2Proof.Machine
end

