-- ==== Sys2Proof/Safety.lean ====
section
/-! DEFINITION. What counts as a safe run, and the terms in which statements speak of states: the canonical form of memory, the invariant
of every step, when a pilot command runs to its own effect, and a tensor descriptor as core store holds it. -/
namespace Sys2Proof

/-- A read that delivers the bytes as they were written (R258). -/
def Ecc.faithful : Ecc → Bool
  | .clean => true
  | .ce .. => true
  | .ue .. => false
  | .wrong .. => false

end Sys2Proof
namespace Sys2Proof.Machine

/-! ### Canonical memory -/

/-- The one form of a memory: addresses strictly rising, and no entry equal to what an unlisted address reads as (R265: zero). -/
abbrev Memory.wf (m : List Host.Cell) : Prop := m.Pairwise (fun x y => x.1 < y.1) ∧ ∀ c ∈ m, c.2 ≠ 0#8

/-- An entry of a write-combining buffer: the valid bytes of one line, by rising offset (R250). -/
abbrev WcEntry.wf (e : WcEntry) : Prop := e.bytes.Pairwise (fun x y => x.1 < y.1) ∧ ∀ c ∈ e.bytes, c.1 < 64

/-- The stacked memory: its bytes in canonical form, and at most one buffer entry for a line (R250). -/
abbrev Mem.wf (m : Mem) : Prop :=
  Memory.wf m.bytes ∧ m.wc.Pairwise (fun x y => x.line ≠ y.line) ∧ ∀ e ∈ m.wc, e.wf

/-! ### Runs -/

/-- A queue that holds only commands of the block. -/
def State.sound (s : State) : Prop := ∀ c ∈ s.pending, c.wf = true

/-- The life-cycle states of R453, in the order in which a part passes through them, and revoked slots that exist (R453). -/
def Fuses.legal (f : Fuses) : Prop := f.lifecycle ≤ 3 ∧ ∀ k ∈ f.revoked, k ≤ 4

/-- Every number of a partition, core, object, group, work queue or port that the state holds is one that the block has (R1, R12, R229, R276,
R291, R347, R432), and a port has one vote (R449). -/
def State.inRange (s : State) : Prop :=
  (∀ x ∈ s.parts, x.1 < 8 ∧ (∀ n ∈ x.2.cores, n < 192) ∧ (∀ o ∈ x.2.objects, o < 16384) ∧ (∀ g ∈ x.2.groups, g < 256) ∧
    ∀ q ∈ x.2.queues, q.q < 64) ∧
  (∀ x ∈ s.fabric.groups, x.1 < 256 ∧ x.2.part < 8 ∧ (∀ d ∈ x.2.queue, d.core < 192) ∧ ∀ b ∈ x.2.beacons, b.core < 192) ∧
  (∀ e ∈ s.fabric.experts, e.core < 192 ∧ e.group < 256) ∧ s.votes.Pairwise (· < ·) ∧ (∀ k ∈ s.votes, k < 4) ∧
  s.reqTurn < 8

/-- The lists that stand for a fixed number of like things have that number: the slots of the flash (R417, R441), the dies (R467) and the
pins of ports and link quarters (R461, R519). -/
def State.lengths (s : State) : Prop :=
  s.flash.dirs.length = 2 ∧ s.flash.slots.length = 2 ∧ (∀ x ∈ s.flash.almanacs, x.2.copies.length = 2) ∧ s.power.ceiling.length = 2 ∧ s.power.confirmed.length = 2 ∧
  s.power.cap.length = 2 ∧ s.power.stepUp.length = 2 ∧ s.pins.perstN.length = 4 ∧ s.pins.sdsRef.length = 4 ∧ s.pins.pcieRef.length = 4

/-- What holds of every state that a run reaches: memory is in its canonical form, the life-cycle fuses are legal, numbers are in range,
lists have their lengths, and the queue holds only commands of the block. -/
def State.inv (s : State) : Prop := s.mem.wf ∧ s.fuses.legal ∧ s.inRange ∧ s.lengths ∧ s.sound

/-! ### Pilot commands -/

/-- The CC of the command that the core issues next (R203). -/
def State.ccNext (s : State) (n : Nat) : Nat := ((s.core n).cc + 1) % 2 ^ 64

/-- Core n has issued a command (R203, R494, R500): CC counts, CP moves past it, the counters and the tagging see it. -/
def State.issue (s : State) (n : Nat) (c : Cmd) : State :=
  ((s.onCore n Core.issued).coreEvent n 0x02 1 none).tagIssue n c (s.ccNext n)

/-- A command that passes the checks which every command passes (R208 to R211, R230). -/
def State.passes (s : State) (n : Nat) (c : Cmd) : Prop :=
  c.clean = true ∧ (c.sig = true → ∃ p, s.holder n = some p ∧ s.objHeld p c.sigObj = true) ∧
  (c.op = 0x05 → c.vary = true → (s.core n).reckon = false) ∧
  ∀ o, opSpec c.op = some o → o.var = 2 → c.vary = true

/-- Core n may issue the command c now and nothing stops it: the fetch succeeds, no register that it reads carries a poison tag, the
checks of every command hold, and it is not one that a recording in progress would copy (R205, R219, R396, R409). -/
def State.canRun (s : State) (n : Nat) (c : Cmd) : Prop :=
  s.mayIssue n c = true ∧ s.fetchStop n = none ∧ s.passes n c ∧
  (c.readsOf.any (s.core n).tags.contains) = false ∧
  ((s.core n).recording = none ∨ notRecorded c.op = true ∨ (s.core n).occupied = true)

/-- The command answers a next state that is the completion (R207, R208, R240) of a state u with P, after its own effect. -/
def completes (i : Instr) (n : Nat) (c : Cmd) (s : State) (P : State → Prop) : Prop :=
  ∃ u flags, exec i s = .next (u.complete n c (s.ccNext n) flags) ∧ P u

/-- The value of W3[k] (R213). -/
def State.w3of (s : State) (n : Nat) (c : Cmd) (k : Nat) : Nat := ((s.core n).xval (c.idx k)).toNat

/-- Nothing of a core but its registers, CP and CC differs from what it was. -/
def Core.onlyPilot (k k' : Core) : Prop :=
  k' = { k with x := k'.x, tags := k'.tags, cp := k'.cp, cc := k'.cc, tagCount := k'.tagCount, tagArmed := k'.tagArmed, stirred := k'.stirred }

/-- Memory, the other cores, the partitions, the fabric and everything that is neither a counter nor core n is as it was. -/
def State.onlyCore (n : Nat) (s t : State) : Prop :=
  t = { s with cores := t.cores, regs := t.regs, tagged := t.tagged } ∧ ∀ m, m ≠ n → t.core m = s.core m

/-- The tensor descriptor at offset a of core store, where it lies aligned and passes every check of R217 and R110. -/
def Core.descAt (k : Core) (a : Nat) : Option Desc :=
  if a % 128 = 0 ∧ a + 128 ≤ shadowBase then
    let b := (k.csRead a 128).1
    match Format.ofCode (leAt b 28 4 % 16) with
    | some f => if (descChecks b f (parseDesc a b f)).all (·.1) then some (parseDesc a b f) else none
    | none => none
  else none

/-- Every byte of [va, va + len) translates to a resident page without H, for reading or for writing (R286). -/
def Part.maps (x : Part) (va len : Nat) (write : Bool) : Prop :=
  ∀ a, va ≤ a → a < va + len → ∃ pa, x.xlate a write = .here pa false

/-- One resident page without H holds all of [va, va + len), and may be written where `write` (R286). -/
def Part.onePage (x : Part) (va len : Nat) (write : Bool) : Prop :=
  ∃ g f, g.frame = some f ∧ g.h = false ∧ (write = true → g.w = true) ∧ ∀ a, va ≤ a → a < va + len → x.page? a = some g

/-- A plain tensor in core store whose rows lie below the shadow frame (R217, R221). -/
def Desc.plainCore (d : Desc) : Prop := d.fmt.isSlab = false ∧ d.loc = true ∧ d.base + d.extent ≤ shadowBase

/-- A byte of core store that belongs to no element of a plain tensor. -/
def Desc.outside (d : Desc) (a : Nat) : Prop :=
  ∀ r, r < d.rows → a < d.elemAddr r 0 ∨ d.elemAddr r 0 + d.cols * d.fmt.bytes ≤ a

/-- Helm has ended the request of partition p: DONE, not BUSY, with its code and result, and the turn is the next partition's (R281, R285). -/
def State.answered (t : State) (p code result : Nat) : Prop :=
  t.reqTurn = (p + 1) % 8 ∧ (t.part p).request = none ∧ t.fld .helmReqStatus 0 p 0 31 31 = 0 ∧ t.fld .helmReqStatus 0 p 0 30 30 = 1 ∧
  t.fld .helmReqStatus 0 p 0 15 8 = code ∧ t.fld .helmReqStatus 0 p 0 7 0 = result

/-- The byte that physical address a of device memory reads as: a buffer entry of its line first leaves (R251). -/
def State.byteAt (s : State) (a : Nat) : List Byte := ((s.mem.settle a 1).look a 1).1

/-- Memory after the memory-side adds of one row of core k's store to virtual address `dst`: its elements by rising address, each with the
poison of its line (R254, R255, R262). -/
def Mem.addRow (m : Mem) (x : Part) (k : Core) (ty : AddTy) (dst src len : Nat) (poison : Bool) : Mem :=
  (linePieces src len).foldl (fun m y =>
    let d := k.csRead y.1 y.2
    (List.range (d.1.length / ty.bytes)).foldl (fun m e =>
      match x.xlate (dst + (y.1 - src) + e * ty.bytes) true with
      | .here pa _ => (m.addAt ty pa (leAt d.1 (e * ty.bytes) ty.bytes) (d.2 || poison)).1
      | _ => m) m) m

/-- Byte a of core n's store. -/
def State.csByte (s : State) (n a : Nat) : Byte := tabGet (s.core n).cs a 0#8

end Sys2Proof.Machine
end

