-- ==== Sys2Proof/Certificates/Slice0/Obligations.lean ====
section
/-! DEFINITION. The statements for the provers: one proposition for each rule, or group of rules, of the spec. `next` below stands for the
outcome of a command that answers a next state; what a statement leaves unsaid of that state it takes from the named operation that it
writes out. -/

open Sys2Proof Sys2Proof.Machine

/-- R212: the result of each arithmetic command, on the values of its registers before it, is what rd receives; the rest of the next
state is the issue (R203) and the completion (R207, R208). -/
def Obligations.ScalarArithmetic : Prop :=
  ∀ (n : Nat) (c : Cmd) (s : State), n < 192 → s.canRun n c →
    let a := (s.core n).xval c.ra
    let b := (s.core n).xval c.rb
    let ends (v : DWord) : Host.Outcome State Fault Refusal :=
      .next (((s.issue n c).onCore n (fun k => k.setX c.rd v false)).complete n c (s.ccNext n) 0)
    (c.op = 0x40 → exec (.li n c) s = ends c.w2) ∧
    (c.op = 0x41 → exec (.mov n c) s = ends a) ∧
    (c.op = 0x42 → exec (.add n c) s = ends (a + b)) ∧
    (c.op = 0x43 → exec (.sub n c) s = ends (a - b)) ∧
    (c.op = 0x44 → exec (.mul n c) s = ends (a * b)) ∧
    (c.op = 0x45 → exec (.addi n c) s = ends (a + c.w2)) ∧
    (c.op = 0x46 → exec (.and n c) s = ends (a &&& b)) ∧
    (c.op = 0x47 → exec (.or n c) s = ends (a ||| b)) ∧
    (c.op = 0x48 → exec (.xor n c) s = ends (a ^^^ b)) ∧
    (c.op = 0x49 → exec (.shl n c) s = ends (a <<< (b.toNat % 64))) ∧
    (c.op = 0x4A → exec (.shr n c) s = ends (a >>> (b.toNat % 64))) ∧
    (c.op = 0x4B → exec (.sra n c) s = ends (a.sshiftRight (b.toNat % 64))) ∧
    (c.op = 0x4C → exec (.slt n c) s = ends (if a.toInt < b.toInt then 1#64 else 0#64))

/-- R212: where each branch, JMP and LOOP goes. x0 as the counter of LOOP reads 0 after the write (R203), so such a LOOP never branches. -/
def Obligations.BranchesAndJumps : Prop :=
  ∀ (n : Nat) (c : Cmd) (s : State), n < 192 → s.canRun n c →
    let a := (s.core n).xval c.ra
    let b := (s.core n).xval c.rb
    let u := s.issue n c
    let landing (t : State) (taken : Bool) : Host.Outcome State Fault Refusal :=
      .next ((if taken then t.onCore n (fun k => { k with cp := c.w2.toNat }) else t).complete n c (s.ccNext n) 0)
    (c.w2.toNat % 32 = 0 → c.w2.toNat < 2 ^ 48 →
      (c.op = 0x4D → exec (.beq n c) s = landing u (decide (a = b))) ∧
      (c.op = 0x4E → exec (.bne n c) s = landing u (decide (a ≠ b))) ∧
      (c.op = 0x4F → exec (.blt n c) s = landing u (decide (a.toInt < b.toInt))) ∧
      (c.op = 0x50 → exec (.bge n c) s = landing u (decide (b.toInt ≤ a.toInt))) ∧
      (c.op = 0x51 → exec (.jmp n c) s = landing u true) ∧
      (c.op = 0x54 → exec (.loop n c) s =
        landing (u.onCore n (fun k => k.setX c.ra (a - 1#64) false)) (decide (c.ra ≠ 0 ∧ a - 1#64 ≠ 0#64)))) ∧
    (c.w2.toNat % 32 ≠ 0 → c.op = 0x51 →
      exec (.jmp n c) s = .next (u.failed n c (s.core n).cp (s.ccNext n) 0x05 0 0))

/-- R212, with the scalar address fault of R219 for a stack slot outside the space below the shadow frame. -/
def Obligations.CallAndReturn : Prop :=
  ∀ (n : Nat) (c : Cmd) (s : State), n < 192 → s.canRun n c →
    let sp := (s.core n).xval 63
    let u := s.issue n c
    let slotOk (a : Nat) : Prop := a % 8 = 0 ∧ a + 8 ≤ shadowBase
    (c.op = 0x52 → c.w2.toNat % 32 = 0 → c.w2.toNat < 2 ^ 48 → slotOk (sp - 8#64).toNat →
      exec (.call n c) s = .next ((u.onCore n (fun k =>
        { (k.csWrite (sp - 8#64).toNat (leBytes (((s.core n).cp + 32) % 2 ^ 48) 8) false).setX 63 (sp - 8#64) false with
          cp := c.w2.toNat })).complete n c (s.ccNext n) 0)) ∧
    (c.op = 0x52 → c.w2.toNat % 32 = 0 → c.w2.toNat < 2 ^ 48 → ¬ slotOk (sp - 8#64).toNat →
      exec (.call n c) s = .next (u.failed n c (s.core n).cp (s.ccNext n) 0x50 0 (sp - 8#64).toNat)) ∧
    (∀ t, c.op = 0x53 → slotOk sp.toNat → (s.core n).csRead sp.toNat 8 = (leBytes t 8, false) → t % 32 = 0 → t < 2 ^ 48 →
      exec (.ret n c) s = .next ((u.onCore n (fun k => { k.setX 63 (sp + 8#64) false with cp := t })).complete n c (s.ccNext n) 0))

/-- R212: the effect of LD, ST and RDC in both spaces, and the scalar address fault of R219. Memory accesses go through the translation
of R286 and count their page (R290) and their events (R497). -/
def Obligations.LoadsAndStores : Prop :=
  ∀ (n : Nat) (c : Cmd) (s : State), n < 192 → s.canRun n c →
    let a := ((s.core n).xval c.ra + c.w2).toNat
    let v := leBytes ((s.core n).xval c.rb).toNat 8
    let u := s.issue n c
    let csOk : Prop := a % 8 = 0 ∧ (a + 8 ≤ shadowBase ∨ ((s.core n).occupied = true ∧ a + 8 ≤ 0x400000))
    let ends (t : State) : Host.Outcome State Fault Refusal := .next (t.complete n c (s.ccNext n) 0)
    (c.op = 0x55 → c.w1.getLsbD 18 = true → csOk → ((s.core n).csRead a 8).2 = false →
      exec (.ld n c) s = ends (u.onCore n (fun k => k.setX c.rd (BitVec.ofNat 64 (leNat ((s.core n).csRead a 8).1)) false))) ∧
    (c.op = 0x56 → c.w1.getLsbD 18 = true → csOk → exec (.st n c) s = ends (u.onCore n (fun k => k.csWrite a v false))) ∧
    (∀ p pa h, s.holder n = some p → a % 8 = 0 → a + 8 ≤ 2 ^ 48 → c.w1.getLsbD 18 = false →
      (c.op = 0x55 → (s.part p).xlate a false = .here pa h → ((s.mem.settle pa 8).look pa 8).2 = false →
        ∃ t : State, exec (.ld n c) s = ends (t.onCore n (fun k => k.setX c.rd (BitVec.ofNat 64 (leNat ((s.mem.settle pa 8).look pa 8).1)) false)) ∧
          t.mem = s.mem.settle pa 8 ∧ t.cores = u.cores) ∧
      (c.op = 0x56 → (s.part p).xlate a true = .here pa h →
        ∃ t : State, exec (.st n c) s = ends t ∧ t.mem = s.mem.write s.grade pa v false ∧ t.cores = u.cores)) ∧
    (c.op = 0x57 → c.w2.toNat % 4 = 0 → c.w2.toNat < 0x10000 →
      let r := rdcRead u n c.w2.toNat
      exec (.rdc n c) s = ends (r.2.onCore n (fun k => k.setX c.rd (r.1.setWidth 64) false))) ∧
    (c.op = 0x55 → c.w1.getLsbD 18 = true → a % 8 ≠ 0 →
      exec (.ld n c) s = .next (u.failed n c (s.core n).cp (s.ccNext n) 0x50 0 a))

/-- R203: x0 reads 0 and ignores writes; the other registers hold what was last written to them. -/
def Obligations.ZeroRegister : Prop :=
  ∀ (k : Core) (r : Nat) (v : DWord) (tag : Bool),
    k.xval 0 = 0#64 ∧ k.setX 0 v tag = k ∧
    (r ≠ 0 → (k.setX r v tag).xval r = v ∧ ((k.setX r v tag).tags.contains r) = tag) ∧
    (∀ q, q ≠ r → (k.setX r v tag).xval q = k.xval q ∧ (k.setX r v tag).tags.contains q = k.tags.contains q) ∧
    (k.setX r v tag).cs = k.cs ∧ (k.setX r v tag).cp = k.cp ∧ (k.setX r v tag).cc = k.cc ∧ (k.setX r v tag).acc = k.acc

/-- R203 and R207, R208, R240: the frame that every pilot command shares. -/
def Obligations.IssueAndCompletion : Prop :=
  ∀ (n : Nat) (c : Cmd) (s : State) (cc flags : Nat),
    (((s.issue n c).core n).cc = ((s.core n).cc + 1) % 2 ^ 64 ∧ ((s.issue n c).core n).cp = ((s.core n).cp + 32) % 2 ^ 48 ∧
      (∀ m, m ≠ n → (s.issue n c).core m = s.core m) ∧ (∀ m k, ((s.issue n c).core m).xval k = (s.core m).xval k) ∧
      (∀ m a len, ((s.issue n c).core m).csRead a len = (s.core m).csRead a len) ∧ (s.issue n c).mem = s.mem ∧
      ∀ r b i j, Reg.addr r b i j < 0x05000000 → (s.issue n c).rd r b i j = s.rd r b i j) ∧
    (c.sig = false → c.irq = false → s.complete n c cc flags = s.orReg .coreFlags n 0 0 flags) ∧
    (n < 192 → c.sig = true → c.irq = false → c.sigObj < 16384 →
      ((s.complete n c cc flags).rd .helmSyncCount 0 c.sigObj).toNat =
        min ((s.rd .helmSyncCount 0 c.sigObj).toNat + c.sigAdd) 0xFFFFFFFF) ∧
    ((s.complete n c cc flags).mem = s.mem ∧ ∀ m, ((s.complete n c cc flags).core m).cs = (s.core m).cs ∧
      ((s.complete n c cc flags).core m).acc = (s.core m).acc ∧ ((s.complete n c cc flags).core m).x = (s.core m).x)

/-- R210, R207, R223 and the doorbell cause of R436. -/
def Obligations.PilotControl : Prop :=
  ∀ (n : Nat) (c : Cmd) (s : State), n < 192 → s.canRun n c →
    let u := s.issue n c
    let ends (t : State) : Host.Outcome State Fault Refusal := .next (t.complete n c (s.ccNext n) 0)
    (c.op = 0x00 → exec (.nop n c) s = ends u) ∧
    (c.op = 0x2D → (s.core n).inFlight = 0 → exec (.fence n c) s = ends u) ∧
    (c.op = 0x2D → (s.core n).inFlight ≠ 0 → exec (.fence n c) s = .next s) ∧
    (∀ p, c.op = 0x2E → s.holder n = some p → s.evqFull p = false → exec (.doorbell n c) s = ends (u.raise p 1 n c.tag (s.w3of n c 0))) ∧
    (c.op = 0x3F → leNat ((s.core n).csRead 0x3FFE08 8).1 % 32 = 0 → exec (.retx n c) s = ends (u.exceptionReturn n))

/-- R216, with the combination that R292 makes of the codes. -/
def Obligations.HaltCodes : Prop :=
  (∀ (n : Nat) (c : Cmd) (s : State), n < 192 → s.canRun n c → c.op = 0x3E →
    let u := s.issue n c
    let code := s.w3of n c 0 % 2 ^ 32
    (code < 0xFFFFFFF0 → completes (.halt n c) n c s (fun t => (t.core n).pilot = .halted ∧ (t.core n).haltCode = some code)) ∧
    (0xFFFFFFF0 ≤ code → exec (.halt n c) s = .next (u.failed n c (s.core n).cp (s.ccNext n) 0x13 0 0) ∧
      ((u.failed n c (s.core n).cp (s.ccNext n) 0x13 0 0).core n).pilot = (s.core n).pilot ∧
      ((u.failed n c (s.core n).cp (s.ccNext n) 0x13 0 0).core n).haltCode = (s.core n).haltCode)) ∧
  (∀ (ns : List Nat) (s : State), (∀ n ∈ ns, (s.core n).fatal = false) →
    ((∀ n ∈ ns, (s.core n).haltCode.getD 0 = 0) → s.jobCode ns = 0) ∧
    ∀ n ∈ ns, (s.core n).haltCode.getD 0 ≠ 0 → (∀ m ∈ ns, m < n → (s.core m).haltCode.getD 0 = 0) →
      s.jobCode ns = (s.core n).haltCode.getD 0)

/-- R219: a refused command has no effect, a stopped command keeps the effects it made before it stopped; R210: an opcode absent from both
tables is refused as an invalid opcode. -/
def Obligations.RefusedCommands : Prop :=
  (∀ (n : Nat) (c : Cmd) (s : State) (body : CM Bool) (code a : Nat) (r : Run), s.canRun n c →
    body.run.run ⟨s.issue n c, 0, none⟩ = (.error (.status code a), r) →
    (code < 0x40 ∨ code = 0x50 →
      pilotRun n c body s = (s.issue n c).failed n c (s.core n).cp (s.ccNext n) code r.flags a ∧
      (pilotRun n c body s).mem = s.mem ∧ ∀ m, ((pilotRun n c body s).core m).cs = (s.core m).cs ∧
        ((pilotRun n c body s).core m).x = (s.core m).x) ∧
    (0x40 ≤ code → code ≠ 0x50 →
      pilotRun n c body s = r.s.failed n c (s.core n).cp (s.ccNext n) code r.flags a)) ∧
  (∀ (n : Nat) (c : Cmd) (s : State), n < 192 → opKnown c.op = false → s.mayIssue n c = true → s.fetchStop n = none →
    ((s.core n).recording = none ∨ notRecorded c.op = true) →
    exec (.invalidOpcode n c) s = .next (((s.issue n c).orReg .coreFlags n 0 0 0).onCore n (fun k =>
      { k with failures := [⟨c, (s.core n).cp, ((s.core n).cp + 32) % 2 ^ 48, s.ccNext n, 0x01, 0, 0, true⟩] })))

/-- R222, R225 and R223 over the frame of R221. -/
def Obligations.ExceptionEntryAndReturn : Prop :=
  ∀ (n : Nat) (s : State) (f : Failure) (rest : List Failure), n < 192 → (s.core n).exceptionDue = true →
    sortFailures (s.core n).failures = f :: rest →
    ((s.core n).occupied = false → ∃ t : State, exec (.exceptionEntry n) s = .next t ∧
      (t.core n).occupied = true ∧ (t.core n).failures = [] ∧ (t.core n).queued = rest.take 32 ∧
      (t.core n).cp = s.rd64 .coreExcVecLo .coreExcVecHi n ∧ (t.core n).x = (s.core n).x ∧
      cellsRead (t.core n).cs 0x3FFC00 (frameBytes (s.core n) f (rest.take 32).length).length =
        frameBytes (s.core n) f (rest.take 32).length ∧
      (∀ a, a < 0x3FFC00 → tabGet (t.core n).cs a 0#8 = tabGet (s.core n).cs a 0#8) ∧ t.mem = s.mem ∧
      (∀ m, m ≠ n → t.core m = s.core m)) ∧
    ((s.core n).occupied = true → ∃ t : State, exec (.exceptionEntry n) s = .next t ∧
      (t.core n).pilot = .halted ∧ (t.core n).fatal = true ∧ (t.core n).cs = (s.core n).cs ∧ (t.core n).cp = (s.core n).cp ∧
      t.mem = s.mem ∧ (f.status < 256 → t.fld .coreExc n 0 0 15 8 = f.status)) ∧
    ((s.core n).occupied = false → rest = [] → f.next < 2 ^ 48 →
      let t := (s.enterException n f []).exceptionReturn n
      (∀ k, k < 64 → (t.core n).xval k = (s.core n).xval k) ∧ (t.core n).cp = f.next ∧ (t.core n).occupied = false)

/-- R229 to R231 and R243: the operations on an object from each of its sources, the counter and the SAT bit that each leaves, and the waits
that it meets. -/
def Obligations.SyncObjects : Prop :=
  (∀ (n : Nat) (c : Cmd) (s : State), n < 192 → s.canRun n c →
    let k := s.w3of n c 0 % 2 ^ 14
    let a := s.w3of n c 1 % 2 ^ 32
    let u := s.issue n c
    let ends (t : State) : Host.Outcome State Fault Refusal := .next (t.complete n c (s.ccNext n) 0)
    (∀ p, s.holder n = some p → s.objHeld p k = true →
      (c.op = 0x29 → exec (.ssignal n c) s = ends (if a = 0 then u else u.syncAdd k a)) ∧
      (c.op = 0x2A → exec (.sset n c) s = ends (u.syncSet k (s.w3of n c 1))) ∧
      (c.op = 0x28 → a ≤ (s.rd .helmSyncCount 0 k).toNat → exec (.swait n c) s = ends u) ∧
      (c.op = 0x28 → (s.rd .helmSyncCount 0 k).toNat < a →
        exec (.swait n c) s = .next (u.onCore n (fun x => { x with pilot := .waitSync k a false, blocked := some c })))) ∧
    (∀ p, s.holder n = some p → s.objHeld p k = false →
      let refused : Host.Outcome State Fault Refusal := .next (u.failed n c (s.core n).cp (s.ccNext n) 0x0E 0 0)
      (c.op = 0x28 → exec (.swait n c) s = refused) ∧ (c.op = 0x29 → exec (.ssignal n c) s = refused) ∧
      (c.op = 0x2A → exec (.sset n c) s = refused))) ∧
  (∀ (n o t : Nat) (c : Cmd) (s : State), n < 192 → (s.core n).pilot = .waitSync o t true → (s.core n).blocked = some c →
    (s.core n).frozen = false → exec (.swaitRelease n) s =
      .next ((s.onCore n (fun k => { k with pilot := .running, blocked := none })).complete n c (s.core n).cc 0)) ∧
  (∀ (m : Master) (k : Nat) (v : Word) (s : State), m.wf = true → k < 16384 → s.reachesObj m k = true → s.bar2Waits m = false →
    exec (.syncObjectSet m k v) s = .next (((s.unlatch m).syncSet k v.toNat).touched m) ∧
    (v ≠ 0#32 → exec (.syncObjectAdd m k v) s = .next (((s.unlatch m).syncAdd k v.toNat).touched m)) ∧
    (v = 0#32 → exec (.syncObjectAdd m k v) s = .next ((s.unlatch m).touched m))) ∧
  (∀ (s : State) (k a v : Nat), k < 16384 →
    let sum := (s.rd .helmSyncCount 0 k).toNat + a
    ((s.syncAdd k a).rd .helmSyncCount 0 k).toNat = min sum 0xFFFFFFFF ∧
    (s.syncAdd k a).fld .helmSyncCtl 0 k 0 2 2 = (if 0xFFFFFFFF < sum then 1 else s.fld .helmSyncCtl 0 k 0 2 2) ∧
    (s.syncSet k v).rd .helmSyncCount 0 k = BitVec.ofNat 32 v ∧
    ∀ n th b, (s.core n).pilot = .waitSync k th b →
      (th ≤ min sum 0xFFFFFFFF → ((s.syncAdd k a).core n).pilot = .waitSync k th true) ∧
      (th ≤ v % 2 ^ 32 → ((s.syncSet k v).core n).pilot = .waitSync k th true))

/-- R233, for both kinds of update that R230 gives an object. -/
def Obligations.ThresholdInterrupt : Prop :=
  ∀ (s t : State) (k a : Nat), k < 16384 → (t = s.syncSet k a ∨ t = s.syncAdd k a) →
    let old := (s.rd .helmSyncCount 0 k).toNat
    let new := (t.rd .helmSyncCount 0 k).toNat
    let th := (s.rd .helmSyncIrq 0 k).toNat
    let p := s.fld .helmSyncCtl 0 k 0 6 4
    (s.fld .helmSyncCtl 0 k 0 0 0 = 1 ∧ old < th ∧ th ≤ new →
      t.fld .helmSyncCtl 0 k 0 1 1 = 1 ∧ (t.rd .helmIrqStatus 0 p).getLsbD 3 = true ∧
      (s.evqFull p = false → (t.part p).evq = (s.part p).evq ++ [⟨3, k, 0, new⟩] ∧
        ((s.rd .helmIrqMask 0 p).getLsbD 3 = false → (s.part p).msixHold.contains 2 = false → (s.msixRd (.vf p) 44).getLsbD 0 = false →
          t.out = s.out ++ [.msix (.vf p) 2]))) ∧
    (¬ (s.fld .helmSyncCtl 0 k 0 0 0 = 1 ∧ old < th ∧ th ≤ new) →
      t.fld .helmSyncCtl 0 k 0 1 1 = s.fld .helmSyncCtl 0 k 0 1 1 ∧ t.parts = s.parts ∧ t.out = s.out)

/-- R226 to R228. -/
def Obligations.Mailboxes : Prop :=
  (∀ (n : Nat) (c : Cmd) (s : State), n < 192 → s.canRun n c →
    let u := s.issue n c
    let len := bits c.w2.toNat 24 16
    let dst := bits c.w2.toNat 7 0
    let off := bits c.w1.toNat 21 0
    (c.op = 0x2B → 8 ≤ len → len ≤ 256 → len % 8 = 0 → dst < s.nCores → s.holder dst = s.holder n → s.withheld dst = false →
      off + len ≤ shadowBase → (s.core n).sends.length < 64 →
      exec (.msend n c) s = .next (u.onCore n (fun k => { k with sends := k.sends ++
        [⟨dst, ⟨n, bits c.w2.toNat 15 8, ((s.core n).csRead off len).1, ((s.core n).csRead off len).2⟩, c, s.ccNext n, none, false⟩] }))) ∧
    (c.op = 0x2C → (Cmd.recvSrc c = 0x3FFF ∧ c.vary = true ∨ Cmd.recvSrc c < s.nCores) →
      (Cmd.recvRegs c = true ∨ off + 8 ≤ shadowBase) →
      let pick := u.pickMsg n c (Cmd.recvSrc c) (Cmd.recvTag c) (Cmd.recvAny c)
      ((s.core n).reckon = false → pick = (s.core n).mailbox.findIdx? (fun m => m.fits (Cmd.recvSrc c) (Cmd.recvTag c) (Cmd.recvAny c))) ∧
      (∀ i m, pick = some i → (s.core n).mailbox[i]? = some m →
        (Cmd.recvRegs c = true ∨ off + m.data.length ≤ shadowBase →
          exec (.mrecv n c []) s = .next ((u.takeMsg n c i).complete n c (s.ccNext n) (if m.poison then 0x200 else 0))) ∧
        (Cmd.recvRegs c = false → shadowBase < off + m.data.length →
          exec (.mrecv n c []) s = .next (u.failed n c (s.core n).cp (s.ccNext n) 0x11 0 0))) ∧
      (pick = none →
        exec (.mrecv n c []) s = .next (u.onCore n (fun k => { k with
          pilot := .waitMsg (Cmd.recvSrc c) (Cmd.recvTag c) (Cmd.recvAny c), blocked := some c }))))) ∧
  (∀ (n i : Nat) (c : Cmd) (m : Msg) (s : State), (s.core n).mailbox[i]? = some m →
    let t := s.takeMsg n c i
    let off := bits c.w1.toNat 21 0
    (t.core n).mailbox = (s.core n).mailbox.eraseIdx i ∧
    (c.idx 0 ≠ 0 → (t.core n).xval (c.idx 0) = BitVec.ofNat 64 (m.data.length + m.tag * 2 ^ 16 + m.src * 2 ^ 24)) ∧
    (Cmd.recvRegs c = false → cellsRead (t.core n).cs off m.data.length = m.data ∧
      (∀ a, a < off ∨ off + m.data.length ≤ a → t.csByte n a = s.csByte n a) ∧
      ∀ q, q ≠ c.idx 0 → (t.core n).xval q = (s.core n).xval q) ∧
    (Cmd.recvRegs c = true → (t.core n).cs = (s.core n).cs ∧
      (∀ j, j < m.data.length / 8 → j + 1 ≠ c.idx 0 → (t.core n).xval (j + 1) = BitVec.ofNat 64 (leAt m.data (8 * j) 8)) ∧
      ∀ q, m.data.length / 8 < q → q ≠ c.idx 0 → (t.core n).xval q = (s.core n).xval q)) ∧
  (∀ (dst src : Nat) (m : Send) (s : State), (s.core src).sends.find? (fun x => x.dst == dst) = some m → m.retried = none →
    ((s.core dst).mailbox.length + s.calledCount dst < 64 → (s.core dst).blocked = none → dst ≠ src →
      ∃ t : State, exec (.messagePlacement dst src) s = .next (t.complete src m.cmd m.cc (if m.msg.poison then 0x200 else 0)) ∧
        (t.core dst).mailbox = (s.core dst).mailbox ++ [m.msg] ∧
        (t.core src).sends = (s.core src).sends.filter (fun x => x.cc != m.cc)) ∧
    (∀ c o tg any i, (s.core dst).mailbox.length + s.calledCount dst < 64 → dst ≠ src → (s.core dst).pilot = .waitMsg o tg any →
      (s.core dst).blocked = some c → (s.core dst).frozen = false →
      let t := ((s.onCore src (fun k => { k with stirred := true, sends := k.sends.filter (fun x => x.cc != m.cc) })).onCore dst
        (fun k => { k with mailbox := k.mailbox ++ [m.msg] })).complete src m.cmd m.cc (if m.msg.poison then 0x200 else 0)
      t.pickMsg dst c o tg any = some i → exec (.messagePlacement dst src) s = .next (t.endRecv dst c i)) ∧
    (64 ≤ (s.core dst).mailbox.length + s.calledCount dst → m.called = false →
      ∃ (t : State) (r : Nat), exec (.messagePlacement dst src) s = .next t ∧ (t.core dst).mailbox = (s.core dst).mailbox ∧
        (t.core src).sends = (s.core src).sends.map (fun x => if x.cc == m.cc then { x with retried := some r } else x) ∧ t.mem = s.mem))

/-- R213 for CSCOPY and for the plain form of COPY (R218) within core store. -/
def Obligations.CoreStoreCopies : Prop :=
  ∀ (n : Nat) (c : Cmd) (s : State), n < 192 → s.canRun n c →
    (c.op = 0x02 →
      let len := s.w3of n c 0
      let src := bits c.w1.toNat 21 0
      let dst := bits c.w2.toNat 21 0
      let m := bits c.w2.toNat 39 32
      len % 32 = 0 → 32 ≤ len → m < s.nCores → s.holder m = s.holder n → s.withheld m = false →
      src + len ≤ shadowBase → dst + len ≤ shadowBase →
      completes (.cscopy n c) n c s (fun u =>
        (∀ j, j < len → u.csByte m (dst + j) = s.csByte n (src + j)) ∧
        (∀ a, a < dst ∨ dst + len ≤ a → u.csByte m a = s.csByte m a) ∧
        (∀ q a, q ≠ m → u.csByte q a = s.csByte q a) ∧ u.mem = s.mem ∧ ∀ q k, (u.core q).xval k = (s.core q).xval k)) ∧
    (c.op = 0x01 → locOf c.w1 = true → locOf c.w2 = true →
      ∀ sd dd, (s.core n).descAt (addrOf c.w1) = some sd → (s.core n).descAt (addrOf c.w2) = some dd →
      sd.plainCore → dd.plainCore → sd.fmt = dd.fmt →
      let r0 := s.w3of n c 0
      let k := if s.w3of n c 1 = 0 then sd.rows - r0 else s.w3of n c 1
      let len := min sd.cols dd.cols * sd.fmt.bytes
      r0 + k ≤ sd.rows → r0 + k ≤ dd.rows →
      completes (.copy n c) n c s (fun u =>
        (∀ a, dd.outside a → u.csByte n a = s.csByte n a) ∧ (∀ q, q ≠ n → u.core q = s.core q) ∧ u.mem = s.mem ∧
        (∀ q, (u.core n).xval q = (s.core n).xval q) ∧
        (k = 1 → sd.elemAddr r0 0 + len ≤ dd.elemAddr r0 0 ∨ dd.elemAddr r0 0 + len ≤ sd.elemAddr r0 0 →
          ∀ j, j < len → u.csByte n (dd.elemAddr r0 0 + j) = s.csByte n (sd.elemAddr r0 0 + j))))

/-- R213 for FILL, R128 for SXSTEP and R192 for RFILL, over tensors in core store. -/
def Obligations.FillAndSextantStep : Prop :=
  ∀ (n : Nat) (c : Cmd) (s : State), n < 192 → s.canRun n c → locOf c.w1 = true →
    (∀ d, c.op = 0x06 → (s.core n).descAt (addrOf c.w1) = some d → d.plainCore →
      completes (.fill n c) n c s (fun u =>
        (d.cols * d.fmt.bytes ≤ d.pitch ∨ d.rows ≤ 1 → ∀ r e, r < d.rows → e < d.cols →
          cellsRead (u.core n).cs (d.elemAddr r e) d.fmt.bytes = leBytes (s.w3of n c 0) d.fmt.bytes) ∧
        (∀ a, d.outside a → u.csByte n a = s.csByte n a) ∧ (∀ q, q ≠ n → u.core q = s.core q) ∧ u.mem = s.mem)) ∧
    (c.op = 0x1B → addrOf c.w1 % 32 = 0 → addrOf c.w1 + 20 ≤ shadowBase →
      let a := addrOf c.w1
      let v := leNat (cellsRead (s.core n).cs (a + 16) 4)
      completes (.sxstep n c) n c s (fun u =>
        cellsRead (u.core n).cs a 16 = List.replicate 16 0#8 ∧
        leNat (cellsRead (u.core n).cs (a + 16) 4) = (if v % 2 = 1 then v / 4 * 4 + 2 else v) ∧
        (∀ x, x < a ∨ a + 20 ≤ x → u.csByte n x = s.csByte n x) ∧ (∀ q, q ≠ n → u.core q = s.core q) ∧ u.mem = s.mem)) ∧
    (∀ d, c.op = 0x07 → (s.core n).descAt (addrOf c.w1) = some d → d.plainCore → 1 ≤ d.cols →
      (d.cols ≤ 65536 ∧ (s.w3of n c 0 = 0 ∧ d.fmt = .fp32 ∨ s.w3of n c 0 = 1 ∧ d.fmt = .int32 ∨ s.w3of n c 0 = 2 ∧ d.fmt = .fp32) ∨
        s.w3of n c 0 = 3 ∧ d.fmt = .int8 ∧ 8 * d.cols ≤ 65536) →
      completes (.rfill n c) n c s (fun u =>
        (∀ a, d.outside a → u.csByte n a = s.csByte n a) ∧ (∀ q, q ≠ n → u.core q = s.core q) ∧ u.mem = s.mem ∧
        u.core n = { (s.issue n c).core n with
          cs := (u.core n).cs, csPoison := (u.core n).csPoison, lanes := (u.core n).lanes }))

/-- R252 to R256: the random-access path and the memory-side adders. -/
def Obligations.MemorySideAdds : Prop :=
  ∀ (n p : Nat) (c : Cmd) (s : State), n < 192 → s.canRun n c → s.holder n = some p →
    (∀ pa, c.op = 0x05 → locOf c.w1 = false →
      let ty := AddTy.ofCode (bits c.w1.toNat 50 49)
      addrOf c.w1 % ty.bytes = 0 → (s.part p).xlate (addrOf c.w1) true = .here pa false →
      let r := s.mem.addAt ty pa (s.w3of n c 1 % 2 ^ (8 * ty.bytes)) false
      completes (.atomic n c) n c s (fun u => u.mem = r.1 ∧
        (c.idx 0 ≠ 0 → (u.core n).xval (c.idx 0) = BitVec.ofNat 64 r.2.1) ∧
        (∀ q, q ≠ c.idx 0 → (u.core n).xval q = (s.core n).xval q) ∧ ∀ m, (u.core m).cs = (s.core m).cs)) ∧
    (∀ t r, c.op = 0x04 → locOf c.w1 = true → locOf c.w2 = true →
      (s.core n).descAt (addrOf c.w1) = some t → (s.core n).descAt (addrOf c.w2) = some r →
      let ty := AddTy.ofCode (s.w3of n c 3)
      let list := s.w3of n c 0
      let cnt := s.w3of n c 1
      let len := s.w3of n c 2
      t.base % ty.bytes = 0 → t.pitch % ty.bytes = 0 → r.base % ty.bytes = 0 → r.pitch % ty.bytes = 0 →
      1 ≤ len → len ≤ 4096 → len % ty.bytes = 0 → s.w3of n c 3 ≤ 3 → cnt ≤ r.rows → t.loc = false → r.loc = true →
      list + 4 * cnt ≤ shadowBase → r.base + (cnt - 1) * r.pitch + len ≤ shadowBase →
      let index (j : Nat) : List Byte × Bool := (s.core n).csRead (list + 4 * j) 4
      (∀ j, j < cnt → leNat (index j).1 < t.rows → (s.part p).maps (t.base + leNat (index j).1 * t.pitch) len true) →
      completes (.scatadd n c) n c s (fun u => (∀ m, u.core m = (s.issue n c).core m) ∧ u.fabric = s.fabric ∧
        u.mem = (List.range cnt).foldl (fun m j => if leNat (index j).1 < t.rows then
          m.addRow (s.part p) (s.core n) ty (t.base + leNat (index j).1 * t.pitch) (r.base + j * r.pitch) len (index j).2 else m) s.mem)) ∧
    (∀ t, c.op = 0x03 → locOf c.w1 = true → (s.core n).descAt (addrOf c.w1) = some t →
      let list := s.w3of n c 0
      let cnt := s.w3of n c 1
      let size := s.w3of n c 2
      let dst := bits c.w2.toNat 21 0
      t.base % 8 = 0 → t.pitch % 8 = 0 → t.loc = false → size ∈ [8, 16, 24, 32] → dst + cnt * size ≤ shadowBase →
      list + 4 * cnt ≤ shadowBase → s.mem.wf →
      (∀ i, i < t.rows → (s.part p).onePage (t.base + i * t.pitch) size false) →
      completes (.gather n c) n c s (fun u => (∀ m, m ≠ n → u.core m = s.core m) ∧ (∀ a, u.byteAt a = s.byteAt a) ∧
        (∀ a, a < dst ∨ dst + cnt * size ≤ a → u.csByte n a = s.csByte n a) ∧
        (cnt ≤ 1 ∨ list + 4 * cnt ≤ dst ∨ dst + cnt * size ≤ list → ∀ j b, j < cnt → b < size →
          let i := leNat (cellsRead (s.core n).cs (list + 4 * j) 4)
          (t.rows ≤ i → u.csByte n (dst + j * size + b) = 0#8) ∧
          (i < t.rows → ∃ pa, (s.part p).xlate (t.base + i * t.pitch + b) false = .here pa false ∧
            s.byteAt pa = [u.csByte n (dst + j * size + b)]))))

/-- R43 and R214 for CBLOAD, R168 and R169 for the program store, R189 for SEED. -/
def Obligations.CodebookAndProgramLoads : Prop :=
  ∀ (n : Nat) (c : Cmd) (s : State), n < 192 → s.canRun n c →
    let u := s.issue n c
    let a := addrOf c.w1
    let ends (t : State) : Host.Outcome State Fault Refusal := .next (t.complete n c (s.ccNext n) 0)
    (c.op = 0x08 → locOf c.w1 = true → c.w2.getLsbD 4 = false → a + 16 ≤ shadowBase →
      (∀ x ∈ ((s.core n).csRead a 16).1, x.toNat < 64) →
      completes (.cbload n c) n c s (fun t =>
        (∀ w, w < 4 → t.rd .convCb4 n (bits c.w2.toNat 3 0) w = cb4Word ((s.core n).csRead a 16).1 w) ∧
        (∀ m, t.core m = u.core m) ∧ t.mem = s.mem)) ∧
    (c.op = 0x20 → locOf c.w1 = true →
      let b := bits c.w2.toNat 0 0
      let first := bits c.w2.toNat 5 1
      let cnt := bits c.w2.toNat 11 6
      a % 8 = 0 → 1 ≤ cnt → cnt ≤ 32 → first + cnt ≤ 32 → a + 8 * cnt ≤ shadowBase →
      (b ≠ s.runBank n → completes (.vpload n c) n c s (fun t =>
        (∀ j, j < cnt → t.progWord n b (first + j) = BitVec.ofNat 64 (leNat (cellsRead (s.core n).cs (a + 8 * j) 8))) ∧
        (∀ k, k < first ∨ first + cnt ≤ k → k < 32 → t.progWord n b k = s.progWord n b k) ∧
        (∀ k, k < 32 → t.progWord n (1 - b) k = s.progWord n (1 - b) k) ∧ ∀ m, t.core m = u.core m)) ∧
      (b = s.runBank n → exec (.vpload n c) s = .next (u.failed n c (s.core n).cp (s.ccNext n) 0x41 0 0))) ∧
    (c.op = 0x21 → completes (.vpsel n c) n c s (fun t => t.runBank n = bits c.w1.toNat 0 0 ∧ ∀ m, t.core m = u.core m)) ∧
    (c.op = 0x22 → exec (.seed n c) s =
      ends (u.onCore n (fun k => { k with seed := BitVec.ofNat 64 (s.w3of n c 0), seeded := true, lanes := [] })))

/-- R84, R85 and R214 over a plain tensor. -/
def Obligations.WeightLoads : Prop :=
  ∀ (n : Nat) (c : Cmd) (s : State) (d : Desc), n < 192 → s.canRun n c → c.op = 0x10 → locOf c.w1 = true →
    (s.core n).descAt (addrOf c.w1) = some d → d.plainCore → d.fmt.isOperand = true →
    let w0 := s.w3of n c 0
    let sc := s.w3of n c 1
    let b := 1 - s.fld .arrEpoch n 0 0 9 9
    w0 % 128 = 0 → w0 < d.rows → sc < d.slabs →
    completes (.wload n c []) n c s (fun u =>
      (∀ a, a < 4 → ∃ x, tabFind (u.core n).banks (bankKey a b) = some x ∧ x.desc = d ∧ x.row0 = w0 + 32 * a ∧ x.slab = sc ∧
        x.ready = true ∧ x.cols.length = min 32 (d.rows - (w0 + 32 * a))) ∧
      (∀ a, a < 4 → tabFind (u.core n).banks (bankKey a (1 - b)) = tabFind (s.core n).banks (bankKey a (1 - b))) ∧
      u.fld .arrEpoch n 0 0 9 9 = b ∧ (u.core n).acc = (s.core n).acc ∧ (u.core n).cs = (s.core n).cs ∧ u.mem = s.mem ∧
      ∀ q, q ≠ n → u.core q = s.core q)

/-- R75, R92 to R94 and R214: what a pass needs and where it writes. -/
def Obligations.Passes : Prop :=
  ∀ (n : Nat) (c : Cmd) (s : State) (d : Desc) (l : List Bank), n < 192 → s.canRun n c → locOf c.w1 = true →
    (s.core n).descAt (addrOf c.w1) = some d → d.plainCore → d.fmt.isOperand = true → d.prism = 0 →
    let row0 := s.w3of n c 0
    let k := s.w3of n c 1
    let first := s.w3of n c 2
    let sc := s.w3of n c 3
    let mode := s.w3of n c 4
    1 ≤ k → k ≤ 512 → first ≤ 511 → first + k ≤ 512 → mode < 6 → row0 + k ≤ d.rows → sc < d.slabs →
    (List.range 4).mapM (fun a => tabFind (s.core n).banks (bankKey a (s.passBank n (mode / 2)))) = some l →
    (∀ b ∈ l, b.desc.prism = 0 ∧ ∀ x ∈ b.cols, x.cls = 0) →
    let keeps (u : State) : Prop :=
      (∀ a r j, a < 4 → r < 512 → j < 32 → (r / 32 < first / 32 ∨ (first + k - 1) / 32 < r / 32) →
        (u.core n).accAt a r j = (s.core n).accAt a r j) ∧
      (u.core n).cs = (s.core n).cs ∧ (∀ q, (u.core n).xval q = (s.core n).xval q) ∧ u.mem = s.mem ∧
      ∀ q, q ≠ n → u.core q = s.core q
    (c.op = 0x11 → completes (.pass n c []) n c s keeps) ∧
    (∀ r, c.op = 0x12 → s.rectOf n = some r → r.const = true → s.fld .arrConst n 0 0 0 0 = 1 →
      (r.cores = [n] → r.origin = n → r.w = 1 → r.h = 1 → completes (.cpass n c) n c s keeps) ∧
      (∀ m ∈ r.cores, m ≠ n → (s.core m).flights = [] →
        exec (.cpass n c) s = .next ((s.issue n c).onCore n (fun x => { x with flights := x.flights ++
          [⟨c, (((s.core n).cp + 32) % 2 ^ 48 + 2 ^ 48 - 32) % 2 ^ 48, s.ccNext n, [row0, k, first, sc, mode], 0, 0⟩] }))))

/-- R148 to R150 in core store. -/
def Obligations.TileReadsAndWrites : Prop :=
  ∀ (n : Nat) (c : Cmd) (s : State), n < 192 → s.canRun n c → locOf c.w1 = true → locOf c.w2 = true →
    let v := s.w3of n c 0
    let a := v % 4
    let t := bits v 5 2
    let at1 := addrOf c.w1
    let at2 := addrOf c.w2
    v < 64 → at1 % 128 = 0 → at1 + 4096 ≤ shadowBase → at2 + 4 ≤ shadowBase →
    (c.op = 0x18 → at2 + 4 ≤ at1 ∨ at1 + 4096 ≤ at2 →
      completes (.tread n c) n c s (fun u =>
        cellsRead (u.core n).cs at1 4096 = ((s.core n).tileWords a t).flatMap (fun w => leBytes w.toNat 4) ∧
        cellsRead (u.core n).cs at2 4 = leBytes (s.hdr n a t).toNat 4 ∧ (u.core n).acc = (s.core n).acc ∧ u.mem = s.mem ∧
        ∀ x, (x < at1 ∨ at1 + 4096 ≤ x) → (x < at2 ∨ at2 + 4 ≤ x) → u.csByte n x = s.csByte n x)) ∧
    (c.op = 0x19 →
      completes (.twrite n c) n c s (fun u =>
        (∀ e, e < 1024 → (u.core n).accAt a (32 * t + e / 32) (e % 32) =
          BitVec.ofNat 32 (leNat (cellsRead (s.core n).cs (at1 + 4 * e) 4))) ∧
        (∀ a' t' e, a' < 4 → t' < 16 → e < 1024 → (a', t') ≠ (a, t) →
          (u.core n).accAt a' (32 * t' + e / 32) (e % 32) = (s.core n).accAt a' (32 * t' + e / 32) (e % 32)) ∧
        getBits (u.hdr n a t) 31 16 = s.ccNext n % 2 ^ 16 ∧ getBits (u.hdr n a t) 7 7 = 1 ∧
        getBits (u.hdr n a t) 2 0 = leNat (cellsRead (s.core n).cs at2 4) % 8 ∧
        (u.core n).cs = (s.core n).cs ∧ u.mem = s.mem))

/-- R157, R214 and R395 for the start of a conversion; R111 and R158 for its last tile. -/
def Obligations.ConversionsInFlight : Prop :=
  (∀ (n : Nat) (c : Cmd) (s : State) (d : Desc), n < 192 → s.canRun n c → locOf c.w1 = true → c.w2.getLsbD 63 = false →
    (s.core n).descAt (addrOf c.w1) = some d →
    let v := s.w3of n c 0
    let r : TileRun := ⟨bits v 3 0, bits v 7 4, bits v 12 8, bit v 16⟩
    v < 2 ^ 17 → bits v 15 13 = 0 → 1 ≤ r.count → r.first + r.count ≤ 16 → r.arrays ≠ 0 → s.w3of n c 2 % 32 = 0 → r.trans = false →
    let starts (i : Instr) : Prop := ∃ t : State, exec i s = .next t ∧
      (t.core n).convs.map (·.cc) = (s.core n).convs.map (·.cc) ++ [s.ccNext n] ∧ (t.core n).cc = s.ccNext n ∧
      (t.core n).cs = (s.core n).cs ∧ (t.core n).acc = (s.core n).acc ∧ t.mem = s.mem ∧ ∀ q, q ≠ n → t.core q = s.core q
    (c.op = 0x1A → d.plainCore → starts (.convert n c)) ∧
    (c.op = 0x36 → d.fmt = .q8c → d.loc = true → d.classMap ≠ 0 → d.fbDir ≠ 0 → d.fbPool ≠ 0 → d.residual = 0 → d.stoch = false →
      d.prism = 0 → d.glint = 0 → d.base + d.extent ≤ shadowBase → d.classMap + 4 * d.rows * d.slabs ≤ shadowBase →
      d.glintBase = 0 → d.fbDir + 64 * ((d.rows + 31) / 32) * d.slabs ≤ shadowBase → starts (.ckpt n c))) ∧
  (∀ (n : Nat) (s : State) (v : Conversion) (e : TileEntry), n < 192 → s.clockHalt = false → (s.core n).tileq = [e] →
    (s.core n).convs = [v] → v.cc = e.cc → v.left = 1 → v.feed = [] → e.vecLeft = true → (s.core n).cbHeld = [] →
    v.desc.plainCore → v.desc.fmt = .fp32 → v.desc.rows ≤ e.job.row + 32 → e.job.col < v.desc.cols → e.job.row < v.desc.rows →
    ∃ (u : State) (flags : Nat), exec (.tileConversion n []) s = .next (u.complete n v.cmd v.cc flags) ∧ (u.core n).tileq = [] ∧ (u.core n).convs = [] ∧
      u.mem = s.mem ∧ (∀ a, v.desc.outside a → u.csByte n a = s.csByte n a) ∧ ∀ q, q ≠ n → u.core q = s.core q)

/-- R156, R174, R160 and R195: the commands that work on rows. -/
def Obligations.RowCommands : Prop :=
  ∀ (n : Nat) (c : Cmd) (s : State), n < 192 → s.canRun n c →
    let u := s.issue n c
    let others (t : State) : Prop := t.mem = s.mem ∧ ∀ q, q ≠ n → t.core q = s.core q
    (c.op = 0x1C → c.w1.getLsbD 63 = true → c.w2.getLsbD 63 = true →
      let v := s.w3of n c 0
      let a := bits v 4 3
      let first := bits v 8 5
      let len := s.w3of n c 1
      let el (j : Nat) : Word := (compensate (s.comp n a (first + j / 32)) ((s.core n).accAt a (32 * (first + j / 32)) (j % 32))).1
      let r := reduceRow (v % 4) ((List.range len).map el)
      v < 2 ^ 14 → v % 4 ≠ 3 → bits v 2 2 = 0 → 1 ≤ bits v 13 9 → first + bits v 13 9 ≤ 16 → 1 ≤ len → len ≤ 32 * bits v 13 9 →
      s.w3of n c 2 = 1 →
      completes (.reduce n c) n c s (fun t => (c.idx 3 ≠ 0 → (t.core n).xval (c.idx 3) = BitVec.ofNat 64 (r.1.toNat + r.2.1 * 2 ^ 32)) ∧
        (t.core n).cs = (s.core n).cs ∧ (t.core n).acc = (s.core n).acc ∧ others t)) ∧
    (∀ d, c.op = 0x23 → locOf c.w1 = true → (s.core n).descAt (addrOf c.w1) = some d → d.plainCore → d.fmt = .fp32 →
      let t := w32 (s.w3of n c 0)
      let k := s.w3of n c 1
      let off := bits c.w2.toNat 21 0
      isFin32 t = true → neg32 t = false → k ≤ 256 → w32 (s.w3of n c 2) = one32 → 1 ≤ d.cols → d.cols ≤ 262144 →
      off + 16 * d.rows ≤ shadowBase →
      completes (.sample n c) n c s (fun t =>
        t.fld .smpCount n 0 0 31 0 = min (s.fld .smpCount n 0 0 31 0 + d.rows) 0xFFFFFFFF ∧
        (∀ x, x < off ∨ off + 16 * d.rows ≤ x → t.csByte n x = s.csByte n x) ∧ others t)) ∧
    (∀ sd dd, locOf c.w1 = true → locOf c.w2 = true → (s.core n).descAt (addrOf c.w1) = some sd →
      (s.core n).descAt (addrOf c.w2) = some dd → sd.plainCore → dd.plainCore → sd.fmt = .fp32 → dd.fmt = .fp32 →
      (∀ v, c.op = 0x1D → c.w1.getLsbD 63 = false → s.w3of n c 0 ≤ 2 → 1 ≤ s.w3of n c 1 → s.w3of n c 1 ≤ 65536 → 1 ≤ s.w3of n c 2 →
        s.w3of n c 1 ≤ sd.cols → s.w3of n c 2 ≤ sd.rows → s.w3of n c 2 ≤ dd.rows → 1 ≤ dd.cols →
        (readVec n (s.w3of n c 3)).run.run ⟨u, 0, none⟩ = (.ok v, ⟨u, 0, none⟩) → v.colVec = none → v.rowVec = none →
        completes (.rowstat n c) n c s (fun t => (∀ a, dd.outside a → t.csByte n a = s.csByte n a) ∧ others t)) ∧
      (∀ v, c.op = 0x1E → 1 ≤ s.w3of n c 1 → s.w3of n c 1 ≤ ((sd.rows + 31) / 32) * ((sd.cols + 31) / 32) →
        (startVec n (s.w3of n c 0)).run.run ⟨u, 0, none⟩ = (.ok v, ⟨u, 0, none⟩) →
        completes (.vmap n c) n c s (fun t => (∀ a, dd.outside a → t.csByte n a = s.csByte n a) ∧ others t)))

/-- R390, R391, R396 and R386. -/
def Obligations.TrainingCommands : Prop :=
  ∀ (n p : Nat) (c : Cmd) (s : State), n < 192 → s.canRun n c → s.holder n = some p →
    let u := s.issue n c
    (c.op = 0x35 →
      let r := u.lossSample p c.tag (w32 (s.w3of n c 0))
      exec (.lossw n c) s =
        .next ((r.2.onCore n (fun k => k.setX (c.idx 1) (BitVec.ofNat 64 r.1) false)).complete n c (s.ccNext n) 0) ∧
      (p < 8 → s.fld .helmLossCtl 0 p 0 31 31 = 0 → r = (3, u)) ∧
      (p < 8 → s.fld .helmLossCtl 0 p 0 31 31 = 1 → nonFinite32 (w32 (s.w3of n c 0)) = true → r.1 = 1)) ∧
    (c.op = 0x37 → addrOf c.w1 % 4096 = 0 → (s.core n).replay = none →
      ((s.core n).recording = none → s.w3of n c 0 = 0 →
        (locOf c.w1 = false → (s.part p).maps (addrOf c.w1) 4112 true →
          completes (.replay n c) n c s (fun t => (t.core n).recording = some ⟨false, addrOf c.w1, c.w2.toNat, 0, false⟩ ∧
            (∀ q, q ≠ n → t.core q = s.core q) ∧ (t.core n).cs = (s.core n).cs)) ∧
        (locOf c.w1 = true → addrOf c.w1 + 4112 ≤ shadowBase →
          completes (.replay n c) n c s (fun t => (t.core n).recording = some ⟨true, addrOf c.w1, c.w2.toNat, 0, false⟩ ∧
            (∀ q, q ≠ n → t.core q = s.core q) ∧ t.mem = s.mem ∧
            ∀ a, a < addrOf c.w1 ∨ addrOf c.w1 + 4112 ≤ a → t.csByte n a = s.csByte n a))) ∧
      ((s.core n).recording = none → s.w3of n c 0 = 1 → exec (.replay n c) s = .next (u.complete n c (s.ccNext n) 0)) ∧
      (∀ r, (s.core n).recording = some r → s.w3of n c 0 = 1 → r.loc = true → r.buf + 4120 ≤ shadowBase → r.count < 2 ^ 63 →
        completes (.replay n c) n c s (fun t => (t.core n).recording = none ∧
          leNat (cellsRead (t.core n).cs (r.buf + 4112) 8) % 2 ^ 63 = r.count ∧
          (∀ a, a < r.buf + 4112 ∨ r.buf + 4120 ≤ a → t.csByte n a = s.csByte n a) ∧ t.mem = s.mem ∧ ∀ q, q ≠ n → t.core q = s.core q))) ∧
    (∀ a, c.op = 0x34 → (updArgs n c).run.run ⟨u, 0, none⟩ = (.ok a, ⟨u, 0, none⟩) →
      (∀ x ∈ a.ins, ∀ d, x = some d → d.plainCore ∧ d.fmt = .fp32 ∧ d.rows = a.rows ∧ d.cols = a.cols) →
      (∀ x ∈ a.dests, x.spec.desc.plainCore ∧ x.spec.desc.fmt = .fp32) →
      completes (.update n c) n c s (fun t => t.mem = s.mem ∧ (∀ q, q ≠ n → t.core q = s.core q) ∧
        ∀ q, (t.core n).xval q = (s.core n).xval q))

/-- R354, R355 and R236 for a group that is not yet READY. -/
def Obligations.CollectivePosting : Prop :=
  ∀ (n g p pd pa : Nat) (c : Cmd) (s : State), n < 192 → s.canRun n c → c.op = 0x30 → s.mem.wf → s.filling = false →
    s.fabric.lost = [] → s.w3of n c 0 = g → g < 256 → s.holder n = some p → p < 8 → (s.part p).groups.contains g = true →
    (s.gState g = 1 ∨ s.gState g = 2) →
    addrOf c.w1 % 64 = 0 → (∃ h, (s.part p).xlate (addrOf c.w1) false = .here pd h) → pd % 64 = 0 →
    let d := ((s.mem.settle pd 64).look pd 64).1
    let k := s.core n
    let q := s.rd64 .collGroupQLo .collGroupQHi 0 g + 64 * ((s.group g).nextDseq % 1024)
    (collChecks s g d).all (·.1) = true →
    (cReducing d = true → cZcopy d = true → cArrival d = true ∧ k.reckon = false) →
    (k.reckon = true → s.gReckon g = true) → (cArrival d = true → c.vary = true) →
    let posted : Posted := ⟨n, s.ccNext n, addrOf c.w1, (s.group g).nextDseq,
      if k.reckon then listSet d 1 ((d.getD 1 0#8) &&& 0xFE#8) else d, false, [], [], [], [], [], 0, []⟩
    let inFlight (t : State) : Prop :=
      (t.core n).flights = k.flights ++ [⟨c, ((k.cp + 32) % 2 ^ 48 + 2 ^ 48 - 32) % 2 ^ 48, s.ccNext n, [], g, (s.group g).nextDseq⟩] ∧
      (t.core n).x = k.x ∧ (t.core n).cs = k.cs ∧ (t.core n).acc = k.acc ∧ ∀ m, m ≠ n → t.core m = s.core m
    ((s.group g).queue.length < 1024 → q % 64 = 0 → (∃ h, (s.part p).xlate q true = .here pa h) → pa % 64 = 0 →
      ∃ t : State, exec (.collpost n c) s = .next t ∧ inFlight t ∧ (t.group g).queue = (s.group g).queue ++ [posted] ∧
        (t.group g).nextDseq = ((s.group g).nextDseq + 1) % 65536 ∧
        (t.mem.settle pa 64).look pa 64 = (d, false) ∧ ∀ a, (a < pa ∨ pa + 64 ≤ a) → t.byteAt a = s.byteAt a) ∧
    (1024 ≤ (s.group g).queue.length →
      ∃ t : State, exec (.collpost n c) s = .next t ∧ inFlight t ∧ (t.group g).queue = (s.group g).queue ∧
        (t.group g).stalled = (s.group g).stalled ++ [(posted, d)] ∧ ∀ a, t.byteAt a = s.byteAt a)

/-- R365 and R366 with one member, and R365 without a READY group. -/
def Obligations.BeaconAlone : Prop :=
  ∀ (n g p : Nat) (c : Cmd) (s : State), n < 192 → s.canRun n c → c.op = 0x31 → c.vary = true →
    s.w3of n c 0 = g → g < 256 → s.holder n = some p → (s.part p).groups.contains g = true →
    let len := s.w3of n c 1
    let op := s.w3of n c 2 % 2 ^ 12
    8 ≤ len → len ≤ 256 → len % 8 = 0 → op ≤ 5 → ((s.core n).reckon = true → s.gReckon g = true) →
    locOf c.w2 = true → addrOf c.w2 + len ≤ shadowBase →
    (s.gState g ≠ 3 → exec (.beacon n c) s = .next ((s.issue n c).complete n c (s.ccNext n) 1)) ∧
    (s.gState g = 3 → s.gSize g = 1 → s.myRank g = 0 → s.shaped g = false → (s.group g).beacons = [] → (s.group g).values = [] →
      (s.core n).flights = [] → s.fabric.lost = [] → locOf c.w1 = true → addrOf c.w1 + len ≤ shadowBase →
      ((s.core n).csRead (addrOf c.w1) len).2 = false →
      ∃ t : State, exec (.beacon n c) s = .next t ∧ (t.core n).flights = [] ∧ (t.group g).beacons = [] ∧
        (op ≠ 5 → cellsRead (t.core n).cs (addrOf c.w2) len = cellsRead (s.core n).cs (addrOf c.w1) len) ∧
        (op = 5 → (t.core n).cs = (s.core n).cs) ∧
        (∀ a, (a < addrOf c.w2 ∨ addrOf c.w2 + len ≤ a) → t.csByte n a = s.csByte n a) ∧
        (t.core n).x = (s.core n).x ∧ t.mem = s.mem ∧ ∀ m, m ≠ n → (t.core m).cs = (s.core m).cs ∧ (t.core m).x = (s.core m).x)

/-- R373, R374 and R376: what a DISPATCH writes where no expert can be reached; R377: a token without a placed row gives zeros. -/
def Obligations.ExpertRouting : Prop :=
  ∀ (n p : Nat) (c : Cmd) (s : State) (e : Expert) (r : Run), n < 192 → s.canRun n c → s.holder n = some p → p < 8 → s.mem.wf →
    s.filling = false → s.fabric.experts = [] → s.fabric.lost = [] → (s.core n).flights = [] →
    (c.op = 0x32 → (expertOperands n c false).run.run ⟨s.issue n c, 0, none⟩ = (.ok e, r) → s.gState e.group ≠ 3 →
      e.place % 8 = 0 → (s.part p).onePage e.place (8 * e.count * e.k) true →
      ∃ t : State, exec (.dispatch n c) s = .next t ∧ (t.core n).flights = [] ∧ t.fabric.experts = [] ∧
        ((∃ x ∈ e.routes, x.cand < e.k ∧ x.expert ≠ 0xFFFF) → t.fld .coreFlags n 0 0 0 0 = 1) ∧
        ∀ i j x, i < e.count → j < e.k → x ∈ e.routes → x.tok = i → x.cand = j →
          t.peek p (e.place + 8 * (i * e.k + j)) 8 =
            some (leBytes x.expert 2 ++ leBytes (if x.expert = 0xFFFF then 1 else 2) 1 ++ leBytes j 1 ++ leBytes 0 4)) ∧
    (∀ b d, c.op = 0x33 → e.out = some d → d.loc = true →
      (do let e ← expertOperands n c true; let b ← rdVa n e.place (8 * e.count * e.k); return (e, b.1) : CM (Expert × List Byte)).run.run
        ⟨s.issue n c, 0, none⟩ = (.ok (e, b), r) →
      (∀ i, i < e.count * e.k → leAt b (8 * i + 2) 1 ≠ 0) →
      ∃ t : State, exec (.combine n c) s = .next t ∧ (t.core n).flights = [] ∧ t.fabric.experts = [] ∧
        (∀ i, i < e.count → cellsRead (t.core n).cs (d.elemAddr i 0) (d.cols * d.fmt.bytes) =
          List.replicate (d.cols * d.fmt.bytes) 0#8) ∧
        (t.core n).x = (s.core n).x ∧ (t.core n).acc = (s.core n).acc)

/-- R163, R164, R166, R170, R171 and R186: what each instruction computes, lane by lane, and its frame. -/
def Obligations.LaneInstructions : Prop :=
  ∀ (n q : Nat) (i : DWord) (s : State) (e : TileEntry) (v : Conversion), n < 192 → s.clockHalt = false →
    let k := s.core n
    let g := k.engine
    g.active = true → g.ended = false → s.progWord n g.bank g.pc = i → k.engineEntry = some (q, e, v) →
    let x : Lanes := { regs := g.regs, latch := (v.vec.map (·.latch)).getD [], force := v.sfn }
    let a (l : Nat) : Word := x.src i (srcA i) l
    let b (l : Nat) : Word := x.src i (srcB i) l
    let c (l : Nat) : Word := x.src i (srcC i) l
    let dst := bits i.toNat 57 54
    let row (l : Nat) : List Word := (List.range 32).map (fun j => a (l / 32 * 32 + j))
    let moves (t : State) : Prop :=
      (t.core n).engine.pc = (if vecEnd i then g.pc else g.pc + 1) ∧ (t.core n).engine.ended = vecEnd i ∧
      (t.core n).engine.active = true ∧ (t.core n).engine.group = g.group ∧ (t.core n).engine.bank = g.bank ∧
      t = { s with cores := t.cores, regs := t.regs } ∧ (∀ m, m ≠ n → t.core m = s.core m) ∧
      t.core n = { k with engine := (t.core n).engine, lanes := (t.core n).lanes } ∧
      ∀ r b' i' j, Reg.addr r b' i' j ≠ Reg.addr .vecFlags n 0 0 → t.rd r b' i' j = s.rd r b' i' j
    let flags (t : State) (fl : VFlags) : Prop := (t.core n).engine.flags = g.flags ||| fl ∧
      t.rd .vecFlags n 0 0 = (s.orReg .vecFlags n 0 0 fl).rd .vecFlags n 0 0
    let writes (t : State) (f : Nat → Word) : Prop :=
      (∀ l, l < 256 → tabGet (t.core n).engine.regs (16 * l + dst) 0#32 = f l) ∧
      ∀ y, (y % 16 ≠ dst ∨ 4096 ≤ y) → tabGet (t.core n).engine.regs y 0#32 = tabGet g.regs y 0#32
    let does (j : Instr) (f : Nat → Word) (fl : VFlags) : Prop :=
      ∃ t : State, exec j s = .next t ∧ moves t ∧ (t.core n).lanes = k.lanes ∧ writes t f ∧ flags t fl
    let lanewise (j : Instr) (f : Nat → Word × VFlags) : Prop :=
      does j (fun l => (f l).1) ((List.range 256).foldl (fun x l => x ||| (f l).2) 0)
    let op := bits i.toNat 63 58
    (op = 0x00 → ∃ t : State, exec (.vecNop n i) s = .next t ∧ moves t ∧ (t.core n).lanes = k.lanes ∧
      (t.core n).engine.regs = g.regs ∧ flags t 0) ∧
    (op = 0x01 → lanewise (.vecMov n i) (fun l => (a l, niOf [a l]))) ∧
    (op = 0x02 → lanewise (.vecAdd n i) (fun l => fadd (a l) (b l))) ∧
    (op = 0x03 → lanewise (.vecSub n i) (fun l => fsub (a l) (b l))) ∧
    (op = 0x04 → lanewise (.vecMul n i) (fun l => fmul (a l) (b l))) ∧
    (op = 0x05 → lanewise (.fma n i) (fun l => ffma (a l) (b l) (c l))) ∧
    (op = 0x06 → lanewise (.min n i) (fun l => fmin (a l) (b l))) ∧
    (op = 0x07 → lanewise (.max n i) (fun l => fmax (a l) (b l))) ∧
    (op = 0x08 → lanewise (.abs n i) (fun l => (a l &&& 0x7FFFFFFF#32, niOf [a l]))) ∧
    (op = 0x09 → lanewise (.neg n i) (fun l => (a l ^^^ 0x80000000#32, niOf [a l]))) ∧
    (op = 0x0A → lanewise (.sel n i) (fun l => (if flt 0#32 (c l) then a l else b l, niOf [a l, b l, c l]))) ∧
    (op = 0x0B → lanewise (.cmplt n i) (fun l => (if flt (a l) (b l) then 0x3F800000#32 else 0#32, niOf [a l, b l]))) ∧
    (op = 0x0C → lanewise (.div n i) (fun l => fdiv (a l) (b l))) ∧
    (op = 0x0D → lanewise (.sqrt n i) (fun l => fsqrt (a l))) ∧
    (op = 0x0E → lanewise (.sfn n i) (fun l => sfnEval (bits i.toNat 38 35) (sfnMode v.sfn (i.getLsbD 34)) (a l))) ∧
    (op = 0x0F → ∃ t : State, exec (.rand n i) s = .next t ∧ moves t ∧ writes t (fun l => rne32 ⟨draw24 (k.draw l).1, -24⟩) ∧ flags t 0 ∧
      (∀ l, l < 256 → (t.core n).lane l = (twiDraw (k.lane l)).2) ∧ ∀ l, 256 ≤ l → (t.core n).lane l = k.lane l) ∧
    (op = 0x10 → does (.rot n i) (fun l => a ((l + bits i.toNat 7 0) % 256)) (niOf ((List.range 256).map a))) ∧
    (op = 0x11 → does (.rowsum n i) (fun l => (orderedSum (row l)).1)
      ((List.range 8).foldl (fun x r => x ||| (orderedSum (row (32 * r))).2) 0)) ∧
    (op = 0x12 → does (.rowmax n i) (fun l => (orderedMax (row l)).1)
      ((List.range 8).foldl (fun x r => x ||| (orderedMax (row (32 * r))).2.2) 0)) ∧
    (op = 0x13 → lanewise (.cvtb n i) (fun l => cvtb (a l)))

/-- R158 to R160, R165 and R167. -/
def Obligations.GroupBoundaries : Prop :=
  ∀ (n : Nat) (s : State), n < 192 → s.clockHalt = false →
    let k := s.core n
    let g := k.engine
    let bank := s.runBank n
    (g.active = true → g.ended = false → exec (.groupBoundary n) s = .next s) ∧
    (∀ q e v o, k.engineEntry = some (q, e, v) → v.vec = some o → s.fld .vecCtl n 0 0 1 1 = 0 → s.progOk n bank 32 o.prog = true →
      (g.active = false → ∃ t : State, exec (.groupBoundary n) s = .next t ∧
        (t.core n).engine.active = true ∧ (t.core n).engine.ended = false ∧ (t.core n).engine.group = g.group ∧
        (t.core n).engine.pc = o.prog ∧ (t.core n).engine.bank = bank ∧
        (∀ l, l < 256 → tabGet (t.core n).engine.regs (16 * l) 0#32 =
          (compensate (getBits e.hdr 2 0) (tabGet e.elems (256 * g.group + l) 0#32)).1) ∧
        (∀ l r, l < 256 → 4 ≤ r → r < 16 → tabGet (t.core n).engine.regs (16 * l + r) 0#32 = 0#32) ∧
        (t.core n).acc = k.acc ∧ (t.core n).cs = k.cs ∧ t.mem = s.mem ∧ ∀ m, m ≠ n → t.core m = s.core m) ∧
      (g.active = true → g.ended = true → g.group < 3 → ∃ t e', exec (.groupBoundary n) s = .next t ∧
        (t.core n).tileq[q]? = some e' ∧ e'.cc = e.cc ∧
        (∀ l, l < 256 → tabGet e'.elems (256 * g.group + l) 0#32 = tabGet g.regs (16 * l) 0#32) ∧
        (∀ y, (y < 256 * g.group ∨ 256 * (g.group + 1) ≤ y) → tabGet e'.elems y 0#32 = tabGet e.elems y 0#32) ∧
        (t.core n).engine.active = true ∧ (t.core n).engine.group = g.group + 1 ∧ (t.core n).engine.pc = o.prog ∧
        (t.core n).acc = k.acc ∧ (t.core n).cs = k.cs ∧ ∀ m, m ≠ n → t.core m = s.core m)) ∧
    (g.active = false → k.engineEntry = none → s.fld .vecCtl n 0 0 1 1 = 1 →
      ∃ t : State, exec (.groupBoundary n) s = .next t ∧ t.runBank n = 1 - bank ∧ t.fld .vecCtl n 0 0 1 1 = 0 ∧ t.cores = s.cores)

/-- R167, R168, R180 and R183, under the reach of R440. -/
def Obligations.ProgramStore : Prop :=
  ∀ (m : Master) (n b k : Nat) (v : Word) (s : State), m.wf = true → n < 192 → b < 2 → k < 32 → s.blockHeld n = false →
    s.bar2Waits m = false → (∀ p, s.holder n = some p → p < 8) →
    let bank := s.runBank n
    let same (t : State) : Prop := ∀ b' k', b' < 2 → k' < 32 → t.progWord n b' k' = s.progWord n b' k'
    (s.reachesCore m n = true →
      (v.getLsbD 1 = true → ∃ t : State, exec (.switch m n v) s = .next t ∧ same t ∧ t.fld .vecCtl n 0 0 5 4 = getBits v 5 4 ∧
        ((s.core n).engine.active = true → t.runBank n = bank ∧ t.fld .vecCtl n 0 0 1 1 = 1) ∧
        ((s.core n).engine.active = false → t.runBank n = 1 - bank ∧ t.fld .vecCtl n 0 0 1 1 = 0)) ∧
      (∃ t : State, exec (.programStage m n b k v) s = .next t ∧ same t ∧ tabFind (t.core n).staged (b * 32 + k) = some v) ∧
      (∃ t : State, exec (.programCommit m n b k v) s = .next t ∧ tabFind (t.core n).staged (b * 32 + k) = none ∧
        (b ≠ bank → t.progWord n b k = BitVec.ofNat 64
            (((tabFind (s.core n).staged (b * 32 + k)).getD (s.rd .vecProgLo n b k)).toNat + v.toNat * 2 ^ 32) ∧
          ∀ b' k', b' < 2 → k' < 32 → (b', k') ≠ (b, k) → t.progWord n b' k' = s.progWord n b' k') ∧
        (b = bank → same t ∧ t.fld .vecStatus n 0 0 3 3 = 1))) ∧
    (s.reachesCore m n = false → ∃ t : State,
      (v.getLsbD 1 = true → exec (.switch m n v) s = .next t) ∧ exec (.programStage m n b k v) s = .next t ∧
      exec (.programCommit m n b k v) s = .next t ∧ t = s.unlatch m)

/-- R24, R43, R49 and R51. -/
def Obligations.CodebookWrites : Prop :=
  ∀ (m : Master) (off : Nat) (v : Word) (a : RegAt) (s : State), m.wf = true → regFind off = some a →
    (a.reg = .convCb4 ∨ a.reg = .convCb8) → s.reachesCore m a.b = true → s.bar2Waits m = false →
    let busy := (s.core a.b).holdsCodebook a || s.blockHeld a.b
    ∃ t : State, exec (.codebookRegisterWrite m off v) s = .next t ∧
      (busy = false → t.rd a.reg a.b a.i a.j = codebookWord a v ∧ t.cores = s.cores ∧
        ∀ y, y ≠ Reg.addr a.reg a.b a.i a.j → tabFind t.regs y = tabFind s.regs y) ∧
      (busy = true → t.regs = s.regs ∧ (t.core a.b).cbHeld = (s.core a.b).cbHeld ++ [(a.addr, v)] ∧ ∀ q, q ≠ a.b → t.core q = s.core q)

/-- R188: substreams are 2^80 draws apart. -/
def Obligations.TwilightJumps : Prop :=
  ∀ (seed : BitVec 64) (j : Nat), j < 2 ^ 16 → twiJump seed j = Nat.repeat twiNext (j * 2 ^ 80) (twiBase seed)

/-- R280, R281 and R284 to R288, with the clock that R21 asks for a rectangle over both dies: until the dies run at one clock its request
waits. -/
def Obligations.HelmCoresAndPages : Prop :=
  ∀ (p : Nat) (irq : Bool) (a : List Nat) (s : State), p < 8 → s.partState p = 1 → s.nextRequest = some p →
    let x := s.part p
    let ends (i : Instr) (code res : Nat) (P : State → Prop) : Prop := ∃ t : State, exec i s = .next t ∧ t.answered p code res ∧ P t
    (x.request = some (0x01, irq, a) →
      let w := bits (arg a 0) 4 0
      let h := bits (arg a 0) 12 8
      ∀ o id, 1 ≤ w → w ≤ 16 → 1 ≤ h → h ≤ s.grade.rows → bits (arg a 0) 7 5 = 0 → bits (arg a 0) 15 13 = 0 → bits (arg a 0) 31 16 < 4 →
        x.cores.length + w * h ≤ s.quota p PlanPart.cores →
        (if bit (arg a 0) 16 then s.rectFree o w h = true ∧ o = bits (arg a 1) 7 0
          else (List.range s.nCores).find? (fun i => s.rectFree i w h) = some o) →
        (List.range 256).find? (fun i => !s.handleUsed i) = some id →
        let r : Rect := ⟨id, w, h, o, bit (arg a 0) 17⟩
        (r.spans = true → s.clocksEqual = false → exec (.coreAlloc p) s = .next ((s.passTurn p).joinDies p)) ∧
        (r.spans = false ∨ s.clocksEqual = true → ends (.coreAlloc p) 0x01 0 (fun t =>
          (t.part p).rects = x.rects ++ [r] ∧ t.rd .helmReqRes 0 p 0 = w32 id ∧ t.rd .helmReqRes 0 p 1 = w32 o ∧
          (∀ n k, r.cores[k]? = some n → t.core n = { Core.init with np := k, seeded := true, seed := match x.plan with
            | some y => y.seed
            | none => 0#64 }) ∧
          ∀ n, n ∉ r.cores → t.core n = s.core n))) ∧
    (x.request = some (0x02, irq, a) →
      (∀ r, x.rectNo (arg a 0) = some r → (∀ n ∈ r.cores, n < 192) → x.rectBusy r.handle = false → ends (.coreFree p) 0x02 0 (fun t =>
        r ∉ (t.part p).rects ∧ (∀ n, n ∈ r.cores → t.core n = Core.init) ∧ ∀ n, n ∉ r.cores → t.core n = s.core n)) ∧
      (x.rectNo (arg a 0) = none → ends (.coreFree p) 0x02 5 (fun t => t.cores = s.cores ∧ (t.part p).rects = x.rects))) ∧
    (x.request = some (0x03, irq, a) → ∀ va len small, pageRange a = some (va, len, small) →
      x.pages.all (fun g => !(decide (g.va < va + len) && decide (va < g.va + g.size))) = true →
      arg a 2 ≤ x.freeFrames.length → x.mappedBytes + frameSize * arg a 2 ≤ s.quota p PlanPart.mapped →
      ends (.map p) 0x03 0 (fun t =>
        (∀ b, va ≤ b → b < va + len → ∃ pa, (t.part p).xlate b false = .here pa (bit (arg a 3) 1) ∧ t.byteAt pa = [0#8] ∧
          ((t.part p).xlate b true ≠ .fault ↔ bit (arg a 3) 0 = true)) ∧
        (∀ g ∈ x.pages, g ∈ (t.part p).pages) ∧ t.cores = s.cores)) ∧
    (x.request = some (0x04, irq, a) → ∀ va len small, pageRange [arg a 0, arg a 1, arg a 2, arg a 3 &&& 8] = some (va, len, small) →
      (∀ gs, x.pagesIn va len small = some gs → s.pagesUsed p gs = false → ends (.unmap p) 0x04 0 (fun t =>
        (∀ g, g ∈ (t.part p).pages ↔ g ∈ x.pages ∧ ¬ (va ≤ g.va ∧ g.va < va + len)) ∧ t.cores = s.cores)) ∧
      (∀ gs, x.pagesIn va len small = some gs → s.pagesUsed p gs = true → exec (.unmap p) s = .next (s.passTurn p)) ∧
      (x.pagesIn va len small = none → ends (.unmap p) 0x04 5 (fun t => (t.part p).pages = x.pages ∧ t.mem = s.mem))) ∧
    (x.request = some (0x05, irq, a) → ∀ va len small gs, pageRange a = some (va, len, small) → x.pagesIn va len small = some gs →
      (s.pagesUsed p gs = false → ends (.protect p) 0x05 0 (fun t => t.mem = s.mem ∧ t.cores = s.cores ∧
        (t.part p).pages = x.pages.map (fun g => if va ≤ g.va ∧ g.va < va + len then
          { g with w := bit (arg a 3) 0, h := bit (arg a 3) 1, p := bit (arg a 3) 2 } else g))) ∧
      (s.pagesUsed p gs = true → exec (.protect p) s = .next (s.passTurn p)))

/-- R229, R281, R283, R285, R291, R298 and R349. -/
def Obligations.HelmObjectsGroupsQueues : Prop :=
  ∀ (p : Nat) (irq : Bool) (a : List Nat) (s : State), p < 8 → s.partState p = 1 → s.nextRequest = some p →
    let x := s.part p
    let ends (i : Instr) (code : Nat) (P : State → Prop) : Prop := ∃ t : State, exec i s = .next t ∧ t.answered p code 0 ∧ P t
    (x.request = some (0x06, irq, a) → ∀ o, 1 ≤ arg a 0 → arg a 0 ≤ 1024 → x.objects.length + arg a 0 ≤ s.quota p PlanPart.objects →
      freeRun (s.parts.flatMap (fun y => y.2.objects)).contains (arg a 0) 16384 0 0 = some o →
      ends (.syncAlloc p) 0x06 (fun t => t.rd .helmReqRes 0 p 0 = w32 o ∧ o + arg a 0 ≤ 16384 ∧
        ∀ k, o ≤ k → k < o + arg a 0 → t.objHeld p k = true ∧ k ∈ (t.part p).objects ∧ (∀ y ∈ s.parts, k ∉ y.2.objects) ∧
          t.rd .helmSyncCount 0 k = 0#32 ∧ t.rd .helmSyncIrq 0 k = 0#32)) ∧
    (x.request = some (0x07, irq, a) → 1 ≤ arg a 1 → arg a 0 + arg a 1 ≤ 16384 →
      (∀ k, arg a 0 ≤ k → k < arg a 0 + arg a 1 → k ∈ x.objects ∧ s.objectBusy p k = false) →
      ends (.syncFree p) 0x07 (fun t => ∀ k, arg a 0 ≤ k → k < arg a 0 + arg a 1 →
        k ∉ (t.part p).objects ∧ (∀ q, t.objHeld q k = false) ∧ t.rd .helmSyncCount 0 k = 0#32)) ∧
    (x.request = some (0x08, irq, a) → ∀ g, arg a 0 ≤ 128 → x.groups.length + 1 ≤ s.quota p PlanPart.groups →
      s.slotsHeld p + arg a 0 ≤ s.quota p PlanPart.slots → (List.range 256).find? (fun g => s.gState g == 0) = some g →
      ends (.groupAlloc p) 0x08 (fun t => t.rd .helmReqRes 0 p 0 = w32 g ∧ t.gState g = 1 ∧ g ∈ (t.part p).groups ∧
        t.group g = { Group.init with part := p, slots := arg a 0 })) ∧
    (x.request = some (0x09, irq, a) → arg a 0 ≤ 255 → x.groups.contains (arg a 0) = true → s.gState (arg a 0) ≠ 2 →
      s.gState (arg a 0) ≠ 3 → (s.group (arg a 0)).queue = [] →
      ends (.groupFree p) 0x09 (fun t => t.gState (arg a 0) = 0 ∧ arg a 0 ∉ (t.part p).groups ∧ t.group (arg a 0) = Group.init)) ∧
    (x.request = some (0x0A, irq, a) →
      let ls := if arg a 0 == 0xFF then List.range 32 else [arg a 0]
      (arg a 0 ≤ 31 ∨ arg a 0 = 0xFF) → arg a 1 ≤ s.quota p PlanPart.linkShare → arg a 2 ≤ s.quota p PlanPart.linkShare →
      ls.all (fun l => s.shareFits p l (arg a 1) (arg a 2)) = true →
      ends (.linkShare p) 0x0A (fun t => ∀ l, tabGet (t.part p).shares l (0, 0) =
        if l ∈ ls then (arg a 1, arg a 2) else tabGet x.shares l (0, 0))) ∧
    (x.request = some (0x0B, irq, a) → ∀ q,
      let base := arg64 a 0
      let n := arg a 2
      base % 64 = 0 → base + 64 * n ≤ 2 ^ 48 → (∃ k, 4 ≤ k ∧ k ≤ 16 ∧ n = 2 ^ k) → bits (arg a 3) 15 3 = 0 →
      bits (arg a 3) 2 0 ≤ s.quota p PlanPart.ceiling → x.pinned base (64 * n) = true → x.queues.length + 1 ≤ s.quota p PlanPart.queues →
      (List.range 64).find? (fun q => !x.queues.any (fun y => y.q == q)) = some q →
      ends (.wqCreate p) 0x0B (fun t => t.rd .helmReqRes 0 p 0 = w32 q ∧ t.wqHead p q = 0 ∧ t.wqTail p q = 0 ∧
        (t.part p).queue? q = some ⟨q, base, n, bits (arg a 3) 2 0, bits (arg a 3) 31 16, none⟩)) ∧
    (x.request = some (0x0C, irq, a) → ∀ y, x.queue? (arg a 0) = some y → (∀ j, y.head = some j → j.st = .waiting) →
      ends (.wqDestroy p) 0x0C (fun t => (t.part p).queue? (arg a 0) = none ∧
        ∀ z ∈ x.queues, z.q ≠ arg a 0 → z ∈ (t.part p).queues))

/-- R279 with R285, and the turn of R281. -/
def Obligations.FrozenAndResettingRequests : Prop :=
  ∀ (p : Nat) (s : State) (i : Instr) (code : Nat), p < 8 →
    (i, code) ∈ [(Instr.coreAlloc p, 1), (.coreFree p, 2), (.map p, 3), (.unmap p, 4), (.protect p, 5), (.syncAlloc p, 6), (.syncFree p, 7),
      (.groupAlloc p, 8), (.groupFree p, 9), (.linkShare p, 10), (.wqCreate p, 11), (.wqDestroy p, 12)] →
    (∀ irq a, (s.part p).request = some (code, irq, a) →
      (s.partState p = 2 → s.nextRequest = some p → ∃ t : State, exec i s = .next t ∧ t.answered p code 4 ∧ t.cores = s.cores ∧ t.mem = s.mem ∧ t.fabric = s.fabric ∧
        (t.part p).rects = (s.part p).rects ∧ (t.part p).queues = (s.part p).queues ∧ (t.part p).pages = (s.part p).pages ∧
        (t.part p).objects = (s.part p).objects ∧ (t.part p).groups = (s.part p).groups ∧ (t.part p).shares = (s.part p).shares) ∧
      (s.partState p ≠ 1 → s.partState p ≠ 2 → exec i s = .next s)) ∧
    ((∀ irq a, (s.part p).request ≠ some (code, irq, a)) → exec i s = .next s) ∧
    (s.nextRequest ≠ some p → exec i s = .next s) ∧
    (s.reqTurn = p → (s.part p).request.isSome = true → s.nextRequest = some p)

/-- R291, R292, R294 to R296 for a partition with one queue. -/
def Obligations.JobsRun : Prop :=
  ∀ (p q : Nat) (y : Queue) (s : State), p < 8 → q < 64 → (s.part p).queues = [y] → y.q = q →
    let spares (j : Job) (r : Rect) (t : State) : Prop :=
      s.mem.wf → j.save % 64 = 0 → (∀ g ∈ (s.part p).pages, ∀ f, g.frame = some f → g.va % 64 = 0 ∧ f % 64 = 0) →
      ∀ a, (∀ g ∈ (s.part p).pages, ∀ f, g.frame = some f → a < f ∨ f + g.size ≤ a ∨ g.va + (a - f) < j.save ∨
        j.save + 4653056 * r.cores.length ≤ g.va + (a - f)) → t.byteAt a = s.byteAt a
    (∀ m v, m.wf = true → s.reaches m p = true → s.bar2Waits m = false →
      (y.entries ≤ getBits v 15 0 → exec (.helmWqTailWrite m p q v) s = .next (s.unlatch m)) ∧
      (∀ b r, getBits v 15 0 < y.entries → y.head = none → s.partState p = 1 → s.wqHead p q ≠ getBits v 15 0 →
        s.peek p (y.entry (s.wqHead p q)) 64 = some b → entryReserved b = false → (s.part p).rectNo (leAt b 8 1) = some r →
        (∀ n ∈ r.cores, n < 192) →
        ∃ t : State, exec (.helmWqTailWrite m p q v) s = .next t ∧ t.wqTail p q = getBits v 15 0 ∧ t.wqHead p q = s.wqHead p q ∧
          t.fld .helmWqHead 0 p q 16 16 = 1 ∧
          (∀ n, n ∈ r.cores → (t.core n).pilot = .running ∧ (t.core n).cp = leAt b 0 6 ∧ (t.core n).cs = (s.core n).cs ∧
            (t.core n).acc = (s.core n).acc ∧ (t.core n).reckon = s.reckonOn p ∧ ∀ k, (t.core n).xval k = 0#64) ∧
          ∀ n, n ∉ r.cores → t.core n = s.core n)) ∧
    (∀ j, y.head = some j → j.st = .running →
      (y.slice = 0 → exec (.timeSliceExpiry p q) s = .next s) ∧
      (y.slice ≠ 0 → ∃ t : State, exec (.timeSliceExpiry p q) s = .next t ∧
        (t.part p).queues = [{ y with head := some { j with sliceDone := true } }] ∧ t.cores = s.cores ∧ t.mem = s.mem)) ∧
    (∀ j r, y.head = some j → j.st = .preempting → (s.part p).rectNo j.handle = some r →
      (s.drained r.cores = false → exec (.preemption p q) s = .next s) ∧
      (s.drained r.cores = true → s.partState p ≠ 1 → ∃ t j', exec (.preemption p q) s = .next t ∧
        (t.part p).queues = [{ y with head := some j' }] ∧ j'.st = .saved ∧ j'.handle = j.handle ∧ t.fld .helmWqHead 0 p q 16 16 = 0 ∧
        (∀ n, n ∈ r.cores → tabFind j'.contexts n = some { s.core n with stopIssue := false } ∧ (t.core n).pilot = .halted) ∧ spares j r t) ∧
      (s.drained r.cores = true → s.partState p = 1 → (∀ n, n ∈ r.cores → (s.core n).pilot = .running) →
        ∃ t : State, exec (.preemption p q) s = .next t ∧ t.fld .helmWqHead 0 p q 16 16 = 1 ∧
          (∀ n, n ∈ r.cores → t.core n = { s.core n with stopIssue := false, reckon := s.reckonOn p }) ∧
          (∀ g n i k, 0x01000000 ≤ Reg.addr g n i k → Reg.addr g n i k < 0x02000000 → t.rd g n i k = s.rd g n i k) ∧ spares j r t))

/-- R292, R293, R410 and R460 with R91 and R204. -/
def Obligations.JobsEnd : Prop :=
  (∀ (p q : Nat) (y : Queue) (j : Job) (r : Rect) (s : State), p < 8 → q < 64 → (s.part p).queues = [y] → y.q = q → s.mem.wf →
    y.head = some j → j.st = .running → (s.part p).rectNo j.handle = some r →
    (∀ n ∈ r.cores, n < 192) → s.drained r.cores = true → y.base % 64 = 0 →
    j.idx < y.entries → y.entries ≤ 65536 → s.wqTail p q < y.entries → (s.part p).onePage (y.entry j.idx) 64 false →
    ((∀ n, n ∈ r.cores → (s.core n).pilot = .halted ∧ ((s.core n).haltCode.isSome ∨ (s.core n).fatal = true) ∧ (s.core n).failures = []) →
      s.wqTail p q = (j.idx + 1) % y.entries →
      ∃ t : State, exec (.jobCompletion p q) s = .next t ∧ t.wqHead p q = (j.idx + 1) % y.entries ∧ t.fld .helmWqHead 0 p q 16 16 = 0 ∧
        t.peek p (y.entry j.idx + 32) 4 = some (leBytes (s.jobCode r.cores) 4) ∧ (t.part p).queues = [{ y with head := none }] ∧
        (∀ n, (t.core n).cs = (s.core n).cs) ∧
        (j.doneEn = true → j.doneAdd ≠ 0 → s.objHeld p j.doneObj = true → (t.rd .helmSyncCount 0 j.doneObj).toNat =
          min ((s.rd .helmSyncCount 0 j.doneObj).toNat + j.doneAdd) 0xFFFFFFFF)) ∧
    ((∃ n, n ∈ r.cores ∧ ∃ f ∈ (s.core n).failures, f.status = 0x44) →
      (∀ g ∈ s.fabric.groups, ∀ d ∈ g.2.queue ++ g.2.stalled.map (·.1), d.core ∉ r.cores) → s.fabric.lost = [] →
      ∃ t : State, exec (.jobAbort p q) s = .next t ∧ t.wqHead p q = t.wqTail p q ∧ t.wqTail p q = s.wqTail p q ∧
        t.fld .helmWqHead 0 p q 16 16 = 0 ∧ (t.rd .helmIrqStatus 0 p).getLsbD 9 = true ∧
        ((s.part p).onePage y.base (64 * y.entries) false → t.peek p (y.entry j.idx + 32) 4 = some (leBytes 0xFFFFFFFD 4) ∧
          ∀ k, 1 ≤ k → k < (s.wqTail p q + y.entries - j.idx) % y.entries →
            t.peek p (y.entry ((j.idx + k) % y.entries) + 32) 4 = some (leBytes 0xFFFFFFFC 4)) ∧
        ∀ n, n ∈ r.cores → (t.core n).pilot = .halted ∧ (t.core n).x = [] ∧ (t.core n).failures = [] ∧ (t.core n).cs = (s.core n).cs ∧
          (t.core n).acc = (s.core n).acc)) ∧
  (∀ (m : Master) (n : Nat) (s : State), m.wf = true → n < 192 → s.blockHeld n = false → s.reachesCore m n = true →
    s.bar2Waits m = false →
    (s.jobOn n = none → ∃ t : State, exec (.coreReset m n) s = .next t ∧ (t.core n).pilot = .halted ∧ (t.core n).x = [] ∧ (t.core n).cc = 0 ∧
      (t.core n).banks = [] ∧ (t.core n).cs = (s.core n).cs ∧ (t.core n).acc = (s.core n).acc ∧ (t.core n).mailbox = (s.core n).mailbox ∧
      t.rd .arrEpoch n 0 0 = Reg.arrEpoch.spec.resetVal ∧ t.mem = s.mem ∧ ∀ k, k ≠ n → t.core k = s.core k) ∧
    (∀ p y j r, s.jobOn n = some (p, y, j) → (s.part p).rectNo j.handle = some r → s.drained r.cores = false →
      ∃ t : State, exec (.coreReset m n) s = .next t ∧ t.regs = s.regs ∧ t.parts = s.parts ∧
        ∀ k, t.core k = if k ∈ r.cores then { s.core k with stopIssue := true } else s.core k))

/-- R234, R235, R289 and R290. -/
def Obligations.PagingAndDeadlock : Prop :=
  (∀ (p va : Nat) (h : HostPage) (lines : List (Nat × Ecc)) (g : Page) (f : Nat) (fs : List Nat) (s : State), p < 8 → (s.part p).page? va = some g →
    g.frame = none → g.small = false → (s.part p).freeFrames = f :: fs →
    Memory.wf ((s.part p).swapPage g.slot).bytes → (s.part p).bar2Held = [] → (∀ x ∈ lines, x.2.wf = true) →
    ∃ t : State, exec (.pageIn p va h lines) s = .next t ∧ .hostRead p (s.swapAddr p g.slot) g.size ∈ t.out ∧ (t.part p).freeFrames = fs ∧ t.cores = s.cores ∧
      (t.part p).xlate va false = .here (f * frameSize + (va - g.va)) g.h ∧
      (∀ k, k < g.size → t.byteAt (f * frameSize + k) = [tabGet ((s.part p).swapPage g.slot).bytes k 0#8]) ∧
      ∀ l ∈ h.failed, l < g.size / 64 → t.mem.poison.contains (f * frameSize / 64 + l) = true) ∧
  (∀ s : State, ∃ t : State, exec .accessCounterHalving s = .next t ∧ t = { s with parts := t.parts } ∧
    ∀ p, (t.part p).pages = (s.part p).pages.map (fun g => { g with counter := g.counter / 2 })) ∧
  (∀ (p : Nat) (s : State), p < 8 →
    (s.deadlocked p = false → exec (.deadlockWindow p) s = .next (s.newWindow p)) ∧
    (s.deadlocked p = true → ∃ t : State, exec (.deadlockWindow p) s = .next t ∧ t.partState p = 2 ∧
      (∀ n, n ∈ (s.part p).cores → (t.core n).frozen = true ∧ (t.core n).cp = (s.core n).cp ∧ (t.core n).x = (s.core n).x) ∧
      (t.rd .helmIrqStatus 0 p).getLsbD 10 = true ∧ t.mem = s.mem))

/-- R312 with R311, R314, R316, R324 and R340 to R342. -/
def Obligations.LinkStates : Prop :=
  ∀ (l : Nat) (s : State), l < 32 →
    let st := s.linkState l
    let goes (i : Instr) (landing : Nat) (P : State → Prop) : Prop := ∃ t : State, exec i s = .next t ∧ t.linkState l = landing ∧ P t ∧
      t.cores = s.cores ∧ t.mem = s.mem ∧ t.parts = s.parts ∧ ∀ k, k ≠ l → t.link k = s.link k ∧ t.linkState k = s.linkState k
    let why (r : Nat) (t : State) : Prop := t.fld .lnkStatus l 0 0 16 14 = r
    (∀ r : ModuleRead, (st ≠ 1 → exec (.moduleIdentify l r) s = .next s) ∧ (st = 1 → r.busFails = false →
      (r.answers = false → goes (.moduleIdentify l r) 2 (why 1)) ∧
      (r.answers = true → (s.moduleRefusal l r = none → goes (.moduleIdentify l r) 4 (fun t => why 0 t ∧ (t.link l).lanes = ModuleRead.lanes r)) ∧
        ∀ k, s.moduleRefusal l r = some k → goes (.moduleIdentify l r) 3 (why k)))) ∧
    (∀ b, (st ≠ 2 → exec (.absentPoll l b) s = .next s) ∧ (exec (.absentPoll l false) s = .next s) ∧
      (st = 2 → s.isolated l = false → goes (.absentPoll l true) 1 (why 0))) ∧
    ((st = 3 ∨ st = 9 → goes (.identityMemoryChange l) 1 (why 0)) ∧
      (st ≠ 3 → st ≠ 9 → exec (.identityMemoryChange l) s = .next s)) ∧
    (∀ u c, (st ≠ 4 → exec (.receiverDetect l u c) s = .next s) ∧ (st = 4 → (s.link l).refLost = false →
      goes (.receiverDetect l u true) 9 (why 6) ∧
      goes (.receiverDetect l u false) (if u % 16 = 0 then 4 else 5) (fun t => t.link l = { s.link l with detected := u % 16 }))) ∧
    ((st = 4 → goes (.detectRetry l) 4 (fun t => (t.link l).ctl = s.rd .lnkCtl l)) ∧ (st ≠ 4 → exec (.detectRetry l) s = .next s)) ∧
    (∀ r : TrainResult, (st ≠ 5 → exec (.trainingDone l r) s = .next s) ∧ (st = 5 →
      let mine := (s.link l).detected &&& r.trained &&& 15
      let usable := mine &&& r.peer
      let width := widthCode usable (s.link l).lanes
      (width = 0 → goes (.trainingDone l r) 4 (fun t => (t.link l).ctl = s.rd .lnkCtl l ∧ t.out = s.out ++ [.training l mine])) ∧
      (width ≠ 0 → (s.link l).eth = false → goes (.trainingDone l r) 6 (fun t => t.link l = s.link l ∧ t.fld .lnkStatus l 0 0 25 22 = usable ∧
        t.out = s.out ++ [.training l mine, .config l ⟨true, false, Config.blockVersion, s.devId, l, s.pools⟩])) ∧
      (width ≠ 0 → (s.link l).eth = true → goes (.trainingDone l r) 7 (fun t =>
        t.fld .lnkStatus l 0 0 27 26 = width ∧ t.fld .lnkStatus l 0 0 25 22 = usable)))) ∧
    ((st = 5 → goes (.trainTimeout l) 4 (fun t => (t.link l).ctl = s.rd .lnkCtl l)) ∧ (st ≠ 5 → exec (.trainTimeout l) s = .next s)) ∧
    (∀ b : ConfigBlock, (st ≠ 6 ∨ b.valid = false → exec (.configurationBlock l b) s = .next s) ∧ (st = 6 → b.valid = true →
      (b.ethernet = true ∨ b.version ≠ Config.blockVersion → goes (.configurationBlock l b) 9 (why 7)) ∧
      (b.ethernet = false → b.version = Config.blockVersion → goes (.configurationBlock l b) 7 (fun t =>
        t.fld .lnkPeer l 0 0 31 31 = 1 ∧ t.fld .lnkPeer l 0 0 11 0 = b.dev % 4096 ∧ (t.link l).free = s.pools ∧ ∀ k, k < 8 →
        t.fld .lnkCredit l k 0 10 0 = b.pools.getD k 0 % 2048 ∧ t.fld .lnkCredit l k 0 26 16 = b.pools.getD k 0 % 2048)))) ∧
    ((st = 6 → goes (.configTimeout l) 9 (why 7)) ∧ (st ≠ 6 → exec (.configTimeout l) s = .next s)) ∧
    ((st = 8 → goes (.downTimeout l) (if s.linkEnabled l then 4 else 0) (fun _ => True)) ∧ (st ≠ 8 → exec (.downTimeout l) s = .next s))

/-- R312, R313, R338, R340 and R345. -/
def Obligations.LinkControl : Prop :=
  (∀ (m : Master) (l r : Nat) (v : Word) (s : State), s.inRange → m.wf = true → l < 32 → r < 8 →
    let st := s.linkState l
    let new := Reg.lnkCtl.spec.write (s.rd .lnkCtl l) v
    let down (t : State) : Prop := t.linkState l = 8 ∧ t.fld .lnkStatus l 0 0 27 26 = 0 ∧ (t.link l).nextLseq = 0 ∧ (t.link l).expect = 0 ∧
      (∀ k, k < 8 → t.rd .lnkCredit l k = 0#32)
    s.bar2Waits m = false →
    (s.devMgmt m = true →
      (v.getLsbD 31 = true → st = 0 → v.getLsbD 28 = false → s.clockHalt = false → 6 ≤ s.phase → s.phase ≤ 10 →
        ∃ t : State, exec (.linkEnable m l v) s = .next t ∧ t.rd .lnkCtl l = new ∧ t.linkState l = (if getBits new 11 11 = 1 then 4 else 1)) ∧
      (v.getLsbD 31 = false → ∃ t : State, exec (.linkDisable m l v) s = .next t ∧ (st = 7 → down t) ∧ (st = 8 → t.linkState l = 8) ∧
        (st ≠ 7 → st ≠ 8 → t.linkState l = 0) ∧ (st ≠ 0 → t.fld .lnkCtl l 0 0 30 30 = s.fld .lnkCtl l 0 0 30 30)) ∧
      (v.getLsbD 28 = true → ∃ t : State, exec (.retrain m l v) s = .next t ∧ (st = 7 → down t) ∧
        (st ≠ 0 → t.fld .lnkCtl l 0 0 30 30 = s.fld .lnkCtl l 0 0 30 30)) ∧
      ∃ t : State, exec (.fiMatchWrite m l r v) s = .next t ∧ t.rd .lnkFiMatch l r = Reg.lnkFiMatch.spec.write (s.rd .lnkFiMatch l r) v ∧
        tabGet (t.link l).fiMatch r 0 = 0 ∧
        (t.fld .lnkStatus l 0 0 12 12 = 1 ↔ ∃ i, i < 8 ∧ t.fld .lnkFiMatch l i 0 31 31 = 1) ∧ t.linkState l = st) ∧
    (s.devMgmt m = false →
      (v.getLsbD 31 = true → exec (.linkEnable m l v) s = .next (s.unlatch m)) ∧
      (v.getLsbD 31 = false → exec (.linkDisable m l v) s = .next (s.unlatch m)) ∧
      (v.getLsbD 28 = true → exec (.retrain m l v) s = .next (s.unlatch m)) ∧
      exec (.fiMatchWrite m l r v) s = .next (s.unlatch m))) ∧
  (∀ (l : Nat) (s : State), s.inRange → l < 32 →
    (s.linkState l ≠ 7 → exec (.fecLockLoss l) s = .next s) ∧
    (s.linkState l = 7 → ∃ t : State, exec (.fecLockLoss l) s = .next t ∧ t.linkState l = 8 ∧ t.fld .lnkStatus l 0 0 27 26 = 0 ∧
      (t.link l).nextLseq = 0 ∧ (t.link l).expect = 0 ∧ ∀ k, k < 8 → t.rd .lnkCredit l k = 0#32))

/-- R317, R318, R320 to R322, R324, R325 and R344. -/
def Obligations.LinkLevelRetry : Prop :=
  ∀ (l : Nat) (s : State), l < 32 → nativeUp s l = true →
    let x := s.link l
    let nak : Flit := idleFlit x.ack 0 0 true
    let counts (fec : Fec) (t : State) : Prop :=
      t.fld .lnkCnt l 3 0 31 0 = min (s.fld .lnkCnt l 3 0 31 0 + fec.corrected) 0xFFFFFFFF ∧
      t.fld .lnkCnt l 2 0 31 0 = min (s.fld .lnkCnt l 2 0 31 0 + fec.lost) 0xFFFFFFFF
    (∀ (f : Flit) (fec : Fec), f.wf = true → flitGood f = false → ∃ t : State, exec (.flitReceive l ⟨f, fec⟩) s = .next t ∧ counts fec t ∧
      t.link l = (if x.naking then { x with partly := [] } else { x with partly := [], naking := true, told := x.ack }) ∧
      t.out = (if x.naking then s.out else s.out ++ [.flits l [nak]]) ∧
      t.fld .lnkCnt l 0 0 31 0 = min (s.fld .lnkCnt l 0 0 31 0 + 1) 0xFFFFFFFF) ∧
    (∀ (f : Flit) (fec : Fec), f.wf = true → flitGood f = true → f.nak = false → x.ahead = [] → x.waiting = [] → x.held = [] →
      x.markA = none →
      let r := takeBody x.partly f
      let got : Link := { x with
        acked := f.ack, partly := r.1, replay := x.replay.filter (fun y => serialAfter 16 y.1.lseq f.ack)
        spent := poolSub x.spent f.cpool f.ccount }
      let credit (t : State) : Prop := counts fec t ∧
        t.fld .lnkCredit l f.cpool 0 10 0 = (s.fld .lnkCredit l f.cpool 0 10 0 + f.ccount) % 2048
      (r.2 = none → ∃ t : State, exec (.flitReceive l ⟨f, fec⟩) s = .next t ∧ credit t ∧ t.link l = got ∧ t.out = s.out) ∧
      (∀ k, r.2 = some k →
        (k.lseq = x.expect → ∃ t : State, exec (.flitReceive l ⟨f, fec⟩) s = .next t ∧ credit t ∧ t.out = s.out ∧
          let taken : Link := { got with
            expect := (x.expect + 1) % 65536, naking := false
            free := poolSub x.free k.pool k.flits, occupied := poolAdd x.occupied k.pool k.flits }
          (k.rsv = false → packetTypes.contains k.typ = true → k.typ ≠ 0x0C → t.link l = taken) ∧
          (k.rsv = true ∨ packetTypes.contains k.typ = false ∨ k.typ = 0x0C →
            t.link l = { taken with
              occupied := poolSub taken.occupied k.pool k.flits, owed := poolAdd x.owed k.pool k.flits })) ∧
        (k.lseq ≠ x.expect → serialAfter 16 k.lseq x.ack = false →
          ∃ t : State, exec (.flitReceive l ⟨f, fec⟩) s = .next t ∧ credit t ∧ t.out = s.out ∧ t.link l = got) ∧
        (k.lseq ≠ x.expect → serialAfter 16 k.lseq x.ack = true → x.naking = false →
          ∃ t : State, exec (.flitReceive l ⟨f, fec⟩) s = .next t ∧ credit t ∧ t.out = s.out ++ [.flits l [nak]] ∧
            t.link l = { got with naking := true, told := x.ack }))) ∧
    ((x.replay = [] → exec (.replayTimeout l) s = .next s) ∧
      (x.replay ≠ [] → (∀ r ∈ x.replay, r.2 < 9) → ∃ t : State, exec (.replayTimeout l) s = .next t ∧
        t.out = s.out ++ x.replay.map (fun r => .flits l (packetFlits r.1 x.ack false)) ∧
        t.link l = { x with replay := x.replay.map (fun r => (r.1, r.2 + 1)), told := x.ack }) ∧
      ((∃ r ∈ x.replay, 9 ≤ r.2) → ∃ t : State, exec (.replayTimeout l) s = .next t ∧ t.linkState l = 8 ∧ (t.link l).replay = [])) ∧
    (x.ahead = [] → x.waiting = [] → x.held = [] → (∀ r, r < 8 → s.fld .lnkFiMatch l r 0 31 31 = 0) → 1 ≤ s.fld .lnkCredit l 6 0 10 0 →
      x.replay.length < 2048 →
      let sends (t : State) (code : Nat) (payload : List Byte) : Prop :=
        let k : Packet := ⟨x.nextLseq, 3, 0x0C, s.fld .lnkPeer l 0 0 11 0, s.devId, 0, 31, 0, 0, s.incarn, 0, code, payload, false⟩
        t.out = s.out ++ [.flits l (packetFlits k x.ack false)] ∧ (t.link l).replay = x.replay ++ [(k, 1)] ∧ (t.link l).waiting = [] ∧
        t.fld .lnkCredit l 6 0 10 0 = s.fld .lnkCredit l 6 0 10 0 - 1
      (∃ t : State, exec (.creditCensus l) s = .next t ∧ sends t mgmtMarker [] ∧ (t.link l).markA = some (t.avail l) ∧
        (t.link l).markR = List.replicate 8 0) ∧
      (∃ t : State, exec (.censusMarker l) s = .next t ∧ (t.link l).markA = x.markA ∧
        sends t mgmtEcho ((List.range 8).flatMap (fun k => leBytes (x.occupied.getD k 0 + x.owed.getD k 0) 2)))) ∧
    (∀ counts a, x.markA = some a → ∃ t : State, exec (.censusEcho l counts) s = .next t ∧ (t.link l).markA = none ∧
      ((∃ k, k < 8 ∧ a.getD k 0 + x.markR.getD k 0 + counts.getD k 0 ≠ s.fld .lnkCredit l k 0 26 16) →
        t.fld .lnkStatus l 0 0 13 13 = 1 ∧ (t.link l).badPool.isSome = true) ∧
      ((∀ k, k < 8 → a.getD k 0 + x.markR.getD k 0 + counts.getD k 0 = s.fld .lnkCredit l k 0 26 16) →
        t.regs = s.regs ∧ (t.link l).badPool = none))

/-- R330: the duplicate window performs a request at most once. -/
def Obligations.RequestsAreDoneOnce : Prop :=
  ∀ (x : Src) (i q : Nat) (l : List Nat), q < 2 ^ 32 → (x.accept i q).1 = true →
    (∀ r ∈ l, r < 2 ^ 32 ∧ ((r + 2 ^ 32 - q) % 2 ^ 32 < 2 ^ 30 ∨ (q + 2 ^ 32 - r) % 2 ^ 32 < 2 ^ 30)) →
    ((l.foldl (fun y r => (y.accept i r).2.1) (x.accept i q).2.1).accept i q).1 = false

/-- R319, R330 and R332 for the requests of R256, R361, R364, R374 and R377. -/
def Obligations.RequestPackets : Prop :=
  ∀ (l : Nat) (k : Packet) (s : State), packetWf l k = true → k.dest = s.devId → s.gState k.group ≠ 3 → s.mem.wf → s.fabric.lost = [] →
    s.filling = false →
    let r := (s.src k.src).accept k.incarn k.sseq
    let x := s.part k.part
    let a := bits k.target 47 0
    let ty := AddTy.ofCode (bits k.target 50 49)
    let b := k.payload.take (k.payload.length - bits k.target 62 60)
    let once (t : State) : Prop := t.src k.src = r.2.1
    (r.1 = true → r.2.2 = false →
      (k.typ = 0x01 → k.kind = none → x.onePage a b.length true → ∃ t : State, exec (.writePacket l k) s = .next t ∧ once t ∧
        t.cores = s.cores ∧ ∀ j c, b[j]? = some c → ∃ pa, x.xlate (a + j) true = .here pa false ∧ t.byteAt pa = [c]) ∧
      (∀ pa h, k.typ = 0x06 → k.kind = none → b.length = ty.bytes → a % ty.bytes = 0 → x.xlate a true = .here pa h →
        ∃ t : State, exec (.reducePacket l k) s = .next t ∧ once t ∧ t.mem = (s.mem.addAt ty pa (leNat b) false).1) ∧
      (∀ pa h, k.typ = 0x04 → k.kind = none → a % ty.bytes = 0 → x.xlate a true = .here pa h →
        let d := s.mem.addAt ty pa (leAt k.payload 0 8) false
        ∃ t : State, exec (.atomicPacket l k) s = .next t ∧ t.mem = d.1 ∧ (k.sseq, d.2) ∈ (t.src k.src).atomics) ∧
      (k.typ = 0x07 → s.objHeld k.part (bits k.target 13 0) = true → ∃ t : State, exec (.syncAddPacket l k) s = .next t ∧ once t ∧
        (t.rd .helmSyncCount 0 (bits k.target 13 0)).toNat =
          min ((s.rd .helmSyncCount 0 (bits k.target 13 0)).toNat + leAt k.payload 0 4) 0xFFFFFFFF) ∧
      (∀ e pa h, s.slotPlace (Packet.slot k) = some e → k.typ = 0x04 → k.kind = some 5 → e.inBase % 8 = 0 →
        (s.part e.part).xlate e.inBase true = .here pa h → ∃ t : State, exec (.slotClaim l k) s = .next t ∧
          t.mem = (s.mem.addAt .int64 pa 1 false).1 ∧ (k.sseq, (s.mem.addAt .int64 pa 1 false).2) ∈ (t.src k.src).atomics) ∧
      (∀ e, s.slotPlace (Packet.slot k) = some e → k.typ = 0x01 → k.kind = some 6 →
        let at_ := e.inBase + 64 + Packet.slotRow k * e.pitch + Packet.slotOff k
        (s.part e.part).onePage at_ k.payload.length true → ∃ t : State, exec (.slotRow l k) s = .next t ∧ once t ∧ t.cores = s.cores ∧
          ∀ j c, k.payload[j]? = some c → ∃ pa, (s.part e.part).xlate (at_ + j) true = .here pa false ∧ t.byteAt pa = [c])) ∧
    (r.1 = false →
      (k.typ = 0x01 → k.kind = none → ∃ t : State, exec (.writePacket l k) s = .next t ∧ t.mem = s.mem ∧
        ((s.src k.src).older k.incarn = false → t.fld .lnkGcnt 0 0 0 31 0 = min (s.fld .lnkGcnt 0 0 0 31 0 + 1) 0xFFFFFFFF)) ∧
      (k.typ = 0x06 → k.kind = none → ∃ t : State, exec (.reducePacket l k) s = .next t ∧ t.mem = s.mem) ∧
      (k.typ = 0x07 → ∃ t : State, exec (.syncAddPacket l k) s = .next t ∧ ∀ o, o < 16384 → t.rd .helmSyncCount 0 o = s.rd .helmSyncCount 0 o)) ∧
    (k.typ = 0x02 → (∃ t : State, (k.kind = none → exec (.readPacket l k) s = .next t) ∧ (k.kind = some 6 → exec (.slotRow l k) s = .next t) ∧
        ∀ pa, t.byteAt pa = s.byteAt pa) ∧
      ∀ pa h, k.kind = none → k.src = s.devId → leAt k.payload 0 8 = 8 → a % 8 = 0 → x.xlate a false = .here pa h →
        s.mem.poison.contains (pa / 64) = false → (s.mem.wc.find? (fun e => e.line == pa / 64)) = none → pa % 8 = 0 →
        ∃ t : State, exec (.readPacket l k) s = .next t ∧ t.out = s.out ++ [.toSelf
          ⟨0, k.vc, 0x03, k.src, s.devId, k.part, 31, 0, 0, s.incarn, k.sseq, k.target, cellsRead s.mem.bytes pa 8, false⟩])

/-- R319, R329, R331 and R333 to R335. -/
def Obligations.AnswersAndResends : Prop :=
  (∀ (l : Nat) (k : Packet) (s : State), packetWf l k = true → k.dest = s.devId → s.fabric.lost = [] → s.fabric.experts = [] →
    (s.dest k.src).waiting = [] →
    let gone (q : Nat) (t : State) : Prop := (t.dest k.src).unacked = (s.dest k.src).unacked.filter (fun u => u.pkt.sseq != q)
    let alone (q typ : Nat) : Prop := (∃ u ∈ (s.dest k.src).unacked, u.pkt.sseq = q ∧ u.pkt.typ = typ ∧ u.group = none) ∧
      ∀ u ∈ (s.dest k.src).unacked, u.pkt.sseq = q → u.pkt.typ = typ ∧ u.group = none
    (k.typ = 0x03 → (s.asked k 0x02 = true → ∃ t : State, exec (.readRsp l k) s = .next t ∧ gone k.sseq t) ∧
      (s.asked k 0x02 = false → ∃ t : State, exec (.readRsp l k) s = .next t ∧ t.fabric.dests = s.fabric.dests)) ∧
    (k.typ = 0x05 → (s.asked k 0x04 = true → ∃ t : State, exec (.atomicRsp l k) s = .next t ∧ gone k.sseq t) ∧
      (s.asked k 0x04 = false → ∃ t : State, exec (.atomicRsp l k) s = .next t ∧ t.fabric.dests = s.fabric.dests)) ∧
    (k.typ = 0x09 → k.target = 1 → alone (leAt k.payload 0 4) 0x01 →
      ∃ t : State, exec (.ackPacket l k) s = .next t ∧ gone (leAt k.payload 0 4) t) ∧
    (k.typ = 0x0A → k.target % 4096 = k.src → alone k.sseq 0x01 → ∃ t : State, exec (.unreach l k) s = .next t ∧ gone k.sseq t)) ∧
  (∀ (d q : Nat) (u : Unacked) (s : State), d < 4096 → s.fabric.lost = [] → (s.dest d).waiting = [] →
    (s.dest d).unacked.find? (fun u => u.pkt.sseq == q) = some u → u.group = none → u.pkt.dest = d → u.pkt.sseq = q →
    (u.resends < 8 → s.route d ≠ none → d ≠ s.devId → ∃ t : State, exec (.endToEndResend d q) s = .next t ∧
      (t.dest d).unacked = (s.dest d).unacked.map (fun y => if y = u then { y with resends := y.resends + 1 } else y)) ∧
    (8 ≤ u.resends → ∃ t : State, exec (.endToEndResend d q) s = .next t ∧
      (t.dest d).unacked = (s.dest d).unacked.filter (fun u => u.pkt.sseq != q) ∧
      t.fld .lnkGcnt 0 1 0 31 0 = min (s.fld .lnkGcnt 0 1 0 31 0 + 1) 0xFFFFFFFF)) ∧
  (∀ (l pcp : Nat) (f : EthFrame) (s : State), l < 32 → pcp < 8 → s.linkUp l = true → (s.link l).eth = true →
    let mine := s.rd64 .lnkMacBaseLo .lnkMacBaseHi + 32 * s.devId + l
    let u := (s.lcnt l 3 f.fec.corrected).lcnt l 2 f.fec.lost
    (f.fcsOk = false ∨ f.dst ≠ mine ∨ f.etherType ≠ s.fld .lnkFabric 0 0 0 31 16 → ∃ t : State, exec (.ethernetFrame l f) s = .next t ∧
      t.fld .lnkCnt l 6 0 31 0 = min (s.fld .lnkCnt l 6 0 31 0 + 1) 0xFFFFFFFF ∧ t.cores = s.cores ∧ t.mem = s.mem ∧ t.fabric = s.fabric) ∧
    (f.fcsOk = true → f.dst = mine → f.etherType = s.fld .lnkFabric 0 0 0 31 16 →
      (f.pkts = [] → (s.link l).pausing = [] → exec (.ethernetFrame l f) s = .next u) ∧
      ∀ k rest, f.pkts = k :: rest → takeFrame l u f.pkts = none → (s.link l).pausing = [] → ∃ t : State,
        exec (.ethernetFrame l f) s = .next t ∧ (t.link l).pausing = [(s.link l).pcp k.vc] ∧ t.out = s.out ++ [.pfc l ((s.link l).pcp k.vc) true]) ∧
    (∃ t : State, exec (.priorityFlowControl l pcp true) s = .next t ∧ pcp ∈ (t.link l).paused ∧
      ∀ k, (s.link l).pcp k.vc = pcp → t.ready l k = false) ∧
    (∃ t : State, exec (.priorityFlowControl l pcp false) s = .next t ∧ pcp ∉ (t.link l).paused))

/-- R349 to R353. -/
def Obligations.GroupFormation : Prop :=
  ∀ (g : Nat) (s : State), g < 256 → s.inRange → s.fabric.lost = [] →
    let x := s.group g
    let st := s.gState g
    let ends (t : State) (state reason : Nat) : Prop := t.gState g = state ∧ t.fld .collGroup 0 g 0 28 25 = reason
    let broken (t : State) (reason : Nat) : Prop := ends t 4 reason ∧ (t.group g).queue = [] ∧ t.rd .collGroupEhi 0 g = w32 (x.epoch + 1)
    (∀ m v, m.wf = true → s.reachesGroup m g = true → s.bar2Waits m = false → s.filling = false →
      (v.getLsbD 2 = true → st = 3 → ∃ t : State, exec (.groupAbort m g v) s = .next t ∧ broken t 11) ∧
      (v.getLsbD 2 = true → v.getLsbD 1 = false → st ≠ 3 → ∃ t : State, exec (.groupAbort m g v) s = .next t ∧ t.gState g = st) ∧
      (∀ b, v.getLsbD 1 = true → (st = 1 ∨ st = 4) → s.gSize g = 1 → s.rd64 .collGroupMembLo .collGroupMembHi 0 g % 4 = 0 →
        (s.part x.part).onePage (s.rd64 .collGroupMembLo .collGroupMembHi 0 g) 4 false → x.queue = [] →
        s.peek x.part (s.rd64 .collGroupMembLo .collGroupMembHi 0 g) 4 = some b →
        (leNat b % 4096 ≠ s.devId → ∃ t : State, exec (.form m g v) s = .next t ∧ ends t 1 6) ∧
        (leNat b % 4096 = s.devId → shapeOk (s.rd .collGroupShape 0 g).toNat 1 = true →
          s.rd .collGroupElo 0 g ≤ s.rd .collGroupEhi 0 g → ∃ t : State, exec (.form m g v) s = .next t ∧ t.gState g = 3 ∧
            (t.group g).epoch = (s.rd .collGroupEhi 0 g).toNat ∧ (t.group g).members.map (·.1) = [s.devId]))) ∧
    (st = 2 →
      (∃ t : State, exec (.formationTimeout g) s = .next t ∧ ends t 1 5) ∧
      ((x.members.map (·.1)).Nodup → ∃ t : State, exec (.cardSend g) s = .next t ∧ t.gState g = 2 ∧
        ∀ d, d ∈ x.members.map (·.1) → d ≠ s.devId → (t.dest d).next = ((s.dest d).next + 1) % 2 ^ 32) ∧
      (x.syncWait = true → x.cards.length < s.gSize g → ∃ t : State, exec (.syncReqWaitEnd g) s = .next t ∧ t.gState g = 2 ∧
        (t.group g).syncWait = false ∧ (x.apart ≠ [] → t.fld .collGroup 0 g 0 24 24 = 1))) ∧
    (st ≠ 2 → exec (.formationTimeout g) s = .next s ∧ exec (.cardSend g) s = .next s ∧ exec (.syncReqWaitEnd g) s = .next s) ∧
    (∀ l k, packetWf l k = true → k.dest = s.devId → k.typ = 0x01 →
      let r := (s.src k.src).accept k.incarn k.sseq
      r.1 = true → r.2.2 = false →
      (k.kind = some 1 → s.formingKey (bits k.target 31 0) = some g → st = 2 →
        let c := Card.parse k.payload
        (∀ why, s.cardRefused g k.src c = some why → ∃ t : State, exec (.groupCard l k) s = .next t ∧ ends t 1 why) ∧
        (s.cardRefused g k.src c = none → apart c.meridian s.now ≤ 5000 → c.syncReq = false →
          (x.cards.filter (fun y => y.1 != c.rank)).length + 1 < s.gSize g →
          ∃ t : State, exec (.groupCard l k) s = .next t ∧ t.gState g = 2 ∧ (c.rank, c) ∈ (t.group g).cards)) ∧
      (k.kind = some 4 → k.group = g → (x.rankOf k.src).isSome = true →
        (st = 3 → k.epoch = x.epoch % 65536 → ∃ t : State, exec (.abortPacket l k) s = .next t ∧ broken t 10) ∧
        (st = 3 → k.epoch ≠ x.epoch % 65536 → ∃ t : State, exec (.abortPacket l k) s = .next t ∧ t.gState g = 3 ∧
          t.fld .collGroupErr 0 g 0 31 16 = min (s.fld .collGroupErr 0 g 0 31 16 + 1) 0xFFFF) ∧
        (st = 2 → ∃ t : State, exec (.abortPacket l k) s = .next t ∧ ends t 1 10)))

/-- R353, R359, R361, R362 and R366. -/
def Obligations.ChunksAndValues : Prop :=
  ∀ (l : Nat) (k : Packet) (s : State), packetWf l k = true → k.dest = s.devId → s.inRange → s.fabric.lost = [] → s.gState k.group = 3 →
    let g := k.group
    let x := s.group g
    let r := (s.src k.src).accept k.incarn k.sseq
    r.1 = true → r.2.2 = false → (∀ m ∈ x.members, m.1 = s.devId ∨ s.route m.1 ≠ none) →
    (k.epoch ≠ x.epoch % 65536 → ∀ i ∈ [Instr.chunkData l k [], .chunkEnd l k, .chunkRetryRequest l k, .beaconPacket l k], i.wf = true →
      ∃ t : State, exec i s = .next t ∧ t.fld .collGroupErr 0 g 0 31 16 = min (s.fld .collGroupErr 0 g 0 31 16 + 1) 0xFFFF ∧
        t.group g = x ∧ t.mem = s.mem) ∧
    (k.epoch = x.epoch % 65536 →
      (∀ rank y, x.rankOf k.src = some rank → s.chunkPost g k.dseq = some (some y) →
        let id := s.chunkNumber g rank k.chunk y
        (∀ errs, (Instr.chunkData l k errs).wf = true → s.chunkRoom g rank id y = true → ∃ t : State,
          exec (.chunkData l k []) s = .next t ∧ exec (.chunkData l k errs) s = .next (t.storeErrors k errs) ∧
          (t.group g).staged = stageBytes x.staged rank y.dseq id (256 * k.inChunk) k.payload ∧ t.mem = s.mem ∧ t.cores = s.cores ∧
          ((∃ e ∈ errs, e.ue = true) → cReducing y.desc = true → cDirect y.desc = false →
            ∃ c, ((t.storeErrors k errs).group g).stagedAt rank y.dseq id = some c ∧ c.poison = true)) ∧
        ((Instr.chunkEnd l k).wf = true → (leAt k.payload 8 4 % 256 ≠ cOp y.desc ∨ leAt k.payload 12 4 ≠ cCount y.desc % 2 ^ 32) →
          ∃ t : State, exec (.chunkEnd l k) s = .next t ∧ t.gState g = 4 ∧ t.fld .collGroup 0 g 0 28 25 = 9) ∧
        (∀ c, (Instr.chunkEnd l k).wf = true → leAt k.payload 8 4 % 256 = cOp y.desc → leAt k.payload 12 4 = cCount y.desc % 2 ^ 32 →
          cDirect y.desc = false → y.retries = [] → x.queue = [y] → y.ended (s.gSize g) (s.myRank g) = false →
          x.stagedAt rank y.dseq id = some c → leAt k.payload 4 4 ≤ c.data.length →
          crc32c ((c.data.map (·.2)).take (leAt k.payload 4 4)) ≠ w32 (leAt k.payload 0 4) →
          ∃ t : State, exec (.chunkEnd l k) s = .next t ∧ t.gState g = 3 ∧ (t.group g).stagedAt rank y.dseq id = none ∧
            t.fld .collGroupErr 0 g 0 15 0 = min (s.fld .collGroupErr 0 g 0 15 0 + 1) 0xFFFF) ∧
        (∀ c, (Instr.chunkRetryRequest l k).wf = true → s.posted g y.dseq = some y →
          y.kept.find? (fun c => c.rank == rank && wireChunk y.desc (s.gSize g) c.chunk == k.chunk) = some c →
          ∃ t y' q, exec (.chunkRetryRequest l k) s = .next t ∧
            t = ((((s.freeFlits l k).acceptRequest k).2.sendChunk g y.dseq rank c.chunk c.bytes c.coded).acknowledge k).settled ∧ t.posted g y.dseq = some y' ∧ ⟨rank, c.chunk, c.bytes, c.coded, q⟩ ∈ y'.kept)) ∧
      ((Instr.beaconPacket l k).wf = true → k.bHops = 0 → x.beacons = [] → ∃ t : State, exec (.beaconPacket l k) s = .next t ∧
        (t.group g).values = x.values ++ [(k.dseq, k.bStep, k.inChunk, k.payload)] ∧ t.mem = s.mem ∧ t.cores = s.cores))

/-- R368, R369, R372 and R382. -/
def Obligations.ChartAndMeridian : Prop :=
  (∀ (m : Master) (v : Word) (s : State), m.wf = true → s.bar2Waits m = false →
    let i := s.fld .chartSel 0 0 0 15 0
    (s.devMgmt m = true → v.getLsbD 1 = true → ∃ t : State, exec (.chartWrite m v) s = .next t ∧ t.cores = s.cores ∧ t.mem = s.mem ∧
      (s.fld .chartSel 0 0 0 16 16 = 0 → t.chartEntry i = (List.range 4).map (fun j => s.rd .chartData 0 j) ∧
        ∀ e, e ≠ i → t.chartEntry e = s.chartEntry e) ∧
      (s.fld .chartSel 0 0 0 16 16 = 1 → i < 4096 → t.slotEntry i = (List.range 6).map (fun j => s.rd .chartData 0 j) ∧
        ∀ e, e ≠ i → t.slotEntry e = s.slotEntry e)) ∧
    (s.devMgmt m = true → v.getLsbD 0 = true → v.getLsbD 1 = false → ∃ t : State, exec (.chartRead m v) s = .next t ∧
      t.fabric = s.fabric ∧ (s.fld .chartSel 0 0 0 16 16 = 0 → ∀ j, j < 4 → t.rd .chartData 0 j = (s.chartEntry i).getD j 0#32) ∧
      (s.fld .chartSel 0 0 0 16 16 = 1 → i < 4096 → ∀ j, j < 6 → t.rd .chartData 0 j = (s.slotEntry i).getD j 0#32)) ∧
    (s.devMgmt m = false → (v.getLsbD 1 = true → ∃ t : State, exec (.chartWrite m v) s = .next t ∧ t.fld .chartCmd 0 0 0 31 31 = 1 ∧
        t.fabric = s.fabric) ∧
      (v.getLsbD 0 = true → v.getLsbD 1 = false → exec (.chartRead m v) s = .next (s.unlatch m)))) ∧
  (∀ (l : Nat) (r : MerResponse) (s : State), l < 32 →
    (nativeUp s l = false → exec (.meridianExchange l) s = .next s ∧ exec (.meridianRequest l) s = .next s ∧
      exec (.meridianResponse l r) s = .next s) ∧
    (nativeUp s l = true →
      let x := s.link l
      (x.ahead = [] → x.waiting = [] → x.held = [] → (∀ i, i < 8 → s.fld .lnkFiMatch l i 0 31 31 = 0) → 1 ≤ s.fld .lnkCredit l 6 0 10 0 →
        x.replay.length < 2048 →
        let sends (t : State) (code : Nat) (payload : List Byte) : Prop := t.out = s.out ++ [.flits l (packetFlits
          ⟨x.nextLseq, 3, 0x0C, s.fld .lnkPeer l 0 0 11 0, s.devId, 0, 31, 0, 0, s.incarn, 0, code, payload, false⟩ x.ack false)]
        (∃ t : State, exec (.meridianExchange l) s = .next t ∧ sends t mgmtRequest (leBytes s.now 8) ∧ t.now = s.now) ∧
        (∃ t : State, exec (.meridianRequest l) s = .next t ∧ sends t mgmtResponse (leBytes s.now 8 ++ leBytes s.now 8 ++
          leBytes s.merChoice.1.1 1 ++ leBytes s.merChoice.1.2 2 ++ leBytes (t.fld .collMerStatus 0 0 0 23 17) 1 ++ leBytes 0 4))) ∧
      ((∀ o ∈ s.merOffered, o.1 ≠ l ∧ merBefore (r.prio, r.dev) o.2.1 = true) → merBefore (r.prio, r.dev) s.merSelf = true → r.hops < 127 →
        ∃ t : State, exec (.meridianResponse l r) s = .next t ∧ (t.fabric.merPrio, t.fabric.merDev) = (r.prio, r.dev) ∧
          t.fld .collMerStatus 0 0 0 28 24 = l ∧ t.fld .collMerStatus 0 0 0 23 17 = r.hops + 1 ∧ t.fld .collMerStatus 0 0 0 29 29 = 0)))

/-- R249 to R251, R254, R259 to R263 and R265; R245 for the refresh; R406 for the hub. -/
def Obligations.MemoryPath : Prop :=
  ∀ s : State, s.mem.wf → s.inRange →
    (s.memoryOn = false → ∀ q e errs, Ecc.wf e = true → errs.all HubErr.ofControl = true → exec (.memoryRequest q e errs) s = .next s) ∧
    (∀ q e errs, Ecc.wf e = true → errs.all HubErr.ofControl = true → exec (.memoryRequest q e errs) s = exec (.memoryRequest q e []) (s.hubErrors errs)) ∧
    (s.memoryOn = true → ∀ x : HubErr, x.ofControl = true →
      (x.ue = true → (s.hubErrors [x]).phase = 2 ∧ (s.hubErrors [x]).fld .lcStatus 0 0 0 3 0 = 4) ∧
      (x.ue = false → (s.hubErrors [x]).mem = s.mem ∧ (s.hubErrors [x]).cores = s.cores ∧
        ∃ r, (s.hubErrors [x]).newest = some r ∧ r.cls = 4 ∧ r.kind = x.kind)) ∧
    (∀ st, st < 12 → exec (.hbmRefresh st) s = .next s) ∧
    (s.memoryOn = true → ∀ line, line * 64 < s.grade.capacity →
      let st := stackOf s.grade (line * 64)
      let d := (s.mem.settle (line * 64) 64).look (line * 64) 64
      let rest (t : State) : Prop := t.cores = s.cores ∧ t.parts = s.parts ∧ t.fabric = s.fabric
      (∀ src, src ≠ .scrub →
        (∃ t : State, exec (.memoryRequest (.read src line) .clean []) s = .next t ∧ t.out = s.out ++ [.memData line d.1 d.2] ∧ rest t ∧
          ∀ a, t.byteAt a = s.byteAt a) ∧
        (∀ symbols syn, 1 ≤ symbols → symbols ≤ 3 → syn < 2 ^ 64 → ∃ t : State,
          exec (.memoryRequest (.read src line) (.ce symbols syn) []) s = .next t ∧
          t.out.getLast? = some (.memData line d.1 d.2) ∧
          t.fld .memCeCount st 0 0 31 0 = min (s.fld .memCeCount st 0 0 31 0 + 1) 0xFFFFFFFF) ∧
        (∀ symbols syn data, 1 ≤ symbols → symbols ≤ 3 → syn < 2 ^ 64 → data.length = 64 → ∃ t : State,
          exec (.memoryRequest (.read src line) (.wrong symbols syn data) []) s = .next t ∧
          t.out.getLast? = some (.memData line data d.2) ∧ (∀ j c, data[j]? = some c → t.byteAt (line * 64 + j) = [c]) ∧
          t.fld .memCeCount st 0 0 31 0 = min (s.fld .memCeCount st 0 0 31 0 + 1) 0xFFFFFFFF) ∧
        (∀ syn data, syn < 2 ^ 64 → data.length = 64 → s.controlLine line = false → ∃ t : State,
          exec (.memoryRequest (.read src line) (.ue syn data) []) s = .next t ∧
          t.out.getLast? = some (.memData line data true) ∧ line ∈ t.mem.poison ∧
          (∀ j c, data[j]? = some c → t.byteAt (line * 64 + j) = [c]) ∧
          t.fld .memUeCount st 0 0 31 0 = min (s.fld .memUeCount st 0 0 31 0 + 1) 0xFFFFFFFF) ∧
        (∀ syn data, syn < 2 ^ 64 → data.length = 64 → s.controlLine line = true → ∃ t : State,
          exec (.memoryRequest (.read src line) (.ue syn data) []) s = .next t ∧ t.phase = 2 ∧ t.fld .lcStatus 0 0 0 3 0 = 4)) ∧
      (∀ off data poison e, Ecc.wf e = true → off + data.length ≤ 64 → ∃ t : State, exec (.memoryRequest (.write line off data poison) e []) s = .next t ∧ rest t ∧
        t.out = s.out ∧ (∀ j c, data[j]? = some c → t.byteAt (line * 64 + off + j) = [c]) ∧
        ∀ a, a < line * 64 + off ∨ line * 64 + off + data.length ≤ a → t.byteAt a = s.byteAt a) ∧
      (∀ off ty amount poison,
        let n := (AddTy.ofCode (ty % 4)).bytes
        let pa := line * 64 + off
        let old := leNat ((s.mem.settle pa n).look pa n).1
        let bad := poison || d.2
        off % n = 0 → off + n ≤ 64 → ∃ t : State, exec (.memoryRequest (.add line off ty amount poison) .clean []) s = .next t ∧ rest t ∧
          t.out = s.out ++ [.memData line (leBytes old n) bad] ∧
          (bad = true → line ∈ t.mem.poison ∧ ∀ a, t.byteAt a = s.byteAt a) ∧
          (bad = false → (∀ j, j < n → t.byteAt (pa + j) = ((leBytes (memAdd (AddTy.ofCode (ty % 4)) old amount) n).drop j).take 1) ∧
            ∀ a, a < pa ∨ pa + n ≤ a → t.byteAt a = s.byteAt a)) ∧
      (∃ t : State, exec (.writeCombiningAgeOut line .clean) s = .next t ∧ rest t ∧ t.out = s.out ∧ (∀ x ∈ t.mem.wc, x.line ≠ line) ∧
        ∀ a, t.byteAt a = s.byteAt a) ∧
      (s.fld .memScrubCtl st 0 0 8 8 = 1 → ∃ t : State, exec (.patrolScrubRead st []) s = .next t ∧ rest t ∧ t.out = s.out ∧ t.mem = s.mem ∧
        t.fld .memScrubPos st 0 0 23 0 = (if s.fld .memScrubPos st 0 0 23 0 + 1 < 12582912 then s.fld .memScrubPos st 0 0 23 0 + 1 else 0) ∧
        (12582912 ≤ s.fld .memScrubPos st 0 0 23 0 + 1 →
          t.fld .memScrubPos st 0 0 31 24 = (s.fld .memScrubPos st 0 0 31 24 + 1) % 256)))

/-- R267, R269, R275 and R245; R422; R299 to R302 with R411. -/
def Obligations.MarginingMigrationCensus : Prop :=
  ∀ s : State, s.mem.wf → s.inRange →
    (∀ (m : Master) (st : Nat) (v : Word), m.wf = true → st < s.nStacks → s.holdMgmt m = true → s.bar2Waits m = false →
      ∃ t : State, exec (.marginStart m st v) s = .next t ∧ t.mem = s.mem ∧ t.cores = s.cores ∧ t.parts = s.parts ∧
        (v.getLsbD 31 = true → s.phase ≠ 8 → t.fld .memMarginResult st 0 0 30 30 = 1 ∧
          t.rd .memMarginCtl st = s.rd .memMarginCtl st ∧ t.rd .memStatus st = s.rd .memStatus st) ∧
        (v.getLsbD 31 = true → s.phase = 8 → t.fld .memStatus st 0 0 3 3 = 1 ∧ t.fld .memMarginResult st 0 0 31 30 = 0 ∧
          t.rd .memMarginCtl st = Reg.memMarginCtl.spec.write (s.rd .memMarginCtl st) v)) ∧
    (∀ (st : Nat) (r : MarginResult), st < 12 → r.wf = true → s.clockHalt = false → s.fld .memStatus st 0 0 3 3 = 1 →
      let mine (a : Nat) : Prop := stackOf s.grade a = st ∧ chanOf s.grade a = s.fld .memMarginCtl st 0 0 25 21 ∧
        pcOf a = s.fld .memMarginCtl st 0 0 20 20
      ∃ t : State, exec (.marginRunDone st r) s = .next t ∧ t.fld .memStatus st 0 0 3 3 = 0 ∧ t.fld .memMarginResult st 0 0 31 30 = 2 ∧
        t.fld .memMarginResult st 0 0 29 29 = (if r.fail0 then 1 else 0) ∧
        t.fld .memMarginResult st 0 0 15 8 = (if r.fail0 then 0 else (BitVec.ofInt 8 r.high).toNat) ∧
        t.fld .memMarginResult st 0 0 7 0 = (if r.fail0 then 0 else (BitVec.ofInt 8 r.low).toNat) ∧
        ∀ a, (mine a → t.byteAt a = [0#8] ∧ a / 64 ∉ t.mem.poison) ∧ (¬ mine a → t.byteAt a = s.byteAt a)) ∧
    (∀ st temp, st < s.nStacks → s.clockHalt = false → ∃ t : State, exec (.hbmTemperatureReadout st temp) s = .next t ∧
      t.fld .memStatus st 0 0 23 16 = temp % 256 ∧ t.fld .memStatus st 0 0 4 4 = (if 85 < temp then 1 else 0) ∧
      t.clockHalt = decide (105 ≤ temp) ∧ (105 ≤ temp → t.pins.thermTripN = false) ∧ t.mem = s.mem ∧ t.cores = s.cores) ∧
    (∀ pa p g,
      let f := pa / frameSize
      (∃ e ∈ s.rel.entries, e.kind = 1 ∧ e.st = 3 ∧ e.location / frameSize = f) → s.clockHalt = false → s.frameHolder f = some p →
      (∀ y ∈ (s.part p).pages, (∃ a, y.frame = some a ∧ a / frameSize = f) → y.p = false) →
      s.pagesUsed p ((s.part p).pages.filter (fun y => y.frame.any (fun a => a / frameSize == f))) = false → f ∉ s.controlMap →
      s.freeFrom s.grade.frames 0 = some g → (f ∈ s.rel.retired ∨ s.rel.retired.length < 256) →
      ∀ lines : List (Nat × Ecc), (∀ x ∈ lines, x.2.wf = true) →
      ∃ t : State, exec (.frameMigration pa lines) s = .next t ∧ (lines = [] → t.part p = (s.part p).moveFrame f g) ∧ f ∈ t.rel.retired ∧
        (∀ e ∈ t.rel.entries, e.kind = 1 → e.location / frameSize = f → e.st ≠ 3) ∧ t.cores = s.cores ∧
        ((∀ x ∈ lines, x.2.faithful = true) → (∀ j, j < frameSize → t.byteAt (g * frameSize + j) = s.byteAt (f * frameSize + j)) ∧
          ∀ a, a / frameSize ≠ g → t.byteAt a = s.byteAt a)) ∧
    ((s.phase ≠ 10 ∨ s.clockHalt = true → exec .census s = .next s) ∧
      (s.phase = 10 → s.clockHalt = false →
        ((∀ e ∈ s.censusEqs, e.terms.sum = e.total) → ∃ t : State, exec .census s = .next t ∧ t = { s with regs := t.regs } ∧
          t.fld .helmCensus 0 0 0 30 0 = (s.fld .helmCensus 0 0 0 30 0 + 1) % 2 ^ 31 ∧
          t.fld .helmCensus 0 0 0 31 31 = s.fld .helmCensus 0 0 0 31 31) ∧
        ((∃ e ∈ s.censusEqs, e.terms.sum ≠ e.total) → ∃ t : State, exec .census s = .next t ∧ t.fld .helmCensus 0 0 0 31 31 = 1 ∧
          t.phase = 2 ∧ t.fld .lcStatus 0 0 0 3 0 = 4 ∧
          ∃ e ∈ s.censusEqs, e.terms.sum ≠ e.total ∧ t.fld .helmCensusPool 0 0 0 31 28 = e.pool % 16 ∧
            t.fld .helmCensusPool 0 0 0 17 0 = e.idx % 2 ^ 18)))

/-- R406, R407, R414, R418, R420, R424 to R426 and R452. -/
def Obligations.AlmanacAndLighthouse : Prop :=
  (∀ s : State, s.lengths →
    (s.rel.dirty = false ∨ s.rel.writing ≠ none → exec .almanacCommit s = .next s) ∧
    (s.rel.dirty = true → s.rel.writing = none → ∃ t : State, exec .almanacCommit s = .next t ∧ t = { s with flash := t.flash, rel := t.rel } ∧
      t.rel.dirty = false ∧ t.sectors.copies.getD (1 - s.rel.inUse) none = none ∧ (∀ k, k ≠ s.almPlace → t.flash.almanac k = s.flash.almanac k) ∧
      t.sectors.copies.getD s.rel.inUse none = s.sectors.copies.getD s.rel.inUse none ∧
      ∃ c, t.rel.writing = some c ∧ c.seq = (s.rel.copySeq + 1) % 2 ^ 32 ∧ c.entries = s.rel.entries ∧ c.count = s.rel.entries.length ∧
        c.valid = true) ∧
    (s.rel.writing = none → exec .almanacCommitDone s = .next s) ∧
    (∀ c, s.rel.writing = some c → ∃ t : State, exec .almanacCommitDone s = .next t ∧
      t.sectors.copies.getD (1 - s.rel.inUse) none = some c ∧
      (s.start.resetWait = none → t.rel.writing = none ∧ t.rel.inUse = 1 - s.rel.inUse ∧ t.rel.copySeq = c.seq ∧ t.rel.base = c.base ∧
        t.rel.entries = s.rel.entries ∧ t.regs = s.regs ∧ t.mem = s.mem) ∧
      (∀ k, s.start.resetWait = some k → (s.rel.dirty = true → t.rel.writing ≠ none ∧ t.rel.dirty = false) ∧
        (s.rel.dirty = false → t.phase = 2 ∧ t.fld .lcStatus 0 0 0 3 0 = k % 16))))  ∧
  (∀ (n a t next : Nat) (agree : Bool) (s : State), n < 192 → a < 4 → t < 16 → s.inRange →
    (s.fld .logLhCtl 0 0 0 31 31 = 1 ∨ s.onWatch n a = true) → s.clockHalt = false → tabGet (s.core n).lhNext a 0 = 0 →
    1 ≤ next → next < 2 ^ (s.lhRate n a + 1) →
    ∃ u : State, exec (.lighthouseSample n a t next agree) s = .next u ∧
      u.core n = { s.core n with lhNext := tabSet (s.core n).lhNext a 0 next
                                 lhTurn := tabSet (s.core n).lhTurn a 0 ((tabGet (s.core n).lhTurn a 0 + 1) % 3) } ∧
      u.fld .logLhSamples 0 0 0 31 0 = min (s.fld .logLhSamples 0 0 0 31 0 + 1) 0xFFFFFFFF ∧ u.mem = s.mem ∧
      (agree = true → u.rel = s.rel ∧ u.rd .arrHdr n a t = s.rd .arrHdr n a t) ∧
      (agree = false → u.fld .arrHdr n a t 4 4 = 1 ∧ u.fld .logLhMism 0 0 0 31 0 = min (s.fld .logLhMism 0 0 0 31 0 + 1) 0xFFFFFFFF ∧
        ∃ r, u.newest = some r ∧ r.cls = 0x0F ∧ r.kind = 0 ∧ r.unit = n ∧ r.sub = a)) ∧
  (∀ (n : Nat) (c : Cmd) (errs : List SramErr) (s : State), n < 192 → errs.all SramErr.wf = true →
    let u := s.sramErrors n errs
    (c.op = 0x10 → exec (.wload n c errs) s = exec (.wload n c []) u) ∧ (c.op = 0x11 → exec (.pass n c errs) s = exec (.pass n c []) u) ∧
    (c.op = 0x2C → exec (.mrecv n c errs) s = exec (.mrecv n c []) u) ∧ exec (.tileConversion n errs) s = exec (.tileConversion n []) u) ∧
  (∀ (n : Nat) (e : SramErr) (s : State), n < 192 → e.wf = true → s.inRange → s.clockHalt = false →
    let u := s.sramErrors n [e]
    u.mem = s.mem ∧ (∀ m, m ≠ n → u.core m = s.core m) ∧ (e.ue = false → u.core n = s.core n) ∧
    (∃ r, u.newest = some r ∧ r.kind = 0 ∧ r.unit = n ∧ r.cls = (if e.ue = false then 4 else if e.site = .pilot then 8 else 5)) ∧
    (e.ue = true → match e.site with
      | .coreStore l => l ∈ (u.core n).csPoison
      | .tile a t => u.fld .arrHdr n a t 4 4 = 1
      | .bank a b => ∀ x, tabFind (u.core n).banks (bankKey a b) = some x → x.poison = true
      | .queue j => ∀ x, (u.core n).tileq[j]? = some x → x.hdr.getLsbD 4 = true
      | .mailbox j => ∀ x, (u.core n).mailbox[j]? = some x → x.poison = true
      | .pilot => (u.core n).pilot = .halted ∧ (u.core n).fatal = true)) ∧
  (∀ s : State, (s.bmcOn = false → exec .clearFatalSlot s = .next s) ∧
    (s.bmcOn = true → ∃ t : State, exec .clearFatalSlot s = .next t ∧ t.rel.fatal = none ∧ t.fld .logStatus 0 0 0 31 31 = 0 ∧
      t.out = s.out ++ [.mgmt 7 true []] ∧ t.rel.ring = s.rel.ring))

/-- R500 to R506, and R495 for the owners of counters. -/
def Obligations.PerfRecords : Prop :=
  (∀ (n interval : Nat) (s : State), n < 192 → s.fld .perfCoreCtl 0 n 0 29 29 = 1 → s.clockHalt = false → (s.core n).tagArmed = false →
    (s.core n).tagCount = 0 → 1 ≤ interval → interval < 2 ^ (s.tagRate n + 1) →
    exec (.tagInterval n interval) s = .next (s.onCore n (fun k => { k with tagArmed := true, tagCount := interval }))) ∧
  (∀ (n p : Nat) (r : StageTimes) (s : State), n < 192 → s.mem.wf → s.inRange → (n, r.cc) ∈ s.tagged → s.clockHalt = false →
    s.holder n = some p → s.fld .perfRingCtl 0 p 0 31 31 = 1 →
    let tail := (s.rd .perfRingTail 0 p).toNat
    let used := (tail + 2 ^ 32 - (s.rd .perfRingHead 0 p).toNat) % 2 ^ 32
    let at_ := s.ringBase p + 64 * (tail % s.ringSize p)
    (s.ringSize p ≤ used → ∃ t : State, exec (.stageRecord n r) s = .next t ∧ t.mem = s.mem ∧ t.cores = s.cores ∧ (n, r.cc) ∉ t.tagged ∧
      t.rd .perfRingTail 0 p = s.rd .perfRingTail 0 p ∧
      t.fld .perfRingLost 0 p 0 31 0 = min (s.fld .perfRingLost 0 p 0 31 0 + 1) 0xFFFFFFFF) ∧
    (used < s.ringSize p → (s.part p).onePage at_ 64 false → ∃ t : State, exec (.stageRecord n r) s = .next t ∧ t.cores = s.cores ∧
      (n, r.cc) ∉ t.tagged ∧ t.rd .perfRingTail 0 p = BitVec.ofNat 32 (tail + 1) ∧
      ∀ j c, (StageTimes.bytes r n)[j]? = some c → ∃ pa h, (s.part p).xlate (at_ + j) false = .here pa h ∧ t.byteAt pa = [c])) ∧
  (∀ (p : Nat) (s : State), p < 8 → s.mem.wf →
    let d := tabGet s.dumps p 0
    let at_ := s.dumpBase p + d % 2 * s.dumpSize p
    (s.fld .perfDumpCtl 0 p 0 31 31 = 0 → exec (.periodicDump p) s = .next s) ∧
    (s.fld .perfDumpCtl 0 p 0 31 31 = 1 → s.clockHalt = false →
      (s.partState p ≠ 1 → ∃ t : State, exec (.periodicDump p) s = .next t ∧ t.mem = s.mem ∧ t.dumps = s.dumps ∧
        t.fld .perfDumpSkip 0 p 0 31 0 = min (s.fld .perfDumpSkip 0 p 0 31 0 + 1) 0xFFFFFFFF) ∧
      (s.partState p = 1 → (s.part p).onePage at_ (s.dumpSize p) false → ∃ t : State, exec (.periodicDump p) s = .next t ∧
        t.cores = s.cores ∧ tabGet t.dumps p 0 = d + 1 ∧
        ∀ j c, (leBytes d 8 ++ s.dumpBody p)[j]? = some c → ∃ pa h, (s.part p).xlate (at_ + j) false = .here pa h ∧ t.byteAt pa = [c]))) ∧
  (∀ (m : Master) (k : Nat) (v : Word) (s : State), m.wf = true → k < 32 → s.bar2Waits m = false →
    let old := s.rd .perfHubEvt 0 k
    let new := Reg.perfHubEvt.spec.write old v
    (s.reachesHub m k = false → exec (.ownerWrite m k v) s = .next (s.unlatch m)) ∧
    (m = .mgmt → ∃ t : State, exec (.ownerWrite m k v) s = .next t ∧ t.fld .perfHubEvt 0 k 0 31 28 = getBits new 31 28 ∧
      (getBits new 31 28 ≠ getBits old 31 28 → t.rd64 .perfHubCntLo .perfHubCntHi 0 k = 0 ∧ t.fld .perfHubEvt 0 k 0 7 0 = 0) ∧
      (getBits new 31 28 = getBits old 31 28 → t.rd .perfHubEvt 0 k = new ∧
        t.rd64 .perfHubCntLo .perfHubCntHi 0 k = s.rd64 .perfHubCntLo .perfHubCntHi 0 k)) ∧
    (m ≠ .mgmt → s.reachesHub m k = true → ∃ t : State, exec (.ownerWrite m k v) s = .next t ∧
      t.fld .perfHubEvt 0 k 0 31 28 = getBits old 31 28 ∧ t.fld .perfHubEvt 0 k 0 27 0 = getBits new 27 0)) ∧
  (∀ (m : Master) (p : Nat) (v : Word) (s : State), m.wf = true → p < 8 → s.bar2Waits m = false →
    let fits := (s.part p).pinned (s.dumpBase p) (2 * s.dumpSize p) = true ∧ s.dumpBase p % 128 = 0
    (s.reachesPerf m p = false → exec (.dumpEnable m p v) s = .next (s.unlatch m)) ∧
    (s.reachesPerf m p = true →
      (v.getLsbD 31 = true → ¬ fits → ∃ t : State, exec (.dumpEnable m p v) s = .next t ∧ t.fld .perfDumpCtl 0 p 0 30 30 = 1 ∧
        t.fld .perfDumpCtl 0 p 0 31 31 = s.fld .perfDumpCtl 0 p 0 31 31 ∧ t.dumps = s.dumps) ∧
      (v.getLsbD 31 = false ∨ fits → ∃ t : State, exec (.dumpEnable m p v) s = .next t ∧
        t.rd .perfDumpCtl 0 p = Reg.perfDumpCtl.spec.write (s.rd .perfDumpCtl 0 p) v ∧
        (v.getLsbD 31 = true → s.fld .perfDumpCtl 0 p 0 31 31 = 0 → tabGet t.dumps p 0 = 0))))

/-- R467 to R469, R479 and R481 to R487. -/
def Obligations.PowerLoops : Prop :=
  ∀ s : State, s.lengths → s.inRange →
    let brakes (t : State) : Prop := t.power.f = s.floorF ∧ t.power.pace = 16
    let still (t : State) : Prop := t.cores = s.cores ∧ t.mem = s.mem ∧ t.parts = s.parts ∧ t.fabric = s.fabric
    let trips (t : State) : Prop := t.pins.thermTripN = false ∧ t.fld .pwrTherm 0 0 0 31 31 = 1 ∧ t.clockHalt = true
    (s.clockHalt = false →
      (∀ g : GovernorInput,
        let pa := ((g.pa : Int) + (if s.power.stale then 0 else s.power.calib)).toNat
        let limit := s.fld .pwrCtl 0 0 0 19 8
        let envelope := s.fld .pwrCtl 0 0 0 31 20
        let lim := 1000 * (if limit = 0 ∨ envelope < limit then envelope else limit)
        let beyond := lim < pa ∨ 1000 * s.fld .pwrIcc 0 0 0 10 0 < g.icc
        ∃ t : State, exec (.governorLoop g) s = .next t ∧ still t ∧ t.fld .pwrStatus 0 0 0 31 20 = min (pa / 1000) 4095 ∧
          (s.power.brake = true → brakes t) ∧
          (s.power.brake = false →
            (beyond → s.floorF < s.power.f → t.power.pace = s.power.pace ∧
              t.power.f = max s.floorF (s.power.f - (if 105 * lim < 100 * pa then 4 else 1))) ∧
            (beyond → s.power.f ≤ s.floorF → t.power.f = s.power.f ∧ t.power.pace = max 8 (s.power.pace - 4)) ∧
            (¬ beyond → s.power.pace < 64 → t.power.f = s.power.f ∧
              t.power.pace = (if pa + 4 * g.m ≤ lim then s.power.pace + 4 else s.power.pace)) ∧
            (¬ beyond → 64 ≤ s.power.pace → t.power.pace = s.power.pace ∧
              t.power.f = (if s.power.f < s.ceilF ∧ g.raiseDue = true ∧ pa * s.power.f + g.c ≤ lim * s.power.f then s.power.f + 1
                else s.power.f)) ∧
            (t.fld .pwrStatus 0 0 0 6 6 = 1 ↔ lim < pa ∧ s.power.f ≤ s.floorF ∧ s.power.pace ≤ 8))) ∧
      (∀ w, (s.power.stale = true → exec (.governorCalibration w) s = .next s) ∧
        (s.power.stale = false → ∃ t : State, exec (.governorCalibration w) s = .next t ∧ still t ∧ t.regs = s.regs ∧
          (t.power.raw : Int) + t.power.calib = 1000 * w)) ∧
      (∀ d, d < 2 →
        let landing (e : Nat) : Nat := (if s.power.stepUp.getD e false then s.freq e + 1 else s.freq e - 1) % 128
        let both := s.linked = true ∧ s.freq 0 = s.freq 1 ∧ s.slewing 0 = true ∧ s.slewing 1 = true
        ∃ t : State, exec (.coreClockStep d) s = .next t ∧ still t ∧ (both → t.freq 0 = landing 0 ∧ t.freq 1 = landing 1) ∧
          (¬ both → t.freq d = (if s.slewing d then landing d else s.freq d) ∧ t.freq (1 - d) = s.freq (1 - d))) ∧
      (∀ d, d < 2 → s.freq d ≠ 0 →
        (∃ t : State, exec (.avsTransitionDone d) s = .next t ∧ still t ∧ t.power.confirmed.getD d 0 = s.volt d ∧
          t.power.cap.getD d none = none ∧ t.freq d = s.freq d) ∧
        ∀ mv, ∃ t : State, exec (.avsTimeout d mv) s = .next t ∧ t.fld .pwrStatus 0 0 0 5 5 = 1 ∧ t.power.confirmed.getD d 0 = mv ∧
          t.freq d = s.freq d ∧ t.fld .clkCore 0 d 0 14 8 ≤ max s.floorF (s.stepFor mv) ∧ ∃ r, t.newest = some r ∧ r.cls = 0x11 ∧ r.unit = d) ∧
      (∀ d, d < 2 →
        let c := s.power.ceiling.getD d 64
        let th : Int := 8 * s.throttleC
        ∃ t : State, exec (.thermalCeilingStep d) s = .next t ∧ still t ∧ t.power.ceiling.getD d 64 =
          (if th ≤ s.dieTemp d then max 16 (c - 1) else if s.dieTemp d ≤ th - 16 then min 64 (c + 1) else c)) ∧
      (let th : Int := 8 * s.throttleC
        ∃ t : State, exec .thermalPaceStep s = .next t ∧ still t ∧
          ((∃ x ∈ s.paceTemps, th ≤ x) → t.power.thermalPace = max 8 (s.power.thermalPace - 4)) ∧
          ((∀ x ∈ s.paceTemps, x ≤ th - 16) → t.power.thermalPace = min 64 (s.power.thermalPace + 4)) ∧
          ((∀ x ∈ s.paceTemps, x < th) → (∃ x ∈ s.paceTemps, th - 16 < x) → t.power.thermalPace = s.power.thermalPace)) ∧
      (∃ t : State, exec .pwrBrakeFall s = .next t ∧ still t ∧ brakes t ∧ t.power.brake = true ∧ t.fld .pwrStatus 0 0 0 4 4 = 1 ∧
        ∀ d, d < 2 → s.freq d ≠ 0 → t.fld .clkCore 0 d 0 14 8 = s.floorF) ∧
      (∃ t : State, exec .pwrBrakeRise s = .next t ∧ still t ∧ t.power.brake = false ∧ t.fld .pwrStatus 0 0 0 4 4 = 0 ∧
        t.power.f = s.power.f ∧ t.power.pace = s.power.pace)) ∧
    (∀ u hot (temp : Int), u < 3 → ∃ t : State, exec (.thermalSample u hot temp) s = .next t ∧
      t.fld .pwrTemp 0 u 0 15 0 = (BitVec.ofInt 16 temp).toNat ∧ t.fld .pwrTemp 0 u 0 23 16 = hot % 256 ∧
      (840 ≤ temp → trips t) ∧ (temp < 840 → t.clockHalt = s.clockHalt ∧ t.pins = s.pins)) ∧
    (∀ u, u < 3 → ∃ t : State, exec (.thermalTrip u) s = .next t ∧ trips t ∧ t.fld .pwrTherm 0 0 0 30 30 = 1)

/-- R463 and R464; R475 to R480; R312 and R316 for cages. -/
def Obligations.SidebandAndClockLosses : Prop :=
  ∀ s : State, s.lengths → s.inRange →
    let bit (t : State) (b : Nat) : Nat := t.fld .clkStatus 0 0 0 b b
    let lastIs (t : State) (cls unit : Nat) : Prop := ∃ r, t.newest = some r ∧ r.cls = cls ∧ r.unit = unit
    let cage (l : Nat) : Prop := l < 32 ∧ s.backplane l = false ∧ s.linkState l ≠ 0
    let trunkOff (t : State) : Prop := t.rd .pwrSbSeg = 0xFFFFFFFF#32 ∧ t.fld .pwrSbStatus 0 0 0 31 31 = 1 ∧ ∀ l, cage l → t.linkState l = 2
    let segOff (t : State) (seg : Nat) : Prop := t.fld .pwrSbSeg 0 0 0 seg seg = 1 ∧ ∀ l, cage l → s.segOf l = seg → t.linkState l = 2
    (∀ k : ClockLoss, Instr.wf (.clockHalt k) = true →
      let b := match k with
        | .sysRef => 17
        | .hubPll => 0
        | .corePll d => 1 + d
        | .divider st => 4 + st
      ∃ t : State, exec (.clockHalt k) s = .next t ∧ bit t b = 0 ∧ t.clockHalt = true ∧ t.mem = s.mem ∧ t.cores = s.cores ∧ t.parts = s.parts ∧
        (s.clockHalt = false → (∀ l, l < 32 → t.linkState l = 0) ∧ t.pins.fabReadyN = true ∧ lastIs t 0x11 0 ∧
          (s.rel.fatal = none → t.rel.fatal = t.newest ∧ t.fld .logStatus 0 0 0 31 31 = 1)) ∧
        (s.clockHalt = true → t.fabric = s.fabric ∧ t.rel = s.rel)) ∧
    ((s.pins.xtal = false → exec .crystalLoss s = .next s) ∧
      (s.pins.xtal = true → ∃ t : State, exec .crystalLoss s = .next t ∧ t.pins.xtal = false ∧ bit t 16 = 0 ∧ lastIs t 0x11 0)) ∧
    (∀ q, q < 4 →
      (∃ t : State, exec (.sdsRefclkLoss q) s = .next t ∧ bit t (18 + q) = 0 ∧ ∀ i, i < 8 → (t.link (8 * q + i)).refLost = true ∧
        t.linkState (8 * q + i) = (if s.linkState (8 * q + i) = 5 ∨ s.linkState (8 * q + i) = 6 ∨ s.linkState (8 * q + i) = 7 then 8
          else s.linkState (8 * q + i))) ∧
      (∃ t : State, exec (.sdsRefclkReturn q) s = .next t ∧ bit t (18 + q) = 1 ∧ (∀ i, i < 8 → (t.link (8 * q + i)).refLost = false) ∧
        ∀ l, l < 32 → t.linkState l = s.linkState l)) ∧
    (∀ k, k < 4 →
      (∃ t : State, exec (.pcieRefclkLoss k) s = .next t ∧ t.pins.pcieRef.getD k true = false ∧ (k = 0 → bit t 3 = 0) ∧
        ∀ p, p < 8 → s.phase = 10 → s.clockHalt = false → s.partState p = 1 ∨ s.partState p = 2 →
          s.partPort p = k ∨ (k = 0 ∧ s.partPort p < portCount s.straps) → t.partState p = 3) ∧
      (∃ t : State, exec (.pcieRefclkReturn k) s = .next t ∧ t.pins.pcieRef.getD k false = true ∧
        (k = 0 → s.clockHalt = false → bit t 3 = 1) ∧ ∀ p, t.partState p = s.partState p)) ∧
    (∀ r mv curr, r < 10 →
      (∃ t : State, exec (.pmbusPoll r mv curr true) s = .next t ∧ t.fld .pwrRail 0 r 0 15 0 = curr % 65536 ∧
        t.fld .pwrRail 0 r 0 31 16 = (if r < 3 then s.fld .pwrRail 0 r 0 31 16 else mv % 65536) ∧ t.power.stale = false ∧
        tabGet t.power.missed r 0 = 0 ∧ t.rel = s.rel) ∧
      (∃ t : State, exec (.pmbusPoll r mv curr false) s = .next t ∧ t.rd .pwrRail 0 r = s.rd .pwrRail 0 r ∧
        tabGet t.power.missed r 0 = tabGet s.power.missed r 0 + 1 ∧ (tabGet s.power.missed r 0 ≠ 2 → t.rel = s.rel) ∧
        (tabGet s.power.missed r 0 = 2 → lastIs t 0x10 r))) ∧
    (∀ l : List (Nat × Nat), ∃ t : State, exec (.pmbAlert l) s = .next t ∧ t.out.getLast? = some .pmbClear ∧
      (∀ x, l.getLast? = some x → lastIs t 0x11 x.1) ∧ (l = [] → t.rel = s.rel)) ∧
    (∀ line high, line < 13 →
      (high = true → 4 ≤ line → line ≤ 9 → exec (.sidebandStuck line high) s = .next s) ∧
      (high = false ∨ line < 4 ∨ 9 < line → ∃ t : State, exec (.sidebandStuck line high) s = .next t ∧
        (t.rd .pwrSbStatus).getLsbD (2 * line + (if high then 1 else 0)) = true ∧ (line < 2 → trunkOff t) ∧
        (line = 2 ∨ line = 3 → t.power.stale = true) ∧
        (line = 4 ∨ line = 5 → s.freq (line - 4) ≠ 0 → s.clockHalt = false → t.fld .pwrStatus 0 0 0 5 5 = 1) ∧
        (5 < line → t.power = s.power ∧ ∀ l, l < 32 → t.linkState l = s.linkState l))) ∧
    (∀ l seg, seg < 32 →
      (∃ t : State, exec (.clockStretchTimeout l seg true) s = .next t ∧ segOff t seg ∧ t.linkState (l % 32) = 2) ∧
      (∃ t : State, exec (.clockStretchTimeout l seg false) s = .next t ∧ trunkOff t)) ∧
    (∀ seg, seg < 32 → exec (.segmentRetest seg false) s = .next s ∧
      ((s.rd .pwrSbSeg).getLsbD seg = false → exec (.segmentRetest seg true) s = .next s) ∧
      ((s.rd .pwrSbSeg).getLsbD seg = true → ∃ t : State, exec (.segmentRetest seg true) s = .next t ∧
        t.fld .pwrSbSeg 0 0 0 seg seg = 0 ∧ t.rel = s.rel ∧
        ∀ l, cage l → t.linkState l = (if s.segOf l = seg ∧ s.linkState l = 2 then 1 else s.linkState l))) ∧
    (∀ (l : Nat) (r : ModuleRead), l < 32 → s.linkState l = 1 → r.busFails = true → ∃ t : State, exec (.moduleIdentify l r) s = .next t ∧
      (r.trunk = true → trunkOff t) ∧ (r.trunk = false → segOff t (r.seg % 32) ∧ t.linkState l = 2))

/-- R446 to R448 with R265, R420, R440, R444, R445, R452, R472 and R473. -/
def Obligations.StartAndDeviceResets : Prop :=
  ∀ s : State, s.inRange →
    let fails (t : State) (code : Nat) : Prop := t.phase = 11 ∧ t.fld .lcStatus 0 0 0 23 16 = code
    let opens (t : State) : Prop := t.phase = 10 ∧ t.pins.fabReadyN = false ∧ t.fld .helmCensus 0 0 0 31 31 = 0 ∧ ∀ p, p < 8 → s.partState p = 3 → t.partState p = 1
    (∀ straps, (s.phase ≠ 0 → exec (.powerOn straps) s = .next s) ∧
      (s.phase = 0 → ∃ t : State, exec (.powerOn straps) s = .next t ∧ t.phase = 1 ∧ t.straps = straps % 4 ∧
        t.fld .lcStatus 0 0 0 11 11 = (if straps % 4 = 3 then 1 else 0) ∧ t.bmcOn = true ∧ t.flash = s.flash ∧ t.fuses = s.fuses)) ∧
    (∀ f : StartFacts,
      let u : State := { s with nonce := f.nonce, votes := [] }
      let pick := u.chooseSlot.1
      let flash := u.chooseSlot.2.flash
      (s.clockHalt = true ∨ (s.phase ≠ 1 ∧ s.phase ≠ 2) → exec (.deviceStart f) s = .next s) ∧
      (s.clockHalt = false → s.phase = 1 ∨ s.phase = 2 → ∃ t : State, exec (.deviceStart f) s = .next t ∧ t.nonce = f.nonce ∧
        (∀ code, pick = .error code → code < 256 → fails t code) ∧
        ∀ k m, pick = .ok k → flash.slot k = some m → t.start.image = some m ∧
          (f.pllOk = false → fails t 9) ∧
          (f.pllOk = true → (∃ st ∈ f.stackFail, st < s.nStacks) → fails t 8) ∧
          (f.pllOk = true → (∀ st ∈ f.stackFail, s.nStacks ≤ st) → t.phase = 7 ∧ (∀ a, t.byteAt a = [0#8]) ∧
            t.fld .clkStatus 0 0 0 2 0 = 7 ∧ (∀ st, st < s.nStacks → t.fld .memStatus st 0 0 2 2 = 1) ∧
            (∀ y ∈ m.sections.plan, t.partState y.part = 3) ∧
            let used := (s.flash.almanac m.sections.almanacAt).countUsed
            (used < 16382 → t.rel.starts = t.rel.base + used + 1 ∧ t.sectors.countUsed = used + 1)))) ∧
    ((s.clockHalt = true ∨ s.phase ≠ 7 → exec .initialFillDone s = .next s) ∧
      (s.clockHalt = false → s.phase = 7 → ∃ t : State, exec .initialFillDone s = .next t ∧
        (∀ st, st < s.nStacks → t.fld .memStatus st 0 0 2 2 = 0 ∧ t.fld .memStatus st 0 0 0 0 = 1) ∧
        (s.holdEnabled = true → t.phase = 8) ∧ (s.holdEnabled = false → opens t))) ∧
    ((s.bmcOn = false → exec .releaseBringUpHold s = .next s) ∧
      (s.bmcOn = true → s.clockHalt = true ∨ s.phase ≠ 8 → exec .releaseBringUpHold s = .next (s.emit (.mgmt 4 false []))) ∧
      (s.bmcOn = true → s.clockHalt = false → s.phase = 8 → ∃ t : State, exec .releaseBringUpHold s = .next t ∧ opens t ∧
        t.out = s.out ++ [.mgmt 4 true []])) ∧
    (∀ straps, (s.bmcOn = false → exec (.boardReset straps) s = .next s) ∧
      (s.bmcOn = true → ∃ t : State, exec (.boardReset straps) s = .next t ∧ t.phase = 1 ∧ t.fld .lcStatus 0 0 0 3 0 = 1 ∧
        t.straps = straps % 4 ∧ t.clockHalt = false ∧ t.cores = [] ∧ t.parts = [] ∧ t.mem = Mem.init ∧ t.flash = s.flash ∧ t.fuses = s.fuses ∧
        (s.clockHalt = true ∨ (s.fabric.groups = [] ∧ s.fabric.lost = []) → t.rel.ring = s.rel.ring ∧ t.rel.fatal = s.rel.fatal))) ∧
    ((s.bmcOn = false → exec .warmDeviceReset s = .next s) ∧
      (s.bmcOn = true → s.clockHalt = true → exec .warmDeviceReset s = .next (s.emit (.mgmt 3 false []))) ∧
      (s.bmcOn = true → s.clockHalt = false → ∃ t : State, exec .warmDeviceReset s = .next t ∧ t.flash = s.flash ∧ t.fuses = s.fuses ∧
        (s.rel.writing = none → s.rel.dirty = false → t.phase = 2 ∧ t.fld .lcStatus 0 0 0 3 0 = 2 ∧ t.cores = [] ∧ t.mem = Mem.init ∧
          t.straps = s.straps) ∧
        (s.rel.writing ≠ none ∨ s.rel.dirty = true → t.phase = s.phase ∧ t.start.resetWait = some (s.start.resetWait.getD 2) ∧
          t.cores = s.cores ∧ t.mem = s.mem))) ∧
    (∃ t : State, exec .mainPwrgdFall s = .next t ∧ t.clockHalt = true ∧ t.pins.mainPwrgd = false ∧ t.fld .pwrStatus 0 0 0 0 0 = 1 ∧
      t.mem = s.mem ∧ t.parts = s.parts) ∧
    (∃ t : State, exec .hubPwrgdFall s = .next t ∧ t.phase = 0 ∧ t.bmcOn = false ∧ t.flash = s.flash ∧ t.fuses = s.fuses ∧ t.rel.ring = [] ∧
      t.mem = Mem.init ∧ t.cores = [] ∧ t.parts = [])

/-- R432, R433, R446, R448, R450, R451 and R519, with R279 and R280. -/
def Obligations.PortsAndPartitionResets : Prop :=
  ∀ s : State, s.inRange → s.lengths →
    let runs := s.phase = 10 ∧ s.clockHalt = false
    let held (p : Nat) : Prop := s.partState p = 1 ∨ s.partState p = 2
    let falls (t : State) (k : Nat) : Prop := runs → ∀ p, p < 8 → held p → s.partPort p = k → t.partState p = 3
    (∀ k, k < 4 →
      (∃ t : State, exec (.pciePerst k) s = .next t ∧ t.pins.perstN.getD k true = false ∧ t.fld .lcPort 0 k 0 31 31 = 0 ∧ falls t k) ∧
      (∃ t : State, exec (.pciePerstRelease k) s = .next t ∧ t.pins.perstN.getD k false = true ∧ t.regs = s.regs ∧ t.parts = s.parts) ∧
      (∃ t : State, exec (.pcieLinkDown k) s = .next t ∧ t.fld .lcPort 0 k 0 31 31 = 0 ∧ t.pins = s.pins ∧ falls t k) ∧
      (∀ rate width flit,
        let trains := s.portLive k = true ∧ s.pins.perstN.getD k true = true ∧ s.pins.pcieRef.getD k true = true ∧
          s.pins.pcieRef.getD 0 true = true ∧ 1 ≤ rate ∧ rate ≤ 6 ∧ width ∈ [1, 2, 4, 8, 16] ∧ width * portCount s.straps ≤ 16 ∧
          (flit = true ∨ rate < 6)
        (¬ trains → exec (.pcieLinkUp k rate width flit) s = .next s) ∧
        (trains → ∃ t : State, exec (.pcieLinkUp k rate width flit) s = .next t ∧ t.fld .lcPort 0 k 0 31 31 = 1 ∧
          t.fld .lcPort 0 k 0 30 28 = rate ∧ t.fld .lcPort 0 k 0 27 23 = width ∧ t.fld .lcPort 0 k 0 22 22 = (if flit then 1 else 0))) ∧
      (s.portLive k = false → exec (.vfEnableClear k) s = .next s ∧ exec (.vfEnableSet k) s = .next s ∧
        exec (.configurationRequest k) s = .next s) ∧
      (s.portLive k = true →
        (∃ t : State, exec (.vfEnableClear k) s = .next t ∧ k ∈ t.vfHeld ∧ t.fld .lcPort 0 k 0 21 21 = 0 ∧ falls t k) ∧
        (∃ t : State, exec (.vfEnableSet k) s = .next t ∧ k ∉ t.vfHeld ∧ t.fld .lcPort 0 k 0 21 21 = 1 ∧
          (runs → k ∈ s.vfHeld → s.pins.perstN.getD k true = true → ∀ p, p < 8 → s.partState p = 3 → s.partPort p = k → t.partState p = 1)) ∧
        (s.phase < 5 → s.fld .lcStatus 0 0 0 3 0 < 2 → exec (.configurationRequest k) s = .next (s.emit (.configRetry k))) ∧
        (5 ≤ s.phase ∨ 2 ≤ s.fld .lcStatus 0 0 0 3 0 →
          (s.start.image = none → exec (.configurationRequest k) s = .next (s.emit (.configAnswer k 0 0))) ∧
          ∀ m, s.start.image = some m →
            let fns := (m.sections.plan.filter (fun y => y.port == k)).length
            exec (.configurationRequest k) s =
              .next (s.emit (.configAnswer k fns (if fns = 0 then 0 else m.sections.bar2Size.getD k 0))))) ∧
      (s.portLive k = false → exec (.functionLevelReset (.pf k)) s = .next s) ∧
      (s.portLive k = true → ∃ t : State, exec (.functionLevelReset (.pf k)) s = .next t ∧ (∀ off, off < 0x10000 → t.msixRd (.pf k) off = msixDefault off) ∧
        k ∈ t.vfHeld ∧ t.fld .lcPort 0 k 0 21 21 = 0 ∧ t.fld .lcPort 0 k 0 31 31 = s.fld .lcPort 0 k 0 31 31 ∧ falls t k)) ∧
    (∀ p, p < 8 →
      let ends := runs ∧ s.partState p = 3 ∧ s.partPort p ∉ s.vfHeld ∧ s.pins.perstN.getD (s.partPort p) true = true
      (¬ (runs ∧ held p) → exec (.functionLevelReset (.vf p)) s = .next s) ∧
      (runs → held p → ∃ t : State, exec (.functionLevelReset (.vf p)) s = .next t ∧ t.partState p = 3 ∧
        (t.part p).rects = [] ∧ (t.part p).queues = [] ∧ (t.part p).pages = [] ∧ (t.part p).objects = [] ∧ (t.part p).groups = [] ∧
        (t.part p).request = none ∧ (t.part p).frames = (s.part p).frames ∧ (t.part p).freeFrames = (s.part p).frames) ∧
      ((¬ ends → exec (.partitionResetDone p) s = .next s) ∧
        (ends → ∃ t : State, exec (.partitionResetDone p) s = .next t ∧ t.partState p = 1 ∧
          (∀ a, a / frameSize ∈ (s.part p).frames → t.byteAt a = [0#8]) ∧
          (s.evqFull p = false → (t.part p).evq = (s.part p).evq ++ [⟨13, 0, 0, 0⟩]))))

/-- R449. -/
def Obligations.VotesForReset : Prop :=
  (∀ (p : Nat) (s : State), p < 8 →
    let port := s.partPort p
    let votes := if port ∈ s.votes then s.votes.length else s.votes.length + 1
    let q := s.fld .lcReset 0 0 0 6 4
    let casts := (s.vfLive p = true ∨ s.phase = 8) ∧ s.clockHalt = false ∧ s.partMgmt p = true
    (s.bar2Waits (.vf p) = true → exec (.lcResetVote p) s = .next s) ∧
    (s.bar2Waits (.vf p) = false → ¬ casts → exec (.lcResetVote p) s = .next (s.unlatch (.vf p))) ∧
    (s.bar2Waits (.vf p) = false → casts → s.inRange →
      (q = 0 ∨ votes < q → ∃ t : State, exec (.lcResetVote p) s = .next t ∧ (∀ x, x ∈ t.votes ↔ x ∈ s.votes ∨ x = port) ∧
        t.votes.length = votes ∧ t = { s.unlatch (.vf p) with votes := t.votes }) ∧
      (q ≠ 0 → q ≤ votes → ∃ t : State, exec (.lcResetVote p) s = .next t ∧ t.votes = [] ∧
        (s.rel.writing = none → s.rel.dirty = false → t.phase = 2 ∧ t.fld .lcStatus 0 0 0 3 0 = 3) ∧
        (s.rel.writing ≠ none ∨ s.rel.dirty = true → t.start.resetWait = some (s.start.resetWait.getD 3) ∧ t.phase = s.phase)))) ∧
  (∀ (k : Nat) (s : State), k < 4 → ∃ t : State, exec (.voteLapse k) s = .next t ∧ (∀ x, x ∈ t.votes ↔ x ∈ s.votes ∧ x ≠ k) ∧
    t = { s with votes := t.votes }) ∧
  (∀ (f : StartFacts) (s : State), s.clockHalt = false → s.phase = 1 ∨ s.phase = 2 →
    ∃ t : State, exec (.deviceStart f) s = .next t ∧ t.votes = [])

/-- R5, R7, R9, R278, R379, R435, R437, R438, R440, R457, R464 and R531. -/
def Obligations.HostRegisters : Prop :=
  let own : List Reg := [.vecCtl, .vecProgLo, .vecProgHi, .convCb4, .convCb8, .coreReset, .helmSyncCount, .helmSyncAdd, .memMarginCtl,
    .helmReqCmd, .helmWqTail, .lnkCtl, .lnkFiMatch, .collGroup, .chartCmd, .helmEvqPop, .lcReset, .lcSeal, .logStatus, .perfHubEvt,
    .perfDumpCtl, .perfRingCtl]
  let met (s : State) (m : Master) : Prop := s.access m = .whole ∨ s.access m = .hold
  let reads (s : State) (m : Master) (off : Nat) (a : RegAt) : Prop :=
    regFind off = some a ∧ inMsix off = false ∧ s.offHeld off = false ∧ met s m ∧ s.sees m a false = true
  let shown (a : RegAt) (s t : State) : Prop :=
    t = { s with regs := t.regs, latches := t.latches, out := t.out } ∧
      t.rd a.reg a.b a.i a.j = (if a.reg.spec.hasRc then a.reg.spec.afterRead (s.rd a.reg a.b a.i a.j) else s.rd a.reg a.b a.i a.j) ∧
      ∀ r b i j, Reg.addr r b i j ≠ a.addr → t.rd r b i j = s.rd r b i j
  let written (m : Master) (a : RegAt) (v : Word) (s t : State) : Prop :=
    t = { s with regs := t.regs, latches := t.latches, out := t.out } ∧ (∀ x ∈ t.latches, x.1 ≠ m) ∧
      t.rd a.reg a.b a.i a.j = a.reg.spec.write (s.rd a.reg a.b a.i a.j) v ∧
      ∀ r b i j, Reg.addr r b i j ≠ a.addr → t.rd r b i j = s.rd r b i j
  (∀ (m : Master) (off : Nat) (a : RegAt) (s : State), m.wf = true → reads s m off a →
    (a.lo = none ∨ (∀ x ∈ s.latches, x.1 ≠ m) →
      let w := a.reg.spec.read (s.view m a)
      ∃ t : State, exec (.lowWordRead m off) s = .next t ∧ exec (.readClear m off) s = .next t ∧ shown a s t ∧
        t.out = s.out ++ [.readData m off w] ∧
        (m = .mgmt → ∃ u : State, exec (.mgmtRegisterRead off) s = .next u ∧ shown a s u ∧ u.out = s.out ++ [.mgmt 1 true [w.toNat]]) ∧
        ∀ (hi : RegAt) (off' : Nat) (u : State), a.hi = some hi → reads u m off' hi → u.latches = t.latches →
          ∃ v : State, exec (.lowWordRead m off') u = .next v ∧
            v.out = u.out ++ [.readData m off' (hi.reg.spec.read (s.view m hi))])) ∧
  (∀ (m : Master) (off : Nat) (a : RegAt) (s : State), m.wf = true → regFind off = some a → inMsix off = false → met s m →
    (s.offHeld off = false → s.sees m a false = false → ∃ t : State, exec (.lowWordRead m off) s = .next t ∧ t.regs = s.regs ∧
      t.out = s.out ++ [.readData m off 0#32]) ∧
    (∀ v : Word, s.bar2Waits m = true → exec (.registerWrite m off v) s = .next s) ∧
    (∀ v : Word, s.writeHeld off = false → s.bar2Waits m = false →
      (s.sees m a true = false → exec (.registerWrite m off v) s = .next (s.unlatch m)) ∧
      (s.sees m a true = true → a.reg ∉ own →
        (groupHeld a.reg = true → s.gState a.i ≠ 1 ∧ s.gState a.i ≠ 4 → exec (.registerWrite m off v) s = .next (s.unlatch m)) ∧
        (groupHeld a.reg = false ∨ s.gState a.i = 1 ∨ s.gState a.i = 4 →
          (∃ t : State, exec (.registerWrite m off v) s = .next t ∧ written m a v s t ∧ t.out = s.out) ∧
          (m = .mgmt → ∃ t : State, exec (.mgmtRegisterWrite off v) s = .next t ∧ written m a v s t ∧
            t.out = s.out ++ [.mgmt 2 true []]))))) ∧
  (∀ (off : Nat) (v : Word) (s : State), s.bmcOn = false →
    exec (.mgmtRegisterRead off) s = .next s ∧ exec (.mgmtRegisterWrite off v) s = .next s) ∧
  (∀ (m : Master) (off : Nat) (v : Word) (s : State), m.wf = true →
    (s.access m = .unsupported → s.offHeld off = false → exec (.lowWordRead m off) s = .next (s.emit (.unsupported m off)) ∧
      exec (.registerWrite m off v) s = .next s) ∧
    ((∃ k, m = .pf k ∧ k < portCount s.straps) ∨ (∃ p, m = .vf p) → s.phase ≠ 0 → s.clockHalt = true → s.access m = .unsupported) ∧
    ((∃ k, m = .pf k) ∨ (∃ p, m = .vf p) → met s m → exec (.partialBar0Access m off false) s = .next (s.emit (.readData m off 0#32)) ∧
      exec (.partialBar0Access m off true) s = .next s)) ∧
  (∀ (m : Master) (p v : Nat) (s : State), m.wf = true → p < 8 → v < 16 →
    (s.bar2Waits m = true → exec (.helmEvqPop m p) s = .next s) ∧
    (s.bar2Waits m = false → s.reaches m p = false → exec (.helmEvqPop m p) s = .next (s.unlatch m)) ∧
    (s.bar2Waits m = false → s.reaches m p = true → ∃ t : State, exec (.helmEvqPop m p) s = .next t ∧ (t.part p).evq = (s.part p).evq.drop 1 ∧ t.regs = s.regs ∧
      t.cores = s.cores ∧ t.mem = s.mem) ∧
    (s.clockHalt = true ∨ v ∉ (s.part p).msixHold → exec (.msixHoldoffEnd p v) s = .next s) ∧
    (s.clockHalt = false → v ∈ (s.part p).msixHold →
      (v ∉ (s.part p).msixPend → ∃ t : State, exec (.msixHoldoffEnd p v) s = .next t ∧ v ∉ (t.part p).msixHold ∧ t.out = s.out) ∧
      (v ∈ (s.part p).msixPend → ∃ t : State, exec (.msixHoldoffEnd p v) s = .next t ∧ v ∉ (t.part p).msixPend ∧
        ((s.msixRd (.vf p) (16 * v + 12)).getLsbD 0 = false → t.out = s.out ++ [.msix (.vf p) v]) ∧
        ((s.msixRd (.vf p) (16 * v + 12)).getLsbD 0 = true → t.out = s.out ∧ (t.msixRd (.vf p) 0x8000).getLsbD v = true)))) ∧
  (∀ (p va len : Nat) (s : State), p < 8 → s.access (.vf p) = .whole →
    (s.bar2Waits (.vf p) = true → exec (.bar2Read p va len) s = .next s) ∧
    (s.bar2Waits (.vf p) = false → s.inBar2 p va len = false → exec (.bar2Read p va len) s = .next (s.emit (.unsupported (.vf p) va))) ∧
    ∀ data poison, data.length = len →
      (s.inBar2 p va len = false → exec (.bar2Write p va data poison) s = .next s) ∧
      (s.bar2Waits (.vf p) = true → s.inBar2 p va len = true → exec (.bar2Write p va data poison) s =
        .next (s.onPart p (fun x => { x with bar2Held := x.bar2Held ++ [(va, data, poison)] })))) ∧
  (∀ (p va len : Nat) (s : State), p < 8 → s.mem.wf → s.access (.vf p) = .whole → 0 < len → s.filling = false → s.inBar2 p va len = true →
      s.bar2Waits (.vf p) = false →
    let x := s.part p
    let within (g : Page) : Prop := ∀ a, va ≤ a → a < va + len → x.page? a = some g
    let page (w : Bool) : Prop := ∃ g f, g.frame = some f ∧ g.h = true ∧ g.w = w ∧ within g
    let ur := s.fld .lcPort 0 (s.partPort p) 0 7 0
    ((∃ g, g.frame = none ∧ g.h = true ∧ within g) → exec (.bar2Read p va len) s = .next s) ∧
    ((∃ g, g.frame = none ∧ g.h = true ∧ g.w = true ∧ within g) → ∀ data poison, data.length = len → exec (.bar2Write p va data poison) s =
      .next (s.onPart p (fun x => { x with bar2Held := x.bar2Held ++ [(va, data, poison)] }))) ∧
    (∀ w, page w → s.mem.poison = [] → (∀ e ∈ s.mem.wc, e.poison = false) → ∃ (t : State) (b : List Byte),
      exec (.bar2Read p va len) s = .next t ∧ t.out = s.out ++ [.bar2Data p b] ∧ b.length = len ∧ t.cores = s.cores ∧
      (∀ a, t.byteAt a = s.byteAt a) ∧ ∀ j c, b[j]? = some c → ∃ pa, x.xlate (va + j) false = .here pa true ∧ s.byteAt pa = [c]) ∧
    (∀ data poison, data.length = len →
      (page true → ∃ t : State, exec (.bar2Write p va data poison) s = .next t ∧ t.cores = s.cores ∧ t.out = s.out ∧
        ∀ j c, data[j]? = some c → ∃ pa, x.xlate (va + j) true = .here pa true ∧ t.byteAt pa = [c] ∧
          (poison = true → ((t.mem.settle pa 1).look pa 1).2 = true)) ∧
      (page false → ∃ t : State, exec (.bar2Write p va data poison) s = .next t ∧ t.mem = s.mem ∧
        t.fld .lcPort 0 (s.partPort p) 0 15 8 = min (s.fld .lcPort 0 (s.partPort p) 0 15 8 + 1) 255)) ∧
    (x.page? va = none →
      (∃ t : State, exec (.bar2Read p va len) s = .next t ∧ t.mem = s.mem ∧ t.out = s.out ++ [.unsupported (.vf p) va] ∧
        t.fld .lcPort 0 (s.partPort p) 0 7 0 = min (ur + 1) 255) ∧
      ∀ data poison, data.length = len → ∃ t : State, exec (.bar2Write p va data poison) s = .next t ∧ t.mem = s.mem ∧
        t.fld .lcPort 0 (s.partPort p) 0 7 0 = min (ur + 1) 255))

/-- R453 to R455, with R428, R439 to R441, R443 and R444. -/
def Obligations.LifeCycle : Prop :=
  ∀ s : State, s.lengths →
    (∀ k : JtagInstr,
      (k = .idcode → exec (.jtagInstruction k) s = .next (s.emit (.jtag (match s.grade with
        | .mfc4412 => 0x1441256F
        | .mfc4408 => 0x1440856F)))) ∧
      (k = .bypass → exec (.jtagInstruction k) s = .next (s.emit (.jtag 0))) ∧
      (k = .samplePreload ∨ k = .extest → exec (.jtagInstruction k) s = .next s) ∧
      ∀ c, k = .priv c → (s.fuses.lifecycle = 2 → exec (.jtagInstruction k) s = .next (s.emit (.jtag 0))) ∧
        (s.fuses.lifecycle ≠ 2 → exec (.jtagInstruction k) s = .refused .privateDebug)) ∧
    (∀ keys, (2 ≤ s.fuses.lifecycle → exec (.vendorProvisioning keys) s = .next s) ∧
      (s.fuses.lifecycle ≤ 1 → ∃ t : State, exec (.vendorProvisioning keys) s = .next t ∧ t.fuses.lifecycle = 1 ∧
        t.fld .lcStatus 0 0 0 27 26 = 1 ∧ t.fuses.revoked = s.fuses.revoked ∧ t.flash = s.flash ∧
        (∀ x ∈ s.fuses.keys, x ∈ t.fuses.keys) ∧ (∀ k ∈ keys, k.1 ≤ 4 → ∃ x ∈ t.fuses.keys, x.1 = k.1) ∧
        ∀ x ∈ t.fuses.keys, x ∈ s.fuses.keys ∨ (x ∈ keys ∧ x.1 ≤ 4 ∧ ∀ y ∈ s.fuses.keys, y.1 ≠ x.1))) ∧
    (s.bmcOn = false → ∀ (v : Word) (nonce : DWord) (k : Nat) (token : List Byte) (q : MctpReq) (r : PldmReq) (img : Image),
      ∀ c ∈ [Instr.lcSeal v, .readNonce nonce, .revokeKeySlot k, .mctpControl q, .pldmDiscovery r, .pldmPlatform k,
        .submitUnlockToken token nonce, .pldmFirmwareUpdate img], exec c s = .next s) ∧
    (s.bmcOn = true →
      (∀ v : Word,
        let seals := v = 0x5345414C#32 ∧ s.fuses.lifecycle = 1 ∧ ∃ k ∈ s.fuses.keys, 1 ≤ k.1 ∧ k.1 ≤ 4
        (seals → ∃ t : State, exec (.lcSeal v) s = .next t ∧ t.fuses = { s.fuses with lifecycle := 2 } ∧
          t.fld .lcStatus 0 0 0 27 26 = 2 ∧ t.flash = s.flash ∧ t.mem = s.mem) ∧
        (¬ seals → exec (.lcSeal v) s = .next (s.unlatch .mgmt))) ∧
      (∀ (token : List Byte) (nonce : DWord),
        (s.tokenOk token = false → exec (.submitUnlockToken token nonce) s = .next (({ s with nonce := nonce }).emit (.mgmt 6 false []))) ∧
        (s.tokenOk token = true → s.clockHalt = false → ∃ t : State, exec (.submitUnlockToken token nonce) s = .next t ∧
          s.fuses.lifecycle = 2 ∧ t.fuses.lifecycle = 3 ∧ (∀ k, 1 ≤ k → k ≤ 4 → k ∈ t.fuses.revoked) ∧ t.flash.slots = [none, none] ∧
          t.flash.directory = none ∧ t.flash.almanacs = s.flash.almanacs ∧ (∀ a, t.byteAt a = [0#8]) ∧ (∀ n a, t.csByte n a = 0#8) ∧
          (t.phase = 2 ∨ t.start.resetWait ≠ none))) ∧
      (∀ slot,
        let may := s.fuses.lifecycle = 2 ∧ slot ∈ s.fuses.inForce ∧ 1 < s.fuses.inForce.length
        (may → ∃ t : State, exec (.revokeKeySlot slot) s = .next t ∧ slot ∈ t.fuses.revoked ∧ slot ∉ t.fuses.inForce ∧ t.fuses.inForce ≠ [] ∧
          t.out = s.out ++ [.mgmt 8 true []] ∧ t.fuses.lifecycle = s.fuses.lifecycle ∧ t.fuses.keys = s.fuses.keys) ∧
        (¬ may → exec (.revokeKeySlot slot) s = .next (s.emit (.mgmt 8 false [])))) ∧
      (∀ nonce : DWord, ∃ t : State, exec (.readNonce nonce) s = .next t ∧ t.nonce = nonce ∧ t.fuses = s.fuses ∧ t.regs = s.regs ∧
        ∃ a b c d, t.out = s.out ++ [.mgmt 5 true [a, b, c, d]] ∧ a + b * 2 ^ 32 = s.fuses.uid % 2 ^ 64 ∧ c + d * 2 ^ 32 = nonce.toNat) ∧
      (∀ e, exec (.mctpControl (.setEndpointId e)) s = .next (({ s with mctpEid := e }).emit (.mctp [e]))) ∧
      exec (.mctpControl .getEndpointId) s = .next (s.emit (.mctp [s.mctpEid])) ∧
      (∃ l, exec (.mctpControl .getMessageTypes) s = .next (s.emit (.mctp l))) ∧
      (∃ l, exec (.pldmDiscovery .getTypes) s = .next (s.emit (.mctp l))) ∧
      (∀ ty, ∃ l, exec (.pldmDiscovery (.getVersion ty)) s = .next (s.emit (.mctp l))) ∧
      (∀ k, k < 28 → exec (.pldmPlatform k) s = .next (s.emit (.mctp [s.sensor k]))) ∧
      (∀ k q l, 28 ≤ k → s.rel.bmcQueue = q :: l → ∃ t : State, exec (.pldmPlatform k) s = .next t ∧ t.rel = { s.rel with bmcQueue := l } ∧
        t.out = s.out ++ [.pldmEvent q.bytes]) ∧
      (∀ img : Image,
        let a := s.activeSlot
        ∃ t : State, exec (.pldmFirmwareUpdate img) s = .next t ∧ t.flash.slots.getD (1 - a) none = some img ∧
          t.flash.slots.getD a none = s.flash.slots.getD a none ∧ t.fuses = s.fuses ∧ t.regs = s.regs ∧
          (s.signatureOk img = true → ∃ k q, t.flash.directory = some (k, q, a, some (1 - a))) ∧
          (s.signatureOk img = false → t.flash.dirs = s.flash.dirs)))

/-- The queue of the block; the step on an empty queue is the model's choice (log entry 10). -/
def Obligations.StepRunsFront : Prop :=
  ∀ (s : State) (c : Instr) (rest : List Instr),
    step { s with pending := c :: rest } = exec c { s with pending := rest } ∧
    step { s with pending := [] } = .next (idle { s with pending := [] }) ∧
    ∀ nbits w, decodeTableWord nbits w = none ∧ s.withFetchWord nbits w = s

/-- R204, R265, R276, R312, R347, R448, R491 and R492; the grade, fuses, flash and unfilled registers by log entries 2 and 3. -/
def Obligations.ResetState : Prop :=
  State.reset.inv ∧ State.reset.pending = [] ∧ State.reset.phase = 0 ∧
    (∀ r b i j, State.reset.rd r b i j = Reg.resetAt r j) ∧
    (∀ l, State.reset.linkState l = 0) ∧ (∀ p, State.reset.partState p = 0 ∧ State.reset.part p = Part.init) ∧
    (∀ g, State.reset.gState g = 0) ∧
    (∀ n, (State.reset.core n).pilot = .halted ∧ (State.reset.core n).cp = 0 ∧ (State.reset.core n).cc = 0 ∧
      (∀ k, (State.reset.core n).xval k = 0#64) ∧ ∀ a, State.reset.csByte n a = 0#8) ∧
    (∀ a, State.reset.byteAt a = [0#8]) ∧ State.reset.fld .pwrStatus 0 0 0 19 13 = 64 ∧ State.reset.fld .pwrTherm 0 0 0 15 8 = 105

/-- The invariant of every step (R1, R12, R229, R250, R265, R276, R286, R347, R449, R453), with R455 for the one refusal. -/
def Obligations.StepKeepsInvariant : Prop :=
  ∀ s : State, s.inv →
    (∃ t : State, step s = .next t ∧ t.inv ∧ t.grade = s.grade ∧ t.pending = s.pending.drop 1 ∧ s.fuses.lifecycle ≤ t.fuses.lifecycle) ∨
    (step s = .refused .privateDebug ∧ s.fuses.lifecycle ≠ 2 ∧ ∃ k rest, s.pending = .jtagInstruction (.priv k) :: rest)
end

