-- ==== Sys2Proof/Laws/Tables.lean ====
section
/-! SUPPORT. What reading a table, a set or a list gives after it is written: the laws that every accessor of the state rests on. They
hold of every list; the canonical form (`Tab.wf`) is a separate fact, kept by each write. -/
namespace Sys2Proof.Machine

/-! ### Tables -/

theorem tabFind_insert_same {α : Type} (t : Tab α) (i : Nat) (b : α) : tabFind (tabInsert i b t) i = some b := by
  induction t with
  | nil => simp [tabInsert, tabFind]
  | cons x t ih =>
    obtain ⟨k, a⟩ := x
    by_cases h : k < i
    · simp [tabInsert, h, tabFind, Nat.ne_of_lt h, ih]
    · simp [tabInsert, h, tabFind]

theorem tabFind_insert_other {α : Type} (t : Tab α) {i j : Nat} (b : α) (h : j ≠ i) :
    tabFind (tabInsert i b t) j = tabFind t j := by
  induction t with
  | nil => simp [tabInsert, tabFind, Ne.symm h]
  | cons x t ih =>
    obtain ⟨k, a⟩ := x
    by_cases hk : k < i
    · simp [tabInsert, hk, tabFind, ih]
    · by_cases he : k = i
      · subst he; simp [tabInsert, tabFind, Ne.symm h]
      · simp [tabInsert, hk, he, tabFind, Ne.symm h]

theorem tabFind_remove_same {α : Type} (t : Tab α) (i : Nat) : tabFind (t.filter (fun x => x.1 != i)) i = none := by
  induction t with
  | nil => rfl
  | cons x t ih =>
    obtain ⟨k, a⟩ := x
    by_cases h : k = i <;> simp [h, tabFind, ih]

theorem tabFind_remove_other {α : Type} (t : Tab α) {i j : Nat} (h : j ≠ i) :
    tabFind (t.filter (fun x => x.1 != i)) j = tabFind t j := by
  induction t with
  | nil => rfl
  | cons x t ih =>
    obtain ⟨k, a⟩ := x
    by_cases hk : k = i
    · subst hk; simp [tabFind, ih, Ne.symm h]
    · simp [hk, tabFind, ih]

@[simp] theorem tabFind_put_same {α : Type} (t : Tab α) (i : Nat) (v : Option α) : tabFind (tabPut t i v) i = v := by
  cases v with
  | none => exact tabFind_remove_same t i
  | some b => exact tabFind_insert_same t i b

theorem tabFind_put_other {α : Type} (t : Tab α) {i j : Nat} (v : Option α) (h : j ≠ i) :
    tabFind (tabPut t i v) j = tabFind t j := by
  cases v with
  | none => exact tabFind_remove_other t h
  | some b => exact tabFind_insert_other t b h

@[simp] theorem tabGet_set_same {α : Type} [DecidableEq α] (t : Tab α) (k : Nat) (d v : α) :
    tabGet (tabSet t k d v) k d = v := by
  by_cases h : v = d <;> simp [tabGet, tabSet, h]

theorem tabGet_set_other {α : Type} [DecidableEq α] (t : Tab α) {k j : Nat} (d d' v : α) (h : j ≠ k) :
    tabGet (tabSet t k d v) j d' = tabGet t j d' := by
  simp [tabGet, tabSet, tabFind_put_other _ _ h]

theorem tabGet_set {α : Type} [DecidableEq α] (t : Tab α) (k j : Nat) (d v : α) :
    tabGet (tabSet t k d v) j d = if j = k then v else tabGet t j d := by
  by_cases h : j = k
  · subst h; simp
  · simp [h, tabGet_set_other _ _ _ _ h]

@[simp] theorem tabGet_nil {α : Type} (k : Nat) (d : α) : tabGet ([] : Tab α) k d = d := rfl

/-! ### Sets and lists -/

theorem mem_setAdd (l : List Nat) (i j : Nat) : j ∈ setAdd l i ↔ j = i ∨ j ∈ l := by
  induction l with
  | nil => simp [setAdd]
  | cons k t ih =>
    by_cases h : k < i
    · simp [setAdd, h, ih]; tauto
    · by_cases he : k = i
      · subst he; simp [setAdd]
      · simp [setAdd, h, he]

theorem mem_setDel (l : List Nat) (i j : Nat) : j ∈ setDel l i ↔ j ∈ l ∧ j ≠ i := by simp [setDel]

theorem mem_setTo (l : List Nat) (i j : Nat) (on : Bool) :
    j ∈ setTo l i on ↔ (j = i ∧ on = true) ∨ (j ≠ i ∧ j ∈ l) := by
  cases on <;> by_cases h : j = i <;> simp [setTo, mem_setAdd, mem_setDel, h]

@[simp] theorem listSet_length {α : Type} (l : List α) (i : Nat) (v : α) : (listSet l i v).length = l.length := by
  induction l generalizing i with
  | nil => rfl
  | cons a t ih => cases i <;> simp [listSet, ih]

@[simp] theorem leBytes_length (n len : Nat) : (leBytes n len).length = len := by
  induction len generalizing n with
  | zero => rfl
  | succ k ih => simp [leBytes, ih]

/-- The bytes of a number give the number back, modulo their width (R5). -/
theorem leNat_leBytes (n len : Nat) : leNat (leBytes n len) = n % 256 ^ len := by
  induction len generalizing n with
  | zero => simp [leBytes, leNat, Nat.mod_one]
  | succ k ih =>
    have h := Nat.mod_mul (a := 256) (b := 256 ^ k) (x := n)
    simp only [leBytes, leNat, ih, BitVec.toNat_ofNat, Nat.pow_succ, Nat.mul_comm (256 ^ k) 256]
    omega

/-! ### Bytes of a memory -/

@[simp] theorem cellsRead_length (m : List Host.Cell) (a len : Nat) : (cellsRead m a len).length = len := by
  induction len generalizing a with
  | zero => rfl
  | succ k ih => simp [cellsRead, ih]

/-- A byte outside the written range is left alone. -/
theorem cellsWrite_outside (m : List Host.Cell) (a : Nat) (d : List Byte) (x : Nat) (h : x < a ∨ a + d.length ≤ x) :
    tabGet (cellsWrite m a d) x 0#8 = tabGet m x 0#8 := by
  induction d generalizing m a with
  | nil => rfl
  | cons b t ih =>
    simp only [List.length_cons] at h
    rw [cellsWrite, ih _ _ (by omega), tabGet_set_other _ _ _ _ (by omega)]

/-- Byte k of the written range reads as byte k of the data. -/
theorem cellsWrite_inside (m : List Host.Cell) (a : Nat) (d : List Byte) (k : Nat) (h : k < d.length) :
    tabGet (cellsWrite m a d) (a + k) 0#8 = d[k] := by
  induction d generalizing m a k with
  | nil => simp at h
  | cons b t ih =>
    cases k with
    | zero => rw [cellsWrite, cellsWrite_outside _ _ _ _ (by omega)]; simp
    | succ k => simpa [cellsWrite, Nat.add_assoc, Nat.add_comm 1] using ih (tabSet m a 0#8 b) (a + 1) k (by simpa using h)

/-- A range reads back what was written to it. -/
theorem cellsRead_write (m : List Host.Cell) (a : Nat) (d : List Byte) : cellsRead (cellsWrite m a d) a d.length = d := by
  have get : ∀ (m : List Host.Cell) (a len k : Nat) (h : k < len),
      (cellsRead m a len)[k]'(by simpa using h) = tabGet m (a + k) 0#8 := by
    intro m a len
    induction len generalizing a with
    | zero => intro k h; omega
    | succ n ih =>
      intro k h
      cases k with
      | zero => simp [cellsRead]
      | succ k => simpa [cellsRead, Nat.add_assoc, Nat.add_comm 1] using ih (a + 1) k (by omega)
  refine List.ext_getElem (by simp) (fun k h1 h2 => ?_)
  rw [get _ _ _ _ h2, cellsWrite_inside _ _ _ _ h2]

end Sys2Proof.Machine
end

