-- ==== Sys2Proof/Laws/State.lean ====
section
/-! SUPPORT. The accessors of the state: one lemma for each field and each update, and what reading a register, a core, a partition,
a link or a group gives after one of them is written. -/
namespace Sys2Proof.Machine

/-! ### wr -/

@[simp] theorem State.wr_grade (s : State) (r : Reg) (b i j : Nat) (v : Word) : (s.wr r b i j v).grade = s.grade := rfl
@[simp] theorem State.wr_latches (s : State) (r : Reg) (b i j : Nat) (v : Word) : (s.wr r b i j v).latches = s.latches := rfl
@[simp] theorem State.wr_cores (s : State) (r : Reg) (b i j : Nat) (v : Word) : (s.wr r b i j v).cores = s.cores := rfl
@[simp] theorem State.wr_mem (s : State) (r : Reg) (b i j : Nat) (v : Word) : (s.wr r b i j v).mem = s.mem := rfl
@[simp] theorem State.wr_parts (s : State) (r : Reg) (b i j : Nat) (v : Word) : (s.wr r b i j v).parts = s.parts := rfl
@[simp] theorem State.wr_addIssued (s : State) (r : Reg) (b i j : Nat) (v : Word) : (s.wr r b i j v).addIssued = s.addIssued := rfl
@[simp] theorem State.wr_reqTurn (s : State) (r : Reg) (b i j : Nat) (v : Word) : (s.wr r b i j v).reqTurn = s.reqTurn := rfl
@[simp] theorem State.wr_addApplied (s : State) (r : Reg) (b i j : Nat) (v : Word) : (s.wr r b i j v).addApplied = s.addApplied := rfl
@[simp] theorem State.wr_fabric (s : State) (r : Reg) (b i j : Nat) (v : Word) : (s.wr r b i j v).fabric = s.fabric := rfl
@[simp] theorem State.wr_rel (s : State) (r : Reg) (b i j : Nat) (v : Word) : (s.wr r b i j v).rel = s.rel := rfl
@[simp] theorem State.wr_flash (s : State) (r : Reg) (b i j : Nat) (v : Word) : (s.wr r b i j v).flash = s.flash := rfl
@[simp] theorem State.wr_fuses (s : State) (r : Reg) (b i j : Nat) (v : Word) : (s.wr r b i j v).fuses = s.fuses := rfl
@[simp] theorem State.wr_power (s : State) (r : Reg) (b i j : Nat) (v : Word) : (s.wr r b i j v).power = s.power := rfl
@[simp] theorem State.wr_start (s : State) (r : Reg) (b i j : Nat) (v : Word) : (s.wr r b i j v).start = s.start := rfl
@[simp] theorem State.wr_pins (s : State) (r : Reg) (b i j : Nat) (v : Word) : (s.wr r b i j v).pins = s.pins := rfl
@[simp] theorem State.wr_clockHalt (s : State) (r : Reg) (b i j : Nat) (v : Word) : (s.wr r b i j v).clockHalt = s.clockHalt := rfl
@[simp] theorem State.wr_votes (s : State) (r : Reg) (b i j : Nat) (v : Word) : (s.wr r b i j v).votes = s.votes := rfl
@[simp] theorem State.wr_vfHeld (s : State) (r : Reg) (b i j : Nat) (v : Word) : (s.wr r b i j v).vfHeld = s.vfHeld := rfl
@[simp] theorem State.wr_nonce (s : State) (r : Reg) (b i j : Nat) (v : Word) : (s.wr r b i j v).nonce = s.nonce := rfl
@[simp] theorem State.wr_mctpEid (s : State) (r : Reg) (b i j : Nat) (v : Word) : (s.wr r b i j v).mctpEid = s.mctpEid := rfl
@[simp] theorem State.wr_msixTab (s : State) (r : Reg) (b i j : Nat) (v : Word) : (s.wr r b i j v).msixTab = s.msixTab := rfl
@[simp] theorem State.wr_dumps (s : State) (r : Reg) (b i j : Nat) (v : Word) : (s.wr r b i j v).dumps = s.dumps := rfl
@[simp] theorem State.wr_tagged (s : State) (r : Reg) (b i j : Nat) (v : Word) : (s.wr r b i j v).tagged = s.tagged := rfl
@[simp] theorem State.wr_hubCycles (s : State) (r : Reg) (b i j : Nat) (v : Word) : (s.wr r b i j v).hubCycles = s.hubCycles := rfl
@[simp] theorem State.wr_free (s : State) (r : Reg) (b i j : Nat) (v : Word) : (s.wr r b i j v).free = s.free := rfl
@[simp] theorem State.wr_out (s : State) (r : Reg) (b i j : Nat) (v : Word) : (s.wr r b i j v).out = s.out := rfl
@[simp] theorem State.wr_pending (s : State) (r : Reg) (b i j : Nat) (v : Word) : (s.wr r b i j v).pending = s.pending := rfl

/-! ### setFld -/

@[simp] theorem State.setFld_grade (s : State) (r : Reg) (b i j hi lo v : Nat) :
    (s.setFld r b i j hi lo v).grade = s.grade := by simp only [State.setFld, State.wr_grade]
@[simp] theorem State.setFld_latches (s : State) (r : Reg) (b i j hi lo v : Nat) :
    (s.setFld r b i j hi lo v).latches = s.latches := by simp only [State.setFld, State.wr_latches]
@[simp] theorem State.setFld_cores (s : State) (r : Reg) (b i j hi lo v : Nat) :
    (s.setFld r b i j hi lo v).cores = s.cores := by simp only [State.setFld, State.wr_cores]
@[simp] theorem State.setFld_mem (s : State) (r : Reg) (b i j hi lo v : Nat) :
    (s.setFld r b i j hi lo v).mem = s.mem := by simp only [State.setFld, State.wr_mem]
@[simp] theorem State.setFld_parts (s : State) (r : Reg) (b i j hi lo v : Nat) :
    (s.setFld r b i j hi lo v).parts = s.parts := by simp only [State.setFld, State.wr_parts]
@[simp] theorem State.setFld_addIssued (s : State) (r : Reg) (b i j hi lo v : Nat) :
    (s.setFld r b i j hi lo v).addIssued = s.addIssued := by simp only [State.setFld, State.wr_addIssued]
@[simp] theorem State.setFld_reqTurn (s : State) (r : Reg) (b i j hi lo v : Nat) :
    (s.setFld r b i j hi lo v).reqTurn = s.reqTurn := by simp only [State.setFld, State.wr_reqTurn]
@[simp] theorem State.setFld_addApplied (s : State) (r : Reg) (b i j hi lo v : Nat) :
    (s.setFld r b i j hi lo v).addApplied = s.addApplied := by simp only [State.setFld, State.wr_addApplied]
@[simp] theorem State.setFld_fabric (s : State) (r : Reg) (b i j hi lo v : Nat) :
    (s.setFld r b i j hi lo v).fabric = s.fabric := by simp only [State.setFld, State.wr_fabric]
@[simp] theorem State.setFld_rel (s : State) (r : Reg) (b i j hi lo v : Nat) :
    (s.setFld r b i j hi lo v).rel = s.rel := by simp only [State.setFld, State.wr_rel]
@[simp] theorem State.setFld_flash (s : State) (r : Reg) (b i j hi lo v : Nat) :
    (s.setFld r b i j hi lo v).flash = s.flash := by simp only [State.setFld, State.wr_flash]
@[simp] theorem State.setFld_fuses (s : State) (r : Reg) (b i j hi lo v : Nat) :
    (s.setFld r b i j hi lo v).fuses = s.fuses := by simp only [State.setFld, State.wr_fuses]
@[simp] theorem State.setFld_power (s : State) (r : Reg) (b i j hi lo v : Nat) :
    (s.setFld r b i j hi lo v).power = s.power := by simp only [State.setFld, State.wr_power]
@[simp] theorem State.setFld_start (s : State) (r : Reg) (b i j hi lo v : Nat) :
    (s.setFld r b i j hi lo v).start = s.start := by simp only [State.setFld, State.wr_start]
@[simp] theorem State.setFld_pins (s : State) (r : Reg) (b i j hi lo v : Nat) :
    (s.setFld r b i j hi lo v).pins = s.pins := by simp only [State.setFld, State.wr_pins]
@[simp] theorem State.setFld_clockHalt (s : State) (r : Reg) (b i j hi lo v : Nat) :
    (s.setFld r b i j hi lo v).clockHalt = s.clockHalt := by simp only [State.setFld, State.wr_clockHalt]
@[simp] theorem State.setFld_votes (s : State) (r : Reg) (b i j hi lo v : Nat) :
    (s.setFld r b i j hi lo v).votes = s.votes := by simp only [State.setFld, State.wr_votes]
@[simp] theorem State.setFld_vfHeld (s : State) (r : Reg) (b i j hi lo v : Nat) :
    (s.setFld r b i j hi lo v).vfHeld = s.vfHeld := by simp only [State.setFld, State.wr_vfHeld]
@[simp] theorem State.setFld_nonce (s : State) (r : Reg) (b i j hi lo v : Nat) :
    (s.setFld r b i j hi lo v).nonce = s.nonce := by simp only [State.setFld, State.wr_nonce]
@[simp] theorem State.setFld_mctpEid (s : State) (r : Reg) (b i j hi lo v : Nat) :
    (s.setFld r b i j hi lo v).mctpEid = s.mctpEid := by simp only [State.setFld, State.wr_mctpEid]
@[simp] theorem State.setFld_msixTab (s : State) (r : Reg) (b i j hi lo v : Nat) :
    (s.setFld r b i j hi lo v).msixTab = s.msixTab := by simp only [State.setFld, State.wr_msixTab]
@[simp] theorem State.setFld_dumps (s : State) (r : Reg) (b i j hi lo v : Nat) :
    (s.setFld r b i j hi lo v).dumps = s.dumps := by simp only [State.setFld, State.wr_dumps]
@[simp] theorem State.setFld_tagged (s : State) (r : Reg) (b i j hi lo v : Nat) :
    (s.setFld r b i j hi lo v).tagged = s.tagged := by simp only [State.setFld, State.wr_tagged]
@[simp] theorem State.setFld_hubCycles (s : State) (r : Reg) (b i j hi lo v : Nat) :
    (s.setFld r b i j hi lo v).hubCycles = s.hubCycles := by simp only [State.setFld, State.wr_hubCycles]
@[simp] theorem State.setFld_free (s : State) (r : Reg) (b i j hi lo v : Nat) :
    (s.setFld r b i j hi lo v).free = s.free := by simp only [State.setFld, State.wr_free]
@[simp] theorem State.setFld_out (s : State) (r : Reg) (b i j hi lo v : Nat) :
    (s.setFld r b i j hi lo v).out = s.out := by simp only [State.setFld, State.wr_out]
@[simp] theorem State.setFld_pending (s : State) (r : Reg) (b i j hi lo v : Nat) :
    (s.setFld r b i j hi lo v).pending = s.pending := by simp only [State.setFld, State.wr_pending]

/-! ### orReg -/

@[simp] theorem State.orReg_grade (s : State) (r : Reg) (b i j v : Nat) :
    (s.orReg r b i j v).grade = s.grade := by simp only [State.orReg, State.wr_grade]
@[simp] theorem State.orReg_latches (s : State) (r : Reg) (b i j v : Nat) :
    (s.orReg r b i j v).latches = s.latches := by simp only [State.orReg, State.wr_latches]
@[simp] theorem State.orReg_cores (s : State) (r : Reg) (b i j v : Nat) :
    (s.orReg r b i j v).cores = s.cores := by simp only [State.orReg, State.wr_cores]
@[simp] theorem State.orReg_mem (s : State) (r : Reg) (b i j v : Nat) :
    (s.orReg r b i j v).mem = s.mem := by simp only [State.orReg, State.wr_mem]
@[simp] theorem State.orReg_parts (s : State) (r : Reg) (b i j v : Nat) :
    (s.orReg r b i j v).parts = s.parts := by simp only [State.orReg, State.wr_parts]
@[simp] theorem State.orReg_addIssued (s : State) (r : Reg) (b i j v : Nat) :
    (s.orReg r b i j v).addIssued = s.addIssued := by simp only [State.orReg, State.wr_addIssued]
@[simp] theorem State.orReg_reqTurn (s : State) (r : Reg) (b i j v : Nat) :
    (s.orReg r b i j v).reqTurn = s.reqTurn := by simp only [State.orReg, State.wr_reqTurn]
@[simp] theorem State.orReg_addApplied (s : State) (r : Reg) (b i j v : Nat) :
    (s.orReg r b i j v).addApplied = s.addApplied := by simp only [State.orReg, State.wr_addApplied]
@[simp] theorem State.orReg_fabric (s : State) (r : Reg) (b i j v : Nat) :
    (s.orReg r b i j v).fabric = s.fabric := by simp only [State.orReg, State.wr_fabric]
@[simp] theorem State.orReg_rel (s : State) (r : Reg) (b i j v : Nat) :
    (s.orReg r b i j v).rel = s.rel := by simp only [State.orReg, State.wr_rel]
@[simp] theorem State.orReg_flash (s : State) (r : Reg) (b i j v : Nat) :
    (s.orReg r b i j v).flash = s.flash := by simp only [State.orReg, State.wr_flash]
@[simp] theorem State.orReg_fuses (s : State) (r : Reg) (b i j v : Nat) :
    (s.orReg r b i j v).fuses = s.fuses := by simp only [State.orReg, State.wr_fuses]
@[simp] theorem State.orReg_power (s : State) (r : Reg) (b i j v : Nat) :
    (s.orReg r b i j v).power = s.power := by simp only [State.orReg, State.wr_power]
@[simp] theorem State.orReg_start (s : State) (r : Reg) (b i j v : Nat) :
    (s.orReg r b i j v).start = s.start := by simp only [State.orReg, State.wr_start]
@[simp] theorem State.orReg_pins (s : State) (r : Reg) (b i j v : Nat) :
    (s.orReg r b i j v).pins = s.pins := by simp only [State.orReg, State.wr_pins]
@[simp] theorem State.orReg_clockHalt (s : State) (r : Reg) (b i j v : Nat) :
    (s.orReg r b i j v).clockHalt = s.clockHalt := by simp only [State.orReg, State.wr_clockHalt]
@[simp] theorem State.orReg_votes (s : State) (r : Reg) (b i j v : Nat) :
    (s.orReg r b i j v).votes = s.votes := by simp only [State.orReg, State.wr_votes]
@[simp] theorem State.orReg_vfHeld (s : State) (r : Reg) (b i j v : Nat) :
    (s.orReg r b i j v).vfHeld = s.vfHeld := by simp only [State.orReg, State.wr_vfHeld]
@[simp] theorem State.orReg_nonce (s : State) (r : Reg) (b i j v : Nat) :
    (s.orReg r b i j v).nonce = s.nonce := by simp only [State.orReg, State.wr_nonce]
@[simp] theorem State.orReg_mctpEid (s : State) (r : Reg) (b i j v : Nat) :
    (s.orReg r b i j v).mctpEid = s.mctpEid := by simp only [State.orReg, State.wr_mctpEid]
@[simp] theorem State.orReg_msixTab (s : State) (r : Reg) (b i j v : Nat) :
    (s.orReg r b i j v).msixTab = s.msixTab := by simp only [State.orReg, State.wr_msixTab]
@[simp] theorem State.orReg_dumps (s : State) (r : Reg) (b i j v : Nat) :
    (s.orReg r b i j v).dumps = s.dumps := by simp only [State.orReg, State.wr_dumps]
@[simp] theorem State.orReg_tagged (s : State) (r : Reg) (b i j v : Nat) :
    (s.orReg r b i j v).tagged = s.tagged := by simp only [State.orReg, State.wr_tagged]
@[simp] theorem State.orReg_hubCycles (s : State) (r : Reg) (b i j v : Nat) :
    (s.orReg r b i j v).hubCycles = s.hubCycles := by simp only [State.orReg, State.wr_hubCycles]
@[simp] theorem State.orReg_free (s : State) (r : Reg) (b i j v : Nat) :
    (s.orReg r b i j v).free = s.free := by simp only [State.orReg, State.wr_free]
@[simp] theorem State.orReg_out (s : State) (r : Reg) (b i j v : Nat) :
    (s.orReg r b i j v).out = s.out := by simp only [State.orReg, State.wr_out]
@[simp] theorem State.orReg_pending (s : State) (r : Reg) (b i j v : Nat) :
    (s.orReg r b i j v).pending = s.pending := by simp only [State.orReg, State.wr_pending]

/-! ### countFld -/

@[simp] theorem State.countFld_grade (s : State) (r : Reg) (b i j hi lo k : Nat) :
    (s.countFld r b i j hi lo k).grade = s.grade := by simp only [State.countFld, State.setFld_grade]
@[simp] theorem State.countFld_latches (s : State) (r : Reg) (b i j hi lo k : Nat) :
    (s.countFld r b i j hi lo k).latches = s.latches := by simp only [State.countFld, State.setFld_latches]
@[simp] theorem State.countFld_cores (s : State) (r : Reg) (b i j hi lo k : Nat) :
    (s.countFld r b i j hi lo k).cores = s.cores := by simp only [State.countFld, State.setFld_cores]
@[simp] theorem State.countFld_mem (s : State) (r : Reg) (b i j hi lo k : Nat) :
    (s.countFld r b i j hi lo k).mem = s.mem := by simp only [State.countFld, State.setFld_mem]
@[simp] theorem State.countFld_parts (s : State) (r : Reg) (b i j hi lo k : Nat) :
    (s.countFld r b i j hi lo k).parts = s.parts := by simp only [State.countFld, State.setFld_parts]
@[simp] theorem State.countFld_addIssued (s : State) (r : Reg) (b i j hi lo k : Nat) :
    (s.countFld r b i j hi lo k).addIssued = s.addIssued := by simp only [State.countFld, State.setFld_addIssued]
@[simp] theorem State.countFld_reqTurn (s : State) (r : Reg) (b i j hi lo k : Nat) :
    (s.countFld r b i j hi lo k).reqTurn = s.reqTurn := by simp only [State.countFld, State.setFld_reqTurn]
@[simp] theorem State.countFld_addApplied (s : State) (r : Reg) (b i j hi lo k : Nat) :
    (s.countFld r b i j hi lo k).addApplied = s.addApplied := by simp only [State.countFld, State.setFld_addApplied]
@[simp] theorem State.countFld_fabric (s : State) (r : Reg) (b i j hi lo k : Nat) :
    (s.countFld r b i j hi lo k).fabric = s.fabric := by simp only [State.countFld, State.setFld_fabric]
@[simp] theorem State.countFld_rel (s : State) (r : Reg) (b i j hi lo k : Nat) :
    (s.countFld r b i j hi lo k).rel = s.rel := by simp only [State.countFld, State.setFld_rel]
@[simp] theorem State.countFld_flash (s : State) (r : Reg) (b i j hi lo k : Nat) :
    (s.countFld r b i j hi lo k).flash = s.flash := by simp only [State.countFld, State.setFld_flash]
@[simp] theorem State.countFld_fuses (s : State) (r : Reg) (b i j hi lo k : Nat) :
    (s.countFld r b i j hi lo k).fuses = s.fuses := by simp only [State.countFld, State.setFld_fuses]
@[simp] theorem State.countFld_power (s : State) (r : Reg) (b i j hi lo k : Nat) :
    (s.countFld r b i j hi lo k).power = s.power := by simp only [State.countFld, State.setFld_power]
@[simp] theorem State.countFld_start (s : State) (r : Reg) (b i j hi lo k : Nat) :
    (s.countFld r b i j hi lo k).start = s.start := by simp only [State.countFld, State.setFld_start]
@[simp] theorem State.countFld_pins (s : State) (r : Reg) (b i j hi lo k : Nat) :
    (s.countFld r b i j hi lo k).pins = s.pins := by simp only [State.countFld, State.setFld_pins]
@[simp] theorem State.countFld_clockHalt (s : State) (r : Reg) (b i j hi lo k : Nat) :
    (s.countFld r b i j hi lo k).clockHalt = s.clockHalt := by simp only [State.countFld, State.setFld_clockHalt]
@[simp] theorem State.countFld_votes (s : State) (r : Reg) (b i j hi lo k : Nat) :
    (s.countFld r b i j hi lo k).votes = s.votes := by simp only [State.countFld, State.setFld_votes]
@[simp] theorem State.countFld_vfHeld (s : State) (r : Reg) (b i j hi lo k : Nat) :
    (s.countFld r b i j hi lo k).vfHeld = s.vfHeld := by simp only [State.countFld, State.setFld_vfHeld]
@[simp] theorem State.countFld_nonce (s : State) (r : Reg) (b i j hi lo k : Nat) :
    (s.countFld r b i j hi lo k).nonce = s.nonce := by simp only [State.countFld, State.setFld_nonce]
@[simp] theorem State.countFld_mctpEid (s : State) (r : Reg) (b i j hi lo k : Nat) :
    (s.countFld r b i j hi lo k).mctpEid = s.mctpEid := by simp only [State.countFld, State.setFld_mctpEid]
@[simp] theorem State.countFld_msixTab (s : State) (r : Reg) (b i j hi lo k : Nat) :
    (s.countFld r b i j hi lo k).msixTab = s.msixTab := by simp only [State.countFld, State.setFld_msixTab]
@[simp] theorem State.countFld_dumps (s : State) (r : Reg) (b i j hi lo k : Nat) :
    (s.countFld r b i j hi lo k).dumps = s.dumps := by simp only [State.countFld, State.setFld_dumps]
@[simp] theorem State.countFld_tagged (s : State) (r : Reg) (b i j hi lo k : Nat) :
    (s.countFld r b i j hi lo k).tagged = s.tagged := by simp only [State.countFld, State.setFld_tagged]
@[simp] theorem State.countFld_hubCycles (s : State) (r : Reg) (b i j hi lo k : Nat) :
    (s.countFld r b i j hi lo k).hubCycles = s.hubCycles := by simp only [State.countFld, State.setFld_hubCycles]
@[simp] theorem State.countFld_free (s : State) (r : Reg) (b i j hi lo k : Nat) :
    (s.countFld r b i j hi lo k).free = s.free := by simp only [State.countFld, State.setFld_free]
@[simp] theorem State.countFld_out (s : State) (r : Reg) (b i j hi lo k : Nat) :
    (s.countFld r b i j hi lo k).out = s.out := by simp only [State.countFld, State.setFld_out]
@[simp] theorem State.countFld_pending (s : State) (r : Reg) (b i j hi lo k : Nat) :
    (s.countFld r b i j hi lo k).pending = s.pending := by simp only [State.countFld, State.setFld_pending]

/-! ### wr64 -/

@[simp] theorem State.wr64_grade (s : State) (lo hi : Reg) (b i j v : Nat) :
    (s.wr64 lo hi b i j v).grade = s.grade := by simp only [State.wr64, State.wr_grade]
@[simp] theorem State.wr64_latches (s : State) (lo hi : Reg) (b i j v : Nat) :
    (s.wr64 lo hi b i j v).latches = s.latches := by simp only [State.wr64, State.wr_latches]
@[simp] theorem State.wr64_cores (s : State) (lo hi : Reg) (b i j v : Nat) :
    (s.wr64 lo hi b i j v).cores = s.cores := by simp only [State.wr64, State.wr_cores]
@[simp] theorem State.wr64_mem (s : State) (lo hi : Reg) (b i j v : Nat) :
    (s.wr64 lo hi b i j v).mem = s.mem := by simp only [State.wr64, State.wr_mem]
@[simp] theorem State.wr64_parts (s : State) (lo hi : Reg) (b i j v : Nat) :
    (s.wr64 lo hi b i j v).parts = s.parts := by simp only [State.wr64, State.wr_parts]
@[simp] theorem State.wr64_addIssued (s : State) (lo hi : Reg) (b i j v : Nat) :
    (s.wr64 lo hi b i j v).addIssued = s.addIssued := by simp only [State.wr64, State.wr_addIssued]
@[simp] theorem State.wr64_reqTurn (s : State) (lo hi : Reg) (b i j v : Nat) :
    (s.wr64 lo hi b i j v).reqTurn = s.reqTurn := by simp only [State.wr64, State.wr_reqTurn]
@[simp] theorem State.wr64_addApplied (s : State) (lo hi : Reg) (b i j v : Nat) :
    (s.wr64 lo hi b i j v).addApplied = s.addApplied := by simp only [State.wr64, State.wr_addApplied]
@[simp] theorem State.wr64_fabric (s : State) (lo hi : Reg) (b i j v : Nat) :
    (s.wr64 lo hi b i j v).fabric = s.fabric := by simp only [State.wr64, State.wr_fabric]
@[simp] theorem State.wr64_rel (s : State) (lo hi : Reg) (b i j v : Nat) :
    (s.wr64 lo hi b i j v).rel = s.rel := by simp only [State.wr64, State.wr_rel]
@[simp] theorem State.wr64_flash (s : State) (lo hi : Reg) (b i j v : Nat) :
    (s.wr64 lo hi b i j v).flash = s.flash := by simp only [State.wr64, State.wr_flash]
@[simp] theorem State.wr64_fuses (s : State) (lo hi : Reg) (b i j v : Nat) :
    (s.wr64 lo hi b i j v).fuses = s.fuses := by simp only [State.wr64, State.wr_fuses]
@[simp] theorem State.wr64_power (s : State) (lo hi : Reg) (b i j v : Nat) :
    (s.wr64 lo hi b i j v).power = s.power := by simp only [State.wr64, State.wr_power]
@[simp] theorem State.wr64_start (s : State) (lo hi : Reg) (b i j v : Nat) :
    (s.wr64 lo hi b i j v).start = s.start := by simp only [State.wr64, State.wr_start]
@[simp] theorem State.wr64_pins (s : State) (lo hi : Reg) (b i j v : Nat) :
    (s.wr64 lo hi b i j v).pins = s.pins := by simp only [State.wr64, State.wr_pins]
@[simp] theorem State.wr64_clockHalt (s : State) (lo hi : Reg) (b i j v : Nat) :
    (s.wr64 lo hi b i j v).clockHalt = s.clockHalt := by simp only [State.wr64, State.wr_clockHalt]
@[simp] theorem State.wr64_votes (s : State) (lo hi : Reg) (b i j v : Nat) :
    (s.wr64 lo hi b i j v).votes = s.votes := by simp only [State.wr64, State.wr_votes]
@[simp] theorem State.wr64_vfHeld (s : State) (lo hi : Reg) (b i j v : Nat) :
    (s.wr64 lo hi b i j v).vfHeld = s.vfHeld := by simp only [State.wr64, State.wr_vfHeld]
@[simp] theorem State.wr64_nonce (s : State) (lo hi : Reg) (b i j v : Nat) :
    (s.wr64 lo hi b i j v).nonce = s.nonce := by simp only [State.wr64, State.wr_nonce]
@[simp] theorem State.wr64_mctpEid (s : State) (lo hi : Reg) (b i j v : Nat) :
    (s.wr64 lo hi b i j v).mctpEid = s.mctpEid := by simp only [State.wr64, State.wr_mctpEid]
@[simp] theorem State.wr64_msixTab (s : State) (lo hi : Reg) (b i j v : Nat) :
    (s.wr64 lo hi b i j v).msixTab = s.msixTab := by simp only [State.wr64, State.wr_msixTab]
@[simp] theorem State.wr64_dumps (s : State) (lo hi : Reg) (b i j v : Nat) :
    (s.wr64 lo hi b i j v).dumps = s.dumps := by simp only [State.wr64, State.wr_dumps]
@[simp] theorem State.wr64_tagged (s : State) (lo hi : Reg) (b i j v : Nat) :
    (s.wr64 lo hi b i j v).tagged = s.tagged := by simp only [State.wr64, State.wr_tagged]
@[simp] theorem State.wr64_hubCycles (s : State) (lo hi : Reg) (b i j v : Nat) :
    (s.wr64 lo hi b i j v).hubCycles = s.hubCycles := by simp only [State.wr64, State.wr_hubCycles]
@[simp] theorem State.wr64_free (s : State) (lo hi : Reg) (b i j v : Nat) :
    (s.wr64 lo hi b i j v).free = s.free := by simp only [State.wr64, State.wr_free]
@[simp] theorem State.wr64_out (s : State) (lo hi : Reg) (b i j v : Nat) :
    (s.wr64 lo hi b i j v).out = s.out := by simp only [State.wr64, State.wr_out]
@[simp] theorem State.wr64_pending (s : State) (lo hi : Reg) (b i j v : Nat) :
    (s.wr64 lo hi b i j v).pending = s.pending := by simp only [State.wr64, State.wr_pending]

/-! ### bump -/

@[simp] theorem State.bump_grade (s : State) (lo hi : Reg) (i j k : Nat) :
    (s.bump lo hi i j k).grade = s.grade := by simp only [State.bump, State.wr64_grade]
@[simp] theorem State.bump_latches (s : State) (lo hi : Reg) (i j k : Nat) :
    (s.bump lo hi i j k).latches = s.latches := by simp only [State.bump, State.wr64_latches]
@[simp] theorem State.bump_cores (s : State) (lo hi : Reg) (i j k : Nat) :
    (s.bump lo hi i j k).cores = s.cores := by simp only [State.bump, State.wr64_cores]
@[simp] theorem State.bump_mem (s : State) (lo hi : Reg) (i j k : Nat) :
    (s.bump lo hi i j k).mem = s.mem := by simp only [State.bump, State.wr64_mem]
@[simp] theorem State.bump_parts (s : State) (lo hi : Reg) (i j k : Nat) :
    (s.bump lo hi i j k).parts = s.parts := by simp only [State.bump, State.wr64_parts]
@[simp] theorem State.bump_addIssued (s : State) (lo hi : Reg) (i j k : Nat) :
    (s.bump lo hi i j k).addIssued = s.addIssued := by simp only [State.bump, State.wr64_addIssued]
@[simp] theorem State.bump_reqTurn (s : State) (lo hi : Reg) (i j k : Nat) :
    (s.bump lo hi i j k).reqTurn = s.reqTurn := by simp only [State.bump, State.wr64_reqTurn]
@[simp] theorem State.bump_addApplied (s : State) (lo hi : Reg) (i j k : Nat) :
    (s.bump lo hi i j k).addApplied = s.addApplied := by simp only [State.bump, State.wr64_addApplied]
@[simp] theorem State.bump_fabric (s : State) (lo hi : Reg) (i j k : Nat) :
    (s.bump lo hi i j k).fabric = s.fabric := by simp only [State.bump, State.wr64_fabric]
@[simp] theorem State.bump_rel (s : State) (lo hi : Reg) (i j k : Nat) :
    (s.bump lo hi i j k).rel = s.rel := by simp only [State.bump, State.wr64_rel]
@[simp] theorem State.bump_flash (s : State) (lo hi : Reg) (i j k : Nat) :
    (s.bump lo hi i j k).flash = s.flash := by simp only [State.bump, State.wr64_flash]
@[simp] theorem State.bump_fuses (s : State) (lo hi : Reg) (i j k : Nat) :
    (s.bump lo hi i j k).fuses = s.fuses := by simp only [State.bump, State.wr64_fuses]
@[simp] theorem State.bump_power (s : State) (lo hi : Reg) (i j k : Nat) :
    (s.bump lo hi i j k).power = s.power := by simp only [State.bump, State.wr64_power]
@[simp] theorem State.bump_start (s : State) (lo hi : Reg) (i j k : Nat) :
    (s.bump lo hi i j k).start = s.start := by simp only [State.bump, State.wr64_start]
@[simp] theorem State.bump_pins (s : State) (lo hi : Reg) (i j k : Nat) :
    (s.bump lo hi i j k).pins = s.pins := by simp only [State.bump, State.wr64_pins]
@[simp] theorem State.bump_clockHalt (s : State) (lo hi : Reg) (i j k : Nat) :
    (s.bump lo hi i j k).clockHalt = s.clockHalt := by simp only [State.bump, State.wr64_clockHalt]
@[simp] theorem State.bump_votes (s : State) (lo hi : Reg) (i j k : Nat) :
    (s.bump lo hi i j k).votes = s.votes := by simp only [State.bump, State.wr64_votes]
@[simp] theorem State.bump_vfHeld (s : State) (lo hi : Reg) (i j k : Nat) :
    (s.bump lo hi i j k).vfHeld = s.vfHeld := by simp only [State.bump, State.wr64_vfHeld]
@[simp] theorem State.bump_nonce (s : State) (lo hi : Reg) (i j k : Nat) :
    (s.bump lo hi i j k).nonce = s.nonce := by simp only [State.bump, State.wr64_nonce]
@[simp] theorem State.bump_mctpEid (s : State) (lo hi : Reg) (i j k : Nat) :
    (s.bump lo hi i j k).mctpEid = s.mctpEid := by simp only [State.bump, State.wr64_mctpEid]
@[simp] theorem State.bump_msixTab (s : State) (lo hi : Reg) (i j k : Nat) :
    (s.bump lo hi i j k).msixTab = s.msixTab := by simp only [State.bump, State.wr64_msixTab]
@[simp] theorem State.bump_dumps (s : State) (lo hi : Reg) (i j k : Nat) :
    (s.bump lo hi i j k).dumps = s.dumps := by simp only [State.bump, State.wr64_dumps]
@[simp] theorem State.bump_tagged (s : State) (lo hi : Reg) (i j k : Nat) :
    (s.bump lo hi i j k).tagged = s.tagged := by simp only [State.bump, State.wr64_tagged]
@[simp] theorem State.bump_hubCycles (s : State) (lo hi : Reg) (i j k : Nat) :
    (s.bump lo hi i j k).hubCycles = s.hubCycles := by simp only [State.bump, State.wr64_hubCycles]
@[simp] theorem State.bump_free (s : State) (lo hi : Reg) (i j k : Nat) :
    (s.bump lo hi i j k).free = s.free := by simp only [State.bump, State.wr64_free]
@[simp] theorem State.bump_out (s : State) (lo hi : Reg) (i j k : Nat) :
    (s.bump lo hi i j k).out = s.out := by simp only [State.bump, State.wr64_out]
@[simp] theorem State.bump_pending (s : State) (lo hi : Reg) (i j k : Nat) :
    (s.bump lo hi i j k).pending = s.pending := by simp only [State.bump, State.wr64_pending]

/-! ### setCore -/

@[simp] theorem State.setCore_grade (s : State) (n : Nat) (c : Core) : (s.setCore n c).grade = s.grade := rfl
@[simp] theorem State.setCore_regs (s : State) (n : Nat) (c : Core) : (s.setCore n c).regs = s.regs := rfl
@[simp] theorem State.setCore_latches (s : State) (n : Nat) (c : Core) : (s.setCore n c).latches = s.latches := rfl
@[simp] theorem State.setCore_mem (s : State) (n : Nat) (c : Core) : (s.setCore n c).mem = s.mem := rfl
@[simp] theorem State.setCore_parts (s : State) (n : Nat) (c : Core) : (s.setCore n c).parts = s.parts := rfl
@[simp] theorem State.setCore_addIssued (s : State) (n : Nat) (c : Core) : (s.setCore n c).addIssued = s.addIssued := rfl
@[simp] theorem State.setCore_reqTurn (s : State) (n : Nat) (c : Core) : (s.setCore n c).reqTurn = s.reqTurn := rfl
@[simp] theorem State.setCore_addApplied (s : State) (n : Nat) (c : Core) : (s.setCore n c).addApplied = s.addApplied := rfl
@[simp] theorem State.setCore_fabric (s : State) (n : Nat) (c : Core) : (s.setCore n c).fabric = s.fabric := rfl
@[simp] theorem State.setCore_rel (s : State) (n : Nat) (c : Core) : (s.setCore n c).rel = s.rel := rfl
@[simp] theorem State.setCore_flash (s : State) (n : Nat) (c : Core) : (s.setCore n c).flash = s.flash := rfl
@[simp] theorem State.setCore_fuses (s : State) (n : Nat) (c : Core) : (s.setCore n c).fuses = s.fuses := rfl
@[simp] theorem State.setCore_power (s : State) (n : Nat) (c : Core) : (s.setCore n c).power = s.power := rfl
@[simp] theorem State.setCore_start (s : State) (n : Nat) (c : Core) : (s.setCore n c).start = s.start := rfl
@[simp] theorem State.setCore_pins (s : State) (n : Nat) (c : Core) : (s.setCore n c).pins = s.pins := rfl
@[simp] theorem State.setCore_clockHalt (s : State) (n : Nat) (c : Core) : (s.setCore n c).clockHalt = s.clockHalt := rfl
@[simp] theorem State.setCore_votes (s : State) (n : Nat) (c : Core) : (s.setCore n c).votes = s.votes := rfl
@[simp] theorem State.setCore_vfHeld (s : State) (n : Nat) (c : Core) : (s.setCore n c).vfHeld = s.vfHeld := rfl
@[simp] theorem State.setCore_nonce (s : State) (n : Nat) (c : Core) : (s.setCore n c).nonce = s.nonce := rfl
@[simp] theorem State.setCore_mctpEid (s : State) (n : Nat) (c : Core) : (s.setCore n c).mctpEid = s.mctpEid := rfl
@[simp] theorem State.setCore_msixTab (s : State) (n : Nat) (c : Core) : (s.setCore n c).msixTab = s.msixTab := rfl
@[simp] theorem State.setCore_dumps (s : State) (n : Nat) (c : Core) : (s.setCore n c).dumps = s.dumps := rfl
@[simp] theorem State.setCore_tagged (s : State) (n : Nat) (c : Core) : (s.setCore n c).tagged = s.tagged := rfl
@[simp] theorem State.setCore_hubCycles (s : State) (n : Nat) (c : Core) : (s.setCore n c).hubCycles = s.hubCycles := rfl
@[simp] theorem State.setCore_free (s : State) (n : Nat) (c : Core) : (s.setCore n c).free = s.free := rfl
@[simp] theorem State.setCore_out (s : State) (n : Nat) (c : Core) : (s.setCore n c).out = s.out := rfl
@[simp] theorem State.setCore_pending (s : State) (n : Nat) (c : Core) : (s.setCore n c).pending = s.pending := rfl

/-! ### onCore -/

@[simp] theorem State.onCore_grade (s : State) (n : Nat) (f : Core → Core) :
    (s.onCore n f).grade = s.grade := by simp only [State.onCore, State.setCore_grade]
@[simp] theorem State.onCore_regs (s : State) (n : Nat) (f : Core → Core) :
    (s.onCore n f).regs = s.regs := by simp only [State.onCore, State.setCore_regs]
@[simp] theorem State.onCore_latches (s : State) (n : Nat) (f : Core → Core) :
    (s.onCore n f).latches = s.latches := by simp only [State.onCore, State.setCore_latches]
@[simp] theorem State.onCore_mem (s : State) (n : Nat) (f : Core → Core) :
    (s.onCore n f).mem = s.mem := by simp only [State.onCore, State.setCore_mem]
@[simp] theorem State.onCore_parts (s : State) (n : Nat) (f : Core → Core) :
    (s.onCore n f).parts = s.parts := by simp only [State.onCore, State.setCore_parts]
@[simp] theorem State.onCore_addIssued (s : State) (n : Nat) (f : Core → Core) :
    (s.onCore n f).addIssued = s.addIssued := by simp only [State.onCore, State.setCore_addIssued]
@[simp] theorem State.onCore_reqTurn (s : State) (n : Nat) (f : Core → Core) :
    (s.onCore n f).reqTurn = s.reqTurn := by simp only [State.onCore, State.setCore_reqTurn]
@[simp] theorem State.onCore_addApplied (s : State) (n : Nat) (f : Core → Core) :
    (s.onCore n f).addApplied = s.addApplied := by simp only [State.onCore, State.setCore_addApplied]
@[simp] theorem State.onCore_fabric (s : State) (n : Nat) (f : Core → Core) :
    (s.onCore n f).fabric = s.fabric := by simp only [State.onCore, State.setCore_fabric]
@[simp] theorem State.onCore_rel (s : State) (n : Nat) (f : Core → Core) :
    (s.onCore n f).rel = s.rel := by simp only [State.onCore, State.setCore_rel]
@[simp] theorem State.onCore_flash (s : State) (n : Nat) (f : Core → Core) :
    (s.onCore n f).flash = s.flash := by simp only [State.onCore, State.setCore_flash]
@[simp] theorem State.onCore_fuses (s : State) (n : Nat) (f : Core → Core) :
    (s.onCore n f).fuses = s.fuses := by simp only [State.onCore, State.setCore_fuses]
@[simp] theorem State.onCore_power (s : State) (n : Nat) (f : Core → Core) :
    (s.onCore n f).power = s.power := by simp only [State.onCore, State.setCore_power]
@[simp] theorem State.onCore_start (s : State) (n : Nat) (f : Core → Core) :
    (s.onCore n f).start = s.start := by simp only [State.onCore, State.setCore_start]
@[simp] theorem State.onCore_pins (s : State) (n : Nat) (f : Core → Core) :
    (s.onCore n f).pins = s.pins := by simp only [State.onCore, State.setCore_pins]
@[simp] theorem State.onCore_clockHalt (s : State) (n : Nat) (f : Core → Core) :
    (s.onCore n f).clockHalt = s.clockHalt := by simp only [State.onCore, State.setCore_clockHalt]
@[simp] theorem State.onCore_votes (s : State) (n : Nat) (f : Core → Core) :
    (s.onCore n f).votes = s.votes := by simp only [State.onCore, State.setCore_votes]
@[simp] theorem State.onCore_vfHeld (s : State) (n : Nat) (f : Core → Core) :
    (s.onCore n f).vfHeld = s.vfHeld := by simp only [State.onCore, State.setCore_vfHeld]
@[simp] theorem State.onCore_nonce (s : State) (n : Nat) (f : Core → Core) :
    (s.onCore n f).nonce = s.nonce := by simp only [State.onCore, State.setCore_nonce]
@[simp] theorem State.onCore_mctpEid (s : State) (n : Nat) (f : Core → Core) :
    (s.onCore n f).mctpEid = s.mctpEid := by simp only [State.onCore, State.setCore_mctpEid]
@[simp] theorem State.onCore_msixTab (s : State) (n : Nat) (f : Core → Core) :
    (s.onCore n f).msixTab = s.msixTab := by simp only [State.onCore, State.setCore_msixTab]
@[simp] theorem State.onCore_dumps (s : State) (n : Nat) (f : Core → Core) :
    (s.onCore n f).dumps = s.dumps := by simp only [State.onCore, State.setCore_dumps]
@[simp] theorem State.onCore_tagged (s : State) (n : Nat) (f : Core → Core) :
    (s.onCore n f).tagged = s.tagged := by simp only [State.onCore, State.setCore_tagged]
@[simp] theorem State.onCore_hubCycles (s : State) (n : Nat) (f : Core → Core) :
    (s.onCore n f).hubCycles = s.hubCycles := by simp only [State.onCore, State.setCore_hubCycles]
@[simp] theorem State.onCore_free (s : State) (n : Nat) (f : Core → Core) :
    (s.onCore n f).free = s.free := by simp only [State.onCore, State.setCore_free]
@[simp] theorem State.onCore_out (s : State) (n : Nat) (f : Core → Core) :
    (s.onCore n f).out = s.out := by simp only [State.onCore, State.setCore_out]
@[simp] theorem State.onCore_pending (s : State) (n : Nat) (f : Core → Core) :
    (s.onCore n f).pending = s.pending := by simp only [State.onCore, State.setCore_pending]

/-! ### setPart -/

@[simp] theorem State.setPart_grade (s : State) (p : Nat) (x : Part) : (s.setPart p x).grade = s.grade := rfl
@[simp] theorem State.setPart_regs (s : State) (p : Nat) (x : Part) : (s.setPart p x).regs = s.regs := rfl
@[simp] theorem State.setPart_latches (s : State) (p : Nat) (x : Part) : (s.setPart p x).latches = s.latches := rfl
@[simp] theorem State.setPart_cores (s : State) (p : Nat) (x : Part) : (s.setPart p x).cores = s.cores := rfl
@[simp] theorem State.setPart_mem (s : State) (p : Nat) (x : Part) : (s.setPart p x).mem = s.mem := rfl
@[simp] theorem State.setPart_addIssued (s : State) (p : Nat) (x : Part) : (s.setPart p x).addIssued = s.addIssued := rfl
@[simp] theorem State.setPart_reqTurn (s : State) (p : Nat) (x : Part) : (s.setPart p x).reqTurn = s.reqTurn := rfl
@[simp] theorem State.setPart_addApplied (s : State) (p : Nat) (x : Part) : (s.setPart p x).addApplied = s.addApplied := rfl
@[simp] theorem State.setPart_fabric (s : State) (p : Nat) (x : Part) : (s.setPart p x).fabric = s.fabric := rfl
@[simp] theorem State.setPart_rel (s : State) (p : Nat) (x : Part) : (s.setPart p x).rel = s.rel := rfl
@[simp] theorem State.setPart_flash (s : State) (p : Nat) (x : Part) : (s.setPart p x).flash = s.flash := rfl
@[simp] theorem State.setPart_fuses (s : State) (p : Nat) (x : Part) : (s.setPart p x).fuses = s.fuses := rfl
@[simp] theorem State.setPart_power (s : State) (p : Nat) (x : Part) : (s.setPart p x).power = s.power := rfl
@[simp] theorem State.setPart_start (s : State) (p : Nat) (x : Part) : (s.setPart p x).start = s.start := rfl
@[simp] theorem State.setPart_pins (s : State) (p : Nat) (x : Part) : (s.setPart p x).pins = s.pins := rfl
@[simp] theorem State.setPart_clockHalt (s : State) (p : Nat) (x : Part) : (s.setPart p x).clockHalt = s.clockHalt := rfl
@[simp] theorem State.setPart_votes (s : State) (p : Nat) (x : Part) : (s.setPart p x).votes = s.votes := rfl
@[simp] theorem State.setPart_vfHeld (s : State) (p : Nat) (x : Part) : (s.setPart p x).vfHeld = s.vfHeld := rfl
@[simp] theorem State.setPart_nonce (s : State) (p : Nat) (x : Part) : (s.setPart p x).nonce = s.nonce := rfl
@[simp] theorem State.setPart_mctpEid (s : State) (p : Nat) (x : Part) : (s.setPart p x).mctpEid = s.mctpEid := rfl
@[simp] theorem State.setPart_msixTab (s : State) (p : Nat) (x : Part) : (s.setPart p x).msixTab = s.msixTab := rfl
@[simp] theorem State.setPart_dumps (s : State) (p : Nat) (x : Part) : (s.setPart p x).dumps = s.dumps := rfl
@[simp] theorem State.setPart_tagged (s : State) (p : Nat) (x : Part) : (s.setPart p x).tagged = s.tagged := rfl
@[simp] theorem State.setPart_hubCycles (s : State) (p : Nat) (x : Part) : (s.setPart p x).hubCycles = s.hubCycles := rfl
@[simp] theorem State.setPart_free (s : State) (p : Nat) (x : Part) : (s.setPart p x).free = s.free := rfl
@[simp] theorem State.setPart_out (s : State) (p : Nat) (x : Part) : (s.setPart p x).out = s.out := rfl
@[simp] theorem State.setPart_pending (s : State) (p : Nat) (x : Part) : (s.setPart p x).pending = s.pending := rfl

/-! ### onPart -/

@[simp] theorem State.onPart_grade (s : State) (p : Nat) (f : Part → Part) :
    (s.onPart p f).grade = s.grade := by simp only [State.onPart, State.setPart_grade]
@[simp] theorem State.onPart_regs (s : State) (p : Nat) (f : Part → Part) :
    (s.onPart p f).regs = s.regs := by simp only [State.onPart, State.setPart_regs]
@[simp] theorem State.onPart_latches (s : State) (p : Nat) (f : Part → Part) :
    (s.onPart p f).latches = s.latches := by simp only [State.onPart, State.setPart_latches]
@[simp] theorem State.onPart_cores (s : State) (p : Nat) (f : Part → Part) :
    (s.onPart p f).cores = s.cores := by simp only [State.onPart, State.setPart_cores]
@[simp] theorem State.onPart_mem (s : State) (p : Nat) (f : Part → Part) :
    (s.onPart p f).mem = s.mem := by simp only [State.onPart, State.setPart_mem]
@[simp] theorem State.onPart_addIssued (s : State) (p : Nat) (f : Part → Part) :
    (s.onPart p f).addIssued = s.addIssued := by simp only [State.onPart, State.setPart_addIssued]
@[simp] theorem State.onPart_reqTurn (s : State) (p : Nat) (f : Part → Part) :
    (s.onPart p f).reqTurn = s.reqTurn := by simp only [State.onPart, State.setPart_reqTurn]
@[simp] theorem State.onPart_addApplied (s : State) (p : Nat) (f : Part → Part) :
    (s.onPart p f).addApplied = s.addApplied := by simp only [State.onPart, State.setPart_addApplied]
@[simp] theorem State.onPart_fabric (s : State) (p : Nat) (f : Part → Part) :
    (s.onPart p f).fabric = s.fabric := by simp only [State.onPart, State.setPart_fabric]
@[simp] theorem State.onPart_rel (s : State) (p : Nat) (f : Part → Part) :
    (s.onPart p f).rel = s.rel := by simp only [State.onPart, State.setPart_rel]
@[simp] theorem State.onPart_flash (s : State) (p : Nat) (f : Part → Part) :
    (s.onPart p f).flash = s.flash := by simp only [State.onPart, State.setPart_flash]
@[simp] theorem State.onPart_fuses (s : State) (p : Nat) (f : Part → Part) :
    (s.onPart p f).fuses = s.fuses := by simp only [State.onPart, State.setPart_fuses]
@[simp] theorem State.onPart_power (s : State) (p : Nat) (f : Part → Part) :
    (s.onPart p f).power = s.power := by simp only [State.onPart, State.setPart_power]
@[simp] theorem State.onPart_start (s : State) (p : Nat) (f : Part → Part) :
    (s.onPart p f).start = s.start := by simp only [State.onPart, State.setPart_start]
@[simp] theorem State.onPart_pins (s : State) (p : Nat) (f : Part → Part) :
    (s.onPart p f).pins = s.pins := by simp only [State.onPart, State.setPart_pins]
@[simp] theorem State.onPart_clockHalt (s : State) (p : Nat) (f : Part → Part) :
    (s.onPart p f).clockHalt = s.clockHalt := by simp only [State.onPart, State.setPart_clockHalt]
@[simp] theorem State.onPart_votes (s : State) (p : Nat) (f : Part → Part) :
    (s.onPart p f).votes = s.votes := by simp only [State.onPart, State.setPart_votes]
@[simp] theorem State.onPart_vfHeld (s : State) (p : Nat) (f : Part → Part) :
    (s.onPart p f).vfHeld = s.vfHeld := by simp only [State.onPart, State.setPart_vfHeld]
@[simp] theorem State.onPart_nonce (s : State) (p : Nat) (f : Part → Part) :
    (s.onPart p f).nonce = s.nonce := by simp only [State.onPart, State.setPart_nonce]
@[simp] theorem State.onPart_mctpEid (s : State) (p : Nat) (f : Part → Part) :
    (s.onPart p f).mctpEid = s.mctpEid := by simp only [State.onPart, State.setPart_mctpEid]
@[simp] theorem State.onPart_msixTab (s : State) (p : Nat) (f : Part → Part) :
    (s.onPart p f).msixTab = s.msixTab := by simp only [State.onPart, State.setPart_msixTab]
@[simp] theorem State.onPart_dumps (s : State) (p : Nat) (f : Part → Part) :
    (s.onPart p f).dumps = s.dumps := by simp only [State.onPart, State.setPart_dumps]
@[simp] theorem State.onPart_tagged (s : State) (p : Nat) (f : Part → Part) :
    (s.onPart p f).tagged = s.tagged := by simp only [State.onPart, State.setPart_tagged]
@[simp] theorem State.onPart_hubCycles (s : State) (p : Nat) (f : Part → Part) :
    (s.onPart p f).hubCycles = s.hubCycles := by simp only [State.onPart, State.setPart_hubCycles]
@[simp] theorem State.onPart_free (s : State) (p : Nat) (f : Part → Part) :
    (s.onPart p f).free = s.free := by simp only [State.onPart, State.setPart_free]
@[simp] theorem State.onPart_out (s : State) (p : Nat) (f : Part → Part) :
    (s.onPart p f).out = s.out := by simp only [State.onPart, State.setPart_out]
@[simp] theorem State.onPart_pending (s : State) (p : Nat) (f : Part → Part) :
    (s.onPart p f).pending = s.pending := by simp only [State.onPart, State.setPart_pending]

/-! ### onFabric -/

@[simp] theorem State.onFabric_grade (s : State) (f : Fabric → Fabric) : (s.onFabric f).grade = s.grade := rfl
@[simp] theorem State.onFabric_regs (s : State) (f : Fabric → Fabric) : (s.onFabric f).regs = s.regs := rfl
@[simp] theorem State.onFabric_latches (s : State) (f : Fabric → Fabric) : (s.onFabric f).latches = s.latches := rfl
@[simp] theorem State.onFabric_cores (s : State) (f : Fabric → Fabric) : (s.onFabric f).cores = s.cores := rfl
@[simp] theorem State.onFabric_mem (s : State) (f : Fabric → Fabric) : (s.onFabric f).mem = s.mem := rfl
@[simp] theorem State.onFabric_parts (s : State) (f : Fabric → Fabric) : (s.onFabric f).parts = s.parts := rfl
@[simp] theorem State.onFabric_addIssued (s : State) (f : Fabric → Fabric) : (s.onFabric f).addIssued = s.addIssued := rfl
@[simp] theorem State.onFabric_reqTurn (s : State) (f : Fabric → Fabric) : (s.onFabric f).reqTurn = s.reqTurn := rfl
@[simp] theorem State.onFabric_addApplied (s : State) (f : Fabric → Fabric) : (s.onFabric f).addApplied = s.addApplied := rfl
@[simp] theorem State.onFabric_rel (s : State) (f : Fabric → Fabric) : (s.onFabric f).rel = s.rel := rfl
@[simp] theorem State.onFabric_flash (s : State) (f : Fabric → Fabric) : (s.onFabric f).flash = s.flash := rfl
@[simp] theorem State.onFabric_fuses (s : State) (f : Fabric → Fabric) : (s.onFabric f).fuses = s.fuses := rfl
@[simp] theorem State.onFabric_power (s : State) (f : Fabric → Fabric) : (s.onFabric f).power = s.power := rfl
@[simp] theorem State.onFabric_start (s : State) (f : Fabric → Fabric) : (s.onFabric f).start = s.start := rfl
@[simp] theorem State.onFabric_pins (s : State) (f : Fabric → Fabric) : (s.onFabric f).pins = s.pins := rfl
@[simp] theorem State.onFabric_clockHalt (s : State) (f : Fabric → Fabric) : (s.onFabric f).clockHalt = s.clockHalt := rfl
@[simp] theorem State.onFabric_votes (s : State) (f : Fabric → Fabric) : (s.onFabric f).votes = s.votes := rfl
@[simp] theorem State.onFabric_vfHeld (s : State) (f : Fabric → Fabric) : (s.onFabric f).vfHeld = s.vfHeld := rfl
@[simp] theorem State.onFabric_nonce (s : State) (f : Fabric → Fabric) : (s.onFabric f).nonce = s.nonce := rfl
@[simp] theorem State.onFabric_mctpEid (s : State) (f : Fabric → Fabric) : (s.onFabric f).mctpEid = s.mctpEid := rfl
@[simp] theorem State.onFabric_msixTab (s : State) (f : Fabric → Fabric) : (s.onFabric f).msixTab = s.msixTab := rfl
@[simp] theorem State.onFabric_dumps (s : State) (f : Fabric → Fabric) : (s.onFabric f).dumps = s.dumps := rfl
@[simp] theorem State.onFabric_tagged (s : State) (f : Fabric → Fabric) : (s.onFabric f).tagged = s.tagged := rfl
@[simp] theorem State.onFabric_hubCycles (s : State) (f : Fabric → Fabric) : (s.onFabric f).hubCycles = s.hubCycles := rfl
@[simp] theorem State.onFabric_free (s : State) (f : Fabric → Fabric) : (s.onFabric f).free = s.free := rfl
@[simp] theorem State.onFabric_out (s : State) (f : Fabric → Fabric) : (s.onFabric f).out = s.out := rfl
@[simp] theorem State.onFabric_pending (s : State) (f : Fabric → Fabric) : (s.onFabric f).pending = s.pending := rfl

/-! ### onLink -/

@[simp] theorem State.onLink_grade (s : State) (l : Nat) (f : Link → Link) :
    (s.onLink l f).grade = s.grade := by simp only [State.onLink, State.onFabric_grade]
@[simp] theorem State.onLink_regs (s : State) (l : Nat) (f : Link → Link) :
    (s.onLink l f).regs = s.regs := by simp only [State.onLink, State.onFabric_regs]
@[simp] theorem State.onLink_latches (s : State) (l : Nat) (f : Link → Link) :
    (s.onLink l f).latches = s.latches := by simp only [State.onLink, State.onFabric_latches]
@[simp] theorem State.onLink_cores (s : State) (l : Nat) (f : Link → Link) :
    (s.onLink l f).cores = s.cores := by simp only [State.onLink, State.onFabric_cores]
@[simp] theorem State.onLink_mem (s : State) (l : Nat) (f : Link → Link) :
    (s.onLink l f).mem = s.mem := by simp only [State.onLink, State.onFabric_mem]
@[simp] theorem State.onLink_parts (s : State) (l : Nat) (f : Link → Link) :
    (s.onLink l f).parts = s.parts := by simp only [State.onLink, State.onFabric_parts]
@[simp] theorem State.onLink_addIssued (s : State) (l : Nat) (f : Link → Link) :
    (s.onLink l f).addIssued = s.addIssued := by simp only [State.onLink, State.onFabric_addIssued]
@[simp] theorem State.onLink_reqTurn (s : State) (l : Nat) (f : Link → Link) :
    (s.onLink l f).reqTurn = s.reqTurn := by simp only [State.onLink, State.onFabric_reqTurn]
@[simp] theorem State.onLink_addApplied (s : State) (l : Nat) (f : Link → Link) :
    (s.onLink l f).addApplied = s.addApplied := by simp only [State.onLink, State.onFabric_addApplied]
@[simp] theorem State.onLink_rel (s : State) (l : Nat) (f : Link → Link) :
    (s.onLink l f).rel = s.rel := by simp only [State.onLink, State.onFabric_rel]
@[simp] theorem State.onLink_flash (s : State) (l : Nat) (f : Link → Link) :
    (s.onLink l f).flash = s.flash := by simp only [State.onLink, State.onFabric_flash]
@[simp] theorem State.onLink_fuses (s : State) (l : Nat) (f : Link → Link) :
    (s.onLink l f).fuses = s.fuses := by simp only [State.onLink, State.onFabric_fuses]
@[simp] theorem State.onLink_power (s : State) (l : Nat) (f : Link → Link) :
    (s.onLink l f).power = s.power := by simp only [State.onLink, State.onFabric_power]
@[simp] theorem State.onLink_start (s : State) (l : Nat) (f : Link → Link) :
    (s.onLink l f).start = s.start := by simp only [State.onLink, State.onFabric_start]
@[simp] theorem State.onLink_pins (s : State) (l : Nat) (f : Link → Link) :
    (s.onLink l f).pins = s.pins := by simp only [State.onLink, State.onFabric_pins]
@[simp] theorem State.onLink_clockHalt (s : State) (l : Nat) (f : Link → Link) :
    (s.onLink l f).clockHalt = s.clockHalt := by simp only [State.onLink, State.onFabric_clockHalt]
@[simp] theorem State.onLink_votes (s : State) (l : Nat) (f : Link → Link) :
    (s.onLink l f).votes = s.votes := by simp only [State.onLink, State.onFabric_votes]
@[simp] theorem State.onLink_vfHeld (s : State) (l : Nat) (f : Link → Link) :
    (s.onLink l f).vfHeld = s.vfHeld := by simp only [State.onLink, State.onFabric_vfHeld]
@[simp] theorem State.onLink_nonce (s : State) (l : Nat) (f : Link → Link) :
    (s.onLink l f).nonce = s.nonce := by simp only [State.onLink, State.onFabric_nonce]
@[simp] theorem State.onLink_mctpEid (s : State) (l : Nat) (f : Link → Link) :
    (s.onLink l f).mctpEid = s.mctpEid := by simp only [State.onLink, State.onFabric_mctpEid]
@[simp] theorem State.onLink_msixTab (s : State) (l : Nat) (f : Link → Link) :
    (s.onLink l f).msixTab = s.msixTab := by simp only [State.onLink, State.onFabric_msixTab]
@[simp] theorem State.onLink_dumps (s : State) (l : Nat) (f : Link → Link) :
    (s.onLink l f).dumps = s.dumps := by simp only [State.onLink, State.onFabric_dumps]
@[simp] theorem State.onLink_tagged (s : State) (l : Nat) (f : Link → Link) :
    (s.onLink l f).tagged = s.tagged := by simp only [State.onLink, State.onFabric_tagged]
@[simp] theorem State.onLink_hubCycles (s : State) (l : Nat) (f : Link → Link) :
    (s.onLink l f).hubCycles = s.hubCycles := by simp only [State.onLink, State.onFabric_hubCycles]
@[simp] theorem State.onLink_free (s : State) (l : Nat) (f : Link → Link) :
    (s.onLink l f).free = s.free := by simp only [State.onLink, State.onFabric_free]
@[simp] theorem State.onLink_out (s : State) (l : Nat) (f : Link → Link) :
    (s.onLink l f).out = s.out := by simp only [State.onLink, State.onFabric_out]
@[simp] theorem State.onLink_pending (s : State) (l : Nat) (f : Link → Link) :
    (s.onLink l f).pending = s.pending := by simp only [State.onLink, State.onFabric_pending]

/-! ### onGroup -/

@[simp] theorem State.onGroup_grade (s : State) (g : Nat) (f : Group → Group) :
    (s.onGroup g f).grade = s.grade := by simp only [State.onGroup, State.onFabric_grade]
@[simp] theorem State.onGroup_regs (s : State) (g : Nat) (f : Group → Group) :
    (s.onGroup g f).regs = s.regs := by simp only [State.onGroup, State.onFabric_regs]
@[simp] theorem State.onGroup_latches (s : State) (g : Nat) (f : Group → Group) :
    (s.onGroup g f).latches = s.latches := by simp only [State.onGroup, State.onFabric_latches]
@[simp] theorem State.onGroup_cores (s : State) (g : Nat) (f : Group → Group) :
    (s.onGroup g f).cores = s.cores := by simp only [State.onGroup, State.onFabric_cores]
@[simp] theorem State.onGroup_mem (s : State) (g : Nat) (f : Group → Group) :
    (s.onGroup g f).mem = s.mem := by simp only [State.onGroup, State.onFabric_mem]
@[simp] theorem State.onGroup_parts (s : State) (g : Nat) (f : Group → Group) :
    (s.onGroup g f).parts = s.parts := by simp only [State.onGroup, State.onFabric_parts]
@[simp] theorem State.onGroup_addIssued (s : State) (g : Nat) (f : Group → Group) :
    (s.onGroup g f).addIssued = s.addIssued := by simp only [State.onGroup, State.onFabric_addIssued]
@[simp] theorem State.onGroup_reqTurn (s : State) (g : Nat) (f : Group → Group) :
    (s.onGroup g f).reqTurn = s.reqTurn := by simp only [State.onGroup, State.onFabric_reqTurn]
@[simp] theorem State.onGroup_addApplied (s : State) (g : Nat) (f : Group → Group) :
    (s.onGroup g f).addApplied = s.addApplied := by simp only [State.onGroup, State.onFabric_addApplied]
@[simp] theorem State.onGroup_rel (s : State) (g : Nat) (f : Group → Group) :
    (s.onGroup g f).rel = s.rel := by simp only [State.onGroup, State.onFabric_rel]
@[simp] theorem State.onGroup_flash (s : State) (g : Nat) (f : Group → Group) :
    (s.onGroup g f).flash = s.flash := by simp only [State.onGroup, State.onFabric_flash]
@[simp] theorem State.onGroup_fuses (s : State) (g : Nat) (f : Group → Group) :
    (s.onGroup g f).fuses = s.fuses := by simp only [State.onGroup, State.onFabric_fuses]
@[simp] theorem State.onGroup_power (s : State) (g : Nat) (f : Group → Group) :
    (s.onGroup g f).power = s.power := by simp only [State.onGroup, State.onFabric_power]
@[simp] theorem State.onGroup_start (s : State) (g : Nat) (f : Group → Group) :
    (s.onGroup g f).start = s.start := by simp only [State.onGroup, State.onFabric_start]
@[simp] theorem State.onGroup_pins (s : State) (g : Nat) (f : Group → Group) :
    (s.onGroup g f).pins = s.pins := by simp only [State.onGroup, State.onFabric_pins]
@[simp] theorem State.onGroup_clockHalt (s : State) (g : Nat) (f : Group → Group) :
    (s.onGroup g f).clockHalt = s.clockHalt := by simp only [State.onGroup, State.onFabric_clockHalt]
@[simp] theorem State.onGroup_votes (s : State) (g : Nat) (f : Group → Group) :
    (s.onGroup g f).votes = s.votes := by simp only [State.onGroup, State.onFabric_votes]
@[simp] theorem State.onGroup_vfHeld (s : State) (g : Nat) (f : Group → Group) :
    (s.onGroup g f).vfHeld = s.vfHeld := by simp only [State.onGroup, State.onFabric_vfHeld]
@[simp] theorem State.onGroup_nonce (s : State) (g : Nat) (f : Group → Group) :
    (s.onGroup g f).nonce = s.nonce := by simp only [State.onGroup, State.onFabric_nonce]
@[simp] theorem State.onGroup_mctpEid (s : State) (g : Nat) (f : Group → Group) :
    (s.onGroup g f).mctpEid = s.mctpEid := by simp only [State.onGroup, State.onFabric_mctpEid]
@[simp] theorem State.onGroup_msixTab (s : State) (g : Nat) (f : Group → Group) :
    (s.onGroup g f).msixTab = s.msixTab := by simp only [State.onGroup, State.onFabric_msixTab]
@[simp] theorem State.onGroup_dumps (s : State) (g : Nat) (f : Group → Group) :
    (s.onGroup g f).dumps = s.dumps := by simp only [State.onGroup, State.onFabric_dumps]
@[simp] theorem State.onGroup_tagged (s : State) (g : Nat) (f : Group → Group) :
    (s.onGroup g f).tagged = s.tagged := by simp only [State.onGroup, State.onFabric_tagged]
@[simp] theorem State.onGroup_hubCycles (s : State) (g : Nat) (f : Group → Group) :
    (s.onGroup g f).hubCycles = s.hubCycles := by simp only [State.onGroup, State.onFabric_hubCycles]
@[simp] theorem State.onGroup_free (s : State) (g : Nat) (f : Group → Group) :
    (s.onGroup g f).free = s.free := by simp only [State.onGroup, State.onFabric_free]
@[simp] theorem State.onGroup_out (s : State) (g : Nat) (f : Group → Group) :
    (s.onGroup g f).out = s.out := by simp only [State.onGroup, State.onFabric_out]
@[simp] theorem State.onGroup_pending (s : State) (g : Nat) (f : Group → Group) :
    (s.onGroup g f).pending = s.pending := by simp only [State.onGroup, State.onFabric_pending]

/-! ### onRel -/

@[simp] theorem State.onRel_grade (s : State) (f : Reliab → Reliab) : (s.onRel f).grade = s.grade := rfl
@[simp] theorem State.onRel_regs (s : State) (f : Reliab → Reliab) : (s.onRel f).regs = s.regs := rfl
@[simp] theorem State.onRel_latches (s : State) (f : Reliab → Reliab) : (s.onRel f).latches = s.latches := rfl
@[simp] theorem State.onRel_cores (s : State) (f : Reliab → Reliab) : (s.onRel f).cores = s.cores := rfl
@[simp] theorem State.onRel_mem (s : State) (f : Reliab → Reliab) : (s.onRel f).mem = s.mem := rfl
@[simp] theorem State.onRel_parts (s : State) (f : Reliab → Reliab) : (s.onRel f).parts = s.parts := rfl
@[simp] theorem State.onRel_addIssued (s : State) (f : Reliab → Reliab) : (s.onRel f).addIssued = s.addIssued := rfl
@[simp] theorem State.onRel_reqTurn (s : State) (f : Reliab → Reliab) : (s.onRel f).reqTurn = s.reqTurn := rfl
@[simp] theorem State.onRel_addApplied (s : State) (f : Reliab → Reliab) : (s.onRel f).addApplied = s.addApplied := rfl
@[simp] theorem State.onRel_fabric (s : State) (f : Reliab → Reliab) : (s.onRel f).fabric = s.fabric := rfl
@[simp] theorem State.onRel_flash (s : State) (f : Reliab → Reliab) : (s.onRel f).flash = s.flash := rfl
@[simp] theorem State.onRel_fuses (s : State) (f : Reliab → Reliab) : (s.onRel f).fuses = s.fuses := rfl
@[simp] theorem State.onRel_power (s : State) (f : Reliab → Reliab) : (s.onRel f).power = s.power := rfl
@[simp] theorem State.onRel_start (s : State) (f : Reliab → Reliab) : (s.onRel f).start = s.start := rfl
@[simp] theorem State.onRel_pins (s : State) (f : Reliab → Reliab) : (s.onRel f).pins = s.pins := rfl
@[simp] theorem State.onRel_clockHalt (s : State) (f : Reliab → Reliab) : (s.onRel f).clockHalt = s.clockHalt := rfl
@[simp] theorem State.onRel_votes (s : State) (f : Reliab → Reliab) : (s.onRel f).votes = s.votes := rfl
@[simp] theorem State.onRel_vfHeld (s : State) (f : Reliab → Reliab) : (s.onRel f).vfHeld = s.vfHeld := rfl
@[simp] theorem State.onRel_nonce (s : State) (f : Reliab → Reliab) : (s.onRel f).nonce = s.nonce := rfl
@[simp] theorem State.onRel_mctpEid (s : State) (f : Reliab → Reliab) : (s.onRel f).mctpEid = s.mctpEid := rfl
@[simp] theorem State.onRel_msixTab (s : State) (f : Reliab → Reliab) : (s.onRel f).msixTab = s.msixTab := rfl
@[simp] theorem State.onRel_dumps (s : State) (f : Reliab → Reliab) : (s.onRel f).dumps = s.dumps := rfl
@[simp] theorem State.onRel_tagged (s : State) (f : Reliab → Reliab) : (s.onRel f).tagged = s.tagged := rfl
@[simp] theorem State.onRel_hubCycles (s : State) (f : Reliab → Reliab) : (s.onRel f).hubCycles = s.hubCycles := rfl
@[simp] theorem State.onRel_free (s : State) (f : Reliab → Reliab) : (s.onRel f).free = s.free := rfl
@[simp] theorem State.onRel_out (s : State) (f : Reliab → Reliab) : (s.onRel f).out = s.out := rfl
@[simp] theorem State.onRel_pending (s : State) (f : Reliab → Reliab) : (s.onRel f).pending = s.pending := rfl

/-! ### onPower -/

@[simp] theorem State.onPower_grade (s : State) (f : Power → Power) : (s.onPower f).grade = s.grade := rfl
@[simp] theorem State.onPower_regs (s : State) (f : Power → Power) : (s.onPower f).regs = s.regs := rfl
@[simp] theorem State.onPower_latches (s : State) (f : Power → Power) : (s.onPower f).latches = s.latches := rfl
@[simp] theorem State.onPower_cores (s : State) (f : Power → Power) : (s.onPower f).cores = s.cores := rfl
@[simp] theorem State.onPower_mem (s : State) (f : Power → Power) : (s.onPower f).mem = s.mem := rfl
@[simp] theorem State.onPower_parts (s : State) (f : Power → Power) : (s.onPower f).parts = s.parts := rfl
@[simp] theorem State.onPower_addIssued (s : State) (f : Power → Power) : (s.onPower f).addIssued = s.addIssued := rfl
@[simp] theorem State.onPower_reqTurn (s : State) (f : Power → Power) : (s.onPower f).reqTurn = s.reqTurn := rfl
@[simp] theorem State.onPower_addApplied (s : State) (f : Power → Power) : (s.onPower f).addApplied = s.addApplied := rfl
@[simp] theorem State.onPower_fabric (s : State) (f : Power → Power) : (s.onPower f).fabric = s.fabric := rfl
@[simp] theorem State.onPower_rel (s : State) (f : Power → Power) : (s.onPower f).rel = s.rel := rfl
@[simp] theorem State.onPower_flash (s : State) (f : Power → Power) : (s.onPower f).flash = s.flash := rfl
@[simp] theorem State.onPower_fuses (s : State) (f : Power → Power) : (s.onPower f).fuses = s.fuses := rfl
@[simp] theorem State.onPower_start (s : State) (f : Power → Power) : (s.onPower f).start = s.start := rfl
@[simp] theorem State.onPower_pins (s : State) (f : Power → Power) : (s.onPower f).pins = s.pins := rfl
@[simp] theorem State.onPower_clockHalt (s : State) (f : Power → Power) : (s.onPower f).clockHalt = s.clockHalt := rfl
@[simp] theorem State.onPower_votes (s : State) (f : Power → Power) : (s.onPower f).votes = s.votes := rfl
@[simp] theorem State.onPower_vfHeld (s : State) (f : Power → Power) : (s.onPower f).vfHeld = s.vfHeld := rfl
@[simp] theorem State.onPower_nonce (s : State) (f : Power → Power) : (s.onPower f).nonce = s.nonce := rfl
@[simp] theorem State.onPower_mctpEid (s : State) (f : Power → Power) : (s.onPower f).mctpEid = s.mctpEid := rfl
@[simp] theorem State.onPower_msixTab (s : State) (f : Power → Power) : (s.onPower f).msixTab = s.msixTab := rfl
@[simp] theorem State.onPower_dumps (s : State) (f : Power → Power) : (s.onPower f).dumps = s.dumps := rfl
@[simp] theorem State.onPower_tagged (s : State) (f : Power → Power) : (s.onPower f).tagged = s.tagged := rfl
@[simp] theorem State.onPower_hubCycles (s : State) (f : Power → Power) : (s.onPower f).hubCycles = s.hubCycles := rfl
@[simp] theorem State.onPower_free (s : State) (f : Power → Power) : (s.onPower f).free = s.free := rfl
@[simp] theorem State.onPower_out (s : State) (f : Power → Power) : (s.onPower f).out = s.out := rfl
@[simp] theorem State.onPower_pending (s : State) (f : Power → Power) : (s.onPower f).pending = s.pending := rfl

/-! ### emit -/

@[simp] theorem State.emit_grade (s : State) (o : Out) : (s.emit o).grade = s.grade := rfl
@[simp] theorem State.emit_regs (s : State) (o : Out) : (s.emit o).regs = s.regs := rfl
@[simp] theorem State.emit_latches (s : State) (o : Out) : (s.emit o).latches = s.latches := rfl
@[simp] theorem State.emit_cores (s : State) (o : Out) : (s.emit o).cores = s.cores := rfl
@[simp] theorem State.emit_mem (s : State) (o : Out) : (s.emit o).mem = s.mem := rfl
@[simp] theorem State.emit_parts (s : State) (o : Out) : (s.emit o).parts = s.parts := rfl
@[simp] theorem State.emit_addIssued (s : State) (o : Out) : (s.emit o).addIssued = s.addIssued := rfl
@[simp] theorem State.emit_reqTurn (s : State) (o : Out) : (s.emit o).reqTurn = s.reqTurn := rfl
@[simp] theorem State.emit_addApplied (s : State) (o : Out) : (s.emit o).addApplied = s.addApplied := rfl
@[simp] theorem State.emit_fabric (s : State) (o : Out) : (s.emit o).fabric = s.fabric := rfl
@[simp] theorem State.emit_rel (s : State) (o : Out) : (s.emit o).rel = s.rel := rfl
@[simp] theorem State.emit_flash (s : State) (o : Out) : (s.emit o).flash = s.flash := rfl
@[simp] theorem State.emit_fuses (s : State) (o : Out) : (s.emit o).fuses = s.fuses := rfl
@[simp] theorem State.emit_power (s : State) (o : Out) : (s.emit o).power = s.power := rfl
@[simp] theorem State.emit_start (s : State) (o : Out) : (s.emit o).start = s.start := rfl
@[simp] theorem State.emit_pins (s : State) (o : Out) : (s.emit o).pins = s.pins := rfl
@[simp] theorem State.emit_clockHalt (s : State) (o : Out) : (s.emit o).clockHalt = s.clockHalt := rfl
@[simp] theorem State.emit_votes (s : State) (o : Out) : (s.emit o).votes = s.votes := rfl
@[simp] theorem State.emit_vfHeld (s : State) (o : Out) : (s.emit o).vfHeld = s.vfHeld := rfl
@[simp] theorem State.emit_nonce (s : State) (o : Out) : (s.emit o).nonce = s.nonce := rfl
@[simp] theorem State.emit_mctpEid (s : State) (o : Out) : (s.emit o).mctpEid = s.mctpEid := rfl
@[simp] theorem State.emit_msixTab (s : State) (o : Out) : (s.emit o).msixTab = s.msixTab := rfl
@[simp] theorem State.emit_dumps (s : State) (o : Out) : (s.emit o).dumps = s.dumps := rfl
@[simp] theorem State.emit_tagged (s : State) (o : Out) : (s.emit o).tagged = s.tagged := rfl
@[simp] theorem State.emit_hubCycles (s : State) (o : Out) : (s.emit o).hubCycles = s.hubCycles := rfl
@[simp] theorem State.emit_free (s : State) (o : Out) : (s.emit o).free = s.free := rfl
@[simp] theorem State.emit_pending (s : State) (o : Out) : (s.emit o).pending = s.pending := rfl

/-! ### takeFree -/

@[simp] theorem State.takeFree_grade (s : State) : (s.takeFree).grade = s.grade := rfl
@[simp] theorem State.takeFree_regs (s : State) : (s.takeFree).regs = s.regs := rfl
@[simp] theorem State.takeFree_latches (s : State) : (s.takeFree).latches = s.latches := rfl
@[simp] theorem State.takeFree_cores (s : State) : (s.takeFree).cores = s.cores := rfl
@[simp] theorem State.takeFree_mem (s : State) : (s.takeFree).mem = s.mem := rfl
@[simp] theorem State.takeFree_parts (s : State) : (s.takeFree).parts = s.parts := rfl
@[simp] theorem State.takeFree_addIssued (s : State) : (s.takeFree).addIssued = s.addIssued := rfl
@[simp] theorem State.takeFree_reqTurn (s : State) : (s.takeFree).reqTurn = s.reqTurn := rfl
@[simp] theorem State.takeFree_addApplied (s : State) : (s.takeFree).addApplied = s.addApplied := rfl
@[simp] theorem State.takeFree_fabric (s : State) : (s.takeFree).fabric = s.fabric := rfl
@[simp] theorem State.takeFree_rel (s : State) : (s.takeFree).rel = s.rel := rfl
@[simp] theorem State.takeFree_flash (s : State) : (s.takeFree).flash = s.flash := rfl
@[simp] theorem State.takeFree_fuses (s : State) : (s.takeFree).fuses = s.fuses := rfl
@[simp] theorem State.takeFree_power (s : State) : (s.takeFree).power = s.power := rfl
@[simp] theorem State.takeFree_start (s : State) : (s.takeFree).start = s.start := rfl
@[simp] theorem State.takeFree_pins (s : State) : (s.takeFree).pins = s.pins := rfl
@[simp] theorem State.takeFree_clockHalt (s : State) : (s.takeFree).clockHalt = s.clockHalt := rfl
@[simp] theorem State.takeFree_votes (s : State) : (s.takeFree).votes = s.votes := rfl
@[simp] theorem State.takeFree_vfHeld (s : State) : (s.takeFree).vfHeld = s.vfHeld := rfl
@[simp] theorem State.takeFree_nonce (s : State) : (s.takeFree).nonce = s.nonce := rfl
@[simp] theorem State.takeFree_mctpEid (s : State) : (s.takeFree).mctpEid = s.mctpEid := rfl
@[simp] theorem State.takeFree_msixTab (s : State) : (s.takeFree).msixTab = s.msixTab := rfl
@[simp] theorem State.takeFree_dumps (s : State) : (s.takeFree).dumps = s.dumps := rfl
@[simp] theorem State.takeFree_tagged (s : State) : (s.takeFree).tagged = s.tagged := rfl
@[simp] theorem State.takeFree_hubCycles (s : State) : (s.takeFree).hubCycles = s.hubCycles := rfl
@[simp] theorem State.takeFree_out (s : State) : (s.takeFree).out = s.out := rfl
@[simp] theorem State.takeFree_pending (s : State) : (s.takeFree).pending = s.pending := rfl

/-! ### msixWr -/

@[simp] theorem State.msixWr_grade (s : State) (fn : Master) (off : Nat) (v : Word) : (s.msixWr fn off v).grade = s.grade := rfl
@[simp] theorem State.msixWr_regs (s : State) (fn : Master) (off : Nat) (v : Word) : (s.msixWr fn off v).regs = s.regs := rfl
@[simp] theorem State.msixWr_latches (s : State) (fn : Master) (off : Nat) (v : Word) : (s.msixWr fn off v).latches = s.latches := rfl
@[simp] theorem State.msixWr_cores (s : State) (fn : Master) (off : Nat) (v : Word) : (s.msixWr fn off v).cores = s.cores := rfl
@[simp] theorem State.msixWr_mem (s : State) (fn : Master) (off : Nat) (v : Word) : (s.msixWr fn off v).mem = s.mem := rfl
@[simp] theorem State.msixWr_parts (s : State) (fn : Master) (off : Nat) (v : Word) : (s.msixWr fn off v).parts = s.parts := rfl
@[simp] theorem State.msixWr_addIssued (s : State) (fn : Master) (off : Nat) (v : Word) : (s.msixWr fn off v).addIssued = s.addIssued := rfl
@[simp] theorem State.msixWr_reqTurn (s : State) (fn : Master) (off : Nat) (v : Word) : (s.msixWr fn off v).reqTurn = s.reqTurn := rfl
@[simp] theorem State.msixWr_addApplied (s : State) (fn : Master) (off : Nat) (v : Word) :
    (s.msixWr fn off v).addApplied = s.addApplied := rfl
@[simp] theorem State.msixWr_fabric (s : State) (fn : Master) (off : Nat) (v : Word) : (s.msixWr fn off v).fabric = s.fabric := rfl
@[simp] theorem State.msixWr_rel (s : State) (fn : Master) (off : Nat) (v : Word) : (s.msixWr fn off v).rel = s.rel := rfl
@[simp] theorem State.msixWr_flash (s : State) (fn : Master) (off : Nat) (v : Word) : (s.msixWr fn off v).flash = s.flash := rfl
@[simp] theorem State.msixWr_fuses (s : State) (fn : Master) (off : Nat) (v : Word) : (s.msixWr fn off v).fuses = s.fuses := rfl
@[simp] theorem State.msixWr_power (s : State) (fn : Master) (off : Nat) (v : Word) : (s.msixWr fn off v).power = s.power := rfl
@[simp] theorem State.msixWr_start (s : State) (fn : Master) (off : Nat) (v : Word) : (s.msixWr fn off v).start = s.start := rfl
@[simp] theorem State.msixWr_pins (s : State) (fn : Master) (off : Nat) (v : Word) : (s.msixWr fn off v).pins = s.pins := rfl
@[simp] theorem State.msixWr_clockHalt (s : State) (fn : Master) (off : Nat) (v : Word) : (s.msixWr fn off v).clockHalt = s.clockHalt := rfl
@[simp] theorem State.msixWr_votes (s : State) (fn : Master) (off : Nat) (v : Word) : (s.msixWr fn off v).votes = s.votes := rfl
@[simp] theorem State.msixWr_vfHeld (s : State) (fn : Master) (off : Nat) (v : Word) : (s.msixWr fn off v).vfHeld = s.vfHeld := rfl
@[simp] theorem State.msixWr_nonce (s : State) (fn : Master) (off : Nat) (v : Word) : (s.msixWr fn off v).nonce = s.nonce := rfl
@[simp] theorem State.msixWr_mctpEid (s : State) (fn : Master) (off : Nat) (v : Word) : (s.msixWr fn off v).mctpEid = s.mctpEid := rfl
@[simp] theorem State.msixWr_dumps (s : State) (fn : Master) (off : Nat) (v : Word) : (s.msixWr fn off v).dumps = s.dumps := rfl
@[simp] theorem State.msixWr_tagged (s : State) (fn : Master) (off : Nat) (v : Word) : (s.msixWr fn off v).tagged = s.tagged := rfl
@[simp] theorem State.msixWr_hubCycles (s : State) (fn : Master) (off : Nat) (v : Word) : (s.msixWr fn off v).hubCycles = s.hubCycles := rfl
@[simp] theorem State.msixWr_free (s : State) (fn : Master) (off : Nat) (v : Word) : (s.msixWr fn off v).free = s.free := rfl
@[simp] theorem State.msixWr_out (s : State) (fn : Master) (off : Nat) (v : Word) : (s.msixWr fn off v).out = s.out := rfl
@[simp] theorem State.msixWr_pending (s : State) (fn : Master) (off : Nat) (v : Word) : (s.msixWr fn off v).pending = s.pending := rfl

/-! ### Registers -/

@[simp] theorem State.rd_wr_same (s : State) (r : Reg) (b i j : Nat) (v : Word) : (s.wr r b i j v).rd r b i j = v := by
  simp [State.rd, State.wr]

theorem State.rd_wr_other (s : State) (r r' : Reg) (b i j b' i' j' : Nat) (v : Word) (h : r'.addr b' i' j' ≠ r.addr b i j) :
    (s.wr r b i j v).rd r' b' i' j' = s.rd r' b' i' j' := by
  simp [State.rd, State.wr, tabGet_set_other _ _ _ _ h]

/-- A register reads the same where the register table is the same. -/
theorem State.rd_congr {s t : State} (h : t.regs = s.regs) (r : Reg) (b i j : Nat) : t.rd r b i j = s.rd r b i j := by
  simp [State.rd, h]

/-! ### Cores, partitions, links and groups -/

@[simp] theorem State.core_setCore_same (s : State) (n : Nat) (c : Core) : (s.setCore n c).core n = c := by
  simp [State.core, State.setCore]

theorem State.core_setCore_other (s : State) {n m : Nat} (c : Core) (h : m ≠ n) : (s.setCore n c).core m = s.core m := by
  simp [State.core, State.setCore, tabGet_set_other _ _ _ _ h]

@[simp] theorem State.core_onCore_same (s : State) (n : Nat) (f : Core → Core) : (s.onCore n f).core n = f (s.core n) := by
  simp [State.onCore]

theorem State.core_onCore_other (s : State) {n m : Nat} (f : Core → Core) (h : m ≠ n) : (s.onCore n f).core m = s.core m :=
  s.core_setCore_other _ h

@[simp] theorem State.part_setPart_same (s : State) (p : Nat) (x : Part) : (s.setPart p x).part p = x := by
  simp [State.part, State.setPart]

theorem State.part_setPart_other (s : State) {p q : Nat} (x : Part) (h : q ≠ p) : (s.setPart p x).part q = s.part q := by
  simp [State.part, State.setPart, tabGet_set_other _ _ _ _ h]

@[simp] theorem State.part_onPart_same (s : State) (p : Nat) (f : Part → Part) : (s.onPart p f).part p = f (s.part p) := by
  simp [State.onPart]

theorem State.part_onPart_other (s : State) {p q : Nat} (f : Part → Part) (h : q ≠ p) : (s.onPart p f).part q = s.part q :=
  s.part_setPart_other _ h

@[simp] theorem State.link_onLink_same (s : State) (l : Nat) (f : Link → Link) : (s.onLink l f).link l = f (s.link l) := by
  simp [State.link, State.onLink, State.onFabric]

theorem State.link_onLink_other (s : State) {l m : Nat} (f : Link → Link) (h : m ≠ l) : (s.onLink l f).link m = s.link m := by
  simp [State.link, State.onLink, State.onFabric, tabGet_set_other _ _ _ _ h]

@[simp] theorem State.group_onGroup_same (s : State) (g : Nat) (f : Group → Group) : (s.onGroup g f).group g = f (s.group g) := by
  simp [State.group, State.onGroup, State.onFabric]

theorem State.group_onGroup_other (s : State) {g h : Nat} (f : Group → Group) (e : h ≠ g) :
    (s.onGroup g f).group h = s.group h := by
  simp [State.group, State.onGroup, State.onFabric, tabGet_set_other _ _ _ _ e]

@[simp] theorem State.core_wr (s : State) (r : Reg) (b i j : Nat) (v : Word) (m : Nat) :
    (s.wr r b i j v).core m = s.core m := by simp only [State.core, State.wr_cores]
@[simp] theorem State.part_wr (s : State) (r : Reg) (b i j : Nat) (v : Word) (m : Nat) :
    (s.wr r b i j v).part m = s.part m := by simp only [State.part, State.wr_parts]
@[simp] theorem State.holder_wr (s : State) (r : Reg) (b i j : Nat) (v : Word) (m : Nat) :
    (s.wr r b i j v).holder m = s.holder m := by simp only [State.holder, State.wr_parts]
@[simp] theorem State.link_wr (s : State) (r : Reg) (b i j : Nat) (v : Word) (m : Nat) :
    (s.wr r b i j v).link m = s.link m := by simp only [State.link, State.wr_fabric]
@[simp] theorem State.group_wr (s : State) (r : Reg) (b i j : Nat) (v : Word) (m : Nat) :
    (s.wr r b i j v).group m = s.group m := by simp only [State.group, State.wr_fabric]

@[simp] theorem State.core_setFld (s : State) (r : Reg) (b i j hi lo v : Nat) (m : Nat) :
    (s.setFld r b i j hi lo v).core m = s.core m := by simp only [State.core, State.setFld_cores]
@[simp] theorem State.part_setFld (s : State) (r : Reg) (b i j hi lo v : Nat) (m : Nat) :
    (s.setFld r b i j hi lo v).part m = s.part m := by simp only [State.part, State.setFld_parts]
@[simp] theorem State.holder_setFld (s : State) (r : Reg) (b i j hi lo v : Nat) (m : Nat) :
    (s.setFld r b i j hi lo v).holder m = s.holder m := by simp only [State.holder, State.setFld_parts]
@[simp] theorem State.link_setFld (s : State) (r : Reg) (b i j hi lo v : Nat) (m : Nat) :
    (s.setFld r b i j hi lo v).link m = s.link m := by simp only [State.link, State.setFld_fabric]
@[simp] theorem State.group_setFld (s : State) (r : Reg) (b i j hi lo v : Nat) (m : Nat) :
    (s.setFld r b i j hi lo v).group m = s.group m := by simp only [State.group, State.setFld_fabric]

@[simp] theorem State.core_orReg (s : State) (r : Reg) (b i j v : Nat) (m : Nat) :
    (s.orReg r b i j v).core m = s.core m := by simp only [State.core, State.orReg_cores]
@[simp] theorem State.part_orReg (s : State) (r : Reg) (b i j v : Nat) (m : Nat) :
    (s.orReg r b i j v).part m = s.part m := by simp only [State.part, State.orReg_parts]
@[simp] theorem State.holder_orReg (s : State) (r : Reg) (b i j v : Nat) (m : Nat) :
    (s.orReg r b i j v).holder m = s.holder m := by simp only [State.holder, State.orReg_parts]
@[simp] theorem State.link_orReg (s : State) (r : Reg) (b i j v : Nat) (m : Nat) :
    (s.orReg r b i j v).link m = s.link m := by simp only [State.link, State.orReg_fabric]
@[simp] theorem State.group_orReg (s : State) (r : Reg) (b i j v : Nat) (m : Nat) :
    (s.orReg r b i j v).group m = s.group m := by simp only [State.group, State.orReg_fabric]

@[simp] theorem State.core_countFld (s : State) (r : Reg) (b i j hi lo k : Nat) (m : Nat) :
    (s.countFld r b i j hi lo k).core m = s.core m := by simp only [State.core, State.countFld_cores]
@[simp] theorem State.part_countFld (s : State) (r : Reg) (b i j hi lo k : Nat) (m : Nat) :
    (s.countFld r b i j hi lo k).part m = s.part m := by simp only [State.part, State.countFld_parts]
@[simp] theorem State.holder_countFld (s : State) (r : Reg) (b i j hi lo k : Nat) (m : Nat) :
    (s.countFld r b i j hi lo k).holder m = s.holder m := by simp only [State.holder, State.countFld_parts]
@[simp] theorem State.link_countFld (s : State) (r : Reg) (b i j hi lo k : Nat) (m : Nat) :
    (s.countFld r b i j hi lo k).link m = s.link m := by simp only [State.link, State.countFld_fabric]
@[simp] theorem State.group_countFld (s : State) (r : Reg) (b i j hi lo k : Nat) (m : Nat) :
    (s.countFld r b i j hi lo k).group m = s.group m := by simp only [State.group, State.countFld_fabric]

@[simp] theorem State.core_wr64 (s : State) (lo hi : Reg) (b i j v : Nat) (m : Nat) :
    (s.wr64 lo hi b i j v).core m = s.core m := by simp only [State.core, State.wr64_cores]
@[simp] theorem State.part_wr64 (s : State) (lo hi : Reg) (b i j v : Nat) (m : Nat) :
    (s.wr64 lo hi b i j v).part m = s.part m := by simp only [State.part, State.wr64_parts]
@[simp] theorem State.holder_wr64 (s : State) (lo hi : Reg) (b i j v : Nat) (m : Nat) :
    (s.wr64 lo hi b i j v).holder m = s.holder m := by simp only [State.holder, State.wr64_parts]
@[simp] theorem State.link_wr64 (s : State) (lo hi : Reg) (b i j v : Nat) (m : Nat) :
    (s.wr64 lo hi b i j v).link m = s.link m := by simp only [State.link, State.wr64_fabric]
@[simp] theorem State.group_wr64 (s : State) (lo hi : Reg) (b i j v : Nat) (m : Nat) :
    (s.wr64 lo hi b i j v).group m = s.group m := by simp only [State.group, State.wr64_fabric]

@[simp] theorem State.core_bump (s : State) (lo hi : Reg) (i j k : Nat) (m : Nat) :
    (s.bump lo hi i j k).core m = s.core m := by simp only [State.core, State.bump_cores]
@[simp] theorem State.part_bump (s : State) (lo hi : Reg) (i j k : Nat) (m : Nat) :
    (s.bump lo hi i j k).part m = s.part m := by simp only [State.part, State.bump_parts]
@[simp] theorem State.holder_bump (s : State) (lo hi : Reg) (i j k : Nat) (m : Nat) :
    (s.bump lo hi i j k).holder m = s.holder m := by simp only [State.holder, State.bump_parts]
@[simp] theorem State.link_bump (s : State) (lo hi : Reg) (i j k : Nat) (m : Nat) :
    (s.bump lo hi i j k).link m = s.link m := by simp only [State.link, State.bump_fabric]
@[simp] theorem State.group_bump (s : State) (lo hi : Reg) (i j k : Nat) (m : Nat) :
    (s.bump lo hi i j k).group m = s.group m := by simp only [State.group, State.bump_fabric]

@[simp] theorem State.rd_setCore (s : State) (n : Nat) (c : Core) (r' : Reg) (b' i' j' : Nat) :
    (s.setCore n c).rd r' b' i' j' = s.rd r' b' i' j' := by simp only [State.rd, State.setCore_regs]
@[simp] theorem State.fld_setCore (s : State) (n : Nat) (c : Core) (r' : Reg) (b' i' j' hi' lo' : Nat) :
    (s.setCore n c).fld r' b' i' j' hi' lo' = s.fld r' b' i' j' hi' lo' := by simp only [State.fld, State.rd_setCore]
@[simp] theorem State.part_setCore (s : State) (n : Nat) (c : Core) (m : Nat) :
    (s.setCore n c).part m = s.part m := by simp only [State.part, State.setCore_parts]
@[simp] theorem State.holder_setCore (s : State) (n : Nat) (c : Core) (m : Nat) :
    (s.setCore n c).holder m = s.holder m := by simp only [State.holder, State.setCore_parts]
@[simp] theorem State.link_setCore (s : State) (n : Nat) (c : Core) (m : Nat) :
    (s.setCore n c).link m = s.link m := by simp only [State.link, State.setCore_fabric]
@[simp] theorem State.group_setCore (s : State) (n : Nat) (c : Core) (m : Nat) :
    (s.setCore n c).group m = s.group m := by simp only [State.group, State.setCore_fabric]

@[simp] theorem State.rd_onCore (s : State) (n : Nat) (f : Core → Core) (r' : Reg) (b' i' j' : Nat) :
    (s.onCore n f).rd r' b' i' j' = s.rd r' b' i' j' := by simp only [State.rd, State.onCore_regs]
@[simp] theorem State.fld_onCore (s : State) (n : Nat) (f : Core → Core) (r' : Reg) (b' i' j' hi' lo' : Nat) :
    (s.onCore n f).fld r' b' i' j' hi' lo' = s.fld r' b' i' j' hi' lo' := by simp only [State.fld, State.rd_onCore]
@[simp] theorem State.part_onCore (s : State) (n : Nat) (f : Core → Core) (m : Nat) :
    (s.onCore n f).part m = s.part m := by simp only [State.part, State.onCore_parts]
@[simp] theorem State.holder_onCore (s : State) (n : Nat) (f : Core → Core) (m : Nat) :
    (s.onCore n f).holder m = s.holder m := by simp only [State.holder, State.onCore_parts]
@[simp] theorem State.link_onCore (s : State) (n : Nat) (f : Core → Core) (m : Nat) :
    (s.onCore n f).link m = s.link m := by simp only [State.link, State.onCore_fabric]
@[simp] theorem State.group_onCore (s : State) (n : Nat) (f : Core → Core) (m : Nat) :
    (s.onCore n f).group m = s.group m := by simp only [State.group, State.onCore_fabric]

@[simp] theorem State.rd_setPart (s : State) (p : Nat) (x : Part) (r' : Reg) (b' i' j' : Nat) :
    (s.setPart p x).rd r' b' i' j' = s.rd r' b' i' j' := by simp only [State.rd, State.setPart_regs]
@[simp] theorem State.fld_setPart (s : State) (p : Nat) (x : Part) (r' : Reg) (b' i' j' hi' lo' : Nat) :
    (s.setPart p x).fld r' b' i' j' hi' lo' = s.fld r' b' i' j' hi' lo' := by simp only [State.fld, State.rd_setPart]
@[simp] theorem State.core_setPart (s : State) (p : Nat) (x : Part) (m : Nat) :
    (s.setPart p x).core m = s.core m := by simp only [State.core, State.setPart_cores]
@[simp] theorem State.link_setPart (s : State) (p : Nat) (x : Part) (m : Nat) :
    (s.setPart p x).link m = s.link m := by simp only [State.link, State.setPart_fabric]
@[simp] theorem State.group_setPart (s : State) (p : Nat) (x : Part) (m : Nat) :
    (s.setPart p x).group m = s.group m := by simp only [State.group, State.setPart_fabric]

@[simp] theorem State.rd_onPart (s : State) (p : Nat) (f : Part → Part) (r' : Reg) (b' i' j' : Nat) :
    (s.onPart p f).rd r' b' i' j' = s.rd r' b' i' j' := by simp only [State.rd, State.onPart_regs]
@[simp] theorem State.fld_onPart (s : State) (p : Nat) (f : Part → Part) (r' : Reg) (b' i' j' hi' lo' : Nat) :
    (s.onPart p f).fld r' b' i' j' hi' lo' = s.fld r' b' i' j' hi' lo' := by simp only [State.fld, State.rd_onPart]
@[simp] theorem State.core_onPart (s : State) (p : Nat) (f : Part → Part) (m : Nat) :
    (s.onPart p f).core m = s.core m := by simp only [State.core, State.onPart_cores]
@[simp] theorem State.link_onPart (s : State) (p : Nat) (f : Part → Part) (m : Nat) :
    (s.onPart p f).link m = s.link m := by simp only [State.link, State.onPart_fabric]
@[simp] theorem State.group_onPart (s : State) (p : Nat) (f : Part → Part) (m : Nat) :
    (s.onPart p f).group m = s.group m := by simp only [State.group, State.onPart_fabric]

@[simp] theorem State.rd_onFabric (s : State) (f : Fabric → Fabric) (r' : Reg) (b' i' j' : Nat) :
    (s.onFabric f).rd r' b' i' j' = s.rd r' b' i' j' := by simp only [State.rd, State.onFabric_regs]
@[simp] theorem State.fld_onFabric (s : State) (f : Fabric → Fabric) (r' : Reg) (b' i' j' hi' lo' : Nat) :
    (s.onFabric f).fld r' b' i' j' hi' lo' = s.fld r' b' i' j' hi' lo' := by simp only [State.fld, State.rd_onFabric]
@[simp] theorem State.core_onFabric (s : State) (f : Fabric → Fabric) (m : Nat) :
    (s.onFabric f).core m = s.core m := by simp only [State.core, State.onFabric_cores]
@[simp] theorem State.part_onFabric (s : State) (f : Fabric → Fabric) (m : Nat) :
    (s.onFabric f).part m = s.part m := by simp only [State.part, State.onFabric_parts]
@[simp] theorem State.holder_onFabric (s : State) (f : Fabric → Fabric) (m : Nat) :
    (s.onFabric f).holder m = s.holder m := by simp only [State.holder, State.onFabric_parts]

@[simp] theorem State.rd_onLink (s : State) (l : Nat) (f : Link → Link) (r' : Reg) (b' i' j' : Nat) :
    (s.onLink l f).rd r' b' i' j' = s.rd r' b' i' j' := by simp only [State.rd, State.onLink_regs]
@[simp] theorem State.fld_onLink (s : State) (l : Nat) (f : Link → Link) (r' : Reg) (b' i' j' hi' lo' : Nat) :
    (s.onLink l f).fld r' b' i' j' hi' lo' = s.fld r' b' i' j' hi' lo' := by simp only [State.fld, State.rd_onLink]
@[simp] theorem State.core_onLink (s : State) (l : Nat) (f : Link → Link) (m : Nat) :
    (s.onLink l f).core m = s.core m := by simp only [State.core, State.onLink_cores]
@[simp] theorem State.part_onLink (s : State) (l : Nat) (f : Link → Link) (m : Nat) :
    (s.onLink l f).part m = s.part m := by simp only [State.part, State.onLink_parts]
@[simp] theorem State.holder_onLink (s : State) (l : Nat) (f : Link → Link) (m : Nat) :
    (s.onLink l f).holder m = s.holder m := by simp only [State.holder, State.onLink_parts]

@[simp] theorem State.rd_onGroup (s : State) (g : Nat) (f : Group → Group) (r' : Reg) (b' i' j' : Nat) :
    (s.onGroup g f).rd r' b' i' j' = s.rd r' b' i' j' := by simp only [State.rd, State.onGroup_regs]
@[simp] theorem State.fld_onGroup (s : State) (g : Nat) (f : Group → Group) (r' : Reg) (b' i' j' hi' lo' : Nat) :
    (s.onGroup g f).fld r' b' i' j' hi' lo' = s.fld r' b' i' j' hi' lo' := by simp only [State.fld, State.rd_onGroup]
@[simp] theorem State.core_onGroup (s : State) (g : Nat) (f : Group → Group) (m : Nat) :
    (s.onGroup g f).core m = s.core m := by simp only [State.core, State.onGroup_cores]
@[simp] theorem State.part_onGroup (s : State) (g : Nat) (f : Group → Group) (m : Nat) :
    (s.onGroup g f).part m = s.part m := by simp only [State.part, State.onGroup_parts]
@[simp] theorem State.holder_onGroup (s : State) (g : Nat) (f : Group → Group) (m : Nat) :
    (s.onGroup g f).holder m = s.holder m := by simp only [State.holder, State.onGroup_parts]

@[simp] theorem State.rd_onRel (s : State) (f : Reliab → Reliab) (r' : Reg) (b' i' j' : Nat) :
    (s.onRel f).rd r' b' i' j' = s.rd r' b' i' j' := by simp only [State.rd, State.onRel_regs]
@[simp] theorem State.fld_onRel (s : State) (f : Reliab → Reliab) (r' : Reg) (b' i' j' hi' lo' : Nat) :
    (s.onRel f).fld r' b' i' j' hi' lo' = s.fld r' b' i' j' hi' lo' := by simp only [State.fld, State.rd_onRel]
@[simp] theorem State.core_onRel (s : State) (f : Reliab → Reliab) (m : Nat) :
    (s.onRel f).core m = s.core m := by simp only [State.core, State.onRel_cores]
@[simp] theorem State.part_onRel (s : State) (f : Reliab → Reliab) (m : Nat) :
    (s.onRel f).part m = s.part m := by simp only [State.part, State.onRel_parts]
@[simp] theorem State.holder_onRel (s : State) (f : Reliab → Reliab) (m : Nat) :
    (s.onRel f).holder m = s.holder m := by simp only [State.holder, State.onRel_parts]
@[simp] theorem State.link_onRel (s : State) (f : Reliab → Reliab) (m : Nat) :
    (s.onRel f).link m = s.link m := by simp only [State.link, State.onRel_fabric]
@[simp] theorem State.group_onRel (s : State) (f : Reliab → Reliab) (m : Nat) :
    (s.onRel f).group m = s.group m := by simp only [State.group, State.onRel_fabric]

@[simp] theorem State.rd_onPower (s : State) (f : Power → Power) (r' : Reg) (b' i' j' : Nat) :
    (s.onPower f).rd r' b' i' j' = s.rd r' b' i' j' := by simp only [State.rd, State.onPower_regs]
@[simp] theorem State.fld_onPower (s : State) (f : Power → Power) (r' : Reg) (b' i' j' hi' lo' : Nat) :
    (s.onPower f).fld r' b' i' j' hi' lo' = s.fld r' b' i' j' hi' lo' := by simp only [State.fld, State.rd_onPower]
@[simp] theorem State.core_onPower (s : State) (f : Power → Power) (m : Nat) :
    (s.onPower f).core m = s.core m := by simp only [State.core, State.onPower_cores]
@[simp] theorem State.part_onPower (s : State) (f : Power → Power) (m : Nat) :
    (s.onPower f).part m = s.part m := by simp only [State.part, State.onPower_parts]
@[simp] theorem State.holder_onPower (s : State) (f : Power → Power) (m : Nat) :
    (s.onPower f).holder m = s.holder m := by simp only [State.holder, State.onPower_parts]
@[simp] theorem State.link_onPower (s : State) (f : Power → Power) (m : Nat) :
    (s.onPower f).link m = s.link m := by simp only [State.link, State.onPower_fabric]
@[simp] theorem State.group_onPower (s : State) (f : Power → Power) (m : Nat) :
    (s.onPower f).group m = s.group m := by simp only [State.group, State.onPower_fabric]

@[simp] theorem State.rd_emit (s : State) (o : Out) (r' : Reg) (b' i' j' : Nat) :
    (s.emit o).rd r' b' i' j' = s.rd r' b' i' j' := by simp only [State.rd, State.emit_regs]
@[simp] theorem State.fld_emit (s : State) (o : Out) (r' : Reg) (b' i' j' hi' lo' : Nat) :
    (s.emit o).fld r' b' i' j' hi' lo' = s.fld r' b' i' j' hi' lo' := by simp only [State.fld, State.rd_emit]
@[simp] theorem State.core_emit (s : State) (o : Out) (m : Nat) :
    (s.emit o).core m = s.core m := by simp only [State.core, State.emit_cores]
@[simp] theorem State.part_emit (s : State) (o : Out) (m : Nat) :
    (s.emit o).part m = s.part m := by simp only [State.part, State.emit_parts]
@[simp] theorem State.holder_emit (s : State) (o : Out) (m : Nat) :
    (s.emit o).holder m = s.holder m := by simp only [State.holder, State.emit_parts]
@[simp] theorem State.link_emit (s : State) (o : Out) (m : Nat) :
    (s.emit o).link m = s.link m := by simp only [State.link, State.emit_fabric]
@[simp] theorem State.group_emit (s : State) (o : Out) (m : Nat) :
    (s.emit o).group m = s.group m := by simp only [State.group, State.emit_fabric]

@[simp] theorem State.rd_takeFree (s : State) (r' : Reg) (b' i' j' : Nat) :
    (s.takeFree).rd r' b' i' j' = s.rd r' b' i' j' := by simp only [State.rd, State.takeFree_regs]
@[simp] theorem State.fld_takeFree (s : State) (r' : Reg) (b' i' j' hi' lo' : Nat) :
    (s.takeFree).fld r' b' i' j' hi' lo' = s.fld r' b' i' j' hi' lo' := by simp only [State.fld, State.rd_takeFree]
@[simp] theorem State.core_takeFree (s : State) (m : Nat) :
    (s.takeFree).core m = s.core m := by simp only [State.core, State.takeFree_cores]
@[simp] theorem State.part_takeFree (s : State) (m : Nat) :
    (s.takeFree).part m = s.part m := by simp only [State.part, State.takeFree_parts]
@[simp] theorem State.holder_takeFree (s : State) (m : Nat) :
    (s.takeFree).holder m = s.holder m := by simp only [State.holder, State.takeFree_parts]
@[simp] theorem State.link_takeFree (s : State) (m : Nat) :
    (s.takeFree).link m = s.link m := by simp only [State.link, State.takeFree_fabric]
@[simp] theorem State.group_takeFree (s : State) (m : Nat) :
    (s.takeFree).group m = s.group m := by simp only [State.group, State.takeFree_fabric]

@[simp] theorem State.rd_msixWr (s : State) (fn : Master) (off : Nat) (v : Word) (r' : Reg) (b' i' j' : Nat) :
    (s.msixWr fn off v).rd r' b' i' j' = s.rd r' b' i' j' := by simp only [State.rd, State.msixWr_regs]
@[simp] theorem State.fld_msixWr (s : State) (fn : Master) (off : Nat) (v : Word) (r' : Reg) (b' i' j' hi' lo' : Nat) :
    (s.msixWr fn off v).fld r' b' i' j' hi' lo' = s.fld r' b' i' j' hi' lo' := by simp only [State.fld, State.rd_msixWr]
@[simp] theorem State.core_msixWr (s : State) (fn : Master) (off : Nat) (v : Word) (m : Nat) :
    (s.msixWr fn off v).core m = s.core m := by simp only [State.core, State.msixWr_cores]
@[simp] theorem State.part_msixWr (s : State) (fn : Master) (off : Nat) (v : Word) (m : Nat) :
    (s.msixWr fn off v).part m = s.part m := by simp only [State.part, State.msixWr_parts]
@[simp] theorem State.holder_msixWr (s : State) (fn : Master) (off : Nat) (v : Word) (m : Nat) :
    (s.msixWr fn off v).holder m = s.holder m := by simp only [State.holder, State.msixWr_parts]
@[simp] theorem State.link_msixWr (s : State) (fn : Master) (off : Nat) (v : Word) (m : Nat) :
    (s.msixWr fn off v).link m = s.link m := by simp only [State.link, State.msixWr_fabric]
@[simp] theorem State.group_msixWr (s : State) (fn : Master) (off : Nat) (v : Word) (m : Nat) :
    (s.msixWr fn off v).group m = s.group m := by simp only [State.group, State.msixWr_fabric]

end Sys2Proof.Machine
end

