-- ==== Sys2Proof/Laws/Run.lean ====
section
/-! SUPPORT. How a command's computation runs, operation by operation: the simp set with which a body is run symbolically. `CM.go` is
the run as a function, kept folded so that only these lemmas open it. -/
namespace Sys2Proof.Machine

/-- A computation run from r. -/
def CM.go {α : Type} (x : CM α) (r : Run) : Except Stop α × Run := x.run.run r

theorem CM.go_def {α : Type} (x : CM α) (r : Run) : StateT.run (ExceptT.run x) r = CM.go x r := rfl

@[simp] theorem CM.go_bind {α β : Type} (x : CM α) (f : α → CM β) (r : Run) :
    CM.go (x >>= f) r = match CM.go x r with
      | (.ok a, r') => CM.go (f a) r'
      | (.error e, r') => (.error e, r') := by
  change ExceptT.bindCont f (CM.go x r).1 (CM.go x r).2 = _
  generalize CM.go x r = y
  obtain ⟨a | a, r'⟩ := y <;> rfl

@[simp] theorem CM.go_map {α β : Type} (f : α → β) (x : CM α) (r : Run) :
    CM.go (f <$> x) r = match CM.go x r with
      | (.ok a, r') => (.ok (f a), r')
      | (.error e, r') => (.error e, r') := by
  rw [← bind_pure_comp, CM.go_bind]
  rfl

@[simp] theorem CM.go_pure {α : Type} (a : α) (r : Run) : CM.go (pure a) r = (.ok a, r) := rfl
@[simp] theorem CM.go_getS (r : Run) : CM.go getS r = (.ok r.s, r) := rfl
@[simp] theorem CM.go_get (r : Run) : CM.go get r = (.ok r, r) := rfl
@[simp] theorem CM.go_setS (t : State) (r : Run) : CM.go (setS t) r = (.ok (), { r with s := t }) := rfl
@[simp] theorem CM.go_modS (f : State → State) (r : Run) : CM.go (modS f) r = (.ok (), { r with s := f r.s }) := rfl
@[simp] theorem CM.go_refuse {α : Type} (code : Nat) (r : Run) : CM.go (refuse code : CM α) r = (.error (.status code 0), r) := rfl
@[simp] theorem CM.go_stopAt {α : Type} (code a : Nat) (r : Run) : CM.go (stopAt code a : CM α) r = (.error (.status code a), r) := rfl
@[simp] theorem CM.go_pause {α : Type} (r : Run) : CM.go (pause : CM α) r = (.error .wait, r) := rfl
@[simp] theorem CM.go_flag (f : Nat) (r : Run) : CM.go (flag f) r = (.ok (), { r with flags := r.flags ||| f }) := rfl
@[simp] theorem CM.go_flagIf (b : Bool) (f : Nat) (r : Run) :
    CM.go (flagIf b f) r = (.ok (), { r with flags := if b then r.flags ||| f else r.flags }) := by cases b <;> rfl
@[simp] theorem CM.go_need (ok : Bool) (code : Nat) (r : Run) :
    CM.go (need ok code) r = if ok then (.ok (), r) else (.error (.status code 0), r) := by cases ok <;> rfl
@[simp] theorem CM.go_ite {α : Type} (b : Prop) [Decidable b] (x y : CM α) (r : Run) :
    CM.go (if b then x else y) r = if b then CM.go x r else CM.go y r := by split <;> rfl
@[simp] theorem CM.go_xOf (n k : Nat) (r : Run) : CM.go (xOf n k) r = (.ok ((r.s.core n).xval k), r) := rfl
@[simp] theorem CM.go_setXTo (n k : Nat) (v : DWord) (t : Bool) (r : Run) :
    CM.go (setXTo n k v t) r = (.ok (), { r with s := r.s.onCore n (fun c => c.setX k v t) }) := rfl
@[simp] theorem CM.go_setCp (n a : Nat) (r : Run) :
    CM.go (setCp n a) r = (.ok (), { r with s := r.s.onCore n (fun c => { c with cp := a }) }) := rfl
@[simp] theorem CM.go_csLook (n a len : Nat) (r : Run) : CM.go (csLook n a len) r = (.ok ((r.s.core n).csRead a len), r) := rfl
@[simp] theorem CM.go_csPut (n a : Nat) (d : List Byte) (r : Run) :
    CM.go (csPut n a d) r = (.ok (), { r with s := r.s.onCore n (fun k => k.csWrite a d false) }) := rfl

theorem CM.go_bind_ok {α β : Type} {x : CM α} {f : α → CM β} {r r' : Run} {a : α} (h : CM.go x r = (.ok a, r')) :
    CM.go (x >>= f) r = CM.go (f a) r' := by rw [CM.go_bind, h]

theorem CM.go_bind_error {α β : Type} {x : CM α} {f : α → CM β} {r r' : Run} {e : Stop} (h : CM.go x r = (.error e, r')) :
    CM.go (x >>= f) r = (.error e, r') := by rw [CM.go_bind, h]

/-- The value of W3[k] of a command that the pilot issues: the register's. -/
@[simp] theorem CM.go_w3 (n : Nat) (c : Cmd) (k : Nat) (s : State) (f : Nat) :
    CM.go (w3 n c k) ⟨s, f, none⟩ = (.ok (s.w3of n c k), ⟨s, f, none⟩) := rfl

theorem CM.go_holderOf {r : Run} {n p : Nat} (h : r.s.holder n = some p) : CM.go (holderOf n) r = (.ok p, r) := by
  simp [holderOf, CM.go_bind, h]

theorem CM.go_rdCs {n off len : Nat} {r : Run} (h : off + len ≤ shadowBase) :
    CM.go (rdCs n off len) r = (.ok ((r.s.core n).csRead off len), r) := by
  simp [rdCs, CM.go_bind, CM.go_map, h]

theorem CM.go_wrCs {n off : Nat} {d : List Byte} {p : Bool} {r : Run} (h : off + d.length ≤ shadowBase) :
    CM.go (wrCs n off d p) r =
      (.ok (), { r with s := r.s.onCore n (fun k => k.csWrite off d p), flags := if p then r.flags ||| 0x200 else r.flags }) := by
  simp [wrCs, CM.go_bind, h]

/-- A loop over a list whose every step ends well runs as the fold of its steps. -/
theorem CM.go_forM {α : Type} (l : List α) (f : α → CM Unit) (g : Run → α → Run) (r : Run)
    (h : ∀ x ∈ l, ∀ r, CM.go (f x) r = (.ok (), g r x)) : CM.go (l.forM f) r = (.ok (), l.foldl g r) := by
  induction l generalizing r with
  | nil => rfl
  | cons x t ih =>
    have e : CM.go ((x :: t).forM f) r = CM.go (f x >>= fun _ => t.forM f) r := by simp [List.forM_eq_forM]
    rw [e, CM.go_bind_ok (h x (by simp) r), ih _ (fun y hy => h y (by simp [hy]))]
    rfl

end Sys2Proof.Machine
end

