-- ==== Sys2Proof/Laws/Counters.lean ====
section
/-! SUPPORT. What counting an event leaves alone (R494 to R499): everything but the counters. And what the issue of a command and its
completion leave alone. -/
namespace Sys2Proof.Machine

/-- The counters lie in the block of performance counters (R434), at or above this offset. -/
def countersFrom : Nat := 0x05000000

/-- The same but for performance counters. -/
def State.sameButCounters (s t : State) : Prop :=
  t = { s with regs := t.regs } ∧ ∀ r b i j, Reg.addr r b i j < countersFrom → t.rd r b i j = s.rd r b i j

theorem State.sameButCounters.refl (s : State) : s.sameButCounters s := ⟨rfl, fun _ _ _ _ _ => rfl⟩

theorem State.sameButCounters.trans {s t u : State} (h : s.sameButCounters t) (k : t.sameButCounters u) : s.sameButCounters u := by
  refine ⟨?_, fun r b i j hr => (k.2 r b i j hr).trans (h.2 r b i j hr)⟩
  have h1 := h.1
  have k1 := k.1
  rw [h1] at k1
  exact k1

theorem State.wr_sameButCounters (s : State) (r : Reg) (b i j : Nat) (v : Word) (h : countersFrom ≤ r.addr b i j) :
    s.sameButCounters (s.wr r b i j v) :=
  ⟨rfl, fun r' b' i' j' hr => s.rd_wr_other r r' b i j b' i' j' v (by omega)⟩

theorem State.wr64_sameButCounters (s : State) (lo hi : Reg) (b i j v : Nat) (h : countersFrom ≤ lo.addr b i j)
    (k : countersFrom ≤ hi.addr b i j) : s.sameButCounters (s.wr64 lo hi b i j v) :=
  (s.wr_sameButCounters lo b i j _ h).trans (State.wr_sameButCounters _ hi b i j _ k)

theorem Reg.perf_addr (r : Reg) (b i j : Nat) (h : r.spec.blk = .perf) : countersFrom ≤ r.addr b i j := by
  simp only [Reg.addr, h, Blk.base, countersFrom]
  omega

theorem State.bump_sameButCounters (s : State) {lo hi : Reg} (i j k : Nat) (h1 : lo.spec.blk = .perf) (h2 : hi.spec.blk = .perf) :
    s.sameButCounters (s.bump lo hi i j k) :=
  s.wr64_sameButCounters _ _ _ _ _ _ (lo.perf_addr _ _ _ h1) (hi.perf_addr _ _ _ h2)

theorem foldl_sameButCounters {α : Type} (l : List α) (f : State → α → State) (h : ∀ (s : State) x, s.sameButCounters (f s x)) (s : State) :
    s.sameButCounters (l.foldl f s) := by
  induction l generalizing s with
  | nil => exact .refl s
  | cons x t ih => exact (h s x).trans (ih _)

theorem State.coreEvent_same (s : State) (n code k : Nat) (va : Option Nat) : s.sameButCounters (s.coreEvent n code k va) := by
  simp only [State.coreEvent]
  split
  · exact .refl s
  · refine foldl_sameButCounters _ _ (fun s j => ?_) s
    split
    · exact .refl s
    · split
      · exact s.bump_sameButCounters _ _ _ rfl rfl
      · exact .refl s

theorem State.hubEvent_same (s : State) (code k : Nat) (w : Who) : s.sameButCounters (s.hubEvent code k w) := by
  simp only [State.hubEvent]
  split
  · exact .refl s
  · refine foldl_sameButCounters _ _ (fun s j => ?_) s
    split
    · exact .refl s
    · split <;> split <;> first | exact .refl s | exact State.bump_sameButCounters s (lo := .perfHubCntLo) (hi := .perfHubCntHi) _ _ _ rfl rfl

section same
variable {s t : State} (h : s.sameButCounters t)
include h

theorem State.sameButCounters.cores_eq : t.cores = s.cores := by rw [h.1]
theorem State.sameButCounters.parts_eq : t.parts = s.parts := by rw [h.1]
theorem State.sameButCounters.mem_eq : t.mem = s.mem := by rw [h.1]
theorem State.sameButCounters.fabric_eq : t.fabric = s.fabric := by rw [h.1]
theorem State.sameButCounters.core_eq (n : Nat) : t.core n = s.core n := by simp only [State.core, h.cores_eq]
theorem State.sameButCounters.part_eq (p : Nat) : t.part p = s.part p := by simp only [State.part, h.parts_eq]
theorem State.sameButCounters.holder_eq (n : Nat) : t.holder n = s.holder n := by simp only [State.holder, h.parts_eq]
theorem State.sameButCounters.rd_eq {r : Reg} {b i j : Nat} (hr : r.addr b i j < countersFrom) : t.rd r b i j = s.rd r b i j :=
  h.2 r b i j hr

end same

/-! ### Issue (R203) -/

/-- What the issue of a command leaves: core n with CC and CP moved on, and the counters and tagging. -/
theorem State.issue_spec (s : State) (n : Nat) (c : Cmd) :
    ∃ k : Core, (k = (s.core n).issued ∨ k = { (s.core n).issued with tagArmed := false } ∨
      k = { (s.core n).issued with tagCount := (s.core n).tagCount - 1 }) ∧
    (s.issue n c).core n = k ∧ (∀ m, m ≠ n → (s.issue n c).core m = s.core m) ∧
    s.issue n c = { s with cores := (s.issue n c).cores, regs := (s.issue n c).regs, tagged := (s.issue n c).tagged } ∧
    ∀ r b i j, Reg.addr r b i j < countersFrom → (s.issue n c).rd r b i j = s.rd r b i j := by
  have h := State.coreEvent_same (s.onCore n Core.issued) n 0x02 1 none
  have hc : ((s.onCore n Core.issued).coreEvent n 0x02 1 none).core n = (s.core n).issued := by
    rw [h.core_eq]; simp
  have ho : ∀ m, m ≠ n → ((s.onCore n Core.issued).coreEvent n 0x02 1 none).core m = s.core m := fun m hm => by
    rw [h.core_eq, State.core_onCore_other _ _ hm]
  have hr : ∀ r b i j, Reg.addr r b i j < countersFrom →
      ((s.onCore n Core.issued).coreEvent n 0x02 1 none).rd r b i j = s.rd r b i j := fun r b i j hh => by
    rw [h.rd_eq hh]; simp
  have he := h.1
  generalize hu : (s.onCore n Core.issued).coreEvent n 0x02 1 none = u at *
  have hi : s.issue n c = u.tagIssue n c (s.ccNext n) := by rw [State.issue, hu]
  rw [hi, State.tagIssue]
  split
  · refine ⟨_, .inl rfl, hc, ho, ?_, hr⟩
    rw [he]; rfl
  · split
    · refine ⟨_, .inr (.inl rfl), ?_, ?_, ?_, ?_⟩
      · rw [State.core_onCore_same]
        exact congrArg (fun k : Core => { k with tagArmed := false }) hc
      · intro m hm
        rw [State.core_onCore_other _ _ hm]
        exact ho m hm
      · rw [he]; rfl
      · intro r b i j hh
        rw [State.rd_onCore]
        exact hr r b i j hh
    · refine ⟨_, .inr (.inr rfl), ?_, ?_, ?_, ?_⟩
      · rw [State.core_onCore_same, hc]; rfl
      · intro m hm
        rw [State.core_onCore_other _ _ hm]
        exact ho m hm
      · rw [he]; rfl
      · intro r b i j hh
        rw [State.rd_onCore]
        exact hr r b i j hh

end Sys2Proof.Machine
end

