-- ==== Sys2Proof/Laws/Memory.lean ====
section
/-! SUPPORT. Stacked memory: every operation keeps its canonical form, and what each leaves a byte to read as (R249 to R265). A byte is read
here through `Mem.byteOf`, which sees the buffer entry of its line; no operation that only moves an entry into its line changes it. -/
namespace Sys2Proof.Machine

/-! ### Canonical tables -/

theorem mem_tabInsert {α : Type} {t : Tab α} {i : Nat} {b : α} {x : Nat × α} (h : x ∈ tabInsert i b t) : x = (i, b) ∨ x ∈ t := by
  induction t with
  | nil => simpa [tabInsert] using h
  | cons y t ih =>
    obtain ⟨k, a⟩ := y
    simp only [tabInsert] at h
    split at h
    · rcases List.mem_cons.1 h with h | h
      · exact .inr (by simp [h])
      · exact (ih h).imp id (List.mem_cons_of_mem _)
    · split at h
      · rcases List.mem_cons.1 h with h | h
        · exact .inl h
        · exact .inr (List.mem_cons_of_mem _ h)
      · rcases List.mem_cons.1 h with h | h
        · exact .inl h
        · exact .inr h

theorem tabInsert_sorted {α : Type} {t : Tab α} (i : Nat) (b : α) (h : t.Pairwise (fun x y => x.1 < y.1)) :
    (tabInsert i b t).Pairwise (fun x y => x.1 < y.1) := by
  induction t with
  | nil => simp [tabInsert]
  | cons y t ih =>
    obtain ⟨k, a⟩ := y
    obtain ⟨hy, ht⟩ := List.pairwise_cons.1 h
    simp only [tabInsert]
    split
    · next hk =>
      refine List.pairwise_cons.2 ⟨fun z hz => ?_, ih ht⟩
      rcases mem_tabInsert hz with rfl | hz
      · exact hk
      · exact hy z hz
    · next hk =>
      split
      · next he => subst he; exact List.pairwise_cons.2 ⟨hy, ht⟩
      · next he =>
        refine List.pairwise_cons.2 ⟨fun z hz => ?_, h⟩
        rcases List.mem_cons.1 hz with rfl | hz
        · have : k ≠ i := he; simp only at *; omega
        · have := hy z hz; simp only at *; omega

theorem tabSet_wf {m : List Host.Cell} (a : Nat) (b : Byte) (h : Memory.wf m) : Memory.wf (tabSet m a 0#8 b) := by
  by_cases hb : b = 0#8
  · simp only [tabSet, hb, if_true, tabPut]
    exact ⟨h.1.filter _, fun c hc => h.2 c (List.mem_filter.1 hc).1⟩
  · simp only [tabSet, hb, if_false, tabPut]
    refine ⟨tabInsert_sorted a b h.1, fun c hc => ?_⟩
    rcases mem_tabInsert hc with rfl | hc
    · exact hb
    · exact h.2 c hc

theorem foldl_keeps {α β : Type} {P : α → Prop} {f : α → β → α} (hf : ∀ a x, P a → P (f a x)) (l : List β) {a : α} (h : P a) :
    P (l.foldl f a) := by
  induction l generalizing a with
  | nil => exact h
  | cons x t ih => exact ih (hf a x h)

theorem cellsWrite_wf {m : List Host.Cell} (a : Nat) (d : List Byte) (h : Memory.wf m) : Memory.wf (cellsWrite m a d) := by
  induction d generalizing m a with
  | nil => exact h
  | cons b t ih => exact ih (a + 1) (tabSet_wf a b h)

theorem filter_wf {m : List Host.Cell} (f : Host.Cell → Bool) (h : Memory.wf m) : Memory.wf (m.filter f) :=
  ⟨h.1.filter _, fun c hc => h.2 c (List.mem_filter.1 hc).1⟩

/-! ### Write-combining entries -/

theorem wcMerge_wf {b : List Host.Cell} {off : Nat} {d : List Byte} (hs : b.Pairwise (fun x y => x.1 < y.1)) (hb : ∀ c ∈ b, c.1 < 64)
    (ho : off + d.length ≤ 64) : (wcMerge b off d).Pairwise (fun x y => x.1 < y.1) ∧ ∀ c ∈ wcMerge b off d, c.1 < 64 := by
  induction d generalizing b off with
  | nil => exact ⟨hs, hb⟩
  | cons x t ih =>
    simp only [List.length_cons] at ho
    refine ih (tabInsert_sorted off x hs) (fun c hc => ?_) (by omega)
    rcases mem_tabInsert hc with rfl | hc
    · simp only; omega
    · exact hb c hc

theorem Mem.wf.entry {m : Mem} (h : m.wf) {e : WcEntry} (he : e ∈ m.wc) : e.wf := h.2.2 e he

theorem Mem.leave_wf {m : Mem} (e : WcEntry) (h : m.wf) : (m.leave e).wf :=
  ⟨foldl_keeps (fun _ _ hb => tabSet_wf _ _ hb) e.bytes h.1, h.2.1.filter _, fun x hx => h.2.2 x (List.mem_filter.1 hx).1⟩

theorem Mem.forceOut_wf {m : Mem} (line : Nat) (h : m.wf) : (m.forceOut line).wf := by
  simp only [Mem.forceOut]
  split
  · exact m.leave_wf _ h
  · exact h

theorem Mem.forceRange_wf {m : Mem} (a n : Nat) (h : m.wf) : (m.forceRange a n).wf :=
  foldl_keeps (fun _ e hm => Mem.leave_wf e hm) _ h

theorem Mem.settle_wf {m : Mem} (pa len : Nat) (h : m.wf) : (m.settle pa len).wf :=
  foldl_keeps (fun _ l hm => Mem.forceOut_wf l hm) _ h

theorem Mem.plain_wf {m : Mem} (line : Nat) (d : List Byte) (poison : Bool) (h : m.wf) : (m.plain line d poison).wf :=
  ⟨cellsWrite_wf _ d h.1, h.2⟩

theorem find_line {m : Mem} {line : Nat} {e : WcEntry} (h : m.wc.find? (fun e => e.line == line) = some e) : e ∈ m.wc ∧ e.line = line :=
  ⟨List.mem_of_find?_eq_some h, by simpa using List.find?_some h⟩

theorem Mem.writePiece_wf {m : Mem} (g : Grade) (pa : Nat) (d : List Byte) (poison : Bool) (hl : pa % 64 + d.length ≤ 64) (h : m.wf) :
    (Mem.writePiece g m pa d poison).wf := by
  simp only [Mem.writePiece]
  split
  · next e he =>
    obtain ⟨hm, hline⟩ := find_line he
    have hw := wcMerge_wf (h.entry hm).1 (h.entry hm).2 hl
    split
    · exact m.leave_wf _ h
    · refine ⟨h.1, ?_, fun x hx => ?_⟩
      · rw [List.pairwise_map]
        refine h.2.1.imp (fun {x y} hxy => ?_)
        split <;> split <;> simp_all
      · obtain ⟨y, hy, rfl⟩ := List.mem_map.1 hx
        split
        · exact hw
        · exact h.2.2 y hy
  · next he =>
    split
    · exact m.plain_wf _ d poison h
    · have hnew : ∀ k : Mem, k.wf → (∀ x ∈ k.wc, x.line ≠ pa / 64) →
          Mem.wf { k with wc := k.wc ++ [⟨pa / 64, wcMerge [] (pa % 64) d, poison⟩] } := by
        intro k hk hne
        refine ⟨hk.1, List.pairwise_append.2 ⟨hk.2.1, by simp, fun x hx y hy => ?_⟩, fun x hx => ?_⟩
        · simp only [List.mem_singleton] at hy; subst hy; exact hne x hx
        · rcases List.mem_append.1 hx with hx | hx
          · exact hk.2.2 x hx
          · simp only [List.mem_singleton] at hx; subst hx
            exact wcMerge_wf .nil (by simp) hl
      have hno : ∀ x ∈ m.wc, x.line ≠ pa / 64 := fun x hx hxe => by
        have := List.find?_eq_none.1 he x hx
        simp [hxe] at this
      split
      · split
        · next e _ _ => exact hnew _ (m.leave_wf e h) (fun x hx => hno x (List.mem_filter.1 hx).1)
        · exact hnew _ h hno
      · exact hnew _ h hno

/-- Every piece lies within one line, inside the range. -/
theorem pieces_within {size a fuel len : Nat} (hs : 0 < size) {x : Nat × Nat} (h : x ∈ pieces size a fuel len) :
    a ≤ x.1 ∧ x.1 + x.2 ≤ a + len ∧ x.1 % size + x.2 ≤ size := by
  induction fuel generalizing a len with
  | zero => simp [pieces] at h
  | succ k ih =>
    simp only [pieces] at h
    split at h
    · simp at h
    · have hm := Nat.mod_lt a hs
      rcases List.mem_cons.1 h with rfl | h
      · simp only; omega
      · have := ih h; omega

theorem Mem.write_wf {m : Mem} (g : Grade) (pa : Nat) (d : List Byte) (poison : Bool) (h : m.wf) : (Mem.write g m pa d poison).wf := by
  simp only [Mem.write]
  have : ∀ l : List (Nat × Nat), (∀ x ∈ l, x.1 % 64 + x.2 ≤ 64) → ∀ k : Mem, k.wf →
      (l.foldl (fun m x => Mem.writePiece g m x.1 ((d.drop (x.1 - pa)).take x.2) poison) k).wf := by
    intro l
    induction l with
    | nil => intro _ k hk; exact hk
    | cons x t ih =>
      intro hl k hk
      refine ih (fun y hy => hl y (List.mem_cons_of_mem _ hy)) _ (Mem.writePiece_wf g _ _ _ ?_ hk)
      have := hl x (List.mem_cons_self ..)
      have : ((d.drop (x.1 - pa)).take x.2).length ≤ x.2 := by simp only [List.length_take]; omega
      omega
  exact this _ (fun x hx => (pieces_within (by omega) hx).2.2) m h

theorem Mem.addAt_wf {m : Mem} (ty : AddTy) (pa amount : Nat) (poison : Bool) (h : m.wf) : (m.addAt ty pa amount poison).1.wf := by
  have hs := Mem.settle_wf pa ty.bytes h
  simp only [Mem.addAt]
  split
  · exact hs
  · exact ⟨cellsWrite_wf _ _ hs.1, hs.2⟩

theorem Mem.fill_wf {m : Mem} (pa len : Nat) (h : m.wf) : (m.fill pa len).wf :=
  ⟨filter_wf _ h.1, h.2.1.filter _, fun x hx => h.2.2 x (List.mem_filter.1 hx).1⟩

/-- Free bytes over a range leave the canonical form: their addresses lie between those of what stays on either side. -/
theorem Mem.unknown_wf {m : Mem} (k pa len : Nat) (h : m.wf) : (m.unknown k pa len).wf := by
  obtain ⟨⟨hs, hz⟩, hw, he⟩ := h
  have hfree : ∀ c ∈ (List.range len).filterMap (fun i =>
      let b := (Config.freeWord (k + i)).setWidth 8
      if b = 0#8 then none else some ((pa + i, b) : Host.Cell)), pa ≤ c.1 ∧ c.1 < pa + len ∧ c.2 ≠ 0#8 := by
    intro c hc
    obtain ⟨i, hi, hv⟩ := List.mem_filterMap.1 hc
    have := List.mem_range.1 hi
    simp only at hv
    split at hv
    · cases hv
    · cases hv
      exact ⟨by simp only; omega, by simp only; omega, ‹_›⟩
  refine ⟨⟨?_, ?_⟩, hw.sublist List.filter_sublist, fun e hm => he e (List.mem_of_mem_filter hm)⟩
  · simp only [Mem.unknown]
    refine List.pairwise_append.2 ⟨List.pairwise_append.2 ⟨hs.sublist List.filter_sublist, ?_, ?_⟩, hs.sublist List.filter_sublist, ?_⟩
    · refine List.Pairwise.filterMap _ ?_ (List.pairwise_lt_range)
      intro i j hij c hc d hd
      split at hc <;> split at hd <;> cases hc <;> cases hd
      simp only
      omega
    · intro c hc d hd
      have := hfree d hd
      have := of_decide_eq_true (List.mem_filter.1 hc).2
      omega
    · intro c hc d hd
      have hd' := of_decide_eq_true (List.mem_filter.1 hd).2
      rcases List.mem_append.1 hc with hc | hc
      · have := of_decide_eq_true (List.mem_filter.1 hc).2
        omega
      · have := hfree c hc
        omega
  · intro c hc
    simp only [Mem.unknown] at hc
    rcases List.mem_append.1 hc with hc | hc
    · rcases List.mem_append.1 hc with hc | hc
      · exact hz c (List.mem_of_mem_filter hc)
      · exact (hfree c hc).2.2
    · exact hz c (List.mem_of_mem_filter hc)

theorem Mem.refill_wf {m : Mem} (g : Grade) (st chan pc : Nat) (h : m.wf) : (m.refill g st chan pc).wf :=
  ⟨filter_wf _ h.1, h.2.1.filter _, fun x hx => h.2.2 x (List.mem_filter.1 hx).1⟩

theorem Mem.copyFrame_wf {m : Mem} (f g : Nat) (h : m.wf) : (m.copyFrame f g).wf := by
  have hf := Mem.fill_wf (g * frameSize) frameSize (Mem.forceRange_wf (f * frameSize / 64) (frameSize / 64) h)
  exact ⟨foldl_keeps (fun _ _ hb => tabSet_wf _ _ hb) _ hf.1, hf.2⟩

theorem Mem.init_wf : Mem.init.wf := by decide

/-! ### What a byte reads as -/

/-- The buffer entry of a line, if there is one. -/
def Mem.entry? (m : Mem) (line : Nat) : Option WcEntry := m.wc.find? (fun e => e.line == line)

/-- The byte at a: that of the buffer entry of its line where the entry has it, otherwise the stored one. -/
def Mem.byteOf (m : Mem) (a : Nat) : Byte :=
  match m.entry? (a / 64) with
  | some e => (tabFind e.bytes (a % 64)).getD (tabGet m.bytes a 0#8)
  | none => tabGet m.bytes a 0#8

theorem tabGet_foldl_set (l : List Host.Cell) (base : Nat) (m : List Host.Cell) (hs : l.Pairwise (fun x y => x.1 < y.1)) (a : Nat) :
    tabGet (l.foldl (fun b c => tabSet b (base + c.1) 0#8 c.2) m) a 0#8 =
      if base ≤ a then (tabFind l (a - base)).getD (tabGet m a 0#8) else tabGet m a 0#8 := by
  induction l generalizing m with
  | nil => simp [tabFind]
  | cons x t ih =>
    obtain ⟨k, b⟩ := x
    obtain ⟨hk, ht⟩ := List.pairwise_cons.1 hs
    have none_below : ∀ (l : List Host.Cell) (q : Nat), (∀ c ∈ l, q < c.1) → tabFind l q = none := by
      intro l q h
      induction l with
      | nil => rfl
      | cons y l il =>
        obtain ⟨j, d⟩ := y
        have hj : q < j := h (j, d) (List.mem_cons_self ..)
        simp [tabFind, Nat.ne_of_gt hj, il (fun c hc => h c (List.mem_cons_of_mem _ hc))]
    simp only [List.foldl_cons]
    rw [ih _ ht, tabGet_set]
    by_cases h : a = base + k
    · subst h
      have : tabFind t (base + k - base) = none := none_below t _ (fun c hc => by have := hk c hc; simp only at this; omega)
      simp only [if_true, this, tabFind]
      simp
    · simp only [h, if_false, tabFind]
      by_cases hb : base ≤ a
      · have : k ≠ a - base := by omega
        simp [hb, this]
      · simp [hb]

theorem find_filter_ne (l : List WcEntry) (line k : Nat) :
    (l.filter (fun x => x.line != line)).find? (fun e => e.line == k) = if k = line then none else l.find? (fun e => e.line == k) := by
  induction l with
  | nil => simp
  | cons e t ih =>
    by_cases h : e.line = line <;> by_cases hk : e.line = k <;> by_cases hkl : k = line <;>
      simp_all

theorem Mem.entry?_leave (m : Mem) (e : WcEntry) (k : Nat) : (m.leave e).entry? k = if k = e.line then none else m.entry? k :=
  find_filter_ne m.wc e.line k

theorem Mem.wf.entry?_wf {m : Mem} (h : m.wf) {k : Nat} {e : WcEntry} (he : m.entry? k = some e) : e.wf ∧ e.line = k :=
  ⟨h.2.2 e (find_line he).1, (find_line he).2⟩

theorem tabFind_beyond {l : List Host.Cell} (h : ∀ c ∈ l, c.1 < 64) {q : Nat} (hq : 64 ≤ q) : tabFind l q = none := by
  induction l with
  | nil => rfl
  | cons x t ih =>
    obtain ⟨k, b⟩ := x
    have : k < 64 := h (k, b) (List.mem_cons_self ..)
    simp [tabFind, show k ≠ q by omega, ih (fun c hc => h c (List.mem_cons_of_mem _ hc))]

/-- The bytes that an entry leaves behind, wherever it came from. -/
theorem Mem.leave_bytes {m : Mem} {e : WcEntry} (he : e.wf) (a : Nat) :
    tabGet (m.leave e).bytes a 0#8 =
      if a / 64 = e.line then (tabFind e.bytes (a % 64)).getD (tabGet m.bytes a 0#8) else tabGet m.bytes a 0#8 := by
  show tabGet (e.bytes.foldl (fun b c => tabSet b (e.line * 64 + c.1) 0#8 c.2) m.bytes) a 0#8 = _
  rw [tabGet_foldl_set _ _ _ he.1]
  by_cases h : a / 64 = e.line
  · have h1 : e.line * 64 ≤ a := by omega
    have h2 : a - e.line * 64 = a % 64 := by omega
    simp [h, h1, h2]
  · simp only [h, if_false]
    split
    · next hle => rw [tabFind_beyond he.2 (by omega)]; rfl
    · rfl

/-- An entry of the buffer that leaves it changes no byte. -/
theorem Mem.byteOf_leave {m : Mem} (h : m.wf) {e : WcEntry} (he : m.entry? e.line = some e) (a : Nat) :
    (m.leave e).byteOf a = m.byteOf a := by
  have hw := (h.entry?_wf he).1
  simp only [Mem.byteOf, Mem.entry?_leave, Mem.leave_bytes hw]
  by_cases hl : a / 64 = e.line
  · simp [hl, he]
  · simp [hl]

theorem Mem.wf.entry?_of_mem {m : Mem} (h : m.wf) {e : WcEntry} (he : e ∈ m.wc) : m.entry? e.line = some e := by
  have : ∀ l : List WcEntry, l.Pairwise (fun x y => x.line ≠ y.line) → e ∈ l → l.find? (fun x => x.line == e.line) = some e := by
    intro l hp hm
    induction l with
    | nil => simp at hm
    | cons x t ih =>
      obtain ⟨hx, ht⟩ := List.pairwise_cons.1 hp
      by_cases hxe : x.line = e.line
      · rcases List.mem_cons.1 hm with rfl | hm
        · simp
        · exact absurd hxe (hx e hm)
      · rcases List.mem_cons.1 hm with rfl | hm
        · simp at hxe
        · simpa [hxe] using ih ht hm
  exact this m.wc h.2.1 he

theorem Mem.byteOf_forceOut {m : Mem} (h : m.wf) (line a : Nat) : (m.forceOut line).byteOf a = m.byteOf a := by
  simp only [Mem.forceOut]
  split
  · next e he => exact Mem.byteOf_leave h (h.entry?_of_mem (find_line he).1) a
  · rfl

theorem Mem.byteOf_settle {m : Mem} (h : m.wf) (pa len a : Nat) : (m.settle pa len).byteOf a = m.byteOf a := by
  have : ∀ (l : List Nat) (k : Mem), k.wf → (l.foldl (fun m x => m.forceOut x) k).byteOf a = k.byteOf a := by
    intro l
    induction l with
    | nil => intro k _; rfl
    | cons x t ih => intro k hk; exact (ih _ (Mem.forceOut_wf x hk)).trans (Mem.byteOf_forceOut hk x a)
  exact this _ m h

theorem Mem.entry?_forceOut (m : Mem) (line k : Nat) : (m.forceOut line).entry? k = if k = line then none else m.entry? k := by
  simp only [Mem.forceOut]
  split
  · next e he => rw [Mem.entry?_leave, (find_line he).2]
  · next he => by_cases h : k = line <;> simp [h, Mem.entry?, he]

/-- A settled byte reads as `byteOf` says, whatever is still in the buffer for other lines. -/
theorem Mem.look_one {m : Mem} (h : m.wf) (a : Nat) : ((m.settle a 1).look a 1).1 = [m.byteOf a] := by
  have hl : linesOf a 1 = [a / 64] := by simp [linesOf]
  have hb := Mem.byteOf_settle h a 1 a
  have he : (m.settle a 1).entry? (a / 64) = none := by
    simp only [Mem.settle, hl, List.foldl_cons, List.foldl_nil, Mem.entry?_forceOut, if_true]
  simp only [Mem.byteOf, he] at hb
  simp only [Mem.look, cellsRead]
  rw [hb]
  rfl

theorem State.byteAt_eq {s : State} (h : s.mem.wf) (a : Nat) : s.byteAt a = [s.mem.byteOf a] := Mem.look_one h a

/-! ### Writes -/

theorem tabFind_wcMerge (b : List Host.Cell) (off : Nat) (d : List Byte) (q : Nat) :
    tabFind (wcMerge b off d) q = if off ≤ q ∧ q < off + d.length then d[q - off]? else tabFind b q := by
  induction d generalizing b off with
  | nil => simp only [wcMerge, List.length_nil]; split <;> first | omega | rfl
  | cons x t ih =>
    simp only [wcMerge, ih, List.length_cons]
    by_cases h : q = off
    · subst h
      simp
    · rw [tabFind_put_other _ _ h]
      by_cases hq : off ≤ q ∧ q < off + (t.length + 1)
      · have h1 : off + 1 ≤ q ∧ q < off + 1 + t.length := by omega
        have h2 : q - off = (q - (off + 1)) + 1 := by omega
        simp only [h1, hq, and_self, if_true, h2, List.getElem?_cons_succ]
      · have h1 : ¬ (off + 1 ≤ q ∧ q < off + 1 + t.length) := by omega
        simp only [h1, hq, if_false]

theorem Mem.byteOf_plain {m : Mem} {line : Nat} (d : List Byte) (poison : Bool) (he : m.entry? line = none) (hd : d.length ≤ 64) (a : Nat) :
    (m.plain line d poison).byteOf a = if line * 64 ≤ a ∧ a < line * 64 + d.length then d.getD (a - line * 64) 0#8 else m.byteOf a := by
  have hb : tabGet (cellsWrite m.bytes (line * 64) d) a 0#8 =
      if line * 64 ≤ a ∧ a < line * 64 + d.length then d.getD (a - line * 64) 0#8 else tabGet m.bytes a 0#8 := by
    split
    · next h =>
      have := cellsWrite_inside m.bytes (line * 64) d (a - line * 64) (by omega)
      rw [show line * 64 + (a - line * 64) = a by omega] at this
      rw [this, List.getD_eq_getElem?_getD, List.getElem?_eq_getElem (by omega)]
      rfl
    · next h => exact cellsWrite_outside _ _ _ _ (by omega)
  show (match m.entry? (a / 64) with
    | some e => (tabFind e.bytes (a % 64)).getD (tabGet (cellsWrite m.bytes (line * 64) d) a 0#8)
    | none => tabGet (cellsWrite m.bytes (line * 64) d) a 0#8) = _
  rw [hb]
  by_cases h : line * 64 ≤ a ∧ a < line * 64 + d.length
  · have : a / 64 = line := by omega
    simp [this, he, h]
  · simp only [h, if_false, Mem.byteOf]

theorem find_none_line {l : List WcEntry} {k : Nat} (h : ∀ x ∈ l, x.line ≠ k) : l.find? (fun x => x.line == k) = none := by
  rw [List.find?_eq_none]
  exact fun x hx => by simpa using h x hx

/-- The entry of a line replaced by another of the same line. -/
theorem find_map_line (l : List WcEntry) (e : WcEntry) (n k : Nat) (he : e.line = n) (hex : ∃ x ∈ l, x.line = n) :
    (l.map (fun x => if x.line == n then e else x)).find? (fun x => x.line == k) =
      if k = n then some e else l.find? (fun x => x.line == k) := by
  induction l with
  | nil => simp at hex
  | cons x t ih =>
    rw [List.map_cons, List.find?_cons, List.find?_cons]
    by_cases hx : x.line = n
    · have h1 : ((x.line == n) : Bool) = true := by simpa using hx
      simp only [h1, if_true]
      by_cases hk : k = n
      · have : ((e.line == k) : Bool) = true := by simpa using he.trans hk.symm
        simp only [this, if_pos hk]
      · have h2 : ((e.line == k) : Bool) = false := by simpa using fun h => hk (h.symm.trans he)
        have h3 : ((x.line == k) : Bool) = false := by simpa using fun h => hk (h.symm.trans hx)
        simp only [h2, h3, hk, if_false]
        by_cases hex' : ∃ y ∈ t, y.line = n
        · simpa only [hk, if_false] using ih hex'
        · have : t.map (fun x => if x.line == n then e else x) = t := by
            conv_rhs => rw [← List.map_id t]
            refine List.map_congr_left (fun y hy => ?_)
            have : y.line ≠ n := fun hyl => hex' ⟨y, hy, hyl⟩
            simp [this]
          rw [this]
    · have h1 : ((x.line == n) : Bool) = false := by simpa using hx
      have hex' : ∃ y ∈ t, y.line = n := by
        obtain ⟨y, hy, hyl⟩ := hex
        rcases List.mem_cons.1 hy with rfl | hy
        · exact absurd hyl hx
        · exact ⟨y, hy, hyl⟩
      simp only [h1, Bool.false_eq_true, if_false]
      by_cases hk : x.line = k
      · have h2 : ((x.line == k) : Bool) = true := by simpa using hk
        have : k ≠ n := fun h => hx (hk.trans h)
        simp only [h2, this, if_false]
      · have h2 : ((x.line == k) : Bool) = false := by simpa using hk
        simp only [h2]
        exact ih hex'

theorem find_append_line (l : List WcEntry) (e : WcEntry) (k : Nat) (hl : l.find? (fun x => x.line == e.line) = none) :
    (l ++ [e]).find? (fun x => x.line == k) = if k = e.line then some e else l.find? (fun x => x.line == k) := by
  rw [List.find?_append]
  by_cases hk : k = e.line
  · subst hk; simp [hl]
  · have : ((e.line == k) : Bool) = false := by simpa using fun h => hk h.symm
    simp [this, hk]

/-- What an entry with data merged in from byte pa on shows at a, on its line. -/
theorem tabFind_merged (b : List Host.Cell) {pa a : Nat} {d : List Byte} (_ : pa % 64 + d.length ≤ 64) (hline : a / 64 = pa / 64) :
    tabFind (wcMerge b (pa % 64) d) (a % 64) =
      if pa ≤ a ∧ a < pa + d.length then some (d.getD (a - pa) 0#8) else tabFind b (a % 64) := by
  rw [tabFind_wcMerge]
  by_cases hr : pa ≤ a ∧ a < pa + d.length
  · have h1 : pa % 64 ≤ a % 64 ∧ a % 64 < pa % 64 + d.length := by omega
    have h2 : a % 64 - pa % 64 = a - pa := by omega
    simp only [h1, hr, and_self, if_true, h2, List.getD_eq_getElem?_getD]
    rw [List.getElem?_eq_getElem (by omega)]
    rfl
  · have h1 : ¬ (pa % 64 ≤ a % 64 ∧ a % 64 < pa % 64 + d.length) := by omega
    simp only [h1, hr, if_false]

/-- A memory whose entry of one line has data merged in, and whose other lines are as they were. -/
theorem Mem.byteOf_merged {m k : Mem} {pa a : Nat} {d : List Byte} {b : List Host.Cell} {e : WcEntry} (hl : pa % 64 + d.length ≤ 64)
    (hbytes : k.bytes = m.bytes) (hb : e.bytes = wcMerge b (pa % 64) d)
    (hent : ∀ q, k.entry? q = if q = pa / 64 then some e else m.entry? q)
    (hold : m.entry? (pa / 64) = none ∧ b = [] ∨ ∃ o, m.entry? (pa / 64) = some o ∧ o.bytes = b) :
    k.byteOf a = if pa ≤ a ∧ a < pa + d.length then d.getD (a - pa) 0#8 else m.byteOf a := by
  simp only [Mem.byteOf, hent, hbytes]
  by_cases hal : a / 64 = pa / 64
  · simp only [hal, if_true, hb, tabFind_merged b hl hal]
    rcases hold with ⟨hn, rfl⟩ | ⟨o, ho, rfl⟩
    · simp only [hn]; split <;> simp [tabFind]
    · simp only [ho]; split <;> simp
  · have : ¬ (pa ≤ a ∧ a < pa + d.length) := by omega
    simp only [hal, if_false, this]

/-- A write within one line changes just the bytes that it names. -/
theorem Mem.byteOf_writePiece {m : Mem} (g : Grade) (pa : Nat) (d : List Byte) (poison : Bool) (hl : pa % 64 + d.length ≤ 64) (h : m.wf)
    (a : Nat) : (Mem.writePiece g m pa d poison).byteOf a = if pa ≤ a ∧ a < pa + d.length then d.getD (a - pa) 0#8 else m.byteOf a := by
  simp only [Mem.writePiece]
  split
  · next e he =>
    obtain ⟨hm, hline⟩ := find_line he
    have hw := wcMerge_wf (h.entry hm).1 (h.entry hm).2 hl
    obtain ⟨E, hE⟩ : ∃ E : WcEntry, ({ e with
      bytes := wcMerge e.bytes (pa % 64) d, poison := poison || (decide (d.length < 64) && e.poison) } : WcEntry) = E := ⟨_, rfl⟩
    have hEb : E.bytes = wcMerge e.bytes (pa % 64) d := by rw [← hE]
    have hEl : E.line = pa / 64 := by rw [← hE]; exact hline
    have hEw : E.wf := by simp only [WcEntry.wf, hEb]; exact hw
    -- the memory with the entry replaced, whether or not the entry then leaves
    have hk : ∀ q, Mem.entry? { m with wc := m.wc.map (fun x => if x.line == pa / 64 then E else x) } q =
        if q = pa / 64 then some E else m.entry? q := fun q => find_map_line m.wc E (pa / 64) q hEl ⟨e, hm, hline⟩
    have hmid := Mem.byteOf_merged (m := m) (a := a) (k := { m with wc := m.wc.map (fun x => if x.line == pa / 64 then E else x) }) hl rfl hEb hk
      (.inr ⟨e, he, rfl⟩)
    split
    · rw [hE, ← hmid]
      simp only [Mem.byteOf, Mem.entry?_leave, Mem.leave_bytes hEw, hk, hEl]
      by_cases hal : a / 64 = pa / 64 <;> simp [hal]
    · rw [hE]; exact hmid
  · next he =>
    have hn : m.entry? (pa / 64) = none := he
    split
    · next hd =>
      have hp : pa = pa / 64 * 64 := by omega
      have := Mem.byteOf_plain (m := m) (line := pa / 64) d poison hn (by omega) a
      rw [← hp] at this
      exact this
    · have hadd : ∀ k : Mem, k.entry? (pa / 64) = none → (∀ x, k.byteOf x = m.byteOf x) →
          Mem.byteOf { k with wc := k.wc ++ [(⟨pa / 64, wcMerge [] (pa % 64) d, poison⟩ : WcEntry)] } a =
            if pa ≤ a ∧ a < pa + d.length then d.getD (a - pa) 0#8 else m.byteOf a := by
        intro k hk hb
        rw [← hb a]
        exact Mem.byteOf_merged (m := k) (a := a) (e := ⟨pa / 64, wcMerge [] (pa % 64) d, poison⟩) hl rfl rfl
          (fun q => find_append_line k.wc ⟨pa / 64, wcMerge [] (pa % 64) d, poison⟩ q hk) (.inl ⟨hk, rfl⟩)
      split
      · split
        · next e t hmine =>
          have hmem : e ∈ m.wc := by
            have : e ∈ m.wc.filter (fun e => pairOf g e.line == pairOf g (pa / 64)) := by rw [hmine]; exact List.mem_cons_self ..
            exact (List.mem_filter.1 this).1
          refine hadd _ ?_ (fun x => Mem.byteOf_leave h (h.entry?_of_mem hmem) x)
          rw [Mem.entry?_leave]
          split
          · rfl
          · exact hn
        · exact hadd m hn (fun _ => rfl)
      · exact hadd m hn (fun _ => rfl)

theorem pieces_first {size a fuel len : Nat} (h : len ≠ 0) :
    pieces size a (fuel + 1) len = (a, min len (size - a % size)) :: pieces size (a + min len (size - a % size)) fuel (len - min len (size - a % size)) := by
  simp [pieces, h]

/-- A write of any length changes just the bytes that it names (R249, R250). -/
theorem Mem.byteOf_write {m : Mem} (g : Grade) (pa : Nat) (d : List Byte) (poison : Bool) (h : m.wf) (a : Nat) :
    (Mem.write g m pa d poison).byteOf a = if pa ≤ a ∧ a < pa + d.length then d.getD (a - pa) 0#8 else m.byteOf a := by
  -- the pieces from `at_` on write the bytes from there on
  have go : ∀ (fuel at_ len : Nat) (k : Mem), k.wf → pa ≤ at_ → at_ + len = pa + d.length → len = 0 ∨ at_ % 64 + len ≤ fuel * 64 →
      ((pieces 64 at_ fuel len).foldl (fun m x => Mem.writePiece g m x.1 ((d.drop (x.1 - pa)).take x.2) poison) k).byteOf a =
        if at_ ≤ a ∧ a < pa + d.length then d.getD (a - pa) 0#8 else k.byteOf a := by
    intro fuel
    induction fuel with
    | zero =>
      intro at_ len k _ _ h2 h3
      have : ¬ (at_ ≤ a ∧ a < pa + d.length) := by omega
      simp only [pieces, List.foldl_nil, this, if_false]
    | succ n ih =>
      intro at_ len k hk h1 h2 h3
      by_cases hlen : len = 0
      · have : ¬ (at_ ≤ a ∧ a < pa + d.length) := by omega
        simp only [pieces, hlen, if_true, List.foldl_nil, this, if_false]
      · rw [pieces_first hlen, List.foldl_cons]
        generalize hw : min len (64 - at_ % 64) = w
        have hdl : ((d.drop (at_ - pa)).take w).length = w := by simp only [List.length_take, List.length_drop]; omega
        have hfit : at_ % 64 + ((d.drop (at_ - pa)).take w).length ≤ 64 := by omega
        rw [ih (at_ + w) (len - w) _ (Mem.writePiece_wf g _ _ _ hfit hk) (by omega) (by omega) (by omega),
          Mem.byteOf_writePiece g _ _ _ hfit hk]
        simp only [hdl]
        by_cases ha : at_ + w ≤ a ∧ a < pa + d.length
        · have : at_ ≤ a ∧ a < pa + d.length := by omega
          simp only [ha, this, and_self, if_true]
        · by_cases hb : at_ ≤ a ∧ a < at_ + w
          · have h5 : at_ ≤ a ∧ a < pa + d.length := by omega
            have h6 : at_ - pa + (a - at_) = a - pa := by omega
            rw [if_neg ha, if_pos hb, if_pos h5, List.getD_eq_getElem?_getD, List.getD_eq_getElem?_getD,
              List.getElem?_take_of_lt (by omega), List.getElem?_drop, h6]
          · have : ¬ (at_ ≤ a ∧ a < pa + d.length) := by omega
            simp only [ha, hb, this, if_false]
  exact go (d.length / 64 + 2) pa d.length m h (Nat.le_refl _) rfl (.inr (by omega))

theorem reset_mem_wf : State.reset.mem.wf := Mem.init_wf

end Sys2Proof.Machine
end

