-- ==== Sys2Proof/Laws/Events.lean ====
section
/-! SUPPORT. What an event, an interrupt, a Logbook record, and a counted access to memory can change
(R413, R416, R428, R436 to R438, R497): each operation once, as the fields that it may touch. -/
namespace Sys2Proof.Machine

/-! ### Interrupts, events and records -/

/-- Registers, partitions, the Logbook, outputs and interrupt tables may differ; nothing else does. -/
def State.byEvents (s t : State) : Prop :=
  t = { s with regs := t.regs, parts := t.parts, rel := t.rel, out := t.out, msixTab := t.msixTab }

theorem State.byEvents.refl (s : State) : s.byEvents s := rfl

theorem State.byEvents.trans {s t u : State} (h : s.byEvents t) (k : t.byEvents u) : s.byEvents u := by
  unfold State.byEvents at *
  rw [h] at k
  exact k

theorem State.wr_byEvents (s : State) (r : Reg) (b i j : Nat) (v : Word) : s.byEvents (s.wr r b i j v) := rfl
theorem State.setFld_byEvents (s : State) (r : Reg) (b i j hi lo v : Nat) : s.byEvents (s.setFld r b i j hi lo v) := rfl
theorem State.orReg_byEvents (s : State) (r : Reg) (b i j v : Nat) : s.byEvents (s.orReg r b i j v) := rfl
theorem State.countFld_byEvents (s : State) (r : Reg) (b i j hi lo k : Nat) : s.byEvents (s.countFld r b i j hi lo k) := rfl
theorem State.setPart_byEvents (s : State) (p : Nat) (x : Part) : s.byEvents (s.setPart p x) := rfl
theorem State.onPart_byEvents (s : State) (p : Nat) (f : Part → Part) : s.byEvents (s.onPart p f) := rfl
theorem State.onRel_byEvents (s : State) (f : Reliab → Reliab) : s.byEvents (s.onRel f) := rfl
theorem State.emit_byEvents (s : State) (o : Out) : s.byEvents (s.emit o) := rfl
theorem State.msixWr_byEvents (s : State) (fn : Master) (off : Nat) (v : Word) : s.byEvents (s.msixWr fn off v) := rfl

theorem State.sendMsix_byEvents (s : State) (fn : Master) (v : Nat) : s.byEvents (s.sendMsix fn v) := by
  simp only [State.sendMsix]
  split
  · exact s.msixWr_byEvents ..
  · exact s.emit_byEvents _

theorem State.requestVector_byEvents (s : State) (p v : Nat) : s.byEvents (s.requestVector p v) := by
  simp only [State.requestVector]
  split
  · exact s.setPart_byEvents ..
  · split
    · exact s.sendMsix_byEvents ..
    · exact (s.setPart_byEvents ..).trans (State.sendMsix_byEvents ..)

theorem State.setCause_byEvents (s : State) (p cause : Nat) : s.byEvents (s.setCause p cause) := by
  simp only [State.setCause]
  split
  · exact s.orReg_byEvents ..
  · exact (s.orReg_byEvents ..).trans (State.requestVector_byEvents ..)

theorem State.raise_byEvents (s : State) (p cause unit tag value : Nat) : s.byEvents (s.raise p cause unit tag value) := by
  simp only [State.raise]
  split
  · split
    · exact ((s.setCause_byEvents ..).trans (State.countFld_byEvents ..)).trans (State.setCause_byEvents ..)
    · exact (s.setCause_byEvents ..).trans (State.countFld_byEvents ..)
  · exact (s.onPart_byEvents ..).trans (State.setCause_byEvents ..)

theorem State.offerBmc_byEvents (s : State) (q : LogRec) : s.byEvents (s.offerBmc q) := by
  simp only [State.offerBmc]
  split
  · exact s.onRel_byEvents _
  · exact s.countFld_byEvents ..

/-- A record goes into the ring, to the BMC's queue and to its partition; nothing else changes. -/
theorem State.log_byEvents (s : State) (r : LogRec) : s.byEvents (s.log r) := by
  have fresh : ∀ r : LogRec, s.byEvents (let t := (s.onRel (fun x =>
      { x with ring := tabPut x.ring (x.seq % 4096) (some r), seq := x.seq + 1 })).offerBmc r
    if r.part < 8 then (t.orReg .logRd 0 r.part 0 0x80000000).raise r.part 11 0 r.tag r.seq else t) := by
    intro r
    have h := (s.onRel_byEvents (fun x => { x with ring := tabPut x.ring (x.seq % 4096) (some r), seq := x.seq + 1 })).trans
      (State.offerBmc_byEvents _ r)
    simp only
    split
    · exact (h.trans (State.orReg_byEvents ..)).trans (State.raise_byEvents ..)
    · exact h
  simp only [State.log]
  split
  · split
    · exact s.onRel_byEvents _
    · exact fresh { r with mtime := s.now, seq := s.rel.seq % 2 ^ 32, temp := s.unitTemp r.kind r.unit, mv := s.unitMv r.kind r.unit }
  · exact fresh { r with mtime := s.now, seq := s.rel.seq % 2 ^ 32, temp := s.unitTemp r.kind r.unit, mv := s.unitMv r.kind r.unit }

theorem State.byEvents.mem_eq {s t : State} (h : s.byEvents t) : t.mem = s.mem := by rw [h]
theorem State.byEvents.cores_eq {s t : State} (h : s.byEvents t) : t.cores = s.cores := by rw [h]
theorem State.byEvents.fabric_eq {s t : State} (h : s.byEvents t) : t.fabric = s.fabric := by rw [h]
theorem State.byEvents.fuses_eq {s t : State} (h : s.byEvents t) : t.fuses = s.fuses := by rw [h]
theorem State.byEvents.flash_eq {s t : State} (h : s.byEvents t) : t.flash = s.flash := by rw [h]
theorem State.byEvents.power_eq {s t : State} (h : s.byEvents t) : t.power = s.power := by rw [h]
theorem State.byEvents.pins_eq {s t : State} (h : s.byEvents t) : t.pins = s.pins := by rw [h]
theorem State.byEvents.grade_eq {s t : State} (h : s.byEvents t) : t.grade = s.grade := by rw [h]
theorem State.byEvents.clockHalt_eq {s t : State} (h : s.byEvents t) : t.clockHalt = s.clockHalt := by rw [h]
theorem State.byEvents.votes_eq {s t : State} (h : s.byEvents t) : t.votes = s.votes := by rw [h]
theorem State.byEvents.pending_eq {s t : State} (h : s.byEvents t) : t.pending = s.pending := by rw [h]

/-! ### The newest record (R413, R416) -/

theorem State.newest_onRel (s : State) (f : Reliab → Reliab) (hr : (f s.rel).ring = s.rel.ring) (hq : (f s.rel).seq = s.rel.seq) :
    (s.onRel f).newest = s.newest := by
  simp only [State.newest, State.onRel, hr, hq]

/-- After a record is written or merged, the newest record is of its class, kind and place. -/
theorem State.log_newest (s : State) (r : LogRec) : ∃ w, (s.log r).newest = some w ∧ w.cls = r.cls ∧ w.kind = r.kind ∧ w.unit = r.unit ∧
    w.sub = r.sub ∧ w.addr = r.addr := by
  have keep : ∀ (t : State) (p cause unit tag value : Nat), (t.raise p cause unit tag value).rel = t.rel := by
    intro t p cause unit tag value
    have hm : ∀ (t : State) (fn : Master) (v : Nat), (t.sendMsix fn v).rel = t.rel := by
      intro t fn v; simp only [State.sendMsix]; split <;> rfl
    have hv : ∀ (t : State) (p v : Nat), (t.requestVector p v).rel = t.rel := by
      intro t p v; simp only [State.requestVector]; split
      · rfl
      · split
        · exact hm ..
        · rw [hm]; rfl
    have hc : ∀ (t : State) (p c : Nat), (t.setCause p c).rel = t.rel := by
      intro t p c; simp only [State.setCause]; split
      · rfl
      · simp only [hv]; rfl
    simp only [State.raise]
    split
    · split
      · simp only [hc]; show ((t.setCause p cause).countFld .helmEvqStatus 0 p 0 31 16 1).rel = _; exact hc t p cause
      · exact hc t p cause
    · simp only [hc]; rfl
  have bmc : ∀ (t : State) (q : LogRec), (t.offerBmc q).rel.ring = t.rel.ring ∧ (t.offerBmc q).rel.seq = t.rel.seq := by
    intro t q; simp only [State.offerBmc]; split <;> exact ⟨rfl, rfl⟩
  have fresh : ∀ r : LogRec, (let t := (s.onRel (fun x =>
      { x with ring := tabPut x.ring (x.seq % 4096) (some r), seq := x.seq + 1 })).offerBmc r
    if r.part < 8 then (t.orReg .logRd 0 r.part 0 0x80000000).raise r.part 11 0 r.tag r.seq else t).newest = some r := by
    intro r
    have hb := bmc (s.onRel (fun x => { x with ring := tabPut x.ring (x.seq % 4096) (some r), seq := x.seq + 1 })) r
    have h : ∀ t : State, t.rel.ring = tabPut s.rel.ring (s.rel.seq % 4096) (some r) → t.rel.seq = s.rel.seq + 1 → t.newest = some r := by
      intro t h1 h2
      simp only [State.newest, h1, h2, Nat.succ_ne_zero, if_false, Nat.add_sub_cancel, tabFind_put_same]
    simp only
    split
    · refine h _ ?_ ?_
      · rw [keep]; exact hb.1
      · rw [keep]; exact hb.2
    · exact h _ hb.1 hb.2
  simp only [State.log]
  split
  · next w hw =>
    split
    · next hsame =>
      simp only [Bool.and_eq_true, LogRec.sameAs, beq_iff_eq] at hsame
      obtain ⟨⟨⟨⟨⟨⟨h1, h2⟩, h3⟩, h4⟩, h5⟩, -⟩, -⟩ := hsame
      refine ⟨{ w with repeats := Nat.min (w.repeats + 1 + r.repeats) 0xFFFFFFFF }, ?_, h1, h2, h3, h4, h5⟩
      have hs : s.rel.seq ≠ 0 := fun h => by simp [State.newest, h] at hw
      simp only [State.newest, State.onRel, hs, if_false, tabFind_put_same]
    · exact ⟨_, fresh { r with mtime := s.now, seq := s.rel.seq % 2 ^ 32, temp := s.unitTemp r.kind r.unit, mv := s.unitMv r.kind r.unit }, rfl, rfl, rfl, rfl, rfl⟩
  · exact ⟨_, fresh { r with mtime := s.now, seq := s.rel.seq % 2 ^ 32, temp := s.unitTemp r.kind r.unit, mv := s.unitMv r.kind r.unit }, rfl, rfl, rfl, rfl, rfl⟩

/-! ### Memory with its counters (R497) -/

/-- A change of memory that is counted leaves the memory that it makes, and everything else but counters. -/
theorem State.memDo_same (s : State) (w : Who) (f : Mem → Mem) : ({ s with mem := f s.mem } : State).sameButCounters (s.memDo w f) :=
  (State.hubEvent_same _ _ _ _).trans (State.hubEvent_same _ _ _ _)

@[simp] theorem State.memDo_mem (s : State) (w : Who) (f : Mem → Mem) : (s.memDo w f).mem = f s.mem := (s.memDo_same w f).mem_eq
@[simp] theorem State.memDo_cores (s : State) (w : Who) (f : Mem → Mem) : (s.memDo w f).cores = s.cores := (s.memDo_same w f).cores_eq
@[simp] theorem State.memDo_parts (s : State) (w : Who) (f : Mem → Mem) : (s.memDo w f).parts = s.parts := (s.memDo_same w f).parts_eq
@[simp] theorem State.memDo_fabric (s : State) (w : Who) (f : Mem → Mem) : (s.memDo w f).fabric = s.fabric := (s.memDo_same w f).fabric_eq

end Sys2Proof.Machine
end

