-- ==== Sys2Proof/Laws/Almanac.lean ====
section
/-! SUPPORT. What an entry of the Almanac and an error in protected storage can change (R406, R421 to R423). -/
namespace Sys2Proof.Machine

/-! ### Entries (R421 to R423) -/

/-- Nothing but the fault history differs. -/
def State.byHistory (s t : State) : Prop := t = { s with rel := t.rel }

theorem State.byHistory.refl (s : State) : s.byHistory s := rfl

theorem State.byHistory.trans {s t u : State} (h : s.byHistory t) (k : t.byHistory u) : s.byHistory u := by
  unfold State.byHistory at *
  rw [h] at k
  exact k

theorem State.byHistory.byEvents {s t : State} (h : s.byHistory t) : s.byEvents t := by
  unfold State.byHistory at h
  unfold State.byEvents
  rw [h]

theorem State.onRel_byHistory (s : State) (f : Reliab → Reliab) : s.byHistory (s.onRel f) := rfl
theorem State.setService_byHistory (s : State) : s.byHistory s.setService := rfl
theorem State.setEntry_byHistory (s : State) (lh : Bool) (k u b l : Nat) (f : AlmEntry → AlmEntry) : s.byHistory (s.setEntry lh k u b l f) := rfl

theorem State.retire_byHistory {s t : State} {f : Nat} (h : s.retire f = some t) : s.byHistory t := by
  simp only [State.retire] at h
  split at h
  · cases h; exact .refl s
  · split at h
    · cases h
    · cases h; exact s.onRel_byHistory _

theorem State.retireLocation_byHistory (s : State) (k u b l : Nat) : s.byHistory (s.retireLocation k u b l) := by
  simp only [State.retireLocation]
  split
  · exact .refl s
  · split
    · split
      · exact State.retire_byHistory ‹_›
      · exact s.setService_byHistory.trans (State.setEntry_byHistory ..)
    · exact s.setEntry_byHistory ..

theorem State.becamePermanent_byHistory (s : State) (k u b l : Nat) : s.byHistory (s.becamePermanent k u b l) := by
  unfold State.becamePermanent
  split
  · exact s.onRel_byHistory _
  · exact s.retireLocation_byHistory ..
  · exact .refl s

/-- An error at a location changes the fault history alone. -/
theorem State.note_byHistory (s : State) (k c u b l p : Nat) : s.byHistory (s.note k c u b l p).1 := by
  simp only [State.note]
  split
  · have h : ∀ t : State, s.byHistory t → s.byHistory (if c == 6 then t.setService else t) := by
      intro t h
      split
      · exact h.trans t.setService_byHistory
      · exact h
    split
    · exact (h _ (s.setEntry_byHistory ..)).trans (State.becamePermanent_byHistory ..)
    · exact h _ (s.setEntry_byHistory ..)
  · split
    · exact s.setService_byHistory
    · simp only
      split
      · exact (s.onRel_byHistory _).trans (State.becamePermanent_byHistory ..)
      · exact s.onRel_byHistory _

/-! ### Errors in protected storage (R406) -/

/-- The record of an error changes what records and entries change. -/
theorem State.sramNote_byEvents (s : State) (c k p u b w : Nat) : s.byEvents (s.sramNote c k p u b w) :=
  (s.note_byHistory ..).byEvents.trans (State.log_byEvents ..)

/-- The newest record then names the error's class, kind and unit. -/
theorem State.sramNote_newest (s : State) (c k p u b w : Nat) :
    ∃ r, (s.sramNote c k p u b w).newest = some r ∧ r.cls = c ∧ r.kind = k ∧ r.unit = u ∧ r.sub = b := by
  obtain ⟨r, h, h1, h2, h3, h4, -⟩ := (s.note k c u b w 0).1.log_newest
    { LogRec.base c k p u with sub := b, flags := (s.note k c u b w 0).2 }
  exact ⟨r, h, h1, h2, h3, h4⟩

@[simp] theorem State.sramErrors_nil (s : State) (n : Nat) : s.sramErrors n [] = s := by simp [State.sramErrors]
@[simp] theorem State.hubErrors_nil (s : State) : s.hubErrors [] = s := rfl
@[simp] theorem State.lineErrors_nil (s : State) (src : MemSource) (here : Nat → Bool) : s.lineErrors src here [] = s := rfl

/-- A correctable error of a core leaves the core, the memory and the other cores as they are. -/
theorem State.sramErrors_corrected (s : State) (n : Nat) (e : SramErr) (h : e.ue = false) : s.byEvents (s.sramErrors n [e]) := by
  simp only [State.sramErrors, List.foldl_cons, List.foldl_nil, State.sramError, h]
  split
  · exact .refl s
  · exact s.sramNote_byEvents ..

end Sys2Proof.Machine
end

