-- ==== Sys2Proof/Laws/Pilot.lean ====
section
/-! SUPPORT. How a pilot command ends, from how its body runs (R205 to R222). -/
namespace Sys2Proof.Machine

section issue
variable (s : State) (n : Nat) (c : Cmd)

theorem State.core_issue_other {m : Nat} (h : m ≠ n) : (s.issue n c).core m = s.core m := by
  obtain ⟨_, _, _, ho, _⟩ := s.issue_spec n c
  exact ho m h

/-- What the issue leaves of the core: CC and CP moved on, and the tagging count. -/
theorem State.core_issue : (s.issue n c).core n =
    { (s.core n).issued with tagCount := ((s.issue n c).core n).tagCount, tagArmed := ((s.issue n c).core n).tagArmed } := by
  obtain ⟨k, hk, hc, _⟩ := s.issue_spec n c
  rw [hc]
  obtain rfl | rfl | rfl := hk <;> rfl

@[simp] theorem State.issue_parts : (s.issue n c).parts = s.parts := by
  obtain ⟨_, _, _, _, he, _⟩ := s.issue_spec n c
  rw [he]

@[simp] theorem State.issue_mem : (s.issue n c).mem = s.mem := by
  obtain ⟨_, _, _, _, he, _⟩ := s.issue_spec n c
  rw [he]

@[simp] theorem State.issue_fabric : (s.issue n c).fabric = s.fabric := by
  obtain ⟨_, _, _, _, he, _⟩ := s.issue_spec n c
  rw [he]

@[simp] theorem State.issue_grade : (s.issue n c).grade = s.grade := by
  obtain ⟨_, _, _, _, he, _⟩ := s.issue_spec n c
  rw [he]

@[simp] theorem State.issue_rel : (s.issue n c).rel = s.rel := by
  obtain ⟨_, _, _, _, he, _⟩ := s.issue_spec n c
  rw [he]

@[simp] theorem State.issue_free : (s.issue n c).free = s.free := by
  obtain ⟨_, _, _, _, he, _⟩ := s.issue_spec n c
  rw [he]

@[simp] theorem State.issue_hubCycles : (s.issue n c).hubCycles = s.hubCycles := by
  obtain ⟨_, _, _, _, he, _⟩ := s.issue_spec n c
  rw [he]

theorem State.rd_issue {r : Reg} {b i j : Nat} (h : r.addr b i j < countersFrom) : (s.issue n c).rd r b i j = s.rd r b i j := by
  obtain ⟨_, _, _, _, _, hr⟩ := s.issue_spec n c
  exact hr r b i j h

@[simp] theorem State.holder_issue (m : Nat) : (s.issue n c).holder m = s.holder m := by simp only [State.holder, State.issue_parts]
@[simp] theorem State.part_issue (p : Nat) : (s.issue n c).part p = s.part p := by simp only [State.part, State.issue_parts]
@[simp] theorem State.rectOf_issue (m : Nat) : (s.issue n c).rectOf m = s.rectOf m := by simp only [State.rectOf, State.issue_parts]
@[simp] theorem State.nCores_issue : (s.issue n c).nCores = s.nCores := by simp only [State.nCores, State.issue_grade]
@[simp] theorem State.withheld_issue (m : Nat) : (s.issue n c).withheld m = s.withheld m := by
  simp only [State.withheld, State.issue_rel]

@[simp] theorem State.xval_issue (m k : Nat) : ((s.issue n c).core m).xval k = (s.core m).xval k := by
  by_cases h : m = n
  · subst h; rw [s.core_issue]; rfl
  · rw [s.core_issue_other n c h]

@[simp] theorem State.w3of_issue (k : Nat) : (s.issue n c).w3of n c k = s.w3of n c k := by simp only [State.w3of, State.xval_issue]

@[simp] theorem State.cs_issue (m : Nat) : ((s.issue n c).core m).cs = (s.core m).cs := by
  by_cases h : m = n
  · subst h; rw [s.core_issue]; rfl
  · rw [s.core_issue_other n c h]

@[simp] theorem State.csPoison_issue (m : Nat) : ((s.issue n c).core m).csPoison = (s.core m).csPoison := by
  by_cases h : m = n
  · subst h; rw [s.core_issue]; rfl
  · rw [s.core_issue_other n c h]

@[simp] theorem State.csRead_issue (m a len : Nat) : ((s.issue n c).core m).csRead a len = (s.core m).csRead a len := by
  simp only [Core.csRead, State.cs_issue, State.csPoison_issue]

@[simp] theorem State.cc_issue : ((s.issue n c).core n).cc = s.ccNext n := by rw [s.core_issue]; rfl
@[simp] theorem State.cp_issue : ((s.issue n c).core n).cp = ((s.core n).cp + 32) % 2 ^ 48 := by rw [s.core_issue]; rfl
@[simp] theorem State.recording_issue : ((s.issue n c).core n).recording = (s.core n).recording := by rw [s.core_issue]; rfl
@[simp] theorem State.occupied_issue : ((s.issue n c).core n).occupied = (s.core n).occupied := by rw [s.core_issue]; rfl
@[simp] theorem State.reckon_issue : ((s.issue n c).core n).reckon = (s.core n).reckon := by rw [s.core_issue]; rfl
@[simp] theorem State.inFlight_issue : ((s.issue n c).core n).inFlight = (s.core n).inFlight := by rw [s.core_issue]; rfl

/-- Registers below the counters' block are not touched by an issue. -/
theorem State.fld_issue {r : Reg} {b i j hi lo : Nat} (h : r.addr b i j < countersFrom) :
    (s.issue n c).fld r b i j hi lo = s.fld r b i j hi lo := by simp only [State.fld, s.rd_issue n c h]

end issue

theorem Reg.helmSyncCtl_addr {k : Nat} (h : k < 16384) : Reg.helmSyncCtl.addr 0 k 0 < countersFrom := by
  simp [Reg.addr, Reg.spec, Blk.base, countersFrom]; omega

@[simp] theorem State.objHeld_issue (s : State) (n : Nat) (c : Cmd) (p k : Nat) : (s.issue n c).objHeld p k = s.objHeld p k := by
  by_cases h : k < 16384
  · simp only [State.objHeld, s.fld_issue n c (Reg.helmSyncCtl_addr h)]
  · simp [State.objHeld, h]

section run
variable {n : Nat} {c : Cmd} {s : State}

theorem State.canRun.holder (h : s.canRun n c) : ∃ p, s.holder n = some p := by
  obtain ⟨_, hf, _⟩ := h
  simp only [State.fetchStop] at hf
  split at hf
  · simp at hf
  · split at hf
    · simp at hf
    · next p hp => exact ⟨p, hp⟩

theorem State.canRun.running (h : s.canRun n c) : (s.core n).pilot = .running := by
  have h1 := h.1
  simp [State.mayIssue] at h1
  simp_all

theorem State.canRun.replay (h : s.canRun n c) : (s.core n).replay = none := by
  have h1 := h.1
  simp [State.mayIssue] at h1
  simp_all

theorem State.canRun.failures (h : s.canRun n c) : (s.core n).failures = [] := by
  have h1 := h.1
  simp [State.mayIssue] at h1
  simp_all

/-- The checks of every command pass. -/
theorem go_checkCmd (h : s.canRun n c) : CM.go (checkCmd n c) ⟨s.issue n c, 0, none⟩ = (.ok (), ⟨s.issue n c, 0, none⟩) := by
  obtain ⟨p, hp⟩ := h.holder
  obtain ⟨_, _, ⟨hc, hs, ha, hv⟩, _, _⟩ := h
  have e1 : (!c.sig || s.objHeld p c.sigObj) = true := by
    cases hsig : c.sig with
    | false => rfl
    | true =>
      obtain ⟨q, hq, ho⟩ := hs hsig
      rw [hp] at hq
      cases hq
      simpa using ho
  have e2 : (!(c.op == 0x05 && c.vary && (s.core n).reckon)) = true := by
    by_cases h5 : c.op = 5
    · cases hvv : c.vary with
      | false => simp
      | true => simp [ha h5 hvv]
    · simp [h5]
  simp only [checkCmd, CM.go_bind, hc, CM.go_need, if_true, CM.go_getS, CM.go_holderOf (r := ⟨s.issue n c, 0, none⟩) (by simpa using hp),
    State.objHeld_issue, e1, State.reckon_issue]
  split
  · next o ho =>
    have e3 : (o.var != 2 || c.vary) = true := by
      by_cases h2 : o.var = 2
      · simp [hv o ho h2]
      · simp [h2]
    simp [CM.go_bind, e2, e3]
  · rfl

/-- The recording takes no copy of the command. -/
theorem go_record (h : s.canRun n c) : CM.go (record n c) ⟨s.issue n c, 0, none⟩ = (.ok (), ⟨s.issue n c, 0, none⟩) := by
  obtain ⟨_, _, _, _, hr⟩ := h
  simp only [record, CM.go_bind, CM.go_getS, State.recording_issue, State.occupied_issue]
  split
  · rfl
  · next r hr' =>
    have : (notRecorded c.op || (s.core n).occupied) = true := by
      rcases hr with h | h | h
      · rw [h] at hr'; cases hr'
      · simp [h]
      · simp [h]
    simp [this]

/-- The run of a command that may issue is the run of its body. -/
theorem pilotRun_eq (h : s.canRun n c) (body : CM Bool) :
    pilotRun n c body s = match CM.go body ⟨s.issue n c, 0, none⟩ with
      | (.ok true, r) => r.s.complete n c (s.ccNext n) r.flags
      | (.ok false, r) => r.s
      | (.error .wait, _) => s
      | (.error (.status code a), r) =>
        (if code < 0x40 || code == 0x50 then s.issue n c else r.s).failed n c (s.core n).cp (s.ccNext n) code r.flags a := by
  obtain ⟨hm, hf, hp, ht, hr⟩ := id h
  have e1 : CM.go (record n c) ⟨s.issue n c, 0, none⟩ = _ := go_record h
  have e2 : CM.go (do checkCmd n c; body) ⟨s.issue n c, 0, none⟩ = CM.go body ⟨s.issue n c, 0, none⟩ := by
    rw [CM.go_bind_ok (go_checkCmd h)]
  simp only [pilotRun, hm, hf, hp.1, ht, Bool.not_true, Bool.and_false, if_false, Bool.false_eq_true, CM.go_def]
  have e3 : ((s.onCore n Core.issued).coreEvent n 0x02 1 none).tagIssue n c (((s.core n).cc + 1) % 2 ^ 64) = s.issue n c := rfl
  rw [e3, e1]
  dsimp only
  rw [e2]
  rfl

/-- A command whose body ends well completes. -/
theorem pilotRun_completes (h : s.canRun n c) {body : CM Bool} {r : Run}
    (hb : CM.go body ⟨s.issue n c, 0, none⟩ = (.ok true, r)) : pilotRun n c body s = r.s.complete n c (s.ccNext n) r.flags := by
  rw [pilotRun_eq h, hb]

/-- A command whose body leaves it in flight has changed the state as its body did. -/
theorem pilotRun_inFlight (h : s.canRun n c) {body : CM Bool} {r : Run}
    (hb : CM.go body ⟨s.issue n c, 0, none⟩ = (.ok false, r)) : pilotRun n c body s = r.s := by
  rw [pilotRun_eq h, hb]

/-- A command that its body refuses or stops waits for its exception (R222). -/
theorem pilotRun_stops (h : s.canRun n c) {body : CM Bool} {r : Run} {code a : Nat}
    (hb : CM.go body ⟨s.issue n c, 0, none⟩ = (.error (.status code a), r)) :
    pilotRun n c body s =
      (if code < 0x40 || code == 0x50 then s.issue n c else r.s).failed n c (s.core n).cp (s.ccNext n) code r.flags a := by
  rw [pilotRun_eq h, hb]

end run

end Sys2Proof.Machine
end

