-- ==== Sys2Proof/Laws/Requests.lean ====
section
/-! SUPPORT. The accessors of the state after Helm has passed the turn among the requests (R281) and after the Almanac's sectors are written
(R417). -/
namespace Sys2Proof.Machine

/-! ### passTurn -/

@[simp] theorem State.passTurn_grade (s : State) (p : Nat) : (s.passTurn p).grade = s.grade := rfl
@[simp] theorem State.passTurn_regs (s : State) (p : Nat) : (s.passTurn p).regs = s.regs := rfl
@[simp] theorem State.passTurn_latches (s : State) (p : Nat) : (s.passTurn p).latches = s.latches := rfl
@[simp] theorem State.passTurn_cores (s : State) (p : Nat) : (s.passTurn p).cores = s.cores := rfl
@[simp] theorem State.passTurn_mem (s : State) (p : Nat) : (s.passTurn p).mem = s.mem := rfl
@[simp] theorem State.passTurn_parts (s : State) (p : Nat) : (s.passTurn p).parts = s.parts := rfl
@[simp] theorem State.passTurn_reqTurn (s : State) (p : Nat) : (s.passTurn p).reqTurn = (p + 1) % 8 := rfl
@[simp] theorem State.passTurn_addIssued (s : State) (p : Nat) : (s.passTurn p).addIssued = s.addIssued := rfl
@[simp] theorem State.passTurn_addApplied (s : State) (p : Nat) : (s.passTurn p).addApplied = s.addApplied := rfl
@[simp] theorem State.passTurn_fabric (s : State) (p : Nat) : (s.passTurn p).fabric = s.fabric := rfl
@[simp] theorem State.passTurn_rel (s : State) (p : Nat) : (s.passTurn p).rel = s.rel := rfl
@[simp] theorem State.passTurn_flash (s : State) (p : Nat) : (s.passTurn p).flash = s.flash := rfl
@[simp] theorem State.passTurn_fuses (s : State) (p : Nat) : (s.passTurn p).fuses = s.fuses := rfl
@[simp] theorem State.passTurn_power (s : State) (p : Nat) : (s.passTurn p).power = s.power := rfl
@[simp] theorem State.passTurn_start (s : State) (p : Nat) : (s.passTurn p).start = s.start := rfl
@[simp] theorem State.passTurn_pins (s : State) (p : Nat) : (s.passTurn p).pins = s.pins := rfl
@[simp] theorem State.passTurn_clockHalt (s : State) (p : Nat) : (s.passTurn p).clockHalt = s.clockHalt := rfl
@[simp] theorem State.passTurn_votes (s : State) (p : Nat) : (s.passTurn p).votes = s.votes := rfl
@[simp] theorem State.passTurn_vfHeld (s : State) (p : Nat) : (s.passTurn p).vfHeld = s.vfHeld := rfl
@[simp] theorem State.passTurn_nonce (s : State) (p : Nat) : (s.passTurn p).nonce = s.nonce := rfl
@[simp] theorem State.passTurn_mctpEid (s : State) (p : Nat) : (s.passTurn p).mctpEid = s.mctpEid := rfl
@[simp] theorem State.passTurn_msixTab (s : State) (p : Nat) : (s.passTurn p).msixTab = s.msixTab := rfl
@[simp] theorem State.passTurn_dumps (s : State) (p : Nat) : (s.passTurn p).dumps = s.dumps := rfl
@[simp] theorem State.passTurn_tagged (s : State) (p : Nat) : (s.passTurn p).tagged = s.tagged := rfl
@[simp] theorem State.passTurn_hubCycles (s : State) (p : Nat) : (s.passTurn p).hubCycles = s.hubCycles := rfl
@[simp] theorem State.passTurn_free (s : State) (p : Nat) : (s.passTurn p).free = s.free := rfl
@[simp] theorem State.passTurn_out (s : State) (p : Nat) : (s.passTurn p).out = s.out := rfl
@[simp] theorem State.passTurn_pending (s : State) (p : Nat) : (s.passTurn p).pending = s.pending := rfl

/-! ### onSectors -/

@[simp] theorem State.onSectors_grade (s : State) (f : AlmSectors → AlmSectors) : (s.onSectors f).grade = s.grade := rfl
@[simp] theorem State.onSectors_regs (s : State) (f : AlmSectors → AlmSectors) : (s.onSectors f).regs = s.regs := rfl
@[simp] theorem State.onSectors_latches (s : State) (f : AlmSectors → AlmSectors) : (s.onSectors f).latches = s.latches := rfl
@[simp] theorem State.onSectors_cores (s : State) (f : AlmSectors → AlmSectors) : (s.onSectors f).cores = s.cores := rfl
@[simp] theorem State.onSectors_mem (s : State) (f : AlmSectors → AlmSectors) : (s.onSectors f).mem = s.mem := rfl
@[simp] theorem State.onSectors_parts (s : State) (f : AlmSectors → AlmSectors) : (s.onSectors f).parts = s.parts := rfl
@[simp] theorem State.onSectors_reqTurn (s : State) (f : AlmSectors → AlmSectors) : (s.onSectors f).reqTurn = s.reqTurn := rfl
@[simp] theorem State.onSectors_addIssued (s : State) (f : AlmSectors → AlmSectors) : (s.onSectors f).addIssued = s.addIssued := rfl
@[simp] theorem State.onSectors_addApplied (s : State) (f : AlmSectors → AlmSectors) : (s.onSectors f).addApplied = s.addApplied := rfl
@[simp] theorem State.onSectors_fabric (s : State) (f : AlmSectors → AlmSectors) : (s.onSectors f).fabric = s.fabric := rfl
@[simp] theorem State.onSectors_rel (s : State) (f : AlmSectors → AlmSectors) : (s.onSectors f).rel = s.rel := rfl
@[simp] theorem State.onSectors_fuses (s : State) (f : AlmSectors → AlmSectors) : (s.onSectors f).fuses = s.fuses := rfl
@[simp] theorem State.onSectors_power (s : State) (f : AlmSectors → AlmSectors) : (s.onSectors f).power = s.power := rfl
@[simp] theorem State.onSectors_start (s : State) (f : AlmSectors → AlmSectors) : (s.onSectors f).start = s.start := rfl
@[simp] theorem State.onSectors_pins (s : State) (f : AlmSectors → AlmSectors) : (s.onSectors f).pins = s.pins := rfl
@[simp] theorem State.onSectors_clockHalt (s : State) (f : AlmSectors → AlmSectors) : (s.onSectors f).clockHalt = s.clockHalt := rfl
@[simp] theorem State.onSectors_votes (s : State) (f : AlmSectors → AlmSectors) : (s.onSectors f).votes = s.votes := rfl
@[simp] theorem State.onSectors_vfHeld (s : State) (f : AlmSectors → AlmSectors) : (s.onSectors f).vfHeld = s.vfHeld := rfl
@[simp] theorem State.onSectors_nonce (s : State) (f : AlmSectors → AlmSectors) : (s.onSectors f).nonce = s.nonce := rfl
@[simp] theorem State.onSectors_mctpEid (s : State) (f : AlmSectors → AlmSectors) : (s.onSectors f).mctpEid = s.mctpEid := rfl
@[simp] theorem State.onSectors_msixTab (s : State) (f : AlmSectors → AlmSectors) : (s.onSectors f).msixTab = s.msixTab := rfl
@[simp] theorem State.onSectors_dumps (s : State) (f : AlmSectors → AlmSectors) : (s.onSectors f).dumps = s.dumps := rfl
@[simp] theorem State.onSectors_tagged (s : State) (f : AlmSectors → AlmSectors) : (s.onSectors f).tagged = s.tagged := rfl
@[simp] theorem State.onSectors_hubCycles (s : State) (f : AlmSectors → AlmSectors) : (s.onSectors f).hubCycles = s.hubCycles := rfl
@[simp] theorem State.onSectors_free (s : State) (f : AlmSectors → AlmSectors) : (s.onSectors f).free = s.free := rfl
@[simp] theorem State.onSectors_out (s : State) (f : AlmSectors → AlmSectors) : (s.onSectors f).out = s.out := rfl
@[simp] theorem State.onSectors_pending (s : State) (f : AlmSectors → AlmSectors) : (s.onSectors f).pending = s.pending := rfl

/-- What is written is what is read. -/
@[simp] theorem State.onSectors_sectors (s : State) (f : AlmSectors → AlmSectors) : (s.onSectors f).sectors = f s.sectors := by
  show tabGet (tabSet s.flash.almanacs s.almPlace AlmSectors.erased (f s.sectors)) s.almPlace AlmSectors.erased = f s.sectors
  exact tabGet_set_same ..

end Sys2Proof.Machine
end

