-- ==== Sys2Proof/Tests/Slice0.lean ====
section
/-! SUPPORT. Tests: a command that is not well formed is refused by each check; small facts of single steps, worked out by hand from the
rules named; and for each statement of Certificates/Slice0/Obligations.lean a theorem named after it that shows states and operands which
meet the hypotheses of its clauses, at a boundary of their range where they have one: core 191, partition 7, object 16,383, group 255, link 31,
queue 63. -/
namespace Sys2Proof.Tests
set_option Elab.async false
open Sys2Proof Sys2Proof.Machine

/-! ### Helpers -/

/-- A pilot command: opcode, the rest of W0 from bit 8 on, and W1 to W3. -/
def cmd (op f w1 w2 w3 : Nat) : Cmd := ⟨BitVec.ofNat 64 (op + 256 * f), BitVec.ofNat 64 w1, BitVec.ofNat 64 w2, BitVec.ofNat 64 w3⟩

/-- Registers set one by one: register, block, indices and value. -/
def put (l : List (Reg × Nat × Nat × Nat × Nat)) (s : State) : State :=
  l.foldl (fun s x => s.wr x.1 x.2.1 x.2.2.1 x.2.2.2.1 (BitVec.ofNat 32 x.2.2.2.2)) s

/-- A large page at 0, resident in the first frame. -/
def page0 : Page := ⟨0, false, true, false, false, some 0, 0, 0, none⟩

def part7 : Part := { Part.init with
  rects := [⟨0, 2, 1, 190, false⟩], pages := [page0], frames := [0, 1], freeFrames := [1], objects := [16383], groups := [255] }

/-- Ready state: partition 7 holds cores 190 and 191, which run; object 16,383 and group 255 are its own. -/
def w : State := put [(.lcStatus, 0, 0, 0, 0xA0000000), (.helmPart, 0, 7, 0, 0x40000000), (.helmSyncCtl, 0, 16383, 0, 0x78)]
  { State.reset with
    parts := [(7, part7)]
    cores := [(190, { Core.init with pilot := .running, cp := 0x1000 }), (191, { Core.init with pilot := .running, cp := 0x1000 })] }

/-- The ready state with the registers of core 191 as given. -/
def wx (x : Tab DWord) : State := w.onCore 191 (fun k => { k with x := x })

/-- The state after a command that answers one. -/
def after (i : Instr) (s : State) : State := match exec i s with
  | .next t => t
  | _ => State.reset

/-- The checks of `State.canRun` as a Bool. -/
def ready (s : State) (n : Nat) (c : Cmd) : Bool :=
  s.mayIssue n c && (s.fetchStop n).isNone && c.clean &&
  (!c.sig || (match s.holder n with
    | some p => s.objHeld p c.sigObj
    | none => false)) &&
  !(c.op == 0x05 && c.vary && (s.core n).reckon) &&
  (match opSpec c.op with
    | some o => o.var != 2 || c.vary
    | none => true) &&
  !(c.readsOf.any (s.core n).tags.contains) && (decide ((s.core n).recording = none) || notRecorded c.op || (s.core n).occupied)

theorem canRun_of {s : State} {n : Nat} {c : Cmd} (h : ready s n c = true) : s.canRun n c := by
  simp only [ready, Bool.and_eq_true, Bool.or_eq_true, Bool.not_eq_true', decide_eq_true_eq] at h
  obtain ⟨⟨⟨⟨⟨⟨⟨h1, h2⟩, h3⟩, h4⟩, h5⟩, h6⟩, h7⟩, h8⟩ := h
  refine ⟨h1, by simpa using h2, ⟨h3, ?_, ?_, ?_⟩, h7, by
    rcases h8 with (h | h) | h
    · exact Or.inl h
    · exact Or.inr (Or.inl h)
    · exact Or.inr (Or.inr h)⟩
  · intro hs
    rcases h4 with h | h
    · rw [hs] at h; cases h
    · split at h
      · next p hp => exact ⟨p, hp, h⟩
      · cases h
  · intro ho hv
    simpa [ho, hv] using h5
  · intro o ho hv
    rw [ho] at h6
    simpa [hv] using h6

/-- The command faults in the ready state. -/
def stops (i : Instr) : Bool := match exec i w with
  | .fault _ => true
  | _ => false

theorem stops_iff (i : Instr) : stops i = true ↔ exec i w = .fault .illFormed := by
  unfold stops
  split
  · next f h => cases f; simp [h]
  · next h => exact ⟨fun h => (by simp at h), fun h' => absurd h' (h _)⟩

/-! ### Commands that are not well formed (R1, R164, R210, R311, R318) -/

theorem test_illFormed_core : stops (.nop 192 (cmd 0 0 0 0 0)) = true := by decide +kernel
theorem test_illFormed_opcode : stops (.add 191 (cmd 0x43 0 0 0 0)) = true := by decide +kernel
theorem test_illFormed_known : stops (.invalidOpcode 191 (cmd 0x43 0 0 0 0)) = true := by decide +kernel
theorem test_illFormed_lane : stops (.vecAdd 191 0#64) = true := by decide +kernel
theorem test_illFormed_partition : stops (.map 8) = true := by decide +kernel
theorem test_illFormed_queue : stops (.jobCompletion 7 64) = true := by decide +kernel
theorem test_illFormed_object : stops (.syncObjectSet .mgmt 16384 0#32) = true := by decide +kernel
theorem test_illFormed_master : stops (.lowWordRead (.vf 8) 0) = true := by decide +kernel
theorem test_illFormed_port : stops (.pciePerst 4) = true := by decide +kernel
theorem test_illFormed_physical : stops (.lowWordRead (.pf 4) 0) = true := by decide +kernel
theorem test_illFormed_rdc : stops (.lowWordRead (.rdc 192) 0) = true := by decide +kernel
theorem test_illFormed_link : stops (.trainTimeout 32) = true := by decide +kernel
theorem test_illFormed_stack : stops (.hbmRefresh 12) = true := by decide +kernel
theorem test_illFormed_array : stops (.lighthouseSample 191 4 0 1 true) = true := by decide +kernel
theorem test_illFormed_tile : stops (.lighthouseSample 191 3 16 1 true) = true := by decide +kernel
theorem test_illFormed_bank : stops (.programStage .mgmt 191 2 0 0#32) = true := by decide +kernel
theorem test_illFormed_entry : stops (.programStage .mgmt 191 1 32 0#32) = true := by decide +kernel
theorem test_illFormed_group : stops (.formationTimeout 256) = true := by decide +kernel
theorem test_illFormed_vector : stops (.msixHoldoffEnd 7 16) = true := by decide +kernel
theorem test_illFormed_priority : stops (.priorityFlowControl 31 8 true) = true := by decide +kernel
theorem test_illFormed_die : stops (.coreClockStep 2) = true := by decide +kernel
theorem test_illFormed_sensor : stops (.thermalTrip 3) = true := by decide +kernel
theorem test_illFormed_rail : stops (.pmbusPoll 10 0 0 true) = true := by decide +kernel
theorem test_illFormed_segment : stops (.segmentRetest 32 true) = true := by decide +kernel
theorem test_illFormed_line : stops (.sidebandStuck 13 true) = true := by decide +kernel
theorem test_illFormed_pll : stops (.clockHalt (.corePll 2)) = true := by decide +kernel
theorem test_illFormed_divider : stops (.clockHalt (.divider 12)) = true := by decide +kernel
theorem test_illFormed_quarter : stops (.sdsRefclkLoss 4) = true := by decide +kernel
theorem test_illFormed_counter : stops (.ownerWrite .mgmt 32 0#32) = true := by decide +kernel
theorem test_illFormed_fiRow : stops (.fiMatchWrite .mgmt 31 8 0#32) = true := by decide +kernel
theorem test_illFormed_disableBit : stops (.linkDisable .mgmt 31 0x80000000#32) = true := by decide +kernel
theorem test_illFormed_enableBit : stops (.linkEnable .mgmt 31 0#32) = true := by decide +kernel
theorem test_illFormed_switchBit : stops (.switch .mgmt 191 0#32) = true := by decide +kernel
theorem test_illFormed_formBit : stops (.form .mgmt 255 0#32) = true := by decide +kernel
theorem test_illFormed_abortBit : stops (.groupAbort .mgmt 255 0#32) = true := by decide +kernel
theorem test_illFormed_chartBit : stops (.chartRead .mgmt 0#32) = true := by decide +kernel
theorem test_illFormed_retrainBit : stops (.retrain .mgmt 31 0#32) = true := by decide +kernel

/-- A WRITE packet from this device to itself, partition 7, to virtual address 0x2000. -/
def pkt : Packet := ⟨0, 0, 0x01, 0, 0, 7, 31, 0, 0, 0, 0, 0x2000, leBytes 0x0807060504030201 8, false⟩

theorem test_illFormed_packets : ∀ k ∈ [{ pkt with lseq := 65536 }, { pkt with vc := 4 }, { pkt with typ := 64 }, { pkt with dest := 4096 },
    { pkt with src := 4096 }, { pkt with part := 8 }, { pkt with ttl := 32 }, { pkt with cls := 2 }, { pkt with group := 256 },
    { pkt with incarn := 65536 }, { pkt with sseq := 2 ^ 32 }, { pkt with target := 2 ^ 64 }, { pkt with payload := leBytes 0 7 },
    { pkt with payload := leBytes 0 264 }, { pkt with rsv := true }, { pkt with typ := 2 }],
    stops (.writePacket 31 k) = true := by decide +kernel
theorem test_illFormed_packetLink : stops (.writePacket 33 pkt) = true := by decide +kernel
theorem test_illFormed_packetKind : stops (.groupCard 31 pkt) = true := by decide +kernel

/-! ### Pilot commands: what one step gives (R203, R207, R212, R216, R219, R230) -/

theorem test_li_full_width : ((after (.li 191 (cmd 0x40 0 3 0xFEDCBA9876543210 0)) w).core 191).xval 3 = 0xFEDCBA9876543210#64 := by decide +kernel
theorem test_li_x0 : ((after (.li 191 (cmd 0x40 0 0 5 0)) w).core 191).xval 0 = 0#64 := by decide +kernel
theorem test_add_wraps : ((after (.add 191 (cmd 0x42 0 0x2043 0 0)) (wx [(1, 0xFFFFFFFFFFFFFFFF#64), (2, 2#64)])).core 191).xval 3 = 1#64 := by
  decide +kernel
theorem test_sub_order : ((after (.sub 191 (cmd 0x43 0 0x2043 0 0)) (wx [(1, 5#64), (2, 7#64)])).core 191).xval 3 = 0xFFFFFFFFFFFFFFFE#64 := by
  decide +kernel
theorem test_mul_low : ((after (.mul 191 (cmd 0x44 0 0x2043 0 0)) (wx [(1, 0x100000001#64), (2, 0x100000002#64)])).core 191).xval 3 =
    0x300000002#64 := by decide +kernel
theorem test_addi_source_is_destination : ((after (.addi 191 (cmd 0x45 0 0x41 0xFFFFFFFFFFFFFFFF 0)) (wx [(1, 5#64)])).core 191).xval 1 = 4#64 := by
  decide +kernel
theorem test_shl_mod_64 : ((after (.shl 191 (cmd 0x49 0 0x2043 0 0)) (wx [(1, 1#64), (2, 65#64)])).core 191).xval 3 = 2#64 := by decide +kernel
theorem test_shr_logical : ((after (.shr 191 (cmd 0x4A 0 0x2043 0 0)) (wx [(1, 0x8000000000000000#64), (2, 63#64)])).core 191).xval 3 = 1#64 := by
  decide +kernel
theorem test_sra_arithmetic : ((after (.sra 191 (cmd 0x4B 0 0x2043 0 0)) (wx [(1, 0x8000000000000000#64), (2, 63#64)])).core 191).xval 3 =
    0xFFFFFFFFFFFFFFFF#64 := by decide +kernel
theorem test_slt_signed : ((after (.slt 191 (cmd 0x4C 0 0x2043 0 0)) (wx [(1, 0xFFFFFFFFFFFFFFFF#64), (2, 0#64)])).core 191).xval 3 = 1#64 := by
  decide +kernel
theorem test_blt_signed : ((after (.blt 191 (cmd 0x4F 0 0x2040 0x4000 0)) (wx [(1, 0xFFFFFFFFFFFFFFFF#64)])).core 191).cp = 0x4000 := by decide +kernel
theorem test_bge_equal : ((after (.bge 191 (cmd 0x50 0 0x2040 0x4000 0)) (wx [(1, 7#64), (2, 7#64)])).core 191).cp = 0x4000 := by decide +kernel
theorem test_beq_not_taken : ((after (.beq 191 (cmd 0x4D 0 0x2040 0x4000 0)) (wx [(1, 7#64)])).core 191).cp = 0x1020 := by decide +kernel
theorem test_loop_counts : let k := (after (.loop 191 (cmd 0x54 0 0x40 0x4000 0)) (wx [(1, 2#64)])).core 191
    k.xval 1 = 1#64 ∧ k.cp = 0x4000 := by decide +kernel
theorem test_loop_ends : let k := (after (.loop 191 (cmd 0x54 0 0x40 0x4000 0)) (wx [(1, 1#64)])).core 191
    k.xval 1 = 0#64 ∧ k.cp = 0x1020 := by decide +kernel
theorem test_call_pushes : let k := (after (.call 191 (cmd 0x52 0 0 0x4000 0)) (wx [(63, 0x3FFC00#64)])).core 191
    k.cp = 0x4000 ∧ k.xval 63 = 0x3FFBF8#64 ∧ (k.csRead 0x3FFBF8 8).1 = leBytes 0x1020 8 := by decide +kernel
theorem test_store_then_byte_order : (((after (.st 191 (cmd 0x56 0 0x42040 8 0)) (wx [(2, 0x0102030405060708#64)])).core 191).csRead 8 2).1 =
    [8#8, 7#8] := by decide +kernel
theorem test_store_memory : (after (.st 191 (cmd 0x56 0 0x2040 0x2000 0)) (wx [(2, 0x55#64)])).byteAt 0x2000 = [0x55#8] := by decide +kernel
theorem test_jmp_unaligned : ((after (.jmp 191 (cmd 0x51 0 0 0x4010 0)) w).core 191).failures.map (·.status) = [0x05] := by decide +kernel
theorem test_halt_code : let k := (after (.halt 191 (cmd 0x3E 0 0 0 1)) (wx [(1, 9#64)])).core 191
    k.pilot = .halted ∧ k.haltCode = some 9 := by decide +kernel
theorem test_issue_counts : let k := (after (.nop 191 (cmd 0 0 0 0 0)) w).core 191
    k.cc = 1 ∧ k.cp = 0x1020 := by decide +kernel
theorem test_signal_adds : (after (.nop 191 (cmd 0 0x103FFF04 0 0 0)) w).rd .helmSyncCount 0 16383 = 17#32 := by decide +kernel
theorem test_sset : (after (.sset 191 (cmd 0x2A 0 0 0 0x81)) (wx [(1, 16383#64), (2, 6#64)])).rd .helmSyncCount 0 16383 = 6#32 := by decide +kernel
theorem test_swait_blocks : ((after (.swait 191 (cmd 0x28 0 0 0 0x81)) (wx [(1, 16383#64), (2, 6#64)])).core 191).pilot = .waitSync 16383 6 false := by
  decide +kernel
theorem test_swait_other_object : ((after (.swait 191 (cmd 0x28 0 0 0 0x81)) (wx [(1, 5#64), (2, 6#64)])).core 191).failures.map (·.status) =
    [0x0E] := by decide +kernel
theorem test_x0_wait_passes : ((after (.swait 191 (cmd 0x28 0 0 0 1)) (wx [(1, 16383#64)])).core 191).pilot = .running := by decide +kernel
theorem test_unused_field : ((after (.nop 191 (cmd 0 0 1 0 0)) w).core 191).failures.map (·.status) = [0x01] := by decide +kernel

/-! ### Witnesses of the statements on pilot commands -/

/-- Three operand registers x1 and x2 and destination x3. -/
def scalars : List Cmd := [cmd 0x40 0 3 7 0, cmd 0x41 0 0x43 0 0, cmd 0x42 0 0x2043 0 0, cmd 0x43 0 0x2043 0 0, cmd 0x44 0 0x2043 0 0,
  cmd 0x45 0 0x43 7 0, cmd 0x46 0 0x2043 0 0, cmd 0x47 0 0x2043 0 0, cmd 0x48 0 0x2043 0 0, cmd 0x49 0 0x2043 0 0, cmd 0x4A 0 0x2043 0 0,
  cmd 0x4B 0 0x2043 0 0, cmd 0x4C 0 0x2043 0 0]

theorem test_ScalarArithmetic : scalars.map Cmd.op = (List.range 13).map (0x40 + ·) ∧ ∀ c ∈ scalars, w.canRun 191 c :=
  ⟨by decide +kernel, fun c h => canRun_of ((by decide +kernel : ∀ c ∈ scalars, ready w 191 c = true) c h)⟩

/-- Branches to the highest target, and a jump to one that is not aligned. -/
def branches : List Cmd := [0x4D, 0x4E, 0x4F, 0x50].map (fun o => cmd o 0 0x2040 0xFFFFFFFFFFE0 0) ++
  [cmd 0x51 0 0 0xFFFFFFFFFFE0 0, cmd 0x54 0 0x40 0xFFFFFFFFFFE0 0]

theorem test_BranchesAndJumps : (∀ c ∈ branches, c.w2.toNat % 32 = 0 ∧ c.w2.toNat < 2 ^ 48 ∧ w.canRun 191 c) ∧
    (let c := cmd 0x51 0 0 0x4001 0
    w.canRun 191 c ∧ c.w2.toNat % 32 ≠ 0) :=
  ⟨fun c h => have := (by decide +kernel : ∀ c ∈ branches, (c.w2.toNat % 32 = 0 ∧ c.w2.toNat < 2 ^ 48) ∧ ready w 191 c = true) c h
    ⟨this.1.1, this.1.2, canRun_of this.2⟩, canRun_of (by decide +kernel), by decide +kernel⟩

/-- Core 191 with a return address at the top of its stack. -/
def wRet : State := (wx [(63, 0x3FFBF8#64)]).onCore 191 (fun k => k.csWrite 0x3FFBF8 (leBytes 0x1020 8) false)

theorem test_CallAndReturn :
    (let c := cmd 0x52 0 0 0x4000 0
    let s := wx [(63, 0x3FFC00#64)]
    s.canRun 191 c ∧ c.w2.toNat % 32 = 0 ∧ c.w2.toNat < 2 ^ 48 ∧ ((s.core 191).xval 63 - 8#64).toNat % 8 = 0 ∧
      ((s.core 191).xval 63 - 8#64).toNat + 8 ≤ shadowBase) ∧
    (let c := cmd 0x52 0 0 0x4000 0
    let s := wx [(63, 0x3FFC08#64)]
    s.canRun 191 c ∧ c.w2.toNat % 32 = 0 ∧ c.w2.toNat < 2 ^ 48 ∧ ¬ ((s.core 191).xval 63 - 8#64).toNat + 8 ≤ shadowBase) ∧
    (let c := cmd 0x53 0 0 0 0
    wRet.canRun 191 c ∧ ((wRet.core 191).xval 63).toNat % 8 = 0 ∧ ((wRet.core 191).xval 63).toNat + 8 ≤ shadowBase ∧
      (wRet.core 191).csRead 0x3FFBF8 8 = (leBytes 0x1020 8, false) ∧ 0x1020 % 32 = 0) :=
  ⟨⟨canRun_of (by decide +kernel), by decide +kernel⟩, ⟨canRun_of (by decide +kernel), by decide +kernel⟩,
    ⟨canRun_of (by decide +kernel), by decide +kernel⟩⟩

theorem test_LoadsAndStores :
    (let s := wx [(1, 0x3FFBF8#64)]
    (∀ c ∈ [cmd 0x55 0 0x40043 0 0, cmd 0x56 0 0x42040 0 0], s.canRun 191 c ∧ c.w1.getLsbD 18 = true) ∧
      (((s.core 191).xval 1) + 0#64).toNat % 8 = 0 ∧ (((s.core 191).xval 1) + 0#64).toNat + 8 ≤ shadowBase ∧ ((s.core 191).csRead 0x3FFBF8 8).2 = false) ∧
    (let s := w.onCore 191 (fun k => { k with occupied := true, x := [(1, 0x3FFFF8#64)] })
    s.canRun 191 (cmd 0x55 0 0x40043 0 0) ∧ (s.core 191).occupied = true ∧ ((s.core 191).xval 1).toNat + 8 ≤ 0x400000 ∧
      ((s.core 191).csRead 0x3FFFF8 8).2 = false) ∧
    (let s := wx [(1, 0x1FFFF8#64)]
    (∀ c ∈ [cmd 0x55 0 0x43 0 0, cmd 0x56 0 0x2040 0 0], s.canRun 191 c ∧ c.w1.getLsbD 18 = false) ∧ s.holder 191 = some 7 ∧
      0x1FFFF8 % 8 = 0 ∧ (s.part 7).xlate 0x1FFFF8 false = .here 0x1FFFF8 false ∧ (s.part 7).xlate 0x1FFFF8 true = .here 0x1FFFF8 false ∧
      ((s.mem.settle 0x1FFFF8 8).look 0x1FFFF8 8).2 = false) ∧
    (let c := cmd 0x57 0 3 0xFFFC 0
    w.canRun 191 c ∧ c.w2.toNat % 4 = 0 ∧ c.w2.toNat < 0x10000) ∧
    (let s := wx [(1, 7#64)]
    s.canRun 191 (cmd 0x55 0 0x40043 0 0) ∧ ((s.core 191).xval 1 + 0#64).toNat % 8 ≠ 0) := by
  refine ⟨⟨fun c h => ?_, by decide +kernel⟩, ⟨canRun_of (by decide +kernel), by decide +kernel⟩, ⟨fun c h => ?_, by decide +kernel⟩,
    ⟨canRun_of (by decide +kernel), by decide +kernel⟩, canRun_of (by decide +kernel), by decide +kernel⟩
  · have := (by decide +kernel : ∀ c ∈ [cmd 0x55 0 0x40043 0 0, cmd 0x56 0 0x42040 0 0],
      c.w1.getLsbD 18 = true ∧ ready (wx [(1, 0x3FFBF8#64)]) 191 c = true) c h
    exact ⟨canRun_of this.2, this.1⟩
  · have := (by decide +kernel : ∀ c ∈ [cmd 0x55 0 0x43 0 0, cmd 0x56 0 0x2040 0 0],
      c.w1.getLsbD 18 = false ∧ ready (wx [(1, 0x1FFFF8#64)]) 191 c = true) c h
    exact ⟨canRun_of this.2, this.1⟩

theorem test_ZeroRegister : (63 : Nat) ≠ 0 ∧ (0 : Nat) ≠ 63 := by decide

theorem test_IssueAndCompletion : Reg.addr .lcStatus 0 0 0 < 0x05000000 ∧ (190 : Nat) ≠ 191 ∧
    (let c := cmd 0 0 0 0 0
    c.sig = false ∧ c.irq = false) ∧
    (let c := cmd 0 0xFFFF3FFF04 0 0 0
    c.sig = true ∧ c.irq = false ∧ c.sigObj = 16383) := by decide +kernel

/-- A command in flight. -/
def flying : Flight := ⟨cmd 0x30 0 0 0 0, 0x1000, 1, [], 255, 0⟩

theorem test_PilotControl :
    (∀ c ∈ [cmd 0 0 0 0 0, cmd 0x2D 0 0 0 0, cmd 0x2E 0 0 0 1, cmd 0x3F 0 0 0 0], w.canRun 191 c) ∧ (w.core 191).inFlight = 0 ∧
    w.holder 191 = some 7 ∧ w.evqFull 7 = false ∧ leNat ((w.core 191).csRead 0x3FFE08 8).1 % 32 = 0 ∧
    (let s := w.onCore 191 (fun k => { k with flights := List.replicate 31 flying })
    s.canRun 191 (cmd 0x2D 0 0 0 0) ∧ (s.core 191).inFlight ≠ 0) :=
  ⟨fun c h => canRun_of ((by decide +kernel : ∀ c ∈ [cmd 0 0 0 0 0, cmd 0x2D 0 0 0 0, cmd 0x2E 0 0 0 1, cmd 0x3F 0 0 0 0],
    ready w 191 c = true) c h), by decide +kernel, by decide +kernel, by decide +kernel, by decide +kernel, canRun_of (by decide +kernel), by decide +kernel⟩

theorem test_HaltCodes :
    (let s := wx [(1, 0xFFFFFFEF#64)]
    let c := cmd 0x3E 0 0 0 1
    s.canRun 191 c ∧ s.w3of 191 c 0 % 2 ^ 32 < 0xFFFFFFF0) ∧
    (let s := wx [(1, 0xFFFFFFF0#64)]
    let c := cmd 0x3E 0 0 0 1
    s.canRun 191 c ∧ 0xFFFFFFF0 ≤ s.w3of 191 c 0 % 2 ^ 32) ∧
    (∀ n ∈ [190, 191], (w.core n).fatal = false ∧ (w.core n).haltCode.getD 0 = 0) ∧
    (let s := w.onCore 191 (fun k => { k with haltCode := some 5 })
    (∀ n ∈ [190, 191], (s.core n).fatal = false) ∧ (s.core 191).haltCode.getD 0 ≠ 0 ∧
      ∀ m ∈ [190, 191], m < 191 → (s.core m).haltCode.getD 0 = 0) :=
  ⟨⟨canRun_of (by decide +kernel), by decide +kernel⟩, ⟨canRun_of (by decide +kernel), by decide +kernel⟩, by decide +kernel, by decide +kernel⟩

theorem test_RefusedCommands :
    (∀ code ∈ [0x3F, 0x40, 0x50], w.canRun 191 (cmd 0 0 0 0 0) ∧
      (throw (.status code 0) : CM Bool).run.run ⟨w.issue 191 (cmd 0 0 0 0 0), 0, none⟩ =
        (.error (.status code 0), ⟨w.issue 191 (cmd 0 0 0 0 0), 0, none⟩)) ∧
    (let c := cmd 0x58 0 0 0 0
    opKnown c.op = false ∧ w.mayIssue 191 c = true ∧ w.fetchStop 191 = none ∧ (w.core 191).recording = none) :=
  ⟨fun _ _ => ⟨canRun_of (by decide +kernel), rfl⟩, by decide +kernel⟩

/-- Two failed commands of a core, the later one first. -/
def failed2 : List Failure := [⟨cmd 0x01 0 0 0 0, 0x1020, 0x1040, 2, 0x43, 0, 0, true⟩, ⟨cmd 0x02 0 0 0 0, 0x1000, 0x1020, 1, 0x11, 0, 0, true⟩]

theorem test_ExceptionEntryAndReturn :
    (let s := w.onCore 191 (fun k => { k with failures := failed2 })
    (s.core 191).exceptionDue = true ∧ sortFailures failed2 = failed2.reverse ∧ (s.core 191).occupied = false) ∧
    (let s := w.onCore 191 (fun k => { k with failures := failed2, occupied := true })
    (s.core 191).exceptionDue = true ∧ (s.core 191).occupied = true) ∧
    (let s := w.onCore 191 (fun k => { k with failures := failed2.take 1 })
    (s.core 191).exceptionDue = true ∧ sortFailures (failed2.take 1) = failed2.take 1 ∧ (s.core 191).occupied = false ∧
      ∀ f ∈ failed2, f.next < 2 ^ 48) := by decide +kernel

theorem test_SyncObjects :
    (let s := wx [(1, 16383#64), (2, 6#64)]
    (∀ c ∈ [cmd 0x28 0 0 0 0x81, cmd 0x29 0 0 0 0x81, cmd 0x2A 0 0 0 0x81, cmd 0x28 0 0 0 1], s.canRun 191 c) ∧ s.holder 191 = some 7 ∧
      s.objHeld 7 (s.w3of 191 (cmd 0x28 0 0 0 0x81) 0 % 2 ^ 14) = true ∧ (s.rd .helmSyncCount 0 16383).toNat < s.w3of 191 (cmd 0x28 0 0 0 0x81) 1 % 2 ^ 32 ∧
      s.w3of 191 (cmd 0x28 0 0 0 1) 1 % 2 ^ 32 ≤ (s.rd .helmSyncCount 0 16383).toNat) ∧
    (let s := wx [(1, 0#64)]
    s.canRun 191 (cmd 0x2A 0 0 0 0x81) ∧ s.holder 191 = some 7 ∧ s.objHeld 7 0 = false) ∧
    (let s := w.onCore 191 (fun k => { k with pilot := .waitSync 16383 6 true, blocked := some (cmd 0x28 0 0 0 0x81) })
    (s.core 191).pilot = .waitSync 16383 6 true ∧ (s.core 191).blocked = some (cmd 0x28 0 0 0 0x81) ∧ (s.core 191).frozen = false) ∧
    (∀ m ∈ [Master.mgmt, .vf 7], m.wf = true ∧ w.reachesObj m 16383 = true) := by
  refine ⟨⟨fun c h => canRun_of ?_, by decide +kernel⟩, ⟨canRun_of (by decide +kernel), by decide +kernel⟩, by decide +kernel, by decide +kernel⟩
  exact (by decide +kernel : ∀ c ∈ [cmd 0x28 0 0 0 0x81, cmd 0x29 0 0 0 0x81, cmd 0x2A 0 0 0 0x81, cmd 0x28 0 0 0 1],
    ready (wx [(1, 16383#64), (2, 6#64)]) 191 c = true) c h

/-- Object 16,383 with its threshold interrupt on at 3, and its partition's causes unmasked. -/
def wThr : State := put [(.helmSyncCtl, 0, 16383, 0, 0x79), (.helmSyncIrq, 0, 16383, 0, 3), (.helmIrqMask, 0, 7, 0, 0)] w

theorem test_ThresholdInterrupt :
    (let t := wThr.syncSet 16383 3
    wThr.fld .helmSyncCtl 0 16383 0 0 0 = 1 ∧ (wThr.rd .helmSyncCount 0 16383).toNat < (wThr.rd .helmSyncIrq 0 16383).toNat ∧
      (wThr.rd .helmSyncIrq 0 16383).toNat ≤ (t.rd .helmSyncCount 0 16383).toNat ∧ wThr.evqFull 7 = false ∧
      (wThr.rd .helmIrqMask 0 7).getLsbD 3 = false ∧ (wThr.part 7).msixHold.contains 2 = false) ∧
    (let s := wThr.msixWr (.vf 7) 44 0#32
    (s.msixRd (.vf 7) 44).getLsbD 0 = false) ∧
    ¬ (wThr.rd .helmSyncIrq 0 16383).toNat ≤ ((wThr.syncAdd 16383 2).rd .helmSyncCount 0 16383).toNat := by decide +kernel

/-! ### Witnesses of the statements on tensor commands -/

/-- A descriptor of 128 bytes with scale 1 whose fields beyond the first word of W are 0. -/
def dbytes (base rows cols pitch word : Nat) : List Byte :=
  leBytes base 8 ++ leBytes rows 4 ++ leBytes cols 4 ++ leBytes pitch 8 ++ leBytes 0x3F800000 4 ++ leBytes word 4 ++ List.replicate 96 0#8

/-- Descriptors in core store: FP32 source and destination there, an INT32 and an INT8 tensor there, an FP32 tensor in memory, a BF16 operand of 160
rows, and a Q8C destination with its side arrays. -/
def dSrc : List Byte := dbytes 0x2000 2 64 256 (7 + 2 ^ 23)
def dDst : List Byte := dbytes 0x4000 2 64 256 (7 + 2 ^ 23)
def dInt : List Byte := dbytes 0x4000 2 64 256 (9 + 2 ^ 23)
def dI8 : List Byte := dbytes 0x4000 2 8192 8192 (8 + 2 ^ 23)
def dMem : List Byte := dbytes 0x8000 4 8 64 7
def dOpd : List Byte := dbytes 0x10000 160 1024 2048 (5 + 2 ^ 23)
def dQ8 : List Byte := leBytes 0x20000 8 ++ leBytes 32 4 ++ leBytes 32 4 ++ leBytes 0 8 ++ leBytes 0x3F800000 4 ++ leBytes (2 + 2 ^ 23) 4 ++
  leBytes 0 8 ++ leBytes 0x30000 8 ++ leBytes 0 8 ++ leBytes 0x31000 8 ++ leBytes 0x32000 8 ++ List.replicate 56 0#8

/-- The ready state with descriptors at places in core store, and registers of core 191. -/
def wd (l : List (Nat × List Byte)) (x : Tab DWord) : State := w.onCore 191 (fun k =>
  { k with cs := l.foldl (fun m b => cellsWrite m b.1 b.2) [], x := x })

/-- Offset a of core store as an operand word. -/
def cs (a : Nat) : Nat := a + 2 ^ 48

theorem page7 {a : Nat} (h : a < 0x200000) : part7.page? a = some page0 := by simp [Part.page?, part7, page0, Page.size, h]

theorem xlate7 {a : Nat} (h : a < 0x200000) (b : Bool) : part7.xlate a b = .here a false := by
  rw [Part.xlate, page7 h]
  cases b <;> simp [page0]

theorem maps7 {va len : Nat} (h : va + len ≤ 0x200000) (b : Bool) : part7.maps va len b := fun a _ h2 => ⟨a, xlate7 (by omega) b⟩

theorem onePage7 {va len : Nat} (h : va + len ≤ 0x200000) (b : Bool) : part7.onePage va len b :=
  ⟨page0, 0, rfl, rfl, fun _ => rfl, fun _ _ h2 => page7 (by omega)⟩

/-- `Desc.plainCore` as a Bool. -/
def plain (d : Desc) : Bool := !d.fmt.isSlab && d.loc && decide (d.base + d.extent ≤ shadowBase)

theorem plain_of {d : Desc} (h : plain d = true) : d.plainCore := by
  simp only [plain, Bool.and_eq_true, Bool.not_eq_true', decide_eq_true_eq] at h
  exact ⟨h.1.1, h.1.2, h.2⟩

/-- A computation that answers v and leaves the run as it was. -/
def answers {α : Type} [DecidableEq α] (m : CM α) (s : State) (v : α) : Bool := match m.run.run ⟨s, 0, none⟩ with
  | (.ok x, r) => decide (x = v) && decide (r.s = s) && decide (r.flags = 0) && decide (r.vals = none)
  | _ => false

theorem run_of {α : Type} [DecidableEq α] {m : CM α} {s : State} {v : α} (h : answers m s v = true) :
    m.run.run ⟨s, 0, none⟩ = (.ok v, ⟨s, 0, none⟩) := by
  unfold answers at h
  split at h
  · next x r hr =>
    simp only [Bool.and_eq_true, decide_eq_true_eq] at h
    obtain ⟨⟨⟨h1, h2⟩, h3⟩, h4⟩ := h
    rw [hr, h1]
    cases r
    simp_all
  · cases h

/-- A mailbox message, and a send of it from core 190 to core 191. -/
def msg : Msg := ⟨190, 5, leBytes 7 8, false⟩
def send : Send := ⟨191, msg, cmd 0x2B 0 0x800 0x80005BF 0, 1, none, false⟩

theorem test_Mailboxes :
    (let c := cmd 0x2B 0 0x3FFB00 (256 * 2 ^ 16 + 5 * 256 + 190) 0
    w.canRun 191 c ∧ bits c.w2.toNat 24 16 = 256 ∧ bits c.w2.toNat 7 0 < w.nCores ∧ w.holder (bits c.w2.toNat 7 0) = w.holder 191 ∧
      w.withheld (bits c.w2.toNat 7 0) = false ∧ bits c.w1.toNat 21 0 + bits c.w2.toNat 24 16 ≤ shadowBase ∧ (w.core 191).sends.length < 64) ∧
    (let c := cmd 0x2C 1 0x3FFB00 (0x3FFF + 2 ^ 22) 3
    let s := w.onCore 191 (fun k => { k with mailbox := [msg] })
    s.canRun 191 c ∧ c.vary = true ∧ Cmd.recvSrc c = 0x3FFF ∧ bits c.w1.toNat 21 0 + 256 ≤ shadowBase ∧
      (s.issue 191 c).pickMsg 191 c 0x3FFF 0 true = some 0 ∧ (s.core 191).mailbox[0]? = some msg ∧ (s.core 191).reckon = false) ∧
    (let c := cmd 0x2C 1 0x3FFBF8 (0x3FFF + 2 ^ 22) 3
    let s := w.onCore 191 (fun k => { k with mailbox := [{ msg with data := leBytes 7 16 }] })
    s.canRun 191 c ∧ Cmd.recvRegs c = false ∧ bits c.w1.toNat 21 0 + 8 ≤ shadowBase ∧ shadowBase < bits c.w1.toNat 21 0 + 16 ∧
      (s.issue 191 c).pickMsg 191 c 0x3FFF 0 true = some 0) ∧
    (let c := cmd 0x2C 1 0x3FFBF8 (0x3FFF + 2 ^ 22) 3
    let s := (w.onCore 190 (fun k => { k with sends := [send] })).onCore 191 (fun k => { k with pilot := .waitMsg 0x3FFF 0 true, blocked := some c })
    (s.core 190).sends.find? (fun x => x.dst == 191) = some send ∧ (s.core 191).mailbox.length + s.calledCount 191 < 64 ∧
      (((s.onCore 190 (fun k => { k with stirred := true, sends := k.sends.filter (fun x => x.cc != send.cc) })).onCore 191
        (fun k => { k with mailbox := k.mailbox ++ [send.msg] })).complete 190 send.cmd send.cc 0).pickMsg 191 c 0x3FFF 0 true = some 0) ∧
    (let c := cmd 0x2C 0 (2 ^ 63) (190 + 5 * 2 ^ 14) 3
    w.canRun 191 c ∧ Cmd.recvSrc c < w.nCores ∧ Cmd.recvRegs c = true ∧
      (w.issue 191 c).pickMsg 191 c (Cmd.recvSrc c) (Cmd.recvTag c) (Cmd.recvAny c) = none) ∧
    (let s := (w.onCore 190 (fun k => { k with sends := [send] })).onCore 191 (fun k => { k with mailbox := List.replicate 63 msg })
    (s.core 190).sends.find? (fun x => x.dst == 191) = some send ∧ send.retried = none ∧ (s.core 191).mailbox.length + s.calledCount 191 < 64 ∧
      (s.core 191).blocked = none ∧ 191 ≠ 190) ∧
    (let s := (w.onCore 190 (fun k => { k with sends := [send] })).onCore 191 (fun k => { k with mailbox := List.replicate 64 msg })
    (s.core 190).sends.find? (fun x => x.dst == 191) = some send ∧ 64 ≤ (s.core 191).mailbox.length + s.calledCount 191 ∧ send.called = false) :=
  ⟨⟨canRun_of (by decide +kernel), by decide +kernel⟩, ⟨canRun_of (by decide +kernel), by decide +kernel⟩,
    ⟨canRun_of (by decide +kernel), by decide +kernel⟩, by decide +kernel, ⟨canRun_of (by decide +kernel), by decide +kernel⟩, by decide +kernel,
    by decide +kernel⟩

/-- The descriptors as the block reads them. -/
def dsSrc : Desc := parseDesc 0x1000 dSrc .fp32
def dsDst : Desc := parseDesc 0x1080 dDst .fp32
def dsInt : Desc := parseDesc 0x1100 dInt .int32
def dsI8 : Desc := parseDesc 0x1180 dI8 .int8
def dsMem : Desc := parseDesc 0x1180 dMem .fp32
def dsOpd : Desc := parseDesc 0x1200 dOpd .bf16
def dsQ8 : Desc := parseDesc 0x1280 dQ8 .q8c

theorem test_CoreStoreCopies :
    (let s := wx [(1, 32#64)]
    let c := cmd 0x02 0 0x3FFBE0 (0x3FFBE0 + 190 * 2 ^ 32) 1
    s.canRun 191 c ∧ s.w3of 191 c 0 = 32 ∧ bits c.w2.toNat 39 32 < s.nCores ∧ s.holder 190 = s.holder 191 ∧ s.withheld 190 = false ∧
      bits c.w1.toNat 21 0 + 32 ≤ shadowBase ∧ bits c.w2.toNat 21 0 + 32 ≤ shadowBase) ∧
    (let s := wd [(0x1000, dSrc), (0x1080, dDst)] [(1, 1#64)]
    let c := cmd 0x01 0 (cs 0x1000) (cs 0x1080) 1
    s.canRun 191 c ∧ locOf c.w1 = true ∧ locOf c.w2 = true ∧ (s.core 191).descAt (addrOf c.w1) = some dsSrc ∧
      (s.core 191).descAt (addrOf c.w2) = some dsDst ∧ dsSrc.plainCore ∧ dsDst.plainCore ∧ dsSrc.fmt = dsDst.fmt ∧ s.w3of 191 c 1 = 0 ∧
      s.w3of 191 c 0 + (dsSrc.rows - s.w3of 191 c 0) ≤ dsSrc.rows ∧ s.w3of 191 c 0 + (dsSrc.rows - s.w3of 191 c 0) ≤ dsDst.rows ∧
      dsSrc.rows - s.w3of 191 c 0 = 1 ∧ dsSrc.elemAddr 1 0 + 256 ≤ dsDst.elemAddr 1 0) :=
  ⟨⟨canRun_of (by decide +kernel), by decide +kernel⟩, canRun_of (by decide +kernel), by decide +kernel, by decide +kernel, by decide +kernel,
    by decide +kernel, plain_of (by decide +kernel), plain_of (by decide +kernel), by decide +kernel⟩

theorem test_FillAndSextantStep :
    (∀ c ∈ [cmd 0x06 0 (cs 0x1000) 0 1, cmd 0x07 0 (cs 0x1000) 0 0, cmd 0x07 0 (cs 0x1000) 0 3], (wd [(0x1000, dSrc), (0x1100, dInt)] [(1, 9#64), (3, 2#64)]).canRun 191 c ∧
      locOf c.w1 = true ∧ ((wd [(0x1000, dSrc), (0x1100, dInt)] [(1, 9#64), (3, 2#64)]).core 191).descAt (addrOf c.w1) = some dsSrc) ∧
    dsSrc.plainCore ∧ (dsSrc.cols * dsSrc.fmt.bytes ≤ dsSrc.pitch ∧ 1 ≤ dsSrc.cols ∧ dsSrc.cols ≤ 65536 ∧ dsSrc.fmt = .fp32 ∧
    (wd [(0x1000, dSrc), (0x1100, dInt)] [(1, 9#64), (3, 2#64)]).w3of 191 (cmd 0x07 0 (cs 0x1000) 0 0) 0 = 0 ∧ (wd [(0x1000, dSrc), (0x1100, dInt)] [(1, 9#64), (3, 2#64)]).w3of 191 (cmd 0x07 0 (cs 0x1000) 0 3) 0 = 2) ∧
    (let s := wd [(0x1000, dSrc), (0x1100, dInt)] [(1, 1#64)]
    let c := cmd 0x07 0 (cs 0x1100) 0 1
    s.canRun 191 c ∧ (s.core 191).descAt (addrOf c.w1) = some dsInt ∧ dsInt.plainCore ∧ s.w3of 191 c 0 = 1 ∧ dsInt.fmt = .int32) ∧
    (let s := wd [(0x1180, dI8)] [(1, 3#64)]
    let c := cmd 0x07 0 (cs 0x1180) 0 1
    s.canRun 191 c ∧ (s.core 191).descAt (addrOf c.w1) = some dsI8 ∧ dsI8.plainCore ∧ s.w3of 191 c 0 = 3 ∧ dsI8.fmt = .int8 ∧ 8 * dsI8.cols ≤ 65536) ∧
    (let c := cmd 0x1B 0 (cs 0x3FFBE0) 0 0
    w.canRun 191 c ∧ locOf c.w1 = true ∧ addrOf c.w1 % 32 = 0 ∧ addrOf c.w1 + 20 ≤ shadowBase) := by
  refine ⟨fun c h => ?_, plain_of (by decide +kernel), by decide +kernel, ⟨canRun_of (by decide +kernel), by decide +kernel, plain_of (by decide +kernel), by decide +kernel⟩,
    ⟨canRun_of (by decide +kernel), by decide +kernel, plain_of (by decide +kernel), by decide +kernel⟩, canRun_of (by decide +kernel), by decide +kernel⟩
  have := (by decide +kernel : ∀ c ∈ [cmd 0x06 0 (cs 0x1000) 0 1, cmd 0x07 0 (cs 0x1000) 0 0, cmd 0x07 0 (cs 0x1000) 0 3],
    (locOf c.w1 = true ∧ ((wd [(0x1000, dSrc), (0x1100, dInt)] [(1, 9#64), (3, 2#64)]).core 191).descAt (addrOf c.w1) = some dsSrc) ∧
      ready (wd [(0x1000, dSrc), (0x1100, dInt)] [(1, 9#64), (3, 2#64)]) 191 c = true) c h
  exact ⟨canRun_of this.2, this.1⟩

/-- Registers for SCATADD and GATHER: a list at 0x3FFBF0, a count, a length or size, and the type. -/
def scat : Tab DWord := [(1, 0x3FFBF0#64), (2, 1#64), (3, 32#64)]

theorem test_MemorySideAdds :
    (let s := wx [(2, 1#64)]
    let c := cmd 0x05 1 (0x1FFFF8 + 3 * 2 ^ 49) 0 (1 + 2 * 64)
    s.canRun 191 c ∧ s.holder 191 = some 7 ∧ locOf c.w1 = false ∧ addrOf c.w1 % (AddTy.ofCode (bits c.w1.toNat 50 49)).bytes = 0 ∧
      (s.part 7).xlate (addrOf c.w1) true = .here 0x1FFFF8 false ∧ c.idx 0 ≠ 0) ∧
    (let s := wd [(0x1000, dSrc), (0x1180, dMem)] scat
    let c := cmd 0x04 1 (cs 0x1180) (cs 0x1000) (1 + 2 * 64 + 3 * 4096)
    s.canRun 191 c ∧ ((s.core 191).descAt (addrOf c.w1) = some dsMem ∧ (s.core 191).descAt (addrOf c.w2) = some dsSrc ∧
      dsMem.base % 4 = 0 ∧ dsMem.pitch % 4 = 0 ∧ dsSrc.base % 4 = 0 ∧ dsSrc.pitch % 4 = 0 ∧ s.w3of 191 c 2 = 32 ∧ s.w3of 191 c 3 ≤ 3 ∧
      32 % (AddTy.ofCode (s.w3of 191 c 3)).bytes = 0 ∧ s.w3of 191 c 1 ≤ dsSrc.rows ∧ dsMem.loc = false ∧ dsSrc.loc = true ∧ s.w3of 191 c 0 + 4 * s.w3of 191 c 1 ≤ shadowBase ∧
      dsSrc.base + (s.w3of 191 c 1 - 1) * dsSrc.pitch + 32 ≤ shadowBase ∧ s.part 7 = part7 ∧ dsMem.rows = 4) ∧
      ∀ i, i < 4 → part7.maps (dsMem.base + i * dsMem.pitch) 32 true) ∧
    (let s := wd [(0x1000, dSrc), (0x1180, dMem)] scat
    let c := cmd 0x03 0 (cs 0x1180) 0x3FFBE0 (1 + 2 * 64 + 3 * 4096)
    s.canRun 191 c ∧ ((s.core 191).descAt (addrOf c.w1) = some dsMem ∧ dsMem.base % 8 = 0 ∧ dsMem.pitch % 8 = 0 ∧
      s.w3of 191 c 2 ∈ [8, 16, 24, 32] ∧ bits c.w2.toNat 21 0 + s.w3of 191 c 1 * s.w3of 191 c 2 ≤ shadowBase ∧
      s.w3of 191 c 0 + 4 * s.w3of 191 c 1 ≤ shadowBase ∧ s.part 7 = part7 ∧ dsMem.rows = 4 ∧
      (s.w3of 191 c 0 + 4 * s.w3of 191 c 1 ≤ bits c.w2.toNat 21 0 ∨ s.w3of 191 c 1 ≤ 1) ∧ s.mem.wf) ∧
      ∀ i, i < 4 → part7.onePage (dsMem.base + i * dsMem.pitch) 32 false) ∧
    (let s := (wd [(0x1000, dSrc), (0x1180, dMem)] scat).onCore 191 (fun k => k.csWrite 0x3FFBF0 (leBytes 4 4) false)
    (s.core 191).descAt 0x1180 = some dsMem ∧ dsMem.rows ≤ leNat (cellsRead (s.core 191).cs 0x3FFBF0 4)) := by
  refine ⟨⟨canRun_of (by decide +kernel), by decide +kernel⟩, ⟨canRun_of (by decide +kernel), by decide +kernel, fun i hi => maps7 ?_ _⟩,
    ⟨canRun_of (by decide +kernel), by decide +kernel, fun i hi => onePage7 ?_ _⟩, by decide +kernel⟩ <;>
  · have : dsMem.base = 0x8000 ∧ dsMem.pitch = 64 := by decide +kernel
    rw [this.1, this.2]
    omega

theorem test_CodebookAndProgramLoads :
    (let c := cmd 0x08 0 (cs 0x3FFBF0) 0xF 0
    w.canRun 191 c ∧ locOf c.w1 = true ∧ c.w2.getLsbD 4 = false ∧ addrOf c.w1 + 16 ≤ shadowBase ∧
      ∀ x ∈ ((w.core 191).csRead (addrOf c.w1) 16).1, x.toNat < 64) ∧
    (let c := cmd 0x20 0 (cs 0x3FFB00) (1 + 32 * 64) 0
    w.canRun 191 c ∧ locOf c.w1 = true ∧ addrOf c.w1 % 8 = 0 ∧ bits c.w2.toNat 11 6 = 32 ∧ bits c.w2.toNat 5 1 = 0 ∧
      addrOf c.w1 + 8 * 32 ≤ shadowBase ∧ bits c.w2.toNat 0 0 ≠ w.runBank 191) ∧
    (let c := cmd 0x20 0 (cs 0x3FFBF8) (31 * 2 + 1 * 64) 0
    w.canRun 191 c ∧ bits c.w2.toNat 11 6 = 1 ∧ bits c.w2.toNat 5 1 + 1 ≤ 32 ∧ bits c.w2.toNat 0 0 = w.runBank 191) ∧
    w.canRun 191 (cmd 0x21 0 1 0 0) ∧ w.canRun 191 (cmd 0x22 0 0 0 1) :=
  ⟨⟨canRun_of (by decide +kernel), by decide +kernel⟩, ⟨canRun_of (by decide +kernel), by decide +kernel⟩,
    ⟨canRun_of (by decide +kernel), by decide +kernel⟩, canRun_of (by decide +kernel), canRun_of (by decide +kernel)⟩

theorem test_WeightLoads :
    let s := wd [(0x1200, dOpd)] [(1, 128#64), (2, 1#64)]
    let c := cmd 0x10 0 (cs 0x1200) 0 (1 + 2 * 64)
    s.canRun 191 c ∧ locOf c.w1 = true ∧ (s.core 191).descAt (addrOf c.w1) = some dsOpd ∧ dsOpd.plainCore ∧ dsOpd.fmt.isOperand = true ∧
      s.w3of 191 c 0 = 128 ∧ 128 < dsOpd.rows ∧ s.w3of 191 c 1 < dsOpd.slabs :=
  ⟨canRun_of (by decide +kernel), by decide +kernel, by decide +kernel, plain_of (by decide +kernel), by decide +kernel⟩

/-- A bank that holds a block of the BF16 operand without columns. -/
def bank0 : Bank := ⟨dsOpd, 0, 0, [], true, false⟩

/-- Core 191 with the four banks 1 loaded and x1 to x5 for a pass of one row into the last accumulator row. -/
def wPass : State := (put [(.arrConst, 191, 0, 0, 1)] (wd [(0x1200, dOpd)] [(2, 1#64), (3, 511#64)])).onCore 191 (fun k =>
  { k with banks := [(1, bank0), (3, bank0), (5, bank0), (7, bank0)] })

/-- Partition 7 with cores 190 and 191 as a Constellation rectangle. -/
def wCpass (h : Nat) (o : Nat) (n : Nat) : State := wPass.onPart 7 (fun x => { x with rects := [⟨h, n, 1, o, true⟩] })

theorem test_Passes :
    (let c := cmd 0x11 0 (cs 0x1200) 0 (1 + 2 * 64 + 3 * 4096 + 4 * 2 ^ 18 + 5 * 2 ^ 24)
    wPass.canRun 191 c ∧ locOf c.w1 = true ∧ (wPass.core 191).descAt (addrOf c.w1) = some dsOpd ∧ dsOpd.plainCore ∧ dsOpd.fmt.isOperand = true ∧
      dsOpd.prism = 0 ∧ wPass.w3of 191 c 0 = 0 ∧ wPass.w3of 191 c 1 = 1 ∧ wPass.w3of 191 c 2 = 511 ∧ wPass.w3of 191 c 3 = 0 ∧ wPass.w3of 191 c 4 = 0 ∧
      0 < dsOpd.slabs ∧ (List.range 4).mapM (fun a => tabFind (wPass.core 191).banks (bankKey a (wPass.passBank 191 0))) =
        some [bank0, bank0, bank0, bank0] ∧ bank0.desc.prism = 0 ∧ bank0.cols = []) ∧
    (let c := cmd 0x12 0 (cs 0x1200) 0 (1 + 2 * 64 + 3 * 4096 + 4 * 2 ^ 18 + 5 * 2 ^ 24)
    let s := wCpass 0 191 1
    s.canRun 191 c ∧ s.rectOf 191 = some ⟨0, 1, 1, 191, true⟩ ∧ s.fld .arrConst 191 0 0 0 0 = 1 ∧ Rect.cores ⟨0, 1, 1, 191, true⟩ = [191] ∧
      (s.core 191).descAt (addrOf c.w1) = some dsOpd) ∧
    (let c := cmd 0x12 0 (cs 0x1200) 0 (1 + 2 * 64 + 3 * 4096 + 4 * 2 ^ 18 + 5 * 2 ^ 24)
    let s := wCpass 0 190 2
    s.canRun 191 c ∧ s.rectOf 191 = some ⟨0, 2, 1, 190, true⟩ ∧ s.fld .arrConst 191 0 0 0 0 = 1 ∧ 190 ∈ Rect.cores ⟨0, 2, 1, 190, true⟩ ∧
      (s.core 190).flights = [] ∧ (s.core 191).descAt (addrOf c.w1) = some dsOpd) :=
  ⟨⟨canRun_of (by decide +kernel), by decide +kernel, by decide +kernel, plain_of (by decide +kernel), by decide +kernel⟩,
    ⟨canRun_of (by decide +kernel), by decide +kernel⟩, ⟨canRun_of (by decide +kernel), by decide +kernel⟩⟩

theorem test_TileReadsAndWrites :
    ∀ op ∈ [0x18, 0x19], let s := wx [(1, 63#64)]
    let c := cmd op 0 (cs 0x3FEB80) (cs 0x3FFBFC) 1
    s.canRun 191 c ∧ locOf c.w1 = true ∧ locOf c.w2 = true ∧ s.w3of 191 c 0 < 64 ∧ addrOf c.w1 % 128 = 0 ∧ addrOf c.w1 + 4096 ≤ shadowBase ∧
      addrOf c.w2 % 4 = 0 ∧ addrOf c.w2 + 4 ≤ shadowBase ∧ addrOf c.w1 + 4096 ≤ addrOf c.w2 := by
  intro op h
  have := (by decide +kernel : ∀ op ∈ [0x18, 0x19], let s := wx [(1, 63#64)]
    let c := cmd op 0 (cs 0x3FEB80) (cs 0x3FFBFC) 1
    ready s 191 c = true ∧ locOf c.w1 = true ∧ locOf c.w2 = true ∧ s.w3of 191 c 0 < 64 ∧ addrOf c.w1 % 128 = 0 ∧ addrOf c.w1 + 4096 ≤ shadowBase ∧
      addrOf c.w2 % 4 = 0 ∧ addrOf c.w2 + 4 ≤ shadowBase ∧ addrOf c.w1 + 4096 ≤ addrOf c.w2) op h
  exact ⟨canRun_of this.1, this.2⟩

/-- A conversion whose last tile waits for the converter, and the tile. -/
def conv1 : Conversion := ⟨cmd 0x1A 0 (cs 0x1000) 0 1, 0x1000, 1, dsSrc, none, [], 0, false, false, none, [], 1, 0, 0, 0, false⟩
def entry1 : TileEntry := ⟨1, ⟨3, 15, 0, 32⟩, [], 0#32, true, 0⟩

theorem test_ConversionsInFlight :
    (let s := wd [(0x1000, dSrc), (0x1280, dQ8)] [(1, 0x1F8#64)]
    let c := cmd 0x1A 0 (cs 0x1000) 0 1
    s.canRun 191 c ∧ (locOf c.w1 = true ∧ c.w2.getLsbD 63 = false ∧ (s.core 191).descAt (addrOf c.w1) = some dsSrc ∧ s.w3of 191 c 0 < 2 ^ 17 ∧
      bits (s.w3of 191 c 0) 15 13 = 0 ∧ 1 ≤ bits (s.w3of 191 c 0) 12 8 ∧ bits (s.w3of 191 c 0) 7 4 + bits (s.w3of 191 c 0) 12 8 ≤ 16 ∧
      bits (s.w3of 191 c 0) 3 0 ≠ 0 ∧ s.w3of 191 c 2 % 32 = 0 ∧ bit (s.w3of 191 c 0) 16 = false) ∧ dsSrc.plainCore) ∧
    (let s := wd [(0x1000, dSrc), (0x1280, dQ8)] [(1, 0x101#64)]
    let c := cmd 0x36 0 (cs 0x1280) 0 1
    s.canRun 191 c ∧ (s.core 191).descAt (addrOf c.w1) = some dsQ8 ∧ s.w3of 191 c 0 = 0x101 ∧ dsQ8.fmt = .q8c ∧ dsQ8.loc = true ∧
      dsQ8.classMap ≠ 0 ∧ dsQ8.fbDir ≠ 0 ∧ dsQ8.fbPool ≠ 0 ∧ dsQ8.residual = 0 ∧ dsQ8.stoch = false ∧ dsQ8.prism = 0 ∧ dsQ8.glint = 0 ∧
      dsQ8.base + dsQ8.extent ≤ shadowBase ∧ dsQ8.classMap + 4 * dsQ8.rows * dsQ8.slabs ≤ shadowBase ∧ dsQ8.glintBase = 0 ∧
      dsQ8.fbDir + 64 * ((dsQ8.rows + 31) / 32) * dsQ8.slabs ≤ shadowBase) ∧
    (let s := w.onCore 191 (fun k => { k with convs := [conv1], tileq := [entry1] })
    s.clockHalt = false ∧ (s.core 191).tileq = [entry1] ∧ (s.core 191).convs = [conv1] ∧ conv1.cc = entry1.cc ∧ conv1.left = 1 ∧ conv1.feed = [] ∧
      entry1.vecLeft = true ∧ (s.core 191).cbHeld = [] ∧ conv1.desc.fmt = .fp32 ∧ conv1.desc.rows ≤ entry1.job.row + 32 ∧
      entry1.job.col < conv1.desc.cols ∧ entry1.job.row < conv1.desc.rows) ∧ conv1.desc.plainCore :=
  ⟨⟨canRun_of (by decide +kernel), by decide +kernel, plain_of (by decide +kernel)⟩, ⟨canRun_of (by decide +kernel), by decide +kernel⟩, by decide +kernel, plain_of (by decide +kernel)⟩

/-- Core 191 with END as the only instruction of the program at 0 of its running bank, and x1 to x4. -/
def wVec (l : List (Nat × List Byte)) (x : Tab DWord) : State := put [(.vecProgLo, 191, 0, 0, 0), (.vecProgHi, 191, 0, 0, 2)] (wd l x)

theorem test_RowCommands :
    (let s := wx [(1, 0x3E18#64), (2, 224#64), (3, 1#64)]
    let c := cmd 0x1C 0 (2 ^ 63) (2 ^ 63) (1 + 2 * 64 + 3 * 4096 + 4 * 2 ^ 18)
    let v := s.w3of 191 c 0
    s.canRun 191 c ∧ c.w1.getLsbD 63 = true ∧ c.w2.getLsbD 63 = true ∧ v < 2 ^ 14 ∧ v % 4 ≠ 3 ∧ bits v 2 2 = 0 ∧ 1 ≤ bits v 13 9 ∧
      bits v 8 5 + bits v 13 9 ≤ 31 ∧ 1 ≤ s.w3of 191 c 1 ∧ s.w3of 191 c 1 ≤ 32 * bits v 13 9 ∧ s.w3of 191 c 2 = 1 ∧ c.idx 3 ≠ 0) ∧
    (let s := wx [(1, 0x2018#64), (2, 512#64), (3, 1#64)]
    let c := cmd 0x1C 0 (2 ^ 63) (2 ^ 63) (1 + 2 * 64 + 3 * 4096 + 4 * 2 ^ 18)
    let v := s.w3of 191 c 0
    s.canRun 191 c ∧ v < 2 ^ 14 ∧ v % 4 ≠ 3 ∧ bits v 2 2 = 0 ∧ 1 ≤ bits v 13 9 ∧ bits v 8 5 + bits v 13 9 ≤ 16 ∧
      s.w3of 191 c 1 ≤ 32 * bits v 13 9 ∧ s.w3of 191 c 2 = 1) ∧
    (let s := wd [(0x1000, dSrc), (0x1080, dDst)] [(2, 256#64), (3, 0x3F800000#64)]
    let c := cmd 0x23 0 (cs 0x1000) 0x3FFBE0 (0 + 2 * 64 + 3 * 4096)
    s.canRun 191 c ∧ (s.core 191).descAt (addrOf c.w1) = some dsSrc ∧ dsSrc.plainCore ∧ dsSrc.fmt = .fp32 ∧
      isFin32 (w32 (s.w3of 191 c 0)) = true ∧ neg32 (w32 (s.w3of 191 c 0)) = false ∧ s.w3of 191 c 1 ≤ 256 ∧ w32 (s.w3of 191 c 2) = one32 ∧
      1 ≤ dsSrc.cols ∧ dsSrc.cols ≤ 262144 ∧ bits c.w2.toNat 21 0 + 16 * dsSrc.rows ≤ shadowBase) ∧
    (let s := wd [(0x1000, dSrc), (0x1080, dDst)] [(1, 2#64), (2, 64#64), (3, 2#64), (4, 0x3FFBE0#64)]
    let c := cmd 0x1D 0 (cs 0x1000) (cs 0x1080) (1 + 2 * 64 + 3 * 4096 + 4 * 2 ^ 18)
    s.canRun 191 c ∧ (s.core 191).descAt (addrOf c.w1) = some dsSrc ∧ (s.core 191).descAt (addrOf c.w2) = some dsDst ∧ dsDst.plainCore ∧
      (locOf c.w1 = true ∧ locOf c.w2 = true ∧ dsSrc.fmt = .fp32 ∧ dsDst.fmt = .fp32 ∧ 1 ≤ s.w3of 191 c 1 ∧ 1 ≤ s.w3of 191 c 2 ∧
      c.w1.getLsbD 63 = false ∧ s.w3of 191 c 0 ≤ 2 ∧ s.w3of 191 c 1 ≤ dsSrc.cols ∧ s.w3of 191 c 2 ≤ dsSrc.rows ∧ s.w3of 191 c 2 ≤ dsDst.rows ∧
      1 ≤ dsDst.cols) ∧ ∃ v, (readVec 191 (s.w3of 191 c 3)).run.run ⟨s.issue 191 c, 0, none⟩ = (.ok v, ⟨s.issue 191 c, 0, none⟩) ∧ v.colVec = none ∧
        v.rowVec = none) ∧
    (let s := wVec [(0x1000, dSrc), (0x1080, dDst)] [(1, 0x3FFBE0#64), (2, 2#64)]
    let c := cmd 0x1E 0 (cs 0x1000) (cs 0x1080) (1 + 2 * 64)
    s.canRun 191 c ∧ 1 ≤ s.w3of 191 c 1 ∧ s.w3of 191 c 1 ≤ ((dsSrc.rows + 31) / 32) * ((dsSrc.cols + 31) / 32) ∧
      ∃ v, (startVec 191 (s.w3of 191 c 0)).run.run ⟨s.issue 191 c, 0, none⟩ = (.ok v, ⟨s.issue 191 c, 0, none⟩)) := by
  refine ⟨⟨canRun_of (by decide +kernel), ?_⟩, ⟨canRun_of (by decide +kernel), by decide +kernel⟩,
    ⟨canRun_of (by decide +kernel), by decide +kernel, plain_of (by decide +kernel), by decide +kernel⟩,
    ⟨canRun_of (by decide +kernel), by decide +kernel, by decide +kernel, plain_of (by decide +kernel), by decide +kernel,
      ⟨0, none, none, none, List.replicate 15 0#32⟩, run_of (by decide +kernel), rfl, rfl⟩,
    canRun_of (by decide +kernel), by decide +kernel, by decide +kernel, ⟨0, none, none, none, List.replicate 15 0#32⟩, run_of (by decide +kernel)⟩
  decide +kernel

/-! ### Witnesses of the statements on training, collectives, experts and lanes -/

/-- A computation that answers a value with P. -/
def okWith {α : Type} (m : CM α) (s : State) (P : α → Bool) : Bool := match m.run.run ⟨s, 0, none⟩ with
  | (.ok x, _) => P x
  | _ => false

theorem ok_of {α : Type} {m : CM α} {s : State} {P : α → Bool} (h : okWith m s P = true) :
    ∃ v r, m.run.run ⟨s, 0, none⟩ = (.ok v, r) ∧ P v = true := by
  unfold okWith at h
  split at h
  · next x r hr => exact ⟨x, r, hr, h⟩
  · cases h

/-- The same, for one that leaves the run as it was. -/
def okSame {α : Type} (m : CM α) (s : State) (P : α → Bool) : Bool := match m.run.run ⟨s, 0, none⟩ with
  | (.ok x, r) => P x && decide (r.s = s) && decide (r.flags = 0) && decide (r.vals = none)
  | _ => false

theorem same_of {α : Type} {m : CM α} {s : State} {P : α → Bool} (h : okSame m s P = true) :
    ∃ v, m.run.run ⟨s, 0, none⟩ = (.ok v, ⟨s, 0, none⟩) ∧ P v = true := by
  unfold okSame at h
  split at h
  · next x r hr =>
    simp only [Bool.and_eq_true, decide_eq_true_eq] at h
    obtain ⟨⟨⟨h1, h2⟩, h3⟩, h4⟩ := h
    refine ⟨x, ?_, h1⟩
    rw [hr]
    cases r
    simp_all
  · cases h

/-- The operands of UPDATE: one FP32 tensor in every place that must hold one, the program at 0. -/
def updBytes : List Byte := leBytes 0x1000 8 ++ leBytes 0x1000 8 ++ leBytes 0x1000 8 ++ leBytes 0x1000 8 ++ leBytes 0 16 ++ leBytes 0x1000 8

def wUpd : State := wVec [(0x1000, dSrc), (0x1100, updBytes)] [(2, 2#64)]

theorem test_TrainingCommands :
    (let c := cmd 0x35 0 0 0 (1 + 2 * 64)
    w.canRun 191 c ∧ w.holder 191 = some 7 ∧ w.fld .helmLossCtl 0 7 0 31 31 = 0) ∧
    (let c := cmd 0x35 0 0 0 (1 + 2 * 64)
    let s := put [(.helmLossCtl, 0, 7, 0, 0x80000000)] (wx [(1, 0x7F800000#64)])
    s.canRun 191 c ∧ s.fld .helmLossCtl 0 7 0 31 31 = 1 ∧ nonFinite32 (w32 (s.w3of 191 c 0)) = true) ∧
    (let c := cmd 0x37 0 0x1FE000 0xFFFFFFFFFFFFFFFF 0
    w.canRun 191 c ∧ (locOf c.w1 = false ∧ addrOf c.w1 % 4096 = 0 ∧ (w.core 191).recording = none ∧ w.w3of 191 c 0 = 0 ∧ w.part 7 = part7) ∧
      part7.maps (addrOf c.w1) 4112 true) ∧
    (let c := cmd 0x37 0 (cs 0x3FE000 - 0x1000) 0xFFFFFFFFFFFFFFFF 0
    w.canRun 191 c ∧ locOf c.w1 = true ∧ addrOf c.w1 % 4096 = 0 ∧ (w.core 191).replay = none ∧ addrOf c.w1 + 4112 ≤ shadowBase) ∧
    (let c := cmd 0x37 0 0 0 1
    let s := wx [(1, 1#64)] |>.onCore 191 (fun k => { k with recording := some ⟨true, 0x3FD000, 0, 2 ^ 63 - 1, false⟩ })
    s.canRun 191 c ∧ s.w3of 191 c 0 = 1 ∧ (s.core 191).recording = some ⟨true, 0x3FD000, 0, 2 ^ 63 - 1, false⟩ ∧ 0x3FD000 + 4120 ≤ shadowBase) ∧
    (let c := cmd 0x37 0 0x1FE000 0 1
    (wx [(1, 1#64)]).canRun 191 c ∧ (wx [(1, 1#64)]).w3of 191 c 0 = 1 ∧ ((wx [(1, 1#64)]).core 191).recording = none) ∧
    (let c := cmd 0x34 0 (cs 0x1100) 0 (2 * 64)
    wUpd.canRun 191 c ∧ ∃ a, (updArgs 191 c).run.run ⟨wUpd.issue 191 c, 0, none⟩ = (.ok a, ⟨wUpd.issue 191 c, 0, none⟩) ∧
      (a.ins.all (fun x => match x with
        | some d => plain d && d.fmt == .fp32 && d.rows == a.rows && d.cols == a.cols
        | none => true) && a.dests.all (fun x => plain x.spec.desc && x.spec.desc.fmt == .fp32)) = true) :=
  ⟨⟨canRun_of (by decide +kernel), by decide +kernel⟩, ⟨canRun_of (by decide +kernel), by decide +kernel⟩,
    ⟨canRun_of (by decide +kernel), by decide +kernel,
      maps7 (by decide +kernel) _⟩, ⟨canRun_of (by decide +kernel), by decide +kernel⟩, ⟨canRun_of (by decide +kernel), by decide +kernel⟩,
    ⟨canRun_of (by decide +kernel), by decide +kernel⟩, canRun_of (by decide +kernel), same_of (by decide +kernel)⟩

/-- A collective descriptor: ALLGATHER of chunks of 4 KiB. -/
def collGather : List Byte := leBytes (3 + 12 * 2 ^ 18) 8 ++ leBytes 8 8 ++ List.replicate 48 0#8

/-- Group 255 in a state, its queue at 0x1F0000. -/
def wGroup (st : Nat) (x : Tab DWord) : State := put [(.collGroup, 0, 255, 0, st * 2 ^ 29), (.collGroupQLo, 0, 255, 0, 0x1F0000)]
  ((wx x).onCore 191 (fun k => { k with cs := cellsWrite [] 0x3FFBC0 collGather }))

/-- The same with the descriptor at 0x1E0000 of memory. -/
def wColl (st : Nat) : State := { wGroup st [(1, 255#64)] with mem := { Mem.init with bytes := cellsWrite [] 0x1E0000 collGather } }

/-- A command that posts it. -/
def cColl : Cmd := cmd 0x30 0 0x1E0000 0 1

theorem test_CollectivePosting :
    ∀ st ∈ [1, 2], let s := wColl st
    let d := ((s.mem.settle 0x1E0000 64).look 0x1E0000 64).1
    s.canRun 191 cColl ∧ s.mem.wf ∧ s.filling = false ∧ s.fabric.lost = [] ∧ s.w3of 191 cColl 0 = 255 ∧ s.holder 191 = some 7 ∧
      (s.part 7).groups.contains 255 = true ∧ s.gState 255 = st ∧ (s.group 255).queue.length < 1024 ∧ addrOf cColl.w1 % 64 = 0 ∧
      (s.part 7).xlate (addrOf cColl.w1) false = .here 0x1E0000 false ∧ (collChecks s 255 d).all (·.1) = true ∧ cReducing d = false ∧
      (s.core 191).reckon = false ∧ cArrival d = false ∧
      s.rd64 .collGroupQLo .collGroupQHi 0 255 + 64 * ((s.group 255).nextDseq % 1024) = 0x1F0000 ∧
      (s.part 7).xlate 0x1F0000 true = .here 0x1F0000 false := by
  intro st h
  have := (by decide +kernel : ∀ st ∈ [1, 2], let s := wColl st
    let d := ((s.mem.settle 0x1E0000 64).look 0x1E0000 64).1
    ready s 191 cColl = true ∧ s.mem.wf ∧ s.filling = false ∧ s.fabric.lost = [] ∧ s.w3of 191 cColl 0 = 255 ∧ s.holder 191 = some 7 ∧
      (s.part 7).groups.contains 255 = true ∧ s.gState 255 = st ∧ (s.group 255).queue.length < 1024 ∧ addrOf cColl.w1 % 64 = 0 ∧
      (s.part 7).xlate (addrOf cColl.w1) false = .here 0x1E0000 false ∧ (collChecks s 255 d).all (·.1) = true ∧ cReducing d = false ∧
      (s.core 191).reckon = false ∧ cArrival d = false ∧
      s.rd64 .collGroupQLo .collGroupQHi 0 255 + 64 * ((s.group 255).nextDseq % 1024) = 0x1F0000 ∧
      (s.part 7).xlate 0x1F0000 true = .here 0x1F0000 false) st h
  exact ⟨canRun_of this.1, this.2⟩

theorem test_BeaconAlone :
    ∀ st ∈ [2, 3], ∀ op ∈ [0, 5], let s := wGroup st [(1, 255#64), (2, 256#64), (3, BitVec.ofNat 64 op)]
    let c := cmd 0x31 1 (cs 0x3FFB00) (cs 0x3FFA00) (1 + 2 * 64 + 3 * 4096)
    s.canRun 191 c ∧ c.vary = true ∧ s.w3of 191 c 0 = 255 ∧ s.holder 191 = some 7 ∧ (s.part 7).groups.contains 255 = true ∧
      s.w3of 191 c 1 = 256 ∧ s.w3of 191 c 2 % 2 ^ 12 = op ∧ (s.core 191).reckon = false ∧ locOf c.w2 = true ∧ addrOf c.w2 + 256 ≤ shadowBase ∧
      s.gState 255 = st ∧ s.gSize 255 = 1 ∧ s.myRank 255 = 0 ∧ s.shaped 255 = false ∧ (s.group 255).beacons = [] ∧ (s.group 255).values = [] ∧
      (s.core 191).flights = [] ∧ s.fabric.lost = [] ∧ locOf c.w1 = true ∧ addrOf c.w1 + 256 ≤ shadowBase ∧
      ((s.core 191).csRead (addrOf c.w1) 256).2 = false := by
  intro st h op h2
  have := (by decide +kernel : ∀ st ∈ [2, 3], ∀ op ∈ [0, 5], let s := wGroup st [(1, 255#64), (2, 256#64), (3, BitVec.ofNat 64 op)]
    let c := cmd 0x31 1 (cs 0x3FFB00) (cs 0x3FFA00) (1 + 2 * 64 + 3 * 4096)
    ready s 191 c = true ∧ c.vary = true ∧ s.w3of 191 c 0 = 255 ∧ s.holder 191 = some 7 ∧ (s.part 7).groups.contains 255 = true ∧
      s.w3of 191 c 1 = 256 ∧ s.w3of 191 c 2 % 2 ^ 12 = op ∧ (s.core 191).reckon = false ∧ locOf c.w2 = true ∧ addrOf c.w2 + 256 ≤ shadowBase ∧
      s.gState 255 = st ∧ s.gSize 255 = 1 ∧ s.myRank 255 = 0 ∧ s.shaped 255 = false ∧ (s.group 255).beacons = [] ∧ (s.group 255).values = [] ∧
      (s.core 191).flights = [] ∧ s.fabric.lost = [] ∧ locOf c.w1 = true ∧ addrOf c.w1 + 256 ≤ shadowBase ∧
      ((s.core 191).csRead (addrOf c.w1) 256).2 = false) st h op h2
  exact ⟨canRun_of this.1, this.2⟩

/-- The operands of DISPATCH and COMBINE: tokens described at 0x3000, routing rows at 0x5000, placement at 0x1FFFF0, two tokens, one
choice of one candidate, outputs described at 0x3080. -/
def expertBytes : List Byte := leBytes 0x3000 8 ++ leBytes 0x5000 8 ++ leBytes 0x1FFFF0 8 ++ leBytes 2 4 ++ leBytes 0x11 4 ++ leBytes 0x3080 8

/-- Memory with the two descriptors, and placement records that name no placed row. -/
def expertMem (st : Byte) : Mem :=
  let tokens := cellsWrite [] 0x3000 dMem
  let both := cellsWrite tokens 0x3080 (dbytes 0x4000 4 8 64 (7 + 2 ^ 23))
  { Mem.init with bytes := cellsWrite both 0x1FFFF0 [0#8, 0#8, st, 0#8, 0#8, 0#8, 0#8, 0#8, 0#8, 0#8, st] }

def wExp (st : Byte) : State := { (wx [(1, 255#64)]).onCore 191 (fun k => { k with cs := cellsWrite [] 0x3FFBC0 expertBytes }) with
  mem := expertMem st }

theorem test_ExpertRouting :
    (let s := wExp 0#8
    let c := cmd 0x32 1 (cs 0x3FFBC0) 0 1
    s.canRun 191 c ∧ (s.holder 191 = some 7 ∧ s.mem.wf ∧ s.fabric.experts = [] ∧ s.fabric.lost = [] ∧ (s.core 191).flights = [] ∧ s.part 7 = part7) ∧
      (∃ e r, (expertOperands 191 c false).run.run ⟨s.issue 191 c, 0, none⟩ = (.ok e, r) ∧
        (s.gState e.group != 3 && e.place == 0x1FFFF0 && 8 * e.count * e.k == 16 &&
          e.routes.any (fun x => decide (x.cand < e.k) && x.expert != 0xFFFF)) = true) ∧ part7.onePage 0x1FFFF0 16 true) ∧
    (let s := wExp 3#8
    let c := cmd 0x33 1 (cs 0x3FFBC0) 0 1
    s.canRun 191 c ∧ s.mem.wf ∧ ∃ x r, (do let e ← expertOperands 191 c true; let b ← rdVa 191 e.place (8 * e.count * e.k); return (e, b.1) :
      CM (Expert × List Byte)).run.run ⟨s.issue 191 c, 0, none⟩ = (.ok x, r) ∧
      ((match x.1.out with
        | some d => d.loc
        | none => false) && (List.range (x.1.count * x.1.k)).all (fun i => leAt x.2 (8 * i + 2) 1 != 0)) = true) :=
  ⟨⟨canRun_of (by decide +kernel), by decide +kernel,
    ok_of (by decide +kernel), onePage7 (by decide) _⟩, canRun_of (by decide +kernel), by decide +kernel, ok_of (by decide +kernel)⟩

/-- Lane instruction of an opcode: v15 from v14, v13 and v12, FUNC 14. -/
def lane (op : Nat) : DWord := BitVec.ofNat 64 (op * 2 ^ 58 + 15 * 2 ^ 54 + 14 * 2 ^ 49 + 13 * 2 ^ 44 + 12 * 2 ^ 39 + 14 * 2 ^ 35)

/-- A conversion with a micro-program at 31 whose only tile is in the vector engine. -/
def conv2 : Conversion := { conv1 with vec := some ⟨31, none, none, none, List.replicate 15 0#32⟩ }
def entry2 : TileEntry := { entry1 with vecLeft := false }

/-- Core 191 with that tile, its engine as given, and an instruction at 31 of bank 0. -/
def wLane (g : Engine) (i : DWord) : State := put [(.vecProgLo, 191, 0, 31, i.toNat % 2 ^ 32), (.vecProgHi, 191, 0, 31, i.toNat / 2 ^ 32)]
  (w.onCore 191 (fun k => { k with convs := [conv2], tileq := [entry2], engine := g }))

theorem test_LaneInstructions : ∀ op ∈ List.range 20, let s := wLane ⟨true, 3, 31, false, 0, [], 0⟩ (lane op)
    let g := (s.core 191).engine
    vecWf op 191 (lane op) = true ∧ s.clockHalt = false ∧ g.active = true ∧ g.ended = false ∧ s.progWord 191 g.bank g.pc = lane op ∧
      (s.core 191).engineEntry = some (0, entry2, conv2) := by decide +kernel

theorem test_LaneInstructions_wf : (Instr.vecNop 191 (lane 0)).wf = true ∧ (Instr.fma 191 (lane 5)).wf = true ∧
    (Instr.rand 191 (lane 15)).wf = true ∧ (Instr.cvtb 191 (lane 19)).wf = true := by decide +kernel

theorem test_GroupBoundaries :
    (let s := wLane ⟨true, 3, 31, false, 0, [], 0⟩ (lane 0)
    s.clockHalt = false ∧ (s.core 191).engine.active = true ∧ (s.core 191).engine.ended = false) ∧
    (∀ g ∈ [Engine.idle, ⟨true, 2, 31, true, 0, [], 0⟩], let s := wLane g (lane 0 ||| 0x200000000#64)
    (s.core 191).engineEntry = some (0, entry2, conv2) ∧ conv2.vec = some ⟨31, none, none, none, List.replicate 15 0#32⟩ ∧
      s.fld .vecCtl 191 0 0 1 1 = 0 ∧ s.progOk 191 (s.runBank 191) 32 31 = true ∧ (s.core 191).engine = g) ∧
    (let s := put [(.vecCtl, 191, 0, 0, 2)] w
    (s.core 191).engine.active = false ∧ (s.core 191).engineEntry = none ∧ s.fld .vecCtl 191 0 0 1 1 = 1) := by decide +kernel

theorem test_ProgramStore :
    (∀ m ∈ [Master.mgmt, .vf 7], ∀ s ∈ [w, wLane ⟨true, 3, 31, false, 0, [], 0⟩ (lane 0)], m.wf = true ∧ s.blockHeld 191 = false ∧
      s.holder 191 = some 7 ∧ s.reachesCore m 191 = true ∧ s.runBank 191 = 0) ∧
    (w.core 191).engine.active = false ∧ ((wLane ⟨true, 3, 31, false, 0, [], 0⟩ (lane 0)).core 191).engine.active = true ∧
    (3#32 : Word).getLsbD 1 = true ∧ w.reachesCore (.pf 0) 191 = false := by decide +kernel

theorem test_CodebookWrites :
    (∀ m ∈ [Master.mgmt, .vf 7], m.wf = true ∧ w.reachesCore m 191 = true) ∧
    regFind (Reg.addr .convCb4 191 15 3) = some ⟨.convCb4, 191, 15, 3⟩ ∧ regFind (Reg.addr .convCb8 191 3 127) = some ⟨.convCb8, 191, 3, 127⟩ ∧
    ((w.core 191).holdsCodebook ⟨.convCb4, 191, 15, 3⟩ || (w.core 191).cbHeld.any (fun x => x.1 == Reg.addr .convCb4 191 15 3)) = false ∧
    (let s := w.onCore 191 (fun k => { k with cbHeld := [(Reg.addr .convCb4 191 15 3, 0#32)] })
    s.reachesCore .mgmt 191 = true ∧ (s.core 191).cbHeld.any (fun x => x.1 == RegAt.addr ⟨.convCb4, 191, 15, 3⟩) = true) := by decide +kernel

theorem test_TwilightJumps : 65535 < 2 ^ 16 := by decide

/-! ### Witnesses of the statements on Helm -/

def plan7 : PlanPart := ⟨7, 0, false, true, 9#64, 192, 2, 0x400000, 1024, 2, 128, 64, 1, 7, 0, 0⟩

/-- Sections of an image with partition 7 alone: CMIS identifier 3 at every cage, pools of 128 flits. -/
def sections (hold : Bool) : Sections := ⟨hold, 2000, 4, [plan7], [], true, [], [], List.replicate 32 0#8, List.replicate 32 32,
  List.replicate 32 .gaui, List.replicate 32 [3], List.replicate 32 0, List.replicate 8 128, 0x3010000, [36, 36, 36, 36]⟩

/-- Partition 7 with its plan, no rectangles, and a request. -/
def wReq (r : Nat × Bool × List Nat) (rects : List Rect) : State :=
  w.onPart 7 (fun x => { x with plan := some plan7, rects := rects, request := some r, objects := [16382, 16383], groups := [255] })

theorem test_HelmCoresAndPages : (let s := wReq (0x01, true, [16 + 12 * 256, 0, 0, 0]) []
    let x := s.part 7
    s.partState 7 = 1 ∧ x.request = some (0x01, true, [16 + 12 * 256, 0, 0, 0]) ∧ x.cores.length + 16 * 12 ≤ s.quota 7 PlanPart.cores ∧
      12 ≤ s.grade.rows ∧ (List.range s.nCores).find? (fun i => s.rectFree i 16 12) = some 0 ∧
      (List.range 256).find? (fun i => !s.handleUsed i) = some 0) ∧
    (let s := wReq (0x01, true, [1 + 256 + 2 ^ 16, 191, 0, 0]) []
    s.rectFree 191 1 1 = true ∧ bits 191 7 0 = 191 ∧ bit (1 + 256 + 2 ^ 16) 16 = true ∧ bits (1 + 256 + 2 ^ 16) 31 16 < 4) ∧
    (let s := wReq (0x02, false, [255]) [⟨255, 2, 1, 190, false⟩]
    (s.part 7).rectNo 255 = some ⟨255, 2, 1, 190, false⟩ ∧ (∀ n ∈ Rect.cores ⟨255, 2, 1, 190, false⟩, n < 192) ∧ (s.part 7).rectBusy 255 = false ∧
      (s.part 7).rectNo 0 = none) ∧
    (let a := [0xFFE00000, 0xFFFF, 1, 1]
    let s := wReq (0x03, false, a) []
    let x := s.part 7
    pageRange a = some (2 ^ 48 - 0x200000, 0x200000, false) ∧
      x.pages.all (fun g => !(decide (g.va < 2 ^ 48) && decide (2 ^ 48 - 0x200000 < g.va + g.size))) = true ∧ arg a 2 ≤ x.freeFrames.length ∧
      x.mappedBytes + frameSize * arg a 2 ≤ s.quota 7 PlanPart.mapped) ∧
    (let s := wReq (0x04, false, [0, 0, 1, 0]) []
    pageRange [0, 0, 1, 0 &&& 8] = some (0, 0x200000, false) ∧ (s.part 7).pagesIn 0 0x200000 false = some [page0] ∧ s.pagesUsed 7 [page0] = false ∧
      s.nextRequest = some 7 ∧
      ((wReq (0x04, false, [0, 0, 1, 0]) [⟨0, 2, 1, 190, false⟩]).onCore 191 (fun k => { k with convs := [{ conv1 with desc := dsMem }] })).pagesUsed
        7 [page0] = true ∧
      pageRange [0xFFE00000, 0xFFFF, 1, 0 &&& 8] = some (2 ^ 48 - 0x200000, 0x200000, false) ∧
      (s.part 7).pagesIn (2 ^ 48 - 0x200000) 0x200000 false = none) ∧
    (let s := wReq (0x05, false, [0, 0, 1, 7]) []
    pageRange [0, 0, 1, 7] = some (0, 0x200000, false) ∧ (s.part 7).pagesIn 0 0x200000 false = some [page0] ∧ s.pagesUsed 7 [page0] = false) ∧
    (let r : Rect := ⟨0, 16, 12, 0, true⟩
    let s := put [(.clkCore, 0, 0, 0, 64)] w
    r.spans = true ∧ s.clocksEqual = false ∧ w.clocksEqual = true) := by
  decide +kernel

theorem test_HelmObjectsGroupsQueues :
    (let s := wReq (0x06, false, [1022]) []
    let x := s.part 7
    s.partState 7 = 1 ∧ s.nextRequest = some 7 ∧ x.objects.length + 1022 ≤ s.quota 7 PlanPart.objects ∧
      freeRun (s.parts.flatMap (fun y => y.2.objects)).contains 1022 16384 0 0 = some 0) ∧
    (let s := wReq (0x07, false, [16382, 2]) []
    16382 + 2 ≤ 16384 ∧ ∀ k ∈ [16382, 16383], k ∈ (s.part 7).objects ∧ s.objectBusy 7 k = false) ∧
    (let s := wReq (0x08, false, [128]) []
    let x := s.part 7
    x.groups.length + 1 ≤ s.quota 7 PlanPart.groups ∧ s.slotsHeld 7 + 128 ≤ s.quota 7 PlanPart.slots ∧
      (List.range 256).find? (fun g => s.gState g == 0) = some 0) ∧
    (let s := put [(.collGroup, 0, 255, 0, 4 * 2 ^ 29)] (wReq (0x09, false, [255]) [])
    (s.part 7).groups.contains 255 = true ∧ s.gState 255 ≠ 2 ∧ s.gState 255 ≠ 3 ∧ (s.group 255).queue = []) ∧
    (let s := wReq (0x0A, false, [0xFF, 64, 64]) []
    64 ≤ s.quota 7 PlanPart.linkShare ∧ (List.range 32).all (fun l => s.shareFits 7 l 64 64) = true ∧ [31].all (fun l => s.shareFits 7 l 64 0) = true) ∧
    (let a := [0x1FFC00, 0, 16, 7]
    let s := wReq (0x0B, false, a) []
    let x := { s.part 7 with pages := [{ page0 with p := true }] }
    arg64 a 0 % 64 = 0 ∧ arg64 a 0 + 64 * 16 ≤ 2 ^ 48 ∧ arg a 2 = 2 ^ 4 ∧ bits (arg a 3) 15 3 = 0 ∧ bits (arg a 3) 2 0 ≤ s.quota 7 PlanPart.ceiling ∧
      x.pinned 0x1FFC00 (64 * 16) = true ∧ x.queues.length + 1 ≤ s.quota 7 PlanPart.queues ∧
      (List.range 64).find? (fun q => !x.queues.any (fun y => y.q == q)) = some 0) ∧
    (let s := (wReq (0x0C, false, [63]) []).onPart 7 (fun x => { x with queues := [⟨63, 0x1F0000, 16, 0, 0, none⟩] })
    (s.part 7).queue? 63 = some ⟨63, 0x1F0000, 16, 0, 0, none⟩) := by decide +kernel

/-- The search for a run of free objects on small numbers: the lowest run of two beside objects 1 and 16,383. -/
theorem test_freeRun : freeRun [1, 16383].contains 2 16 0 0 = some 2 := by decide +kernel

theorem test_FrozenAndResettingRequests : (Instr.wqDestroy 7, 12) ∈ [(Instr.coreAlloc 7, 1), (.coreFree 7, 2), (.map 7, 3), (.unmap 7, 4),
    (.protect 7, 5), (.syncAlloc 7, 6), (.syncFree 7, 7), (.groupAlloc 7, 8), (.groupFree 7, 9), (.linkShare 7, 10), (.wqCreate 7, 11),
    (.wqDestroy 7, 12)] ∧
    (∀ st ∈ [2, 3], let s := put [(.helmPart, 0, 7, 0, st * 2 ^ 30)] (wReq (12, false, [63]) [])
    (s.part 7).request = some (12, false, [63]) ∧ s.partState 7 = st ∧ s.nextRequest = some 7) ∧ (w.part 7).request = none ∧
    w.nextRequest ≠ some 7 ∧ ({ wReq (12, false, [63]) [] with reqTurn := 7 } : State).reqTurn = 7 := by decide +kernel

/-- A job of the queue 63 on the rectangle of handle 0, and a partition whose one queue it heads. -/
def job (st : JobState) : Job := ⟨15, 0x1000, 0, 0x100000, 16383, true, 1, st, false, 0, [], []⟩
def queue (slice : Nat) (h : Option Job) : Queue := ⟨63, 0x1F0000, 16, 0, slice, h⟩
def wJob (slice : Nat) (h : Option Job) : State := w.onPart 7 (fun x => { x with queues := [queue slice h] })

theorem test_JobsRun :
    (∀ m ∈ [Master.mgmt, .vf 7], m.wf = true ∧ (wJob 0 none).reaches m 7 = true) ∧ ((wJob 0 none).part 7).queues = [queue 0 none] ∧
    (queue 0 none).entries ≤ getBits 16#32 15 0 ∧ getBits 15#32 15 0 < (queue 0 none).entries ∧ (wJob 0 none).partState 7 = 1 ∧
    (wJob 0 none).wqHead 7 63 ≠ getBits 15#32 15 0 ∧
    (wJob 0 none).peek 7 ((queue 0 none).entry 0) 64 = some (List.replicate 64 0#8) ∧ entryReserved (List.replicate 64 0#8) = false ∧
    ((wJob 0 none).part 7).rectNo 0 = some ⟨0, 2, 1, 190, false⟩ ∧ (∀ n ∈ Rect.cores ⟨0, 2, 1, 190, false⟩, n < 192) ∧
    (∀ sl ∈ [0, 1], ((wJob sl (some (job .running))).part 7).queues = [queue sl (some (job .running))]) ∧
    (let s := wJob 1 (some (job .preempting))
    s.drained (Rect.cores ⟨0, 2, 1, 190, false⟩) = true ∧ s.partState 7 = 1 ∧ (∀ n ∈ [190, 191], (s.core n).pilot = .running) ∧
      (s.onCore 191 (fun k => { k with flights := [flying] })).drained [190, 191] = false ∧
      (put [(.helmPart, 0, 7, 0, 0x80000000)] s).partState 7 ≠ 1) := by decide +kernel

theorem test_JobsRun_spares : (wJob 1 (some (job .preempting))).mem.wf ∧ (job .preempting).save % 64 = 0 ∧
    (((wJob 1 (some (job .preempting))).part 7).pages.all (fun g => g.frame.all (fun f =>
      g.va % 64 == 0 && f % 64 == 0 && decide (f + g.size ≤ 0x8FFFFFFFFF)))) = true := by decide +kernel

theorem test_JobsEnd :
    (let s := ((wJob 0 (some (job .running))).onCore 190 (fun k => { k with pilot := .halted, haltCode := some 0 })).onCore 191
      (fun k => { k with pilot := .halted, fatal := true })
    s.mem.wf ∧ s.drained [190, 191] = true ∧ (queue 0 none).base % 64 = 0 ∧ (job .running).idx < (queue 0 none).entries ∧ s.wqTail 7 63 < 16 ∧
      (∀ n ∈ [190, 191], (s.core n).pilot = .halted ∧ ((s.core n).haltCode.isSome ∨ (s.core n).fatal = true) ∧ (s.core n).failures = []) ∧
      s.wqTail 7 63 = (15 + 1) % 16 ∧ (job .running).doneEn = true ∧ s.objHeld 7 16383 = true ∧ (s.part 7).pages = part7.pages) ∧
    part7.onePage ((queue 0 none).entry 15) 64 false ∧
    (let s := (wJob 0 (some (job .running))).onCore 191 (fun k => { k with failures := [⟨cmd 0 0 0 0 0, 0x1000, 0x1020, 1, 0x44, 0, 0, true⟩] })
    s.drained [190, 191] = true ∧ (∃ f ∈ (s.core 191).failures, f.status = 0x44) ∧ s.fabric.groups = [] ∧ s.fabric.lost = []) ∧
    (w.blockHeld 191 = false ∧ w.reachesCore .mgmt 191 = true ∧ w.jobOn 191 = none) ∧
    (let s := (wJob 0 (some (job .running))).onCore 190 (fun k => { k with flights := [flying] })
    s.blockHeld 191 = false ∧ s.reachesCore (.vf 7) 191 = true ∧ s.jobOn 191 = some (7, queue 0 (some (job .running)), job .running) ∧
      (s.part 7).rectNo 0 = some ⟨0, 2, 1, 190, false⟩ ∧ s.drained [190, 191] = false) :=
  ⟨by decide +kernel, onePage7 (by decide) _, by decide +kernel, by decide +kernel, by decide +kernel⟩

/-- A page that lies in swap slot 0. -/
def away : Page := { page0 with frame := none }

theorem test_PagingAndDeadlock :
    (let s := w.onPart 7 (fun x => { x with pages := [away], swap := [⟨0, [(0x1FFFFF, 5#8)], []⟩] })
    (s.part 7).page? 0x1FFFFF = some away ∧ away.frame = none ∧ away.small = false ∧ (s.part 7).bar2Held = [] ∧ (s.part 7).freeFrames = [1] ∧
      Memory.wf ((s.part 7).swapPage 0).bytes ∧ 0x200000 / 64 - 1 < away.size / 64) ∧
    w.deadlocked 7 = false ∧
    (let wait (k : Core) : Core := { k with pilot := .waitSync 16383 1 false, blocked := some (cmd 0x28 0 0 0 0x81) }
    ((put [(.helmPart, 0, 7, 0, 0x44000000)] w).onCore 190 wait |>.onCore 191 wait).deadlocked 7 = true) := by decide +kernel

/-! ### Witnesses of the statements on links and packets -/

/-- Link 31 in a state; the same in native mode with a change of its own fields. -/
def wl (st : Nat) : State := put [(.lnkStatus, 31, 0, 0, st * 2 ^ 28)] w
def wlx (st : Nat) (f : Link → Link) : State := (wl st).onLink 31 f

def module : ModuleRead := ⟨true, false, 31, false, 3, [(2125, 4)], 3, 10, 5⟩
def config : ConfigBlock := ⟨true, false, Config.blockVersion, 4095, 31, List.replicate 8 2047⟩

/-- Link 31 in IDENTIFY with an image, where a module may draw so much. -/
def wCage (power : Nat) : State := put [(.lnkCtl, 31, 0, 0, power)] { wl 1 with start := ⟨some ⟨[], 0, [], [], true, sections false⟩, none⟩ }

theorem test_LinkStates :
    (∀ st ∈ List.range 10, (wl st).linkState 31 = st ∧ ((wl st).link 31).refLost = false ∧ (wl st).isolated 31 = false) ∧
    (module.busFails = false ∧ module.answers = true ∧ (wCage 10).linkState 31 = 1 ∧ (wCage 10).moduleRefusal 31 module = none ∧
      (wCage 9).moduleRefusal 31 module = some 5 ∧ (wl 1).moduleRefusal 31 module = some 2 ∧ { module with answers := false }.answers = false) ∧
    (∀ st ∈ [3, 9], (wl st).linkState 31 = 3 ∨ (wl st).linkState 31 = 9) ∧ 8 % 16 ≠ 0 ∧
    (let x := (wlx 5 (fun y => { y with detected := 15 })).link 31
    widthCode (x.detected &&& 7 &&& 15 &&& 8) x.lanes = 0 ∧ widthCode (x.detected &&& 8 &&& 15 &&& 8) x.lanes ≠ 0 ∧ x.eth = false) ∧
    (let x := (wlx 5 (fun y => { y with ctl := 0x40000000#32, detected := 15 })).link 31
    widthCode (x.detected &&& 15 &&& 15 &&& 15) x.lanes ≠ 0 ∧ x.eth = true) := by decide +kernel

/-- A block of another version. -/
theorem test_LinkStates_config : config.valid = true ∧ config.ethernet = false ∧ config.version = Config.blockVersion ∧
    { config with version := Config.blockVersion + 1 }.version ≠ Config.blockVersion ∧ { config with ethernet := true }.ethernet = true :=
  ⟨rfl, rfl, rfl, Nat.succ_ne_self _, rfl⟩

theorem w_inRange : w.inRange := by
  unfold State.inRange
  decide +kernel

theorem test_LinkControl :
    (∀ st ∈ List.range 10, (wl st).inRange) ∧
    (∀ m ∈ [Master.mgmt, .vf 7], m.wf = true ∧ (put [(.helmPart, 0, 7, 0, 0x48000000)] w).devMgmt m = true) ∧
    (∀ m ∈ [Master.pf 3, .vf 7, .rdc 191], m.wf = true ∧ w.devMgmt m = false) ∧
    (∀ ph ∈ [6, 10], let s := put [(.lcStatus, 0, 0, 0, ph * 2 ^ 28)] (wl 0)
    s.linkState 31 = 0 ∧ s.clockHalt = false ∧ s.phase = ph) ∧
    (0x80000800#32 : Word).getLsbD 31 = true ∧ (0x80000800#32 : Word).getLsbD 28 = false ∧ (0x10000000#32 : Word).getLsbD 28 = true ∧
    (0x10000000#32 : Word).getLsbD 31 = false := by
  refine ⟨fun st h => ?_, by decide +kernel⟩
  unfold State.inRange
  revert st
  decide +kernel

/-- A flit without packet bytes, and the one that carries a whole packet. -/
def flitIdle : Flit := idleFlit 0 7 255 false
def flitOf (k : Packet) : Flit := (packetFlits k 0 false).headD flitIdle

/-- Link 31 up with credits for its census, a census under way where `mark`, and a packet sent n times. -/
def wRetry (mark : Bool) (n : Nat) : State := put [(.lnkCredit, 31, 6, 0, 1)] (wlx 7 (fun y =>
  { y with replay := [(pkt, n)], markA := if mark then some (List.replicate 8 1) else none, markR := List.replicate 8 0 }))

theorem test_LinkLevelRetry :
    (let s := wl 7
    let x := s.link 31
    nativeUp s 31 = true ∧ x.ahead = [] ∧ x.waiting = [] ∧ x.held = [] ∧ x.markA = none ∧ x.naking = false ∧ x.replay = [] ∧
      (∀ f ∈ [flitIdle, flitOf pkt], f.wf = true ∧ flitGood f = true ∧ f.nak = false ∧ flitGood { f with crc := f.crc ^^^ 1 } = false ∧
        { f with crc := f.crc ^^^ 1 }.wf = true) ∧ (takeBody x.partly flitIdle).2 = none) ∧
    (∀ k ∈ [pkt, { pkt with lseq := 65535 }, { pkt with lseq := 1 }, { pkt with typ := 0x0C }], (takeBody [] (flitOf k)).2 = some k) ∧
    (let x := (wl 7).link 31
    pkt.lseq = x.expect ∧ packetTypes.contains pkt.typ = true ∧ pkt.typ ≠ 0x0C ∧ (65535 : Nat) ≠ x.expect ∧ serialAfter 16 65535 x.ack = false ∧
      (1 : Nat) ≠ x.expect ∧ serialAfter 16 1 x.ack = true) ∧
    (∀ n ∈ [8, 9], ∀ m ∈ [true, false], let s := wRetry m n
    nativeUp s 31 = true ∧ (s.link 31).replay = [(pkt, n)] ∧ (s.link 31).replay.length < 2048 ∧ 1 ≤ s.fld .lnkCredit 31 6 0 10 0 ∧
      (∀ r, r < 8 → s.fld .lnkFiMatch 31 r 0 31 31 = 0) ∧ (s.link 31).markA = (if m then some (List.replicate 8 1) else none)) ∧
    (let s := wRetry true 8
    (∀ k, k < 8 → (List.replicate 8 1).getD k 0 + (s.link 31).markR.getD k 0 + (List.replicate 8 0).getD k 0 ≠ s.fld .lnkCredit 31 k 0 26 16) ∧
      let u := wlx 7 (fun y => { y with markA := some (List.replicate 8 0) })
      ∀ k, k < 8 → (List.replicate 8 0).getD k 0 + (u.link 31).markR.getD k 0 + (List.replicate 8 0).getD k 0 = u.fld .lnkCredit 31 k 0 26 16) := by
  decide +kernel

theorem test_RequestsAreDoneOnce : (Src.init.accept 0 0xFFFFFFFF).1 = true ∧ 0xFFFFFFFF < 2 ^ 32 ∧
    ∀ r ∈ [0xFFFFFFFE, 0], r < 2 ^ 32 ∧ ((r + 2 ^ 32 - 0xFFFFFFFF) % 2 ^ 32 < 2 ^ 30 ∨ (0xFFFFFFFF + 2 ^ 32 - r) % 2 ^ 32 < 2 ^ 30) := by decide +kernel

/-- A REDUCE, an ATOMIC, a SYNC_ADD, a slot claim, a slot row, a READ from this device and the WRITE above. -/
def pReduce : Packet := { pkt with typ := 0x06, target := 0x1FFFF8 + 3 * 2 ^ 49 }
def pAtomic : Packet := { pkt with typ := 0x04, target := 0x1FFFF8 + 3 * 2 ^ 49 }
def pSync : Packet := { pkt with typ := 0x07, target := 16383 }
def pClaim : Packet := { pkt with typ := 0x04, target := 2 ^ 63 + 5 * 2 ^ 60 + 4095 * 2 ^ 48 }
def pRow : Packet := { pkt with target := 2 ^ 63 + 6 * 2 ^ 60 + 4095 * 2 ^ 48 }
def pRead : Packet := { pkt with typ := 0x02, target := 0x1FFFF8, payload := leBytes 8 8 }

/-- Slot 4,095: partition 7, arrivals at 0x1F0000, pitch 64. -/
def wSlot : State := { w with fabric := { w.fabric with slotTab := [(4095, [0xF0000040#32, 0#32, 0x1F0000#32, 0#32, 0x1F8000#32, 0#32])] } }

theorem test_RequestPackets :
    (∀ k ∈ [pkt, pReduce, pAtomic, pSync, pClaim, pRow, pRead], packetWf 31 k = true ∧ k.dest = wSlot.devId ∧ wSlot.gState k.group ≠ 3 ∧
      ((wSlot.src k.src).accept k.incarn k.sseq).1 = true ∧ ((wSlot.src k.src).accept k.incarn k.sseq).2.2 = false) ∧
    (wSlot.mem.wf ∧ wSlot.fabric.lost = [] ∧ wSlot.part 7 = part7 ∧ pkt.kind = none) ∧ part7.onePage 0x2000 8 true ∧ (pReduce.kind = none ∧
    pReduce.payload.length - bits pReduce.target 62 60 = (AddTy.ofCode (bits pReduce.target 50 49)).bytes ∧ bits pReduce.target 47 0 % 8 = 0 ∧
    part7.xlate (bits pReduce.target 47 0) true = .here 0x1FFFF8 false ∧ pAtomic.kind = none ∧ wSlot.objHeld 7 (bits pSync.target 13 0) = true) ∧
    (∃ e, wSlot.slotPlace (Packet.slot pClaim) = some e ∧ pClaim.kind = some 5 ∧ e.inBase % 8 = 0 ∧ e.part = 7 ∧
      part7.xlate e.inBase true = .here 0x1F0000 false ∧ wSlot.slotPlace (Packet.slot pRow) = some e ∧ pRow.kind = some 6 ∧
      part7.onePage (e.inBase + 64 + Packet.slotRow pRow * e.pitch + Packet.slotOff pRow) pRow.payload.length true) ∧
    (let s := w.onFabric (fun f => { f with srcs := [(0, ⟨true, 0, 0, [0], []⟩)] })
    ((s.src 0).accept 0 0).1 = false ∧ s.devId = 0 ∧ s.fabric.lost = []) ∧
    (pRead.kind = none ∧ pRead.src = w.devId ∧ leAt pRead.payload 0 8 = 8 ∧ bits pRead.target 47 0 % 8 = 0 ∧
      part7.xlate (bits pRead.target 47 0) false = .here 0x1FFFF8 false ∧ w.mem.poison = [] ∧ w.mem.wc = [] ∧ 0x1FFFF8 % 8 = 0) := by
  refine ⟨by decide +kernel, by decide +kernel, onePage7 (by decide) _, by decide +kernel, ⟨⟨7, 64, 0x1F0000, 0x1F8000⟩, ?_⟩, by decide +kernel,
    by decide +kernel⟩
  exact ⟨by decide +kernel, by decide +kernel, by decide +kernel, rfl, by decide +kernel, by decide +kernel, by decide +kernel,
    onePage7 (by decide +kernel) _⟩

/-- A request that waits for its answer. -/
def unacked (typ n : Nat) : Unacked := ⟨{ pkt with typ := typ, sseq := 5, dest := 4095 }, n, none⟩
def wAsk (typ n : Nat) : State := put [(.lnkRoutePri, 0, 4095, 0, 0x9F000000)]
  ((wl 7).onFabric (fun f => { f with dests := [(4095, ⟨6, [unacked typ n], []⟩)] }))

theorem test_AnswersAndResends :
    (let k := { pkt with typ := 0x03, src := 4095, sseq := 5 }
    packetWf 31 k = true ∧ k.dest = (wAsk 2 0).devId ∧ (wAsk 2 0).fabric.lost = [] ∧ (wAsk 2 0).fabric.experts = [] ∧ ((wAsk 2 0).dest 4095).waiting = [] ∧
      (wAsk 2 0).asked k 0x02 = true ∧ (wAsk 4 0).asked k 0x02 = false ∧ (wAsk 4 0).asked { k with typ := 0x05 } 0x04 = true ∧
      (wAsk 2 0).asked { k with typ := 0x05 } 0x04 = false) ∧
    (let k := { pkt with typ := 0x09, src := 4095, target := 1, payload := leBytes 5 8 }
    packetWf 31 k = true ∧ ((wAsk 1 0).dest 4095).unacked = [unacked 1 0] ∧ leAt k.payload 0 4 = 5) ∧
    (let k := { pkt with typ := 0x0A, src := 4095, sseq := 5, target := 4095 }
    packetWf 31 k = true ∧ k.target % 4096 = k.src) ∧
    (∀ n ∈ [7, 8], let s := wAsk 1 n
    (s.dest 4095).unacked.find? (fun u => u.pkt.sseq == 5) = some (unacked 1 n) ∧ (unacked 1 n).group = none ∧ (unacked 1 n).pkt.dest = 4095 ∧
      (unacked 1 n).pkt.sseq = 5 ∧ s.route 4095 ≠ none ∧ 4095 ≠ s.devId) ∧
    (let s := wlx 7 (fun y => { y with ctl := 0x40000000#32 })
    let f : EthFrame := ⟨true, 31, s.fld .lnkFabric 0 0 0 31 16, [], ⟨0, 0⟩⟩
    let u := s.onPart 7 (fun x => { x with pages := [away] })
    s.linkUp 31 = true ∧ (s.link 31).eth = true ∧ f.dst = s.rd64 .lnkMacBaseLo .lnkMacBaseHi + 32 * s.devId + 31 ∧ (s.link 31).pausing = [] ∧
      { f with dst := 30 }.dst ≠ f.dst ∧ (takeFrame 31 ((u.lcnt 31 3 0).lcnt 31 2 0) [pkt]).isNone = true) := by decide +kernel

/-! ### Witnesses of the statements on groups, the Chart and Meridian -/

/-- A group card of rank 1 that agrees with group 255 of a device without digest, and group 255 in FORMING with devices 0 and 1. -/
def memb : List (Nat × Nat) := [(0, 0), (1, 0)]
def wForm (st : Nat) (f : Group → Group) : State :=
  (put [(.collGroup, 0, 255, 0, st * 2 ^ 29), (.collGroupCfg, 0, 255, 0, 2 ^ 20), (.collGroupKey, 0, 255, 0, 9)] w).onGroup 255 (fun x =>
    f { x with part := 7, members := memb })
def cardBytes (s : State) (version : Nat) : List Byte :=
  let o := s.ownCard 255
  leBytes 9 4 ++ leBytes version 4 ++ o.digest ++ o.signature ++ leBytes 0 8 ++ leBytes 0 4 ++ leBytes 1 4 ++ leBytes o.membersM1 2 ++
    leBytes o.shape 2 ++ leBytes 1 2 ++ leBytes 255 1 ++ leBytes 0 1
def pCard (s : State) (version : Nat) : Packet := { pkt with src := 1, group := 0, target := 2 ^ 63 + 2 ^ 60 + 9, payload := cardBytes s version }
def pAbort : Packet := { pkt with src := 1, group := 255, target := 2 ^ 63 + 4 * 2 ^ 60 + 3 * 2 ^ 44 }

theorem test_GroupFormation :
    (∀ m ∈ [Master.mgmt, .vf 7], m.wf = true ∧ w.reachesGroup m 255 = true) ∧ (4#32 : Word).getLsbD 2 = true ∧ (4#32 : Word).getLsbD 1 = false ∧
    (wForm 3 id).gState 255 = 3 ∧
    (∀ st ∈ [1, 4], let s := (put [(.collGroup, 0, 255, 0, st * 2 ^ 29)] w).onGroup 255 (fun x => { x with part := 7 })
    s.gState 255 = st ∧ s.gSize 255 = 1 ∧ s.rd64 .collGroupMembLo .collGroupMembHi 0 255 % 4 = 0 ∧ (s.group 255).queue = [] ∧
      s.peek 7 0 4 = some (leBytes 0 4) ∧ leNat (leBytes 0 4) % 4096 = s.devId ∧ shapeOk (s.rd .collGroupShape 0 255).toNat 1 = true ∧
      s.rd .collGroupElo 0 255 ≤ s.rd .collGroupEhi 0 255 ∧ leNat (leBytes 0 4) % 4096 ≠ (put [(.lnkDevid, 0, 0, 0, 1)] s).devId) ∧
    part7.onePage 0 4 false ∧
    (let s := wForm 2 (fun x => { x with syncWait := true })
    s.gState 255 = 2 ∧ ((s.group 255).members.map (·.1)).Nodup ∧ (s.group 255).syncWait = true ∧ (s.group 255).cards.length < s.gSize 255) ∧
    (let s := wForm 2 id
    let k := pCard s (s.ownCard 255).version
    packetWf 31 k = true ∧ k.dest = s.devId ∧ k.kind = some 1 ∧ s.formingKey (bits k.target 31 0) = some 255 ∧
      s.cardRefused 255 k.src (Card.parse k.payload) = none ∧ apart (Card.parse k.payload).meridian s.now ≤ 5000 ∧
      (Card.parse k.payload).syncReq = false ∧ ((s.group 255).cards.filter (fun y => y.1 != 1)).length + 1 < s.gSize 255 ∧
      ((s.src k.src).accept k.incarn k.sseq).1 = true ∧ ((s.src k.src).accept k.incarn k.sseq).2.2 = false) ∧
    (let s := wForm 2 id
    let k := pCard s ((s.ownCard 255).version + 1)
    packetWf 31 k = true ∧ s.cardRefused 255 k.src (Card.parse k.payload) = some 2) ∧
    (∀ st ∈ [2, 3], ∀ e ∈ [3, 4], let s := wForm st (fun x => { x with epoch := e })
    packetWf 31 pAbort = true ∧ pAbort.kind = some 4 ∧ pAbort.group = 255 ∧ ((s.group 255).rankOf pAbort.src).isSome = true ∧ s.gState 255 = st ∧
      pAbort.epoch = 3 ∧ ((s.src 1).accept 0 0).1 = true) := by
  refine ⟨by decide +kernel, by decide, by decide, by decide +kernel, by decide +kernel, onePage7 (by decide) _, by decide +kernel, by decide +kernel,
    by decide +kernel, by decide +kernel⟩

/-- A posted ALLGATHER on group 255, READY at epoch 3, with one chunk kept; and packets of it from device 1. -/
def posted : Posted := ⟨191, 1, 0x3FFBC0, 0, collGather, true, [], [], [⟨1, 0, leBytes 7 8, false, 4⟩], [], [], 0, []⟩
def wReady : State := (wForm 3 (fun x => { x with epoch := 3, queue := [posted], nextDseq := 1, staged := [⟨1, 0, 3, [(0, 5#8)], false⟩] })).wr
  .lnkRoutePri 0 1 0 0x9F000000#32 |>.wr .lnkStatus 31 0 0 0x70000000#32
def pChunk (kind typ epoch : Nat) (data : List Byte) : Packet :=
  { pkt with typ := typ, src := 1, group := 255, target := 2 ^ 63 + kind * 2 ^ 60 + epoch * 2 ^ 44, payload := data }

theorem test_ChunksAndValues :
    (∀ k ∈ [pChunk 0 1 3 (leBytes 0 8), pChunk 2 1 3 (leBytes 0 16), pChunk 3 1 3 (leBytes 0 8), pChunk 0 0x0B 3 (leBytes 0 8),
      pChunk 0 1 4 (leBytes 0 8)], packetWf 31 k = true ∧ k.dest = wReady.devId ∧ wReady.gState k.group = 3 ∧ k.epoch ≠ 4 + 65536 ∧
      ((wReady.src k.src).accept k.incarn k.sseq).1 = true ∧ ((wReady.src k.src).accept k.incarn k.sseq).2.2 = false) ∧
    (∀ m ∈ (wReady.group 255).members, m.1 = wReady.devId ∨ wReady.route m.1 ≠ none) ∧ wReady.fabric.lost = [] ∧
    (pChunk 0 1 4 []).epoch ≠ (wReady.group 255).epoch % 65536 ∧ (pChunk 0 1 3 []).epoch = (wReady.group 255).epoch % 65536 ∧
    (wReady.group 255).rankOf 1 = some 1 ∧ wReady.chunkPost 255 0 = some (some posted) ∧
    wReady.chunkNumber 255 1 0 posted = 3 ∧ wReady.chunkRoom 255 1 3 posted = true ∧
    ((Instr.chunkData 31 (pChunk 0 1 3 (leBytes 0 8)) []).wf = true ∧ (Instr.chunkEnd 31 (pChunk 2 1 3 (leBytes 0 16))).wf = true ∧
      (Instr.chunkRetryRequest 31 (pChunk 3 1 3 (leBytes 0 8))).wf = true ∧ (Instr.beaconPacket 31 (pChunk 0 0x0B 3 (leBytes 0 8))).wf = true) ∧
    (let d := leBytes 0 8 ++ leBytes 0 8
    leAt d 8 4 % 256 ≠ cOp posted.desc) ∧
    (let d := leBytes 1 4 ++ leBytes 1 4 ++ leBytes 3 4 ++ leBytes 8 4
    leAt d 8 4 % 256 = cOp posted.desc ∧ leAt d 12 4 = cCount posted.desc % 2 ^ 32 ∧ cDirect posted.desc = false ∧ posted.retries = [] ∧
      (wReady.group 255).queue = [posted] ∧ posted.ended (wReady.gSize 255) (wReady.myRank 255) = false ∧
      (wReady.group 255).stagedAt 1 0 3 = some ⟨1, 0, 3, [(0, 5#8)], false⟩ ∧ leAt d 4 4 ≤ 1 ∧ crc32c ([5#8].take (leAt d 4 4)) ≠ w32 (leAt d 0 4)) ∧
    wReady.posted 255 0 = some posted ∧ posted.kept.find? (fun c => c.rank == 1 && wireChunk posted.desc (wReady.gSize 255) c.chunk == 0) = some ⟨1, 0, leBytes 7 8, false, 4⟩ ∧
    (pChunk 0 0x0B 3 (leBytes 0 8)).bHops = 0 ∧ (wReady.group 255).beacons = [] := by decide +kernel

/-- R236: a ring that holds 1,024 descriptors. -/
theorem test_CollectivePosting_full : 1024 ≤ ((((wColl 1).onGroup 255 (fun x => { x with queue := List.replicate 1024 posted })).group 255).queue).length ∧
    ((wColl 1).onGroup 255 (fun x => { x with queue := List.replicate 1024 posted })).gState 255 = 1 := by decide +kernel

/-- A posted ring ALLREDUCE in FP32 instead, with two slots: its chunk has room, and an error may strike its slot. -/
def collSum : List Byte := leBytes (1 + 12 * 2 ^ 18) 8 ++ leBytes 8 8 ++ List.replicate 48 0#8
def wSum : State := wReady.onGroup 255 (fun x => { x with queue := [{ posted with desc := collSum }], staged := [], slots := 2 })

theorem test_ChunksAndValues_errors : cReducing collSum = true ∧ cDirect collSum = false ∧
    wSum.chunkNumber 255 1 0 { posted with desc := collSum } = 1 ∧ wSum.chunkRoom 255 1 1 { posted with desc := collSum } = true ∧ wSum.chunkPost 255 0 = some (some { posted with desc := collSum }) ∧
    (Instr.chunkData 31 (pChunk 0 1 3 (leBytes 0 8)) [⟨4, 127, 0, true⟩]).wf = true := by decide +kernel

theorem test_ChunksAndValues_inRange : wReady.inRange := by
  unfold State.inRange
  decide +kernel

theorem test_ChartAndMeridian :
    (∀ m ∈ [Master.mgmt, .vf 7], (put [(.helmPart, 0, 7, 0, 0x48000000)] w).devMgmt m = true ∧ m.wf = true) ∧ w.devMgmt (.vf 7) = false ∧
    (∀ e ∈ [0, 1], let s := put [(.chartSel, 0, 0, 0, 4095 + e * 2 ^ 16)] w
    s.fld .chartSel 0 0 0 16 16 = e ∧ s.fld .chartSel 0 0 0 15 0 < 4096) ∧
    (2#32 : Word).getLsbD 1 = true ∧ (1#32 : Word).getLsbD 0 = true ∧ (1#32 : Word).getLsbD 1 = false ∧
    nativeUp (wl 6) 31 = false ∧
    (let s := put [(.collMerCfg, 0, 0, 0, 1), (.lnkCredit, 31, 6, 0, 1)] (wl 7)
    (s.link 31).ahead = [] ∧ (s.link 31).waiting = [] ∧ (s.link 31).held = [] ∧ 1 ≤ s.fld .lnkCredit 31 6 0 10 0 ∧
      (s.link 31).replay.length < 2048 ∧ (∀ i, i < 8 → s.fld .lnkFiMatch 31 i 0 31 31 = 0) ∧ nativeUp s 31 = true ∧ s.merOffered = [] ∧ merBefore (0, 4095) s.merSelf = true ∧ 126 < 127) := by decide +kernel

/-! ### Witnesses of the statements on memory, faults and counters -/

theorem w_wf : w.mem.wf := by decide +kernel

theorem test_MemoryPath : w.mem.wf ∧ w.inRange ∧ w.memoryOn = true ∧ (put [(.lcStatus, 0, 0, 0, 0x70000000)] w).memoryOn = false ∧
    (put [(.lcStatus, 0, 0, 0, 0x80000000)] w).memoryOn = true ∧ 0x23FFFFFFF * 64 < w.grade.capacity ∧ MemSource.demand ≠ .scrub ∧
    w.controlLine 0x23FFFFFFF = false ∧
    ({ w with mem := { w.mem with control := [0x23FFFFFFF * 64 / frameSize] } } : State).controlLine 0x23FFFFFFF = true ∧
    63 + [5#8].length ≤ 64 ∧ 56 % (AddTy.ofCode (3 % 4)).bytes = 0 ∧ 56 + (AddTy.ofCode (3 % 4)).bytes ≤ 64 ∧
    ((w.mem.settle (0x23FFFFFFF * 64) 64).look (0x23FFFFFFF * 64) 64).2 = false ∧
    (∀ p ∈ [0, 12582911], (put [(.memScrubCtl, 11, 0, 0, 256), (.memScrubPos, 11, 0, 0, p)] w).fld .memScrubCtl 11 0 0 8 8 = 1 ∧
      (put [(.memScrubCtl, 11, 0, 0, 256), (.memScrubPos, 11, 0, 0, p)] w).fld .memScrubPos 11 0 0 23 0 = p) :=
  ⟨w_wf, w_inRange, by decide +kernel⟩

/-- A permanent location at the top of frame 0, of partition 7, whose page is not pinned. -/
def lost0 : AlmEntry := ⟨1, 0, 3, 0, 0, 0, 0x1FFFC0, 1, 0, 0⟩

theorem test_MarginingMigrationCensus : w.mem.wf ∧ w.inRange ∧
    (let s := put [(.lcStatus, 0, 0, 0, 0x80000000), (.helmPart, 0, 7, 0, 0xC8000000)] w
    (∀ m ∈ [Master.mgmt, .vf 7], m.wf = true ∧ s.holdMgmt m = true) ∧ 11 < s.nStacks ∧ s.phase = 8) ∧
    (w.holdMgmt .mgmt = true ∧ w.phase ≠ 8 ∧ (0x80000000#32 : Word).getLsbD 31 = true) ∧
    (let s := put [(.memStatus, 11, 0, 0, 8)] w
    s.clockHalt = false ∧ s.fld .memStatus 11 0 0 3 3 = 1) ∧
    (let s := ((w.onRel (fun r => { r with entries := [lost0] })).onCore 190 (fun k => { k with cp := 0x400000 })).onCore 191
      (fun k => { k with cp := 0x400000 })
    0 ∉ s.controlMap ∧ (∃ e ∈ s.rel.entries, e.kind = 1 ∧ e.st = 3 ∧ e.location / frameSize = 0) ∧ s.frameHolder 0 = some 7 ∧
      (∀ y ∈ (s.part 7).pages, y.p = false) ∧ s.pagesUsed 7 ((s.part 7).pages.filter (fun y => y.frame.any (fun a => a / frameSize == 0))) = false ∧ s.freeFrom s.grade.frames 0 = some 2 ∧ s.rel.retired.length < 256) ∧
    w.phase = 10 ∧ { w with clockHalt := true }.clockHalt = true ∧
    ((put [(.lcStatus, 0, 0, 0, 0x90000000)] w).phase ≠ 10) := by
  refine ⟨w_wf, w_inRange, ?_⟩
  decide +kernel

/-- The census holds where group 255 is allocated, and not where it is held by partition 7 and free at once. -/
theorem test_MarginingMigrationCensus_census : (∀ e ∈ (wGroup 1 []).censusEqs, e.terms.sum = e.total) ∧ (wGroup 1 []).phase = 10 ∧
    (∃ e ∈ w.censusEqs, e.terms.sum ≠ e.total) ∧ w.phase = 10 ∧ w.clockHalt = false := by decide +kernel

theorem test_AlmanacAndLighthouse :
    w.rel.dirty = false ∧ (w.onRel (fun r => { r with dirty := true })).rel.writing = none ∧
    (let c : AlmCopy := ⟨true, 0xFFFFFFFF, 1, 0, true, [lost0]⟩
    let s := w.onRel (fun r => { r with writing := some c, dirty := true })
    s.rel.writing = some c ∧ s.start.resetWait = none ∧ s.rel.dirty = true ∧ { s with start := ⟨none, some 3⟩ }.start.resetWait = some 3 ∧
      (w.onRel (fun r => { r with writing := some c })).rel.dirty = false) ∧
    (let s := put [(.logLhCtl, 0, 0, 0, 0x80000000)] w
    s.fld .logLhCtl 0 0 0 31 31 = 1 ∧ s.clockHalt = false ∧ tabGet (s.core 191).lhNext 3 0 = 0 ∧ 511 < 2 ^ (s.lhRate 191 3 + 1)) ∧
    (let s := w.onRel (fun r => { r with entries := [⟨0, 0x0F, 1, 0, 191, 0, 3, 1, 0, 0⟩] })
    s.onWatch 191 3 = true) ∧
    w.bmcOn = true ∧ State.reset.bmcOn = false := by decide +kernel

/-- An uncorrectable error at the end of each storage of a core, and correctable ones where there is a correcting code. -/
def storageErrs : List SramErr :=
  [⟨.coreStore 65535, 2 ^ 64 - 1, true⟩, ⟨.tile 3 15, 0, true⟩, ⟨.bank 3 1, 0, true⟩, ⟨.queue 15, 0, true⟩, ⟨.mailbox 63, 0, true⟩, ⟨.pilot, 0, true⟩,
   ⟨.coreStore 0, 0, false⟩, ⟨.tile 0 0, 0, false⟩, ⟨.mailbox 0, 0, false⟩]

theorem test_AlmanacAndLighthouse_errors : (∀ e ∈ storageErrs, e.wf = true) ∧ w.clockHalt = false ∧
    (∀ e ∈ [SramErr.mk (.bank 0 0) 0 false, ⟨.pilot, 0, false⟩, ⟨.queue 0, 0, false⟩, ⟨.tile 4 0, 0, true⟩, ⟨.coreStore 65536, 0, true⟩], e.wf = false) ∧
    (∀ e ∈ [HubErr.mk 3 0 0 true, ⟨6, 0, 2 ^ 64 - 1, false⟩], e.ofControl = true) ∧ (HubErr.mk 3 1 0 true).ofControl = false := by decide

/-- R406: the line and no other of core store, and the class of the record. -/
theorem test_storageError : let u := w.sramErrors 191 [⟨.coreStore 65535, 524287, true⟩]
    (u.core 191).csPoison = [65535] ∧ u.newest.map (·.cls) = some 5 ∧ u.rel.entries.map (·.location) = [524287] := by decide +kernel

theorem w_lengths : w.lengths := by
  unfold State.lengths
  decide +kernel

theorem test_AlmanacAndLighthouse_lengths : w.lengths ∧ w.inRange := ⟨w_lengths, w_inRange⟩

/-- Core 191 with TAG_EN, a tagged command, and a record ring at 0x1FE000 with HEAD and TAIL. -/
def wTag (head tail : Nat) : State :=
  { put [(.perfCoreCtl, 0, 191, 0, 0x20000000), (.perfRingCtl, 0, 7, 0, 0x80000000), (.perfRingBaseLo, 0, 7, 0, 0x1FE000),
      (.perfRingHead, 0, 7, 0, head), (.perfRingTail, 0, 7, 0, tail)] w with tagged := [(191, 1)] }
def times : StageTimes := ⟨0, 1, 1, 0, 0, 0, 0, 0, 0, 0, 0, 0, 0, 0⟩

/-- A dump buffer of one page of 2 MiB, pinned, for partition 7. -/
def wDump (st : Nat) : State := (put [(.perfDumpCtl, 0, 7, 0, 0x80000000), (.perfDumpBaseLo, 0, 7, 0, 0x100000), (.helmPart, 0, 7, 0, st * 2 ^ 30)] w).onPart 7
  (fun x => { x with pages := [{ page0 with p := true }] })

theorem test_PerfRecords :
    (let s := wTag 0 0
    s.fld .perfCoreCtl 0 191 0 29 29 = 1 ∧ s.clockHalt = false ∧ (s.core 191).tagArmed = false ∧ (s.core 191).tagCount = 0 ∧
      31 < 2 ^ (s.tagRate 191 + 1)) ∧
    (∀ ht ∈ [(0, 64), (1, 64)], let s := wTag ht.1 ht.2
    s.mem.wf ∧ (191, times.cc) ∈ s.tagged ∧ s.clockHalt = false ∧ s.holder 191 = some 7 ∧ s.fld .perfRingCtl 0 7 0 31 31 = 1 ∧ s.ringSize 7 = 64) ∧
    ((wTag 0 64).ringSize 7 ≤ ((wTag 0 64).rd .perfRingTail 0 7).toNat - ((wTag 0 64).rd .perfRingHead 0 7).toNat ∧
      ((wTag 1 64).rd .perfRingTail 0 7).toNat - ((wTag 1 64).rd .perfRingHead 0 7).toNat < (wTag 1 64).ringSize 7 ∧
      (wTag 1 64).ringBase 7 + 64 * (64 % 64) = 0x1FE000 ∧ (wTag 1 64).part 7 = part7) ∧
    (w.fld .perfDumpCtl 0 7 0 31 31 = 0 ∧ w.mem.wf) ∧
    (∀ st ∈ [1, 2], let s := wDump st
    s.fld .perfDumpCtl 0 7 0 31 31 = 1 ∧ s.clockHalt = false ∧ s.partState 7 = st) ∧
    ((wDump 1).part 7).page? 0x100000 = some { page0 with p := true } ∧
    w.reachesHub .mgmt 31 = true ∧ w.reachesHub (.vf 7) 31 = false ∧
    (put [(.perfHubEvt, 0, 31, 0, 0x70000000)] w).reachesHub (.vf 7) 31 = true ∧
    (w.reachesPerf (.pf 0) 7 = false ∧ w.reachesPerf (.vf 7) 7 = true ∧
      ((wDump 1).part 7).pinned ((wDump 1).dumpBase 7) (2 * (wDump 1).dumpSize 7) = true ∧ (wDump 1).dumpBase 7 % 128 = 0 ∧
      (w.part 7).pinned (w.dumpBase 7) (2 * w.dumpSize 7) = false) := by decide +kernel

theorem test_PerfRecords_page : part7.onePage 0x1FE000 64 false ∧ (wTag 1 64).inRange := by
  refine ⟨onePage7 (by decide) _, ?_⟩
  unfold State.inRange
  decide +kernel

theorem test_PowerLoops : w.lengths ∧ w.inRange ∧ w.clockHalt = false ∧
    (let s := w.onPower (fun p => { p with brake := true, stale := true })
    s.power.brake = true ∧ s.power.stale = true) ∧ w.power.brake = false ∧ w.power.stale = false ∧ w.floorF < w.power.f ∧ 64 ≤ w.power.pace ∧
    (w.onPower (fun p => { p with f := w.floorF, pace := 8 })).power.f ≤ w.floorF ∧ (w.onPower (fun p => { p with f := w.floorF, pace := 8 })).power.pace < 64 ∧
    (put [(.clkCore, 0, 1, 0, 64)] w).freq 1 ≠ 0 ∧
    (let s := (put [(.clkCore, 0, 0, 0, 0x100040), (.clkCore, 0, 1, 0, 0x100040)] w).onPart 7 (fun x => { x with rects := [⟨0, 2, 1, 7, true⟩] })
    s.linked = true ∧ s.freq 0 = s.freq 1 ∧ s.slewing 0 = true ∧ s.slewing 1 = true) ∧ w.slewing 0 = false ∧
    (let s := put [(.pwrTherm, 0, 0, 0, 105 * 256 + 95), (.pwrTemp, 0, 2, 0, 760)] w
    ∃ x ∈ s.paceTemps, 8 * (s.throttleC : Int) ≤ x) ∧
    (let s := put [(.pwrTherm, 0, 0, 0, 105 * 256 + 95), (.pwrTemp, 0, 2, 0, 744)] w
    ∀ x ∈ s.paceTemps, x ≤ 8 * (s.throttleC : Int) - 16) ∧
    (let s := put [(.pwrTherm, 0, 0, 0, 105 * 256 + 95), (.pwrTemp, 0, 2, 0, 759)] w
    (∀ x ∈ s.paceTemps, x < 8 * (s.throttleC : Int)) ∧ ∃ x ∈ s.paceTemps, 8 * (s.throttleC : Int) - 16 < x) := by
  refine ⟨w_lengths, w_inRange, ?_⟩
  decide +kernel

theorem test_SidebandAndClockLosses : w.lengths ∧ w.inRange ∧ Instr.wf (.clockHalt (.divider 11)) = true ∧ Instr.wf (.clockHalt (.corePll 1)) = true ∧
    w.clockHalt = false ∧ w.rel.fatal = none ∧ w.pins.xtal = true ∧ { w.pins with xtal := false }.xtal = false ∧
    (∀ st ∈ [4, 5, 6, 7], (wl st).linkState (8 * 3 + 7) = st) ∧ w.phase = 10 ∧ w.partState 7 = 1 ∧ w.partPort 7 = 0 ∧
    tabGet w.power.missed 9 0 ≠ 2 ∧ tabGet (w.onPower (fun p => { p with missed := [(9, 2)] })).power.missed 9 0 = 2 ∧
    (put [(.clkCore, 0, 1, 0, 64)] w).freq (5 - 4) ≠ 0 ∧ (w.rd .pwrSbSeg).getLsbD 31 = false ∧
    ((put [(.pwrSbSeg, 0, 0, 0, 0x80000000)] (wl 2)).rd .pwrSbSeg).getLsbD 31 = true ∧ (wl 2).backplane 31 = false ∧
    (let r := { module with busFails := true }
    (wl 1).linkState 31 = 1 ∧ r.busFails = true ∧ { r with trunk := true }.trunk = true ∧ r.trunk = false) := by
  refine ⟨w_lengths, w_inRange, ?_⟩
  decide +kernel

/-! ### Witnesses of the statements on start-up and the life cycle -/

/-- An image for an MFC-4412 of version 1, signed for these tests with a key of key slot 0, without sections' contents. -/
def imgBody : List Byte := leBytes 0x4E4F4143 4 ++ leBytes 1 2 ++ leBytes 0x4412 2 ++ leBytes 1 4 ++ leBytes 4096 4
def imgKey : List Byte := beBytes 48 0xBFD152465458E5B9F1A903EAFEF03095EBFD52C5F9EA97BE74DE9194355FCFB40EC097315ADF6AFDEFBA21F44B625B48 ++
  beBytes 48 0x17058EFF9A1AD175A4675E9C730CB028EC76AEC544F7A56D58164D8CFC0402B489C4E74C918DC3A77F5C219D31B8E245
def imgSig : List Byte := beBytes 48 0x23EBF2D48DE4117F33468BE7357C70C633321C0E5F92ABCC3D69C91AE810BE767967856B959B38B645491C0C47FAB10D ++
  beBytes 48 0xEEACEC147E241D808B5D8BA8056A23A7B99D7732AC47007396020A4945B0CED60858F258B92686F9FF2B83821956EAF9
def keyHash : List Byte := beBytes 48 0x2B8BBB93F96A511BFC15475CAB001A884D51AFCA0BD0C9378B98B1543BB5B25639B68072717A667A66A3F53DD2C0BA7C
def bodyHash : List Byte := beBytes 48 0xD46EBD0164F9C3C2E0A343BCB4EC4E0BDF0DE6EB671554EF2533110296573CB6EDF1BA868D7C0EAC8AD8A711246FBA8C
def image (hold : Bool) : Image := ⟨imgBody, 0, imgKey, imgSig, true, sections hold⟩

/-! Numbers of a hash evaluated one by one: the kernel would otherwise carry the whole hash as one unevaluated term. -/
def forced (l : List Nat) : List Nat := if l.all (fun x => decide (x < 2 ^ 64)) then l else l
theorem forced_eq : forced = id := by funext l; simp [forced]

def extendF (s : Sha) : Nat → List Nat → List Nat
  | 0, l => l
  | n + 1, l => extendF s n (forced ((s.sigS s.small1 (l.getD 1 0) + l.getD 6 0 + s.sigS s.small0 (l.getD 14 0) + l.getD 15 0) % 2 ^ s.w :: l))

theorem extendF_eq (s : Sha) (n : Nat) (l : List Nat) : extendF s n l = s.extend n l := by
  induction n generalizing l with
  | zero => rfl
  | succ n ih => simp only [extendF, ih, forced_eq, id]; rfl

def blockF (s : Sha) (h m : List Nat) : List Nat :=
  let r := (s.k.zip (extendF s (s.k.length - 16) (forced m.reverse)).reverse).foldl (fun st kw => forced (s.round st kw)) h
  forced ((h.zip r).map (fun p => (p.1 + p.2) % 2 ^ s.w))

theorem blockF_eq (s : Sha) (h m : List Nat) : blockF s h m = s.block h m := by simp only [blockF, extendF_eq, forced_eq, id]; rfl

def digestF (s : Sha) (l : List Byte) : List Byte :=
  let bb := s.w * 2
  let lenB := s.w / 4
  let padZ := (bb - (l.length + 1 + lenB) % bb) % bb
  let msg := l ++ [0x80#8] ++ List.replicate padZ 0#8 ++ beBytes lenB (8 * l.length)
  let h := (chunksOf bb msg.length msg).foldl (fun h c => blockF s h ((chunksOf (s.w / 8) 16 c).map beNat)) s.h0
  h.flatMap (fun x => beBytes (s.w / 8) x)

theorem digestF_eq (s : Sha) (l : List Byte) : digestF s l = s.digest l := by simp only [digestF, blockF_eq]; rfl

/-- FIPS 180-4's example for the message abc. -/
theorem test_sha256_abc : sha256Of [0x61#8, 0x62#8, 0x63#8] =
    beBytes 32 0xBA7816BF8F01CFEA414140DE5DAE2223B00361A396177A9CB410FF61F20015AD := by
  rw [sha256Of, ← digestF_eq]
  decide +kernel
theorem test_sha384_abc : sha384Of [0x61#8, 0x62#8, 0x63#8] = beBytes 48 0xCB00753F45A35E8BB5A03D699AC65007272C32AB0EDED1631A8B605A43FF5BED8086072BA1E7CC2358BAECA134C825A7 := by
  rw [sha384Of, ← digestF_eq]
  decide +kernel
/-- The published check value of CRC-32C, over the digits 1 to 9. -/
theorem test_crc32c : crc32c (leBytes 0x393837363534333231 9) = 0xE3069283#32 := by decide +kernel

theorem hash_body : sha384Of imgBody = bodyHash := by
  rw [sha384Of, ← digestF_eq]
  decide +kernel
theorem hash_key : sha384Of imgKey = keyHash := by
  rw [sha384Of, ← digestF_eq]
  decide +kernel

/-- A part in phase 1 or 2 with its key fused, and the image in slot 0. -/
def wBoot (ph : Nat) (hold : Bool) : State :=
  { put [(.lcStatus, 0, 0, 0, ph * 2 ^ 28)] State.reset with
    fuses := { State.reset.fuses with keys := [(0, keyHash)] }, flash := { State.reset.flash with slots := [some (image hold), none] } }

theorem signature_image (ph : Nat) (hold : Bool) : (wBoot ph hold).signatureOk (image hold) = true := by
  unfold State.signatureOk
  show (([(0, keyHash)] : List (Nat × List Byte)).any (fun k => k.1 == 0 && k.2 == sha384Of imgKey) && !([] : List Nat).contains 0 && slotAccepted 0 0 &&
    ecdsaVerify imgKey imgSig (sha384Of imgBody)) = true
  rw [hash_key, hash_body]
  decide +kernel

theorem fail_image (hold : Bool) : (wBoot 1 hold).imageFail (image hold) = 0 := by
  unfold State.imageFail
  rw [signature_image]
  cases hold <;> decide +kernel

theorem pick_image (hold : Bool) : (wBoot 1 hold).chooseSlot.1 = .ok 0 := by
  have h0 : (wBoot 1 hold).slotFail 0 = 0 := fail_image hold
  have h1 : (wBoot 1 hold).slotFail 1 = 1 := rfl
  have hd : (wBoot 1 hold).flash.directory = none := rfl
  simp only [State.chooseSlot, hd, State.pickNewest, h0, h1]
  rfl

theorem test_StartAndDeviceResets : State.reset.phase = 0 ∧ w.phase ≠ 0 ∧
    (∀ ph ∈ [1, 2], (put [(.lcStatus, 0, 0, 0, ph * 2 ^ 28)] State.reset).phase = ph) ∧ State.reset.clockHalt = false ∧
    State.reset.chooseSlot.1 = .error 1 ∧ (wBoot 1 true).chooseSlot.1 = .ok 0 ∧ (wBoot 1 true).flash.slot 0 = some (image true) ∧
    (∃ st ∈ [11], st < State.reset.nStacks) ∧ (∀ st ∈ [12], State.reset.nStacks ≤ st) ∧
    (∀ h ∈ [true, false], let s := { put [(.lcStatus, 0, 0, 0, 0x70000000)] State.reset with start := ⟨some (image h), none⟩ }
    s.phase = 7 ∧ s.clockHalt = false ∧ s.holdEnabled = h) ∧
    (let s := put [(.lcStatus, 0, 0, 0, 0x80000000)] State.reset
    s.bmcOn = true ∧ s.phase = 8 ∧ s.clockHalt = false) ∧
    w.bmcOn = true ∧ State.reset.bmcOn = false ∧ w.rel.writing = none ∧ w.rel.dirty = false ∧ (w.onRel (fun r => { r with dirty := true })).rel.dirty = true ∧
    w.fabric.groups = [] ∧ w.sectors.countUsed < 16382 := by
  refine ⟨by decide +kernel, by decide +kernel, by decide +kernel, rfl, rfl, pick_image true, rfl, by decide +kernel, by decide +kernel, by decide +kernel,
    by decide +kernel⟩

theorem test_PortsAndPartitionResets : w.inRange ∧ w.lengths ∧ w.phase = 10 ∧ w.clockHalt = false ∧ w.partState 7 = 1 ∧ w.partPort 7 = 0 ∧
    w.portLive 0 = true ∧ w.portLive 1 = false ∧ w.pins.perstN.getD 0 true = true ∧ w.pins.pcieRef.getD 0 true = true ∧ 16 ∈ [1, 2, 4, 8, 16] ∧
    16 * portCount w.straps ≤ 16 ∧ (put [(.lcStatus, 0, 0, 0, 0xA0002000)] w).portLive 3 = true ∧
    4 * portCount (put [(.lcStatus, 0, 0, 0, 0xA0002000)] w).straps ≤ 16 ∧
    (let s := { put [(.helmPart, 0, 7, 0, 0xC0000000)] w with vfHeld := [0] }
    0 ∈ s.vfHeld ∧ s.partState 7 = 3 ∧ s.portLive 0 = true) ∧
    (let s := put [(.lcStatus, 0, 0, 0, 0x40000001)] w
    s.portLive 0 = true ∧ s.phase < 5 ∧ s.fld .lcStatus 0 0 0 3 0 < 2) ∧
    w.start.image = none ∧
    (let s := put [(.helmPart, 0, 7, 0, 0xC0000000)] w
    s.partState 7 = 3 ∧ s.partPort 7 ∉ s.vfHeld ∧ s.evqFull 7 = false) := by
  refine ⟨w_inRange, w_lengths, ?_⟩
  decide +kernel

/-- Partition 7 with device management, a quorum and votes. -/
def wVote (q : Nat) (v : List Nat) : State := { put [(.helmPart, 0, 7, 0, 0x48000000), (.lcReset, 0, 0, 0, q * 16)] w with votes := v }

theorem test_VotesForReset : w.partMgmt 7 = false ∧
    (∀ x ∈ [(0, []), (2, []), (2, [0]), (4, [1, 2]), (4, [1, 2, 3])], let s := wVote x.1 x.2
    s.vfLive 7 = true ∧ s.partMgmt 7 = true ∧ s.fld .lcReset 0 0 0 6 4 = x.1 ∧ s.rel.writing = none ∧ s.rel.dirty = false) ∧
    (let s := wVote 4 [1, 2, 3]
    (if s.partPort 7 ∈ s.votes then s.votes.length else s.votes.length + 1) = 4) ∧
    (let s := wVote 4 [1, 2]
    (if s.partPort 7 ∈ s.votes then s.votes.length else s.votes.length + 1) = 3) ∧
    (let s := put [(.lcStatus, 0, 0, 0, 0x80000000), (.helmPart, 0, 7, 0, 0xC8000000)] w
    s.vfLive 7 = false ∧ s.phase = 8 ∧ s.clockHalt = false ∧ s.partMgmt 7 = true ∧ s.bar2Waits (.vf 7) = false ∧
      (s.onPart 7 (fun x => { x with bar2Held := [(0, [], false)] })).bar2Waits (.vf 7) = true) ∧
    ((wVote 1 []).onRel (fun r => { r with dirty := true })).rel.dirty = true ∧ (put [(.lcStatus, 0, 0, 0, 0x20000000)] State.reset).phase = 2 := by
  decide +kernel

theorem test_VotesForReset_inRange : (wVote 4 [1, 2, 3]).inRange := by
  unfold State.inRange
  decide +kernel

theorem test_HostRegisters :
    (∀ m ∈ [Master.mgmt, .vf 7], ∀ a ∈ [(⟨.coreFlags, 191, 0, 0⟩ : RegAt), ⟨.helmPart, 0, 7, 0⟩, ⟨.coreCpLo, 191, 0, 0⟩, ⟨.coreCpHi, 191, 0, 0⟩],
      m.wf = true ∧ regFind a.addr = some a ∧ inMsix a.addr = false ∧ w.offHeld a.addr = false ∧ w.access m = .whole ∧ w.sees m a false = true) ∧
    w.latches = [] ∧
    (w.sees (.vf 7) ⟨.coreFlags, 189, 0, 0⟩ false = false ∧ regFind (Reg.addr .coreFlags 189 0 0) = some ⟨.coreFlags, 189, 0, 0⟩) ∧
    (w.sees (.vf 7) ⟨.helmPart, 0, 7, 0⟩ true = true ∧ groupHeld .helmIrqMask = false ∧ w.writeHeld (Reg.addr .helmIrqMask 0 7 0) = false ∧
      w.sees (.vf 7) ⟨.helmIrqMask, 0, 7, 0⟩ true = true) ∧
    (groupHeld .collGroupKey = true ∧ w.gState 255 ≠ 1 ∧ w.gState 255 ≠ 4 ∧ (wForm 4 id).gState 255 = 4 ∧
      w.sees (.vf 7) ⟨.collGroupKey, 0, 255, 0⟩ true = true) ∧
    State.reset.bmcOn = false ∧
    (let s := { w with clockHalt := true }
    s.access (.vf 7) = .unsupported ∧ s.access (.pf 0) = .unsupported ∧ 0 < portCount s.straps ∧ s.phase ≠ 0 ∧ s.clockHalt = true) ∧
    w.access (.vf 0) = .unsupported ∧ w.access (.pf 0) = .whole ∧
    (let s := put [(.lcStatus, 0, 0, 0, 0x80000000), (.helmPart, 0, 7, 0, 0xC8000000)] w
    s.access (.vf 7) = .hold) ∧
    w.reaches (.vf 7) 7 = true ∧ w.reaches (.pf 0) 7 = false ∧ 15 ∉ (w.part 7).msixHold ∧
    (let s := w.onPart 7 (fun x => { x with msixHold := [15], msixPend := [15] })
    15 ∈ (s.part 7).msixHold ∧ 15 ∈ (s.part 7).msixPend ∧ (s.msixRd (.vf 7) (16 * 15 + 12)).getLsbD 0 = true ∧
      ((s.msixWr (.vf 7) (16 * 15 + 12) 0#32).msixRd (.vf 7) (16 * 15 + 12)).getLsbD 0 = false) ∧
    w.mem.wf ∧ w.mem.poison = [] ∧ w.mem.wc = [] ∧ (w.part 7).page? 0x200000 = none := by decide +kernel

theorem test_HostRegisters_pairs :
    RegAt.hi ⟨.coreCpLo, 191, 0, 0⟩ = some ⟨.coreCpHi, 191, 0, 0⟩ ∧ RegAt.lo ⟨.coreCpHi, 191, 0, 0⟩ = some ⟨.coreCpLo, 191, 0, 0⟩ ∧
    RegAt.hi ⟨.helmReqArg, 0, 7, 0⟩ = some ⟨.helmReqArg, 0, 7, 1⟩ ∧ RegAt.hi ⟨.helmEvqData, 0, 7, 2⟩ = some ⟨.helmEvqData, 0, 7, 3⟩ ∧
    RegAt.lo ⟨.coreFlags, 191, 0, 0⟩ = none ∧ w.latches = [] ∧ w.bar2Waits .mgmt = false ∧ w.bar2Waits (.vf 7) = false:= by decide +kernel

/-- Partition 7 with its page open to the host, writable or not. -/
theorem test_HostRegisters_page : ∀ wr, ∃ g f, g.frame = some f ∧ g.h = true ∧ g.w = wr ∧
    ∀ a, 0x1FFFF0 ≤ a → a < 0x1FFFF0 + 16 → ({ part7 with pages := [{ page0 with h := true, w := wr }] } : Part).page? a = some g := by
  intro wr
  refine ⟨{ page0 with h := true, w := wr }, 0, rfl, rfl, rfl, fun a _ h2 => ?_⟩
  have h3 : a < 0x200000 := by omega
  simp [Part.page?, page0, Page.size, h3]

/-- The same for a page in the swap area, and the window of the image: its last byte, and the first one beyond. -/
theorem test_HostRegisters_window : (∃ g, g.frame = none ∧ g.h = true ∧ g.w = true ∧ ∀ a, 0x1FFFF0 ≤ a → a < 0x1FFFF0 + 16 →
      ({ part7 with pages := [{ away with h := true }] } : Part).page? a = some g) ∧
    (let s : State := { w with start := ⟨some (image false), none⟩ }
    s.access (.vf 7) = .whole ∧ s.inBar2 7 (2 ^ 36 - 1) 1 = true ∧ s.inBar2 7 (2 ^ 36) 1 = false ∧ s.filling = false) := by
  refine ⟨⟨{ away with h := true }, rfl, rfl, rfl, fun a _ h2 => ?_⟩, by decide +kernel⟩
  have h3 : a < 0x200000 := by omega
  simp [Part.page?, away, page0, Page.size, h3]

/-- A sealed part with two keys in force, and its token but for the signature. -/
def wSealed : State := { w with fuses := { w.fuses with lifecycle := 2, keys := [(1, keyHash), (4, keyHash)], revoked := [2] } }

theorem test_LifeCycle : w.lengths ∧ (∀ c ∈ [0, 1, 3], ({ w.fuses with lifecycle := c } : Fuses).lifecycle ≠ 2) ∧ wSealed.fuses.lifecycle = 2 ∧
    w.fuses.lifecycle ≤ 1 ∧ State.reset.bmcOn = false ∧ w.bmcOn = true ∧
    (let s := { w with fuses := { w.fuses with lifecycle := 1, keys := [(4, keyHash)] } }
    s.fuses.lifecycle = 1 ∧ ∃ k ∈ s.fuses.keys, 1 ≤ k.1 ∧ k.1 ≤ 4) ∧
    wSealed.tokenOk (List.replicate 256 0#8) = false ∧ wSealed.clockHalt = false ∧
    (4 ∈ wSealed.fuses.inForce ∧ 1 < wSealed.fuses.inForce.length ∧ 2 ∉ wSealed.fuses.inForce) ∧
    (let s := w.onRel (fun r => { r with bmcQueue := [LogRec.base 5 0 7 191] })
    s.bmcOn = true ∧ s.rel.bmcQueue = [LogRec.base 5 0 7 191]) := by
  refine ⟨w_lengths, ?_⟩
  decide +kernel

theorem test_LifeCycle_signature : (wBoot 10 false).bmcOn = true ∧ (wBoot 10 false).signatureOk (image false) = true ∧
    w.signatureOk (image false) = false := ⟨by decide +kernel, signature_image 10 false, rfl⟩

/-- The invariant holds of the ready state, with a command of the block in its queue. -/
theorem test_StepKeepsInvariant : { w with pending := [.jtagInstruction (.priv 1)] }.inv := by
  refine ⟨w_wf, ?_, w_inRange, w_lengths, ?_⟩
  · unfold Fuses.legal
    decide +kernel
  · unfold State.sound
    decide +kernel

/-! ### Further single steps -/

/-- R301, R300: adds of objects are applied within the step that issues them. -/
theorem test_object_add_saturates : (after (.syncObjectAdd (.vf 7) 16383 0xFFFFFFFF#32) (put [(.helmSyncCount, 0, 16383, 0, 5)] w)).rd .helmSyncCount 0 16383 =
    0xFFFFFFFF#32 := by decide +kernel
/-- R319: the 8 bytes of a WRITE go to its address. -/
theorem test_write_packet : (after (.writePacket 31 pkt) w).byteAt 0x2007 = [8#8] := by decide +kernel
/-- R254, R255: an INT64 add of 5 to 7. -/
theorem test_atomic_packet : (after (.reducePacket 31 { pReduce with payload := leBytes 5 8 })
    { w with mem := { w.mem with bytes := [(0x1FFFF8, 7#8)] } }).byteAt 0x1FFFF8 = [12#8] := by decide +kernel
/-- R447: no image in either slot. -/
theorem test_start_without_image : let t := after (.deviceStart ⟨true, [], 5#64⟩) (put [(.lcStatus, 0, 0, 0, 0x10000000)] State.reset)
    t.phase = 11 ∧ t.fld .lcStatus 0 0 0 23 16 = 1 ∧ t.nonce = 5#64 := by decide +kernel
/-- R449: the second of the two votes of the quorum resets the device, and clears them. -/
theorem test_vote_quorum : let t := after (.lcResetVote 7) (wVote 2 [1])
    t.phase = 2 ∧ t.fld .lcStatus 0 0 0 3 0 = 3 ∧ t.votes = [] := by decide +kernel
/-- R455: the IDCODE of an MFC-4412. -/
theorem test_idcode : (after (.jtagInstruction .idcode) w).out = [.jtag 0x1441256F] := by decide +kernel
/-- R312: the timer of DOWN leads an enabled link to DETECT. -/
theorem test_down_timeout : (after (.downTimeout 31) (put [(.lnkCtl, 31, 0, 0, 0x80000000)] (wl 8))).linkState 31 = 4 := by decide +kernel
/-- R270: 105 degrees stop the clocks. -/
theorem test_stack_trip : (after (.hbmTemperatureReadout 11 105) w).clockHalt = true ∧ (after (.hbmTemperatureReadout 11 104) w).clockHalt = false := by
  decide +kernel
/-- R285: a request of a frozen partition ends with status 4. -/
theorem test_frozen_request : (after (.coreFree 7) (put [(.helmPart, 0, 7, 0, 0x80000000)] (wReq (2, false, [0]) []))).fld .helmReqStatus 0 7 0 7 0 = 4 := by
  decide +kernel

end Sys2Proof.Tests
end

/-! ## O60: a COLLPOST that waits for an entry of its group's queue

`State.inRange` bounds the core of each descriptor in the queue of a group, but not that of a descriptor that still waits for an entry
(`Group.stalled`, R236). Such a descriptor enters the queue when the head retires, and with it a core number that the block does not have. -/

section
namespace Sys2Proof.Machine
open Sys2Proof

/-- A started descriptor of a core, with a chunk that it still keeps. -/
def heldPost (core status : Nat) : Posted where
  core := core
  cc := 0
  addr := 0
  dseq := 0
  desc := []
  started := true
  sums := []
  arrived := []
  kept := [⟨0, 0, [], false, 0⟩]
  retries := []
  total := []
  status := status
  tainted := []

/-- A group of one member whose card has come. The head of its queue has ended with an error; behind it waits a descriptor of core 200. -/
def stalledGroup : Group := { Group.init with
  syncWait := true
  cards := [(0, ⟨0, 0, [], [], 0, 0, 0, 0, 0, 0, 0, false, false⟩)]
  queue := [heldPost 0 5]
  stalled := [(heldPost 200 0, [])] }

/-- Group 0 is FORMING, and its wait for a Meridian exchange ends. -/
def formingStalled : State :=
  { State.reset.setGState 0 2 0 with
    fabric := { State.reset.fabric with groups := [(0, stalledGroup)] }
    pending := [.syncReqWaitEnd 0] }

/-- The cores of the descriptors in the queues of a state's groups. -/
def State.queuedCores (s : State) : List Nat := s.fabric.groups.flatMap (fun x => x.2.queue.map (·.core))

theorem State.inRange.queuedCores {s : State} (h : s.inRange) : ∀ n ∈ s.queuedCores, n < 192 := by
  obtain ⟨-, hgroups, -⟩ := h
  intro n hn
  obtain ⟨x, hx, hn⟩ := List.mem_flatMap.1 hn
  obtain ⟨d, hd, rfl⟩ := List.mem_map.1 hn
  obtain ⟨-, -, hqueue, -⟩ := hgroups x hx
  exact hqueue d hd

theorem formingStalled_inv : formingStalled.inv := by
  refine ⟨Mem.init_wf, ?_, ?_, ?_, ?_⟩
  · unfold Fuses.legal
    decide +kernel
  · unfold State.inRange
    decide +kernel
  · unfold State.lengths
    decide +kernel
  · unfold State.sound
    decide +kernel

theorem step_formingStalled : step formingStalled = .next (syncReqWaitEnd 0 { formingStalled with pending := [] }) := rfl

/-- The end of the wait makes the group READY (R352); its head retires, and the descriptor of core 200 takes the free entry. -/
theorem syncReqWaitEnd_formingStalled :
    (syncReqWaitEnd 0 { formingStalled with pending := [] }).queuedCores = [200] := by decide +kernel

/-- Refutes O60: `formingStalled` has the invariant, and after its step core 200 stands in the queue of group 0. -/
theorem not_stepKeepsInvariant : ¬ Obligations.StepKeepsInvariant := by
  intro h
  rcases h formingStalled formingStalled_inv with ⟨t, hstep, ⟨-, -, hrange, -⟩, -⟩ | ⟨hstep, -⟩
  · obtain rfl : syncReqWaitEnd 0 { formingStalled with pending := [] } = t := by
      simpa [step_formingStalled] using hstep
    have hcore := hrange.queuedCores 200 (by simp [syncReqWaitEnd_formingStalled])
    omega
  · simp [step_formingStalled] at hstep

end Sys2Proof.Machine
end

/-! ## O56: reads and writes of registers by a master (R5, R7, R9, R379, R440) -/

section
namespace Sys2Proof.Machine
open Sys2Proof

/-! ### Register pairs (R5) -/

theorem Reg.loOf_of_hiOf {l h : Reg} (e : l.hiOf = some h) : h.loOf = some l := by
  unfold Reg.hiOf at e
  split at e <;> cases e <;> decide +kernel

/-- No pair of registers has a word of a request's argument or of an event as its high word. -/
theorem Reg.hiOf_plain {l h : Reg} (e : l.hiOf = some h) : h ≠ .helmReqArg ∧ h ≠ .helmEvqData := by
  unfold Reg.hiOf at e
  split at e <;> cases e <;> exact ⟨nofun, nofun⟩

/-- The low word of a high word is where the high word came from. -/
theorem RegAt.lo_of_hi {a h : RegAt} (e : a.hi = some h) : h.lo = some a := by
  obtain ⟨r, b, i, j⟩ := a
  simp only [RegAt.hi] at e
  split at e
  · next hc =>
    cases e
    simp_all [RegAt.lo]
  · split at e
    · next hc =>
      cases e
      simp_all [RegAt.lo]
    · obtain ⟨h', hr, rfl⟩ := Option.map_eq_some_iff.1 e
      obtain ⟨h1, h2⟩ := Reg.hiOf_plain hr
      simp [RegAt.lo, h1, h2, Reg.loOf_of_hiOf hr]

/-! ### Latches -/

theorem State.unlatch_latches_ne {s : State} {m : Master} {x : Master × Nat × Word} (h : x ∈ (s.unlatch m).latches) : x.1 ≠ m := by
  obtain ⟨-, h⟩ := List.mem_filter.1 h
  simpa using h

theorem State.latched_eq_none {s : State} {m : Master} (h : ∀ x ∈ s.latches, x.1 ≠ m) (lo : Nat) : s.latched m lo = none := by
  have : s.latches.find? (fun x => x.1 == m && x.2.1 == lo) = none := List.find?_eq_none.2 (fun x hx => by simp [h x hx])
  simp [State.latched, this]

theorem State.latched_of_head {s : State} {m : Master} {lo : Nat} {w : Word} {l : List (Master × Nat × Word)}
    (h : s.latches = (m, lo, w) :: l) : s.latched m lo = some w := by
  simp [State.latched, h]

/-! ### A register read -/

/-- What a read of a register leaves (R5, R7): its rc fields cleared, every other register as it was. -/
def State.shows (s : State) (a : RegAt) (t : State) : Prop :=
  t = { s with regs := t.regs, latches := t.latches, out := t.out } ∧
    t.rd a.reg a.b a.i a.j = (if a.reg.spec.hasRc then a.reg.spec.afterRead (s.rd a.reg a.b a.i a.j) else s.rd a.reg a.b a.i a.j) ∧
    ∀ r b i j, Reg.addr r b i j ≠ a.addr → t.rd r b i j = s.rd r b i j

theorem State.shows.emit {s t : State} {a : RegAt} (h : s.shows a t) (o : Out) : s.shows a (t.emit o) := by
  obtain ⟨hrest, hself, hother⟩ := h
  refine ⟨?_, hself, hother⟩
  conv_lhs => rw [hrest]
  rfl

/-- The latches after a read of a register: the master's pair gives way to the one that a low word opens. -/
def State.latchHigh (s : State) (m : Master) (a : RegAt) : State :=
  { s with latches := match a.hi with
    | some hi => (m, a.addr, s.view m hi) :: (s.unlatch m).latches
    | none => (s.unlatch m).latches }

@[simp] theorem State.latchHigh_rd (s : State) (m : Master) (a : RegAt) (r : Reg) (b i j : Nat) :
    (s.latchHigh m a).rd r b i j = s.rd r b i j := rfl

theorem State.readReg_state (s : State) (m : Master) (a : RegAt) : (s.readReg m a).2 =
    if a.reg.spec.hasRc then (s.latchHigh m a).wr a.reg a.b a.i a.j (a.reg.spec.afterRead (s.rd a.reg a.b a.i a.j)) else s.latchHigh m a := by
  simp only [State.readReg, State.latchHigh]
  cases a.hi <;> rfl

theorem State.readReg_shows (s : State) (m : Master) (a : RegAt) : s.shows a (s.readReg m a).2 := by
  rw [s.readReg_state]
  split
  · next hrc =>
    refine ⟨rfl, ?_, fun r b i j h => State.rd_wr_other _ _ _ _ _ _ _ _ _ _ h⟩
    rw [State.rd_wr_same, if_pos hrc]
  · next hrc =>
    refine ⟨rfl, ?_, fun _ _ _ _ _ => rfl⟩
    rw [State.latchHigh_rd, if_neg hrc]

@[simp] theorem State.readReg_out (s : State) (m : Master) (a : RegAt) : (s.readReg m a).2.out = s.out := by
  rw [s.readReg_state]
  split <;> rfl

/-- A read of a low word latches the high word (R5). -/
theorem State.readReg_latches {s : State} {m : Master} {a hi : RegAt} (h : a.hi = some hi) :
    (s.readReg m a).2.latches = (m, a.addr, s.view m hi) :: (s.unlatch m).latches := by
  rw [s.readReg_state]
  split <;> simp [State.latchHigh, h]

/-- A register whose low word is not latched shows what it holds. -/
theorem State.readReg_value {s : State} {m : Master} {a : RegAt} (h : a.lo = none ∨ ∀ x ∈ s.latches, x.1 ≠ m) :
    (s.readReg m a).1 = a.reg.spec.read (s.view m a) := by
  rcases h with h | h
  · simp [State.readReg, h]
  · simp only [State.readReg]
    split
    · next lo _ => rw [State.latched_eq_none h]
    · rfl

/-- A high word whose low word is latched shows what was latched with it. -/
theorem State.readReg_latched {s : State} {m : Master} {a lo : RegAt} {w : Word} (h : a.lo = some lo) (hw : s.latched m lo.addr = some w) :
    (s.readReg m a).1 = a.reg.spec.read w := by
  simp only [State.readReg, h, hw]

/-! ### A read by a master -/

def State.met (s : State) (m : Master) : Prop := s.access m = .whole ∨ s.access m = .hold

/-- The master's access to offset `off` is met, and reads register a there. -/
def State.readsAt (s : State) (m : Master) (off : Nat) (a : RegAt) : Prop :=
  regFind off = some a ∧ inMsix off = false ∧ s.offHeld off = false ∧ s.met m ∧ s.sees m a false = true

theorem exec_lowWordRead {m : Master} (hm : m.wf = true) (off : Nat) (s : State) :
    exec (.lowWordRead m off) s = .next (hostRead m off s) := if_pos hm
theorem exec_readClear {m : Master} (hm : m.wf = true) (off : Nat) (s : State) :
    exec (.readClear m off) s = .next (hostRead m off s) := if_pos hm
theorem exec_mgmtRegisterRead (off : Nat) (s : State) : exec (.mgmtRegisterRead off) s = .next (mgmtRegisterRead off s) := rfl
theorem exec_mgmtRegisterWrite (off : Nat) (v : Word) (s : State) :
    exec (.mgmtRegisterWrite off v) s = .next (mgmtRegisterWrite off v s) := rfl
theorem exec_registerWrite {m : Master} (hm : m.wf = true) (off : Nat) (v : Word) (s : State) :
    exec (.registerWrite m off v) s = .next (if s.bar2Waits m then s else registerWrite m off v s) := if_pos hm

theorem State.met.bmcOn {s : State} (h : s.met .mgmt) : s.bmcOn = true := by
  by_contra hn
  simp [State.met, State.access, hn] at h

theorem hostRead_met {m : Master} {off : Nat} {s : State} (hh : s.offHeld off = false) (hm : s.met m) :
    hostRead m off s = (s.barRead m off).2.emit (.readData m off (s.barRead m off).1) := by
  simp only [hostRead, hh]
  rcases hm with hm | hm <;> simp [hm]

theorem State.barRead_reg {m : Master} {off : Nat} {a : RegAt} {s : State} (ha : regFind off = some a) (hx : inMsix off = false) :
    s.barRead m off = if s.sees m a false then s.readReg m a else (0#32, s.unlatch m) := by
  simp [State.barRead, ha, hx]

theorem State.readsAt.barRead {s : State} {m : Master} {off : Nat} {a : RegAt} (h : s.readsAt m off a) : s.barRead m off = s.readReg m a := by
  obtain ⟨hfind, hmsix, -, -, hsees⟩ := h
  rw [State.barRead_reg hfind hmsix, if_pos hsees]

theorem State.readsAt.hostRead {s : State} {m : Master} {off : Nat} {a : RegAt} (h : s.readsAt m off a) :
    hostRead m off s = (s.readReg m a).2.emit (.readData m off (s.readReg m a).1) := by
  have hb := h.barRead
  obtain ⟨-, -, hheld, hmet, -⟩ := h
  rw [hostRead_met hheld hmet, hb]

theorem State.readsAt.mgmtRegisterRead {s : State} {off : Nat} {a : RegAt} (h : s.readsAt .mgmt off a) :
    mgmtRegisterRead off s = (s.readReg .mgmt a).2.emit (.mgmt 1 true [(s.readReg .mgmt a).1.toNat]) := by
  have hb := h.barRead
  obtain ⟨-, -, hheld, hmet, -⟩ := h
  simp [Machine.mgmtRegisterRead, hmet.bmcOn, hheld, hb]

/-- The access to the high word that follows a read of the low word answers with what the high word was then, whatever has changed. -/
theorem latched_high_read {m : Master} {off' : Nat} {a hi : RegAt} {s u : State} (hm : m.wf = true) (hhi : a.hi = some hi)
    (hu : u.readsAt m off' hi) (hl : u.latches = (s.readReg m a).2.latches) :
    ∃ v : State, exec (.lowWordRead m off') u = .next v ∧ v.out = u.out ++ [.readData m off' (hi.reg.spec.read (s.view m hi))] := by
  refine ⟨_, exec_lowWordRead hm off' u, ?_⟩
  rw [State.readReg_latches hhi] at hl
  rw [hu.hostRead, State.readReg_latched (RegAt.lo_of_hi hhi) (State.latched_of_head hl)]
  simp [State.emit]

/-- A read by a master: what it answers with, what it leaves, and what the next access to the high word of the pair answers with. -/
theorem register_read {m : Master} {off : Nat} {a : RegAt} {s : State} (hm : m.wf = true) (h : s.readsAt m off a)
    (hlo : a.lo = none ∨ ∀ x ∈ s.latches, x.1 ≠ m) :
    ∃ t : State, exec (.lowWordRead m off) s = .next t ∧ exec (.readClear m off) s = .next t ∧ s.shows a t ∧
      t.out = s.out ++ [.readData m off (a.reg.spec.read (s.view m a))] ∧
      (m = .mgmt → ∃ u : State, exec (.mgmtRegisterRead off) s = .next u ∧ s.shows a u ∧
        u.out = s.out ++ [.mgmt 1 true [(a.reg.spec.read (s.view m a)).toNat]]) ∧
      ∀ (hi : RegAt) (off' : Nat) (u : State), a.hi = some hi → u.readsAt m off' hi → u.latches = t.latches →
        ∃ v : State, exec (.lowWordRead m off') u = .next v ∧
          v.out = u.out ++ [.readData m off' (hi.reg.spec.read (s.view m hi))] := by
  have hv := State.readReg_value hlo
  refine ⟨_, exec_lowWordRead hm off s, exec_readClear hm off s, ?_⟩
  rw [h.hostRead, hv]
  refine ⟨(s.readReg_shows m a).emit _, by simp [State.emit], ?_, fun hi off' u hhi hu hl => latched_high_read hm hhi hu hl⟩
  rintro rfl
  refine ⟨_, exec_mgmtRegisterRead off s, ?_⟩
  rw [h.mgmtRegisterRead, hv]
  exact ⟨(s.readReg_shows .mgmt a).emit _, by simp [State.emit]⟩

/-- What a master does not see reads 0. -/
theorem unseen_read {m : Master} {off : Nat} {a : RegAt} {s : State} (hm : m.wf = true) (ha : regFind off = some a) (hx : inMsix off = false)
    (hmet : s.met m) (hh : s.offHeld off = false) (hs : s.sees m a false = false) :
    ∃ t : State, exec (.lowWordRead m off) s = .next t ∧ t.regs = s.regs ∧ t.out = s.out ++ [.readData m off 0#32] := by
  refine ⟨_, exec_lowWordRead hm off s, ?_⟩
  rw [hostRead_met hh hmet, State.barRead_reg ha hx, hs]
  exact ⟨rfl, rfl⟩

/-! ### Writes of registers -/

/-- The registers with a rule of their own for a write. -/
def ownRule : List Reg :=
  [.vecCtl, .vecProgLo, .vecProgHi, .convCb4, .convCb8, .coreReset, .helmSyncCount, .helmSyncAdd, .memMarginCtl,
    .helmReqCmd, .helmWqTail, .lnkCtl, .lnkFiMatch, .collGroup, .chartCmd, .helmEvqPop, .lcReset, .lcSeal, .logStatus, .perfHubEvt,
    .perfDumpCtl, .perfRingCtl]

/-- What a write by the access codes leaves: the register written, every other as it was, and no pair of the master open. -/
def State.writes (s : State) (m : Master) (a : RegAt) (v : Word) (t : State) : Prop :=
  t = { s with regs := t.regs, latches := t.latches, out := t.out } ∧ (∀ x ∈ t.latches, x.1 ≠ m) ∧
    t.rd a.reg a.b a.i a.j = a.reg.spec.write (s.rd a.reg a.b a.i a.j) v ∧
    ∀ r b i j, Reg.addr r b i j ≠ a.addr → t.rd r b i j = s.rd r b i j

theorem State.plainWrite_writes (s : State) (m : Master) (a : RegAt) (v : Word) : s.writes m a v ((s.unlatch m).plainWrite a v) :=
  ⟨rfl, fun _ hx => State.unlatch_latches_ne hx, State.rd_wr_same _ _ _ _ _ _, fun _ _ _ _ h => State.rd_wr_other _ _ _ _ _ _ _ _ _ _ h⟩

theorem State.writes.emit {s t : State} {m : Master} {a : RegAt} {v : Word} (h : s.writes m a v t) (o : Out) : s.writes m a v (t.emit o) := by
  obtain ⟨hrest, hpair, hself, hother⟩ := h
  refine ⟨?_, hpair, hself, hother⟩
  conv_lhs => rw [hrest]
  rfl

theorem State.regWrite_of_not_own {a : RegAt} (h : a.reg ∉ ownRule) (s : State) (m : Master) (v : Word) :
    s.regWrite m a v = if groupHeld a.reg && !(s.gState a.i == 1 || s.gState a.i == 4) then s else s.plainWrite a v := by
  unfold State.regWrite
  split
  case h_23 => rfl
  all_goals next e => exact absurd (by rw [e]; decide) h

theorem State.barWrite_reg {m : Master} {off : Nat} {a : RegAt} {s : State} (ha : regFind off = some a) (hx : inMsix off = false) (v : Word) :
    s.barWrite m off v = if s.sees m a true then (s.unlatch m).regWrite m a v else s.unlatch m := by
  simp only [State.barWrite, hx, ha]
  rfl

theorem registerWrite_met {m : Master} {off : Nat} {s : State} (hh : s.writeHeld off = false) (hm : s.met m) (v : Word) :
    registerWrite m off v s = s.barWrite m off v := by
  simp only [registerWrite, hh]
  rcases hm with hm | hm <;> simp [hm]

section
variable {m : Master} {off : Nat} {a : RegAt} {s : State} (hm : m.wf = true) (ha : regFind off = some a) (hx : inMsix off = false)
  (hmet : s.met m) (hh : s.writeHeld off = false) (hw : s.bar2Waits m = false)
include hm ha hx hmet hh hw

theorem exec_registerWrite_met (v : Word) :
    exec (.registerWrite m off v) s = .next (if s.sees m a true then (s.unlatch m).regWrite m a v else s.unlatch m) := by
  rw [exec_registerWrite hm, hw, registerWrite_met hh hmet, State.barWrite_reg ha hx]
  rfl

theorem unseen_write (hs : s.sees m a true = false) (v : Word) : exec (.registerWrite m off v) s = .next (s.unlatch m) := by
  rw [exec_registerWrite_met hm ha hx hmet hh hw, hs]
  rfl

theorem held_group_write (hs : s.sees m a true = true) (ho : a.reg ∉ ownRule) (hg : groupHeld a.reg = true) (h1 : s.gState a.i ≠ 1)
    (h4 : s.gState a.i ≠ 4) (v : Word) : exec (.registerWrite m off v) s = .next (s.unlatch m) := by
  have h1' : (s.unlatch m).gState a.i ≠ 1 := h1
  have h4' : (s.unlatch m).gState a.i ≠ 4 := h4
  rw [exec_registerWrite_met hm ha hx hmet hh hw, if_pos hs, State.regWrite_of_not_own ho]
  simp [hg, h1', h4']

theorem plain_write (hs : s.sees m a true = true) (ho : a.reg ∉ ownRule) (hg : groupHeld a.reg = false ∨ s.gState a.i = 1 ∨ s.gState a.i = 4)
    (v : Word) :
    (∃ t : State, exec (.registerWrite m off v) s = .next t ∧ s.writes m a v t ∧ t.out = s.out) ∧
    (m = .mgmt → ∃ t : State, exec (.mgmtRegisterWrite off v) s = .next t ∧ s.writes m a v t ∧ t.out = s.out ++ [.mgmt 2 true []]) := by
  have hopen : (groupHeld a.reg && !((s.unlatch m).gState a.i == 1 || (s.unlatch m).gState a.i == 4)) = false := by
    have hst : (s.unlatch m).gState a.i = s.gState a.i := rfl
    rcases hg with hg | hg | hg <;> simp [hg, hst]
  have hreg : (s.unlatch m).regWrite m a v = (s.unlatch m).plainWrite a v := by
    rw [State.regWrite_of_not_own ho, hopen]
    rfl
  have hplain := s.plainWrite_writes m a v
  refine ⟨⟨_, exec_registerWrite_met hm ha hx hmet hh hw v, ?_⟩, ?_⟩
  · rw [if_pos hs, hreg]
    exact ⟨hplain, rfl⟩
  · rintro rfl
    refine ⟨_, exec_mgmtRegisterWrite off v s, ?_⟩
    simp only [mgmtRegisterWrite, hmet.bmcOn, hh, Bool.not_false, Bool.and_self, if_true, State.barWrite_reg ha hx, hs, hreg]
    exact ⟨hplain.emit _, rfl⟩

end

end Sys2Proof.Machine
end
/-! ### Accesses that are not met, event queues and holdoff (R437, R438, R464, R531) -/

section
namespace Sys2Proof.Machine
open Sys2Proof

theorem mgmt_silent {s : State} (h : s.bmcOn = false) (off : Nat) (v : Word) :
    exec (.mgmtRegisterRead off) s = .next s ∧ exec (.mgmtRegisterWrite off v) s = .next s := by
  rw [exec_mgmtRegisterRead, exec_mgmtRegisterWrite]
  simp [mgmtRegisterRead, mgmtRegisterWrite, h]

theorem unsupported_access {m : Master} {s : State} (hm : m.wf = true) (h : s.access m = .unsupported) {off : Nat}
    (hh : s.offHeld off = false) (v : Word) :
    exec (.lowWordRead m off) s = .next (s.emit (.unsupported m off)) ∧ exec (.registerWrite m off v) s = .next s := by
  rw [exec_lowWordRead hm, exec_registerWrite hm]
  simp [hostRead, registerWrite, hh, h]

/-- While clocks are halted a function's accesses are unsupported (R464). -/
theorem halted_unsupported {m : Master} {s : State} (hf : (∃ k, m = .pf k ∧ k < portCount s.straps) ∨ ∃ p, m = .vf p)
    (hp : s.phase ≠ 0) (hc : s.clockHalt = true) : s.access m = .unsupported := by
  rcases hf with ⟨k, rfl, hk⟩ | ⟨p, rfl⟩
  · simp [State.access, hp, hk, hc]
  · simp [State.access, hp, hc]

theorem partial_access {m : Master} {s : State} (hm : m.wf = true) (hf : (∃ k, m = .pf k) ∨ ∃ p, m = .vf p) (hmet : s.met m) (off : Nat) :
    exec (.partialBar0Access m off false) s = .next (s.emit (.readData m off 0#32)) ∧
      exec (.partialBar0Access m off true) s = .next s := by
  have hexec : ∀ w, exec (.partialBar0Access m off w) s = .next (partialBar0Access m off w s) := fun w => if_pos hm
  rw [hexec, hexec]
  rcases hf with ⟨k, rfl⟩ | ⟨p, rfl⟩ <;> rcases hmet with h | h <;> simp [partialBar0Access, h]

/-! ### Event queues -/

theorem exec_helmEvqPop {m : Master} {p : Nat} (hm : m.wf = true) (hp : p < 8) (s : State) :
    exec (.helmEvqPop m p) s = .next (if s.bar2Waits m then s else helmEvqPop m p s) :=
  if_pos (by simp [Instr.wf, hm, hp])

theorem pop_event {m : Master} {p : Nat} (hm : m.wf = true) (hp : p < 8) (s : State) :
    (s.bar2Waits m = true → exec (.helmEvqPop m p) s = .next s) ∧
    (s.bar2Waits m = false → s.reaches m p = false → exec (.helmEvqPop m p) s = .next (s.unlatch m)) ∧
    (s.bar2Waits m = false → s.reaches m p = true → ∃ t : State, exec (.helmEvqPop m p) s = .next t ∧
      (t.part p).evq = (s.part p).evq.drop 1 ∧ t.regs = s.regs ∧ t.cores = s.cores ∧ t.mem = s.mem) := by
  have hreach : (s.unlatch m).reaches m p = s.reaches m p := by cases m <;> rfl
  rw [exec_helmEvqPop hm hp]
  refine ⟨fun hw => by rw [hw]; rfl, fun hw hr => ?_, fun hw hr => ?_⟩
  · simp [hw, helmEvqPop, hreach, hr]
  · refine ⟨(s.unlatch m).popEvent p, by simp [hw, helmEvqPop, hreach, hr], ?_, rfl, rfl, rfl⟩
    rw [State.popEvent, State.part_onPart_same]
    rfl

/-! ### Holdoff -/

theorem exec_msixHoldoffEnd {p v : Nat} (hp : p < 8) (hv : v < 16) (s : State) :
    exec (.msixHoldoffEnd p v) s = .next (msixHoldoffEnd p v s) :=
  if_pos (by simp [Instr.wf, hp, hv])

theorem State.msixRd_msixWr_same (s : State) (fn : Master) (off : Nat) (v : Word) : (s.msixWr fn off v).msixRd fn off = v :=
  tabGet_set_same _ _ _ _

@[simp] theorem State.sendMsix_part (s : State) (fn : Master) (v p : Nat) : (s.sendMsix fn v).part p = s.part p := by
  simp only [State.sendMsix]
  split <;> rfl

theorem State.sendMsix_unmasked {s : State} {fn : Master} {v : Nat} (h : (s.msixRd fn (16 * v + 12)).getLsbD 0 = false) :
    (s.sendMsix fn v).out = s.out ++ [.msix fn v] := by
  rw [State.sendMsix, if_neg (ne_true_of_eq_false h)]
  rfl

theorem State.sendMsix_masked {s : State} {fn : Master} {v : Nat} (hv : v < 16) (h : (s.msixRd fn (16 * v + 12)).getLsbD 0 = true) :
    (s.sendMsix fn v).out = s.out ∧ ((s.sendMsix fn v).msixRd fn 0x8000).getLsbD v = true := by
  rw [State.sendMsix, if_pos h]
  refine ⟨rfl, ?_⟩
  rw [State.msixRd_msixWr_same, BitVec.getLsbD_or, BitVec.getLsbD_ofNat, Nat.testBit_two_pow_self]
  simp [show v < 32 by omega]

theorem holdoff_idle {p v : Nat} (hp : p < 8) (hv : v < 16) {s : State} (h : s.clockHalt = true ∨ v ∉ (s.part p).msixHold) :
    exec (.msixHoldoffEnd p v) s = .next s := by
  rw [exec_msixHoldoffEnd hp hv]
  rcases h with h | h <;> simp [msixHoldoffEnd, h]

theorem holdoff_over {p v : Nat} (hp : p < 8) (hv : v < 16) {s : State} (hc : s.clockHalt = false) (hh : v ∈ (s.part p).msixHold)
    (hn : v ∉ (s.part p).msixPend) :
    ∃ t : State, exec (.msixHoldoffEnd p v) s = .next t ∧ v ∉ (t.part p).msixHold ∧ t.out = s.out := by
  refine ⟨_, exec_msixHoldoffEnd hp hv s, ?_⟩
  simp [msixHoldoffEnd, hc, hh, hn, mem_setDel]

/-- The message that was held back is sent, or its pending bit set while the vector is masked. -/
theorem holdoff_sends {p v : Nat} (hp : p < 8) (hv : v < 16) {s : State} (hc : s.clockHalt = false) (hh : v ∈ (s.part p).msixHold)
    (hn : v ∈ (s.part p).msixPend) :
    ∃ t : State, exec (.msixHoldoffEnd p v) s = .next t ∧ v ∉ (t.part p).msixPend ∧
      ((s.msixRd (.vf p) (16 * v + 12)).getLsbD 0 = false → t.out = s.out ++ [.msix (.vf p) v]) ∧
      ((s.msixRd (.vf p) (16 * v + 12)).getLsbD 0 = true → t.out = s.out ∧ (t.msixRd (.vf p) 0x8000).getLsbD v = true) := by
  refine ⟨_, exec_msixHoldoffEnd hp hv s, ?_⟩
  simp only [msixHoldoffEnd, hc, List.contains_iff_mem.2 hh, List.contains_iff_mem.2 hn, Bool.not_true, Bool.or_self, Bool.false_eq_true,
    if_false, if_true]
  refine ⟨by simp [mem_setDel], fun h => State.sendMsix_unmasked h, fun h => State.sendMsix_masked hv h⟩

end Sys2Proof.Machine
end
/-! ### Stacked memory: ranges and poison (R250, R251, R262) -/

section
namespace Sys2Proof.Machine
open Sys2Proof

/-! ### Pieces of a range -/

theorem pieces_pos {size a fuel len : Nat} (hs : 0 < size) {x : Nat × Nat} (h : x ∈ pieces size a fuel len) : 0 < x.2 := by
  induction fuel generalizing a len with
  | zero => simp [pieces] at h
  | succ k ih =>
    simp only [pieces] at h
    split at h
    · simp at h
    · have hm := Nat.mod_lt a hs
      rcases List.mem_cons.1 h with rfl | h
      · simp only; omega
      · exact ih h

/-- Enough pieces make up the range, in order. -/
theorem pieces_flatMap {size : Nat} (hs : 0 < size) {fuel : Nat} : ∀ {a len : Nat}, len = 0 ∨ a % size + len ≤ fuel * size →
    (pieces size a fuel len).flatMap (fun x => List.range' x.1 x.2) = List.range' a len := by
  induction fuel with
  | zero =>
    intro a len h
    obtain rfl : len = 0 := by omega
    rfl
  | succ k ih =>
    intro a len h
    by_cases hl : len = 0
    · subst hl
      simp [pieces]
    · rw [pieces_first hl, List.flatMap_cons]
      generalize hw : min len (size - a % size) = w
      have hm := Nat.mod_lt a hs
      have hrest : len - w = 0 ∨ (a + w) % size + (len - w) ≤ k * size := by
        by_cases hle : len ≤ size - a % size
        · left; omega
        · right
          have hdiv : a + w = size * (a / size + 1) := by
            have := Nat.div_add_mod a size
            rw [Nat.mul_add, Nat.mul_one]
            omega
          rw [hdiv, Nat.mul_mod_right]
          rw [Nat.succ_mul] at h
          omega
      rw [ih hrest, List.range'_append_1]
      congr 1
      omega

theorem linePieces_flatMap (a len : Nat) : (linePieces a len).flatMap (fun x => List.range' x.1 x.2) = List.range' a len :=
  pieces_flatMap (by omega) (by omega)

/-- Every address of a range lies in a piece. -/
theorem exists_linePiece {a len q : Nat} (h1 : a ≤ q) (h2 : q < a + len) : ∃ x ∈ linePieces a len, x.1 ≤ q ∧ q < x.1 + x.2 := by
  have hq : q ∈ (linePieces a len).flatMap (fun x => List.range' x.1 x.2) := by
    rw [linePieces_flatMap]
    exact List.mem_range'_1.2 ⟨h1, h2⟩
  obtain ⟨x, hx, hq⟩ := List.mem_flatMap.1 hq
  exact ⟨x, hx, List.mem_range'_1.1 hq⟩

/-! ### Folds -/

/-- A fold whose steps keep P and one of whose steps brings P about ends with P. -/
theorem foldl_reaches {α β : Type} {f : α → β → α} {I P : α → Prop} {x : β} {l : List β} (hI : ∀ a, ∀ y ∈ l, I a → I (f a y))
    (hP : ∀ a, ∀ y ∈ l, I a → P a → P (f a y)) (hx : ∀ a, I a → P (f a x)) (hm : x ∈ l) {a : α} (h : I a) : P (l.foldl f a) := by
  have keeps : ∀ l' : List β, (∀ y ∈ l', y ∈ l) → ∀ a, I a → P a → P (l'.foldl f a) := by
    intro l'
    induction l' with
    | nil => exact fun _ _ _ hp => hp
    | cons y t ih =>
      intro hs a hi hp
      have hy := hs y (List.mem_cons_self ..)
      exact ih (fun z hz => hs z (List.mem_cons_of_mem _ hz)) _ (hI a y hy hi) (hP a y hy hi hp)
  obtain ⟨l1, l2, rfl⟩ := List.append_of_mem hm
  rw [List.foldl_append, List.foldl_cons]
  have hi : I (l1.foldl f a) := by
    refine List.foldlRecOn l1 f h (fun b hb y hy => hI b y (List.mem_append_left _ hy) hb)
  exact keeps l2 (fun y hy => List.mem_append_right _ (List.mem_cons_of_mem _ hy)) _ (hI _ x (by simp) hi) (hx _ hi)

/-! ### A settled range -/

theorem entry?_foldl_forceOut (l : List Nat) (m : Mem) (k : Nat) :
    (l.foldl (fun m x => m.forceOut x) m).entry? k = if k ∈ l then none else m.entry? k := by
  induction l generalizing m with
  | nil => simp
  | cons x t ih =>
    rw [List.foldl_cons, ih, Mem.entry?_forceOut]
    by_cases hx : k = x <;> by_cases ht : k ∈ t <;> simp [hx, ht]

theorem mem_linesOf {a pa len : Nat} (h1 : pa ≤ a) (h2 : a < pa + len) : a / 64 ∈ linesOf pa len := by
  rw [linesOf, if_neg (by omega)]
  exact List.mem_map.2 ⟨a / 64 - pa / 64, List.mem_range.2 (by omega), by omega⟩

/-- A settled range is read from the stored bytes. -/
theorem Mem.settle_bytes {m : Mem} (h : m.wf) {pa len a : Nat} (h1 : pa ≤ a) (h2 : a < pa + len) :
    tabGet (m.settle pa len).bytes a 0#8 = m.byteOf a := by
  have he : (m.settle pa len).entry? (a / 64) = none := by
    rw [Mem.settle, entry?_foldl_forceOut, if_pos (mem_linesOf h1 h2)]
  rw [← Mem.byteOf_settle h pa len a, Mem.byteOf, he]

theorem cellsRead_eq (b : List Host.Cell) (a len : Nat) : cellsRead b a len = (List.range' a len).map (fun x => tabGet b x 0#8) := by
  induction len generalizing a with
  | zero => rfl
  | succ k ih => rw [cellsRead, ih, List.range'_succ, List.map_cons]

theorem Mem.look_settle {m : Mem} (h : m.wf) (pa len : Nat) :
    ((m.settle pa len).look pa len).1 = (List.range' pa len).map m.byteOf := by
  rw [Mem.look, cellsRead_eq]
  refine List.map_congr_left (fun a ha => ?_)
  obtain ⟨h1, h2⟩ := List.mem_range'_1.1 ha
  exact Mem.settle_bytes h h1 h2

/-! ### Memory without poison -/

/-- No line is poisoned, neither stored nor in the buffer. -/
def Mem.clean (m : Mem) : Prop := m.poison = [] ∧ ∀ e ∈ m.wc, e.poison = false

theorem Mem.clean.forceOut {m : Mem} (h : m.clean) (line : Nat) : (m.forceOut line).clean := by
  obtain ⟨hp, hw⟩ := h
  simp only [Mem.forceOut]
  split
  · next e he =>
    refine ⟨?_, fun x hx => hw x (List.mem_filter.1 hx).1⟩
    simp [Mem.leave, hp, hw e (find_line he).1, setTo, setDel]
  · exact ⟨hp, hw⟩

theorem Mem.clean.settle {m : Mem} (h : m.clean) (pa len : Nat) : (m.settle pa len).clean :=
  foldl_keeps (P := Mem.clean) (fun _ l hm => Mem.clean.forceOut hm l) _ h

theorem Mem.clean.look {m : Mem} (h : m.clean) (pa len : Nat) : (m.look pa len).2 = false := by
  obtain ⟨hp, -⟩ := h
  simp [Mem.look, hp]

/-! ### Poisoned lines -/

/-- Whether a read at a shows poison: that of the line's entry with what it leaves of the line's own, or the line's. -/
def Mem.poisonAt (m : Mem) (a : Nat) : Bool :=
  match m.entry? (a / 64) with
  | some e => e.poison || (decide (e.bytes.length < 64) && m.poison.contains (a / 64))
  | none => m.poison.contains (a / 64)

theorem Mem.poisonAt_of_none {m : Mem} {a : Nat} (h : m.entry? (a / 64) = none) : m.poisonAt a = m.poison.contains (a / 64) := by
  rw [Mem.poisonAt, h]

theorem Mem.poisonAt_of_some {m : Mem} {a : Nat} {e : WcEntry} (h : m.entry? (a / 64) = some e) :
    m.poisonAt a = (e.poison || (decide (e.bytes.length < 64) && m.poison.contains (a / 64))) := by
  rw [Mem.poisonAt, h]

/-- Whether a line shows poison is a matter of that line alone. -/
theorem Mem.poisonAt_congr {m k : Mem} {a : Nat} (he : k.entry? (a / 64) = m.entry? (a / 64))
    (hp : k.poison.contains (a / 64) = m.poison.contains (a / 64)) : k.poisonAt a = m.poisonAt a := by
  rw [Mem.poisonAt, Mem.poisonAt, he, hp]

theorem contains_setTo (l : List Nat) (i j : Nat) (on : Bool) : (setTo l i on).contains j = if j = i then on else l.contains j := by
  rw [Bool.eq_iff_iff, List.contains_iff_mem, mem_setTo]
  by_cases h : j = i <;> simp [h]

theorem Mem.leave_poison (m : Mem) (e : WcEntry) (k : Nat) : (m.leave e).poison.contains k =
    if k = e.line then e.poison || (decide (e.bytes.length < 64) && m.poison.contains e.line) else m.poison.contains k :=
  contains_setTo _ _ _ _

theorem Mem.forceOut_of_none {m : Mem} {line : Nat} (h : m.entry? line = none) : m.forceOut line = m := by
  rw [Mem.entry?] at h
  simp only [Mem.forceOut, h]

theorem Mem.forceOut_of_some {m : Mem} {line : Nat} {e : WcEntry} (h : m.entry? line = some e) : m.forceOut line = m.leave e := by
  rw [Mem.entry?] at h
  simp only [Mem.forceOut, h]

theorem Mem.look_poison (m : Mem) (a : Nat) : ((m.settle a 1).look a 1).2 = m.poisonAt a := by
  have hl : linesOf a 1 = [a / 64] := by simp [linesOf]
  have hlook : ((m.settle a 1).look a 1).2 = (m.forceOut (a / 64)).poison.contains (a / 64) := by
    simp only [Mem.look, Mem.settle, hl, List.foldl_cons, List.foldl_nil, List.any_cons, List.any_nil, Bool.or_false]
  rw [hlook]
  cases he : m.entry? (a / 64) with
  | none => rw [Mem.forceOut_of_none he, Mem.poisonAt_of_none he]
  | some e => rw [Mem.forceOut_of_some he, Mem.poisonAt_of_some he, Mem.leave_poison, (find_line he).2, if_pos rfl]

/-- What an entry leaves behind: its own poison on its line, the old poison elsewhere. -/
theorem Mem.poisonAt_after_leave (m : Mem) (e : WcEntry) (a : Nat) : (m.leave e).poisonAt a =
    if a / 64 = e.line then e.poison || (decide (e.bytes.length < 64) && m.poison.contains e.line) else m.poisonAt a := by
  split
  · next h => rw [Mem.poisonAt_of_none (by rw [Mem.entry?_leave, if_pos h]), Mem.leave_poison, if_pos h]
  · next h => exact Mem.poisonAt_congr (by rw [Mem.entry?_leave, if_neg h]) (by rw [Mem.leave_poison, if_neg h])

/-- An entry of the buffer that leaves it takes its poison along. -/
theorem Mem.poisonAt_leave {m : Mem} {e : WcEntry} (he : m.entry? e.line = some e) (a : Nat) : (m.leave e).poisonAt a = m.poisonAt a := by
  rw [Mem.poisonAt_after_leave]
  split
  · next h => rw [Mem.poisonAt_of_some (h ▸ he), h]
  · rfl

/-- A memory whose entry of one line is poisoned, and whose other lines are as they were. -/
theorem Mem.poisonAt_entered {m k : Mem} {e : WcEntry} {line : Nat} (hp : e.poison = true) (hk : k.poison = m.poison)
    (hent : ∀ q, k.entry? q = if q = line then some e else m.entry? q) (a : Nat) :
    k.poisonAt a = (decide (a / 64 = line) || m.poisonAt a) := by
  by_cases h : a / 64 = line
  · rw [Mem.poisonAt_of_some (by rw [hent, if_pos h]), hp, decide_eq_true h, Bool.true_or, Bool.true_or]
  · rw [decide_eq_false h, Bool.false_or]
    exact Mem.poisonAt_congr (by rw [hent, if_neg h]) (by rw [hk])

theorem Mem.poisonAt_plain {m : Mem} {line : Nat} (d : List Byte) (h : m.entry? line = none) (a : Nat) :
    (m.plain line d true).poisonAt a = (decide (a / 64 = line) || m.poisonAt a) := by
  have hent : ∀ q, (m.plain line d true).entry? q = m.entry? q := fun _ => rfl
  have hpoison : (m.plain line d true).poison.contains (a / 64) = if a / 64 = line then true else m.poison.contains (a / 64) :=
    contains_setTo m.poison line (a / 64) true
  by_cases ha : a / 64 = line
  · rw [Mem.poisonAt_of_none (by rw [hent, ha, h]), hpoison, if_pos ha, decide_eq_true ha, Bool.true_or]
  · rw [decide_eq_false ha, Bool.false_or]
    exact Mem.poisonAt_congr (hent _) (by rw [hpoison, if_neg ha])

/-- A poisoned write within a line: it poisons the line, and other lines keep their poison. -/
theorem Mem.poisonAt_writePiece {m : Mem} (g : Grade) (pa : Nat) (d : List Byte) (h : m.wf) (a : Nat) :
    (Mem.writePiece g m pa d true).poisonAt a = (decide (a / 64 = pa / 64) || m.poisonAt a) := by
  simp only [Mem.writePiece, Bool.true_or]
  split
  · next o ho =>
    obtain ⟨hmem, hline⟩ := find_line ho
    generalize hE : ({ o with bytes := wcMerge o.bytes (pa % 64) d, poison := true } : WcEntry) = E
    have hEl : E.line = pa / 64 := by rw [← hE]; exact hline
    have hEp : E.poison = true := by rw [← hE]
    split
    · rw [Mem.poisonAt_after_leave, hEl, hEp, Bool.true_or]
      split
      · next ha => rw [decide_eq_true ha, Bool.true_or]
      · next ha => rw [decide_eq_false ha, Bool.false_or]
    · refine Mem.poisonAt_entered hEp ?_ (fun q => ?_) a
      · rfl
      · exact find_map_line m.wc E (pa / 64) q hEl ⟨o, hmem, hline⟩
  · next ho =>
    have hn : m.entry? (pa / 64) = none := ho
    split
    · exact Mem.poisonAt_plain d hn a
    · have hadd : ∀ k : Mem, k.entry? (pa / 64) = none → k.poisonAt a = m.poisonAt a →
          Mem.poisonAt { k with wc := k.wc ++ [(⟨pa / 64, wcMerge [] (pa % 64) d, true⟩ : WcEntry)] } a =
            (decide (a / 64 = pa / 64) || m.poisonAt a) := by
        intro k hk hb
        rw [← hb]
        refine Mem.poisonAt_entered (e := ⟨pa / 64, wcMerge [] (pa % 64) d, true⟩) rfl ?_ (fun q => ?_) a
        · rfl
        · exact find_append_line k.wc ⟨pa / 64, wcMerge [] (pa % 64) d, true⟩ q hk
      split
      · split
        · next e t hmine =>
          have hmem : e ∈ m.wc := (List.mem_filter.1 (hmine ▸ List.mem_cons_self ..)).1
          refine hadd _ ?_ (Mem.poisonAt_leave (h.entry?_of_mem hmem) a)
          rw [Mem.entry?_leave, hn, ite_self]
        · exact hadd m hn rfl
      · exact hadd m hn rfl

/-- A slice of a range's data that goes to one of its pieces has the piece's length. -/
theorem slice_length {α : Type} {va : Nat} {d : List α} {x : Nat × Nat} (h1 : va ≤ x.1) (h2 : x.1 + x.2 ≤ va + d.length) :
    ((d.drop (x.1 - va)).take x.2).length = x.2 := by
  simp only [List.length_take, List.length_drop]
  omega

theorem slice_fits {pa : Nat} {d : List Byte} {x : Nat × Nat} (hx : x ∈ linePieces pa d.length) :
    x.1 % 64 + ((d.drop (x.1 - pa)).take x.2).length ≤ 64 := by
  obtain ⟨h1, h2, h3⟩ := pieces_within (by omega) hx
  rw [slice_length h1 h2]
  exact h3

theorem Mem.poisonAt_write_keeps {m : Mem} (g : Grade) (pa : Nat) (d : List Byte) (h : m.wf) {a : Nat} (hp : m.poisonAt a = true) :
    (Mem.write g m pa d true).poisonAt a = true := by
  have keeps := List.foldlRecOn (motive := fun k : Mem => k.wf ∧ k.poisonAt a = true) (linePieces pa d.length)
    (fun m x => Mem.writePiece g m x.1 ((d.drop (x.1 - pa)).take x.2) true) ⟨h, hp⟩
  refine (keeps (fun k hk x hx => ⟨Mem.writePiece_wf g _ _ _ (slice_fits hx) hk.1, ?_⟩)).2
  rw [Mem.poisonAt_writePiece g _ _ hk.1, hk.2, Bool.or_true]

/-- A poisoned write marks every line that it touches (R262). -/
theorem Mem.poisonAt_write {m : Mem} (g : Grade) (pa : Nat) (d : List Byte) (h : m.wf) {a : Nat} (h1 : pa ≤ a) (h2 : a < pa + d.length) :
    (Mem.write g m pa d true).poisonAt a = true := by
  obtain ⟨x, hx, hx1, hx2⟩ := exists_linePiece h1 h2
  refine foldl_reaches (I := Mem.wf) (P := fun k => k.poisonAt a = true) (fun k y hy hk => Mem.writePiece_wf g _ _ _ (slice_fits hy) hk)
    (fun k y _ hk hp => ?_) (fun k hk => ?_) hx h
  · rw [Mem.poisonAt_writePiece g _ _ hk, hp, Bool.or_true]
  · obtain ⟨-, -, hfit⟩ := pieces_within (by omega) hx
    rw [Mem.poisonAt_writePiece g _ _ hk, decide_eq_true (by omega), Bool.true_or]

end Sys2Proof.Machine
end
/-! ### A page as the hub reaches it (R286, R290, R497) -/

section
namespace Sys2Proof.Machine
open Sys2Proof

/-! ### Counting fields -/

/-- The bits that were put into a field. -/
theorem getBits_setBits (w : Word) {hi lo : Nat} (h : hi < 32) (v : Nat) :
    getBits (setBits w hi lo v) hi lo = v % 2 ^ (hi + 1 - lo) := by
  refine Nat.eq_of_testBit_eq (fun i => ?_)
  simp only [getBits, setBits, bits, Nat.testBit_mod_two_pow, Nat.testBit_shiftRight]
  by_cases hi' : i < hi + 1 - lo
  · have h1 : lo + i < 32 := by omega
    have h2 : lo + i - lo < hi + 1 - lo := by omega
    have h3 : lo + i - lo = i := by omega
    rw [← BitVec.getLsbD, BitVec.getLsbD_or, BitVec.getLsbD_and, BitVec.getLsbD_not]
    simp only [BitVec.getLsbD_ofNat, fieldMask, Nat.testBit_shiftLeft, Nat.testBit_two_pow_sub_one, Nat.testBit_mod_two_pow, h3]
    simp [h1, hi']
  · simp [hi']

theorem State.fld_setFld_same (s : State) (r : Reg) (b i j : Nat) {hi lo : Nat} (h : hi < 32) (v : Nat) :
    (s.setFld r b i j hi lo v).fld r b i j hi lo = v % 2 ^ (hi + 1 - lo) := by
  rw [State.fld, State.setFld, State.rd_wr_same, getBits_setBits _ h]

/-- A counting field that counts once more saturates (R7). -/
theorem State.fld_countFld_same (s : State) (r : Reg) (b i j : Nat) {hi lo : Nat} (h : hi < 32) (k : Nat) :
    (s.countFld r b i j hi lo k).fld r b i j hi lo = min (s.fld r b i j hi lo + k) (2 ^ (hi + 1 - lo) - 1) := by
  rw [State.countFld, State.fld_setFld_same _ _ _ _ _ h, Nat.mod_eq_of_lt]
  have := Nat.two_pow_pos (hi + 1 - lo)
  omega

/-! ### Pages -/

theorem Page.touch_eq (g : Page) (now : Nat) : ∃ c b, g.touch now = { g with counter := c, bumped := b } := by
  simp only [Page.touch]
  split
  · split
    · exact ⟨_, _, rfl⟩
    · exact ⟨_, _, rfl⟩
  · exact ⟨_, _, rfl⟩

/-- A change of pages that leaves where each is and what it allows changes no translation. -/
theorem Part.xlate_map (x : Part) {f : Page → Page} (hf : ∀ g, ∃ c b, f g = { g with counter := c, bumped := b }) (va : Nat) (w : Bool) :
    ({ x with pages := x.pages.map f } : Part).xlate va w = x.xlate va w := by
  have hpage : ({ x with pages := x.pages.map f } : Part).page? va = (x.page? va).map f := by
    simp only [Part.page?, List.find?_map]
    congr 2
    funext g
    obtain ⟨c, b, hg⟩ := hf g
    simp only [Function.comp_apply, hg]
    rfl
  simp only [Part.xlate, hpage]
  cases x.page? va with
  | none => rfl
  | some g =>
    obtain ⟨c, b, hg⟩ := hf g
    simp only [Option.map_some, hg]

@[simp] theorem State.touchPage_mem (s : State) (p a : Nat) : (s.touchPage p a).mem = s.mem := rfl

theorem State.xlate_touchPage (s : State) (p a va : Nat) (w : Bool) : ((s.touchPage p a).part p).xlate va w = (s.part p).xlate va w := by
  rw [State.touchPage, State.part_onPart_same]
  refine (s.part p).xlate_map (fun g => ?_) va w
  split
  · exact g.touch_eq _
  · exact ⟨g.counter, g.bumped, rfl⟩

theorem Part.page?_bounds {x : Part} {va : Nat} {g : Page} (h : x.page? va = some g) : g.va ≤ va ∧ va < g.va + g.size := by
  simpa using List.find?_some h

/-- The physical address of a byte of a page in frame f. -/
def Page.phys (g : Page) (f a : Nat) : Nat := f + (a - g.va)

/-- A page takes an access that its W allows. -/
theorem allowed {w b : Bool} (h : w = true → b = true) : (w && !b) = false := by
  cases w with
  | false => rfl
  | true => simp [h rfl]

theorem Part.xlate_here {x : Part} {va f : Nat} {g : Page} (h : x.page? va = some g) (hf : g.frame = some f) {w : Bool}
    (hw : w = true → g.w = true) : x.xlate va w = .here (g.phys f va) g.h := by
  simp [Part.xlate, h, allowed hw, hf, Page.phys]

theorem Part.xlate_away {x : Part} {va : Nat} {g : Page} (h : x.page? va = some g) (hf : g.frame = none) {w : Bool}
    (hw : w = true → g.w = true) : x.xlate va w = .away g.va := by
  simp [Part.xlate, h, allowed hw, hf]

/-- A range that lies in one page is taken as that page takes it. -/
theorem Part.hostPages_within {x : Part} {va len : Nat} {g : Page} (hl : 0 < len) (h : ∀ a, va ≤ a → a < va + len → x.page? a = some g) :
    x.hostPages va len = (g.h, g.w) := by
  have hpage : ∀ q ∈ pieces 0x10000 va (len / 0x10000 + 2) (Nat.max len 1), x.page? q.1 = some g := by
    intro q hq
    obtain ⟨h1, h2, -⟩ := pieces_within (by omega) hq
    have h3 := pieces_pos (by omega) hq
    have h4 : Nat.max len 1 = len := Nat.max_eq_left hl
    exact h q.1 h1 (by omega)
  have hmap : (pieces 0x10000 va (len / 0x10000 + 2) (Nat.max len 1)).map (fun q => x.page? q.1) =
      List.replicate (pieces 0x10000 va (len / 0x10000 + 2) (Nat.max len 1)).length (some g) :=
    List.map_eq_replicate_iff.2 hpage
  have hne : (pieces 0x10000 va (len / 0x10000 + 2) (Nat.max len 1)).length ≠ 0 := by
    rw [pieces_first (by have := Nat.le_max_right len 1; exact Nat.ne_of_gt this)]
    simp
  simp [Part.hostPages, hmap, List.all_replicate, hne]

theorem Part.hostPages_unmapped {x : Part} {va : Nat} (len : Nat) (h : x.page? va = none) : (x.hostPages va len).1 = false := by
  have hne : Nat.max len 1 ≠ 0 := Nat.ne_of_gt (Nat.le_max_right len 1)
  simp [Part.hostPages, pieces_first hne, h]

/-! ### What an access of the hub leaves alone -/

/-- An access of the hub to partition p's memory: everything but memory, counters and the access counters of pages. -/
structure State.reached (p : Nat) (s t : State) : Prop where
  cores : t.cores = s.cores
  out : t.out = s.out
  grade : t.grade = s.grade
  filling : t.filling = s.filling
  xlate : ∀ va w, (t.part p).xlate va w = (s.part p).xlate va w

theorem State.reached.refl (p : Nat) (s : State) : State.reached p s s := ⟨rfl, rfl, rfl, rfl, fun _ _ => rfl⟩

theorem State.reached.trans {p : Nat} {s t u : State} (h : State.reached p s t) (k : State.reached p t u) : State.reached p s u :=
  ⟨k.cores.trans h.cores, k.out.trans h.out, k.grade.trans h.grade, k.filling.trans h.filling, fun va w => (k.xlate va w).trans (h.xlate va w)⟩

theorem State.sameButCounters.reached {s t : State} (h : s.sameButCounters t) (p : Nat) : State.reached p s t where
  cores := h.cores_eq
  out := by rw [h.1]
  grade := by rw [h.1]
  filling := by
    have : Reg.lcStatus.addr 0 0 0 < countersFrom := by decide
    simp only [State.filling, State.fld, h.rd_eq this]
  xlate := fun va w => by rw [h.part_eq]

theorem State.touchPage_reached (s : State) (p a : Nat) : State.reached p s (s.touchPage p a) :=
  ⟨rfl, rfl, rfl, rfl, s.xlate_touchPage p a⟩

theorem State.withMem_reached (s : State) (p : Nat) (m : Mem) : State.reached p s { s with mem := m } := ⟨rfl, rfl, rfl, rfl, fun _ _ => rfl⟩

theorem State.access_reached (s : State) (p a : Nat) (w : Who) (f : Mem → Mem) : State.reached p s ((s.touchPage p a).memDo w f) :=
  (s.touchPage_reached p a).trans ((State.withMem_reached _ p _).trans ((State.memDo_same _ w f).reached p))

/-! ### How a computation of the hub runs -/

@[simp] theorem State.hub_bind {α β : Type} (s : State) (x : HM α) (f : α → HM β) : s.hub (x >>= f) = match s.hub x with
    | (.ok a, t) => t.hub (f a)
    | (.error e, t) => (.error e, t) := by
  change ExceptT.bindCont f (s.hub x).1 (s.hub x).2 = _
  generalize s.hub x = y
  obtain ⟨a | a, t⟩ := y <;> rfl

@[simp] theorem State.hub_map {α β : Type} (s : State) (f : α → β) (x : HM α) : s.hub (f <$> x) = match s.hub x with
    | (.ok a, t) => (.ok (f a), t)
    | (.error e, t) => (.error e, t) := by
  rw [← bind_pure_comp, State.hub_bind]
  rfl

@[simp] theorem State.hub_pure {α : Type} (s : State) (a : α) : s.hub (pure a : HM α) = (.ok a, s) := rfl
@[simp] theorem State.hub_get (s : State) : s.hub (get : HM State) = (.ok s, s) := rfl
@[simp] theorem State.hub_set (s t : State) : s.hub (set t : HM PUnit) = (.ok ⟨⟩, t) := rfl
@[simp] theorem State.hub_throw {α : Type} (s : State) (e : Stop) : s.hub (throw e : HM α) = (.error e, s) := rfl

section piece
variable {s : State} {w : Who} {p va pa : Nat} {h : Bool} (hf : s.filling = false)
include hf

theorem hub_hubRdPiece_here (hx : (s.part p).xlate va false = .here pa h) (len : Nat) :
    ∃ t, s.hub (hubRdPiece w p va len) = (.ok ((s.mem.settle pa len).look pa len), t) ∧ State.reached p s t ∧ t.mem = s.mem.settle pa len := by
  refine ⟨_, ?_, (s.access_reached p va { w with va := some va } (fun m => m.settle pa len)).trans
    ((State.hubEvent_same _ 0x42 1 { w with va := some va }).reached p), ?_⟩
  · simp [hubRdPiece, hf, hx, (State.hubEvent_same _ _ _ _).mem_eq]
  · rw [(State.hubEvent_same _ _ _ _).mem_eq, State.memDo_mem]
    rfl

theorem hub_hubRdPiece_away {a : Nat} (hx : (s.part p).xlate va false = .away a) (len : Nat) :
    s.hub (hubRdPiece w p va len) = (.error .wait, s) := by
  simp [hubRdPiece, hf, hx]

/-- Of a poisoned TLP the poison is only written (R435). -/
theorem hub_hubWrPiece_here (hk : w.kind = 3) (hx : (s.part p).xlate va true = .here pa h) (d : List Byte) (poison : Bool) :
    ∃ t, s.hub (hubWrPiece w p va d poison) = (.ok (), t) ∧ State.reached p s t ∧ t.mem = s.mem.write s.grade pa d poison := by
  refine ⟨_, ?_, s.access_reached p va { w with va := some va } (fun m => m.write s.grade pa d poison), ?_⟩
  · simp [hubWrPiece, hf, hx, hk]
  · rw [State.memDo_mem]
    rfl

theorem hub_hubWrPiece_away {a : Nat} (hx : (s.part p).xlate va true = .away a) (d : List Byte) (poison : Bool) :
    s.hub (hubWrPiece w p va d poison) = (.error .wait, s) := by
  simp [hubWrPiece, hf, hx]

end piece

end Sys2Proof.Machine
end
/-! ### BAR2 (R262, R435) -/

section
namespace Sys2Proof.Machine
open Sys2Proof

section range
variable {w : Who} {p : Nat} {g : Page} {f : Nat}

/-! ### Reads -/

/-- The hub reads pieces one by one: memory keeps its bytes, and the bytes are those of the pieces. -/
theorem hub_mapM_hubRdPiece (xs : List (Nat × Nat)) :
    ∀ {s : State}, s.filling = false → s.mem.wf → s.mem.clean → (∀ x ∈ xs, (s.part p).xlate x.1 false = .here (g.phys f x.1) g.h) →
    ∃ l t, s.hub (xs.mapM (fun x => hubRdPiece w p x.1 x.2)) = (.ok l, t) ∧ State.reached p s t ∧ t.mem.wf ∧
      (∀ a, t.mem.byteOf a = s.mem.byteOf a) ∧
      l.flatMap (·.1) = xs.flatMap (fun x => (List.range' (g.phys f x.1) x.2).map s.mem.byteOf) ∧ l.any (·.2) = false := by
  induction xs with
  | nil => exact fun {s} _ hwf _ _ => ⟨[], s, by simp, .refl p s, hwf, fun _ => rfl, rfl, rfl⟩
  | cons x xs ih =>
    intro s hf hwf hc hx
    obtain ⟨t, ht, htr, htm⟩ := hub_hubRdPiece_here (w := w) hf (hx x (List.mem_cons_self ..)) x.2
    have hbytes : ∀ a, t.mem.byteOf a = s.mem.byteOf a := fun a => by rw [htm, Mem.byteOf_settle hwf]
    obtain ⟨l, u, hu, hur, huwf, hub, hul, hup⟩ := ih (s := t) (by rw [htr.filling, hf]) (by rw [htm]; exact Mem.settle_wf _ _ hwf)
      (by rw [htm]; exact hc.settle _ _) (fun y hy => by rw [htr.xlate]; exact hx y (List.mem_cons_of_mem _ hy))
    refine ⟨(s.mem.settle (g.phys f x.1) x.2).look (g.phys f x.1) x.2 :: l, u, ?_, htr.trans hur, huwf, fun a => (hub a).trans (hbytes a),
      ?_, ?_⟩
    · simp [List.mapM_cons, ht, hu]
    · rw [List.flatMap_cons, List.flatMap_cons, Mem.look_settle hwf, hul]
      simp only [funext hbytes]
    · rw [List.any_cons, hup, (hc.settle _ _).look]
      rfl

/-- The addresses of a piece of a page, as physical ones. -/
theorem Page.range'_phys {a : Nat} (ha : g.va ≤ a) (n : Nat) : List.range' (g.phys f a) n = (List.range' a n).map (g.phys f) := by
  rw [List.range'_eq_map_range, List.range'_eq_map_range, List.map_map]
  refine List.map_congr_left (fun k _ => ?_)
  simp only [Page.phys, Function.comp_apply]
  omega

section page
variable {s : State} {va len : Nat} (hf : s.filling = false) (hl : 0 < len)
  (hpage : ∀ a, va ≤ a → a < va + len → (s.part p).page? a = some g)

include hf hl hpage in
theorem hub_hubRd_away (hg : g.frame = none) : s.hub (hubRd w p va len) = (.error .wait, s) := by
  have hx : (s.part p).xlate va false = .away g.va := Part.xlate_away (hpage va (Nat.le_refl _) (by omega)) hg (fun h => by cases h)
  simp [hubRd, linePieces, pieces_first (Nat.ne_of_gt hl), List.mapM_cons, hub_hubRdPiece_away hf hx]

include hl hpage in
theorem Page.va_le_of_within : g.va ≤ va := (Part.page?_bounds (hpage va (Nat.le_refl _) (by omega))).1

include hpage in
theorem page?_of_linePiece {x : Nat × Nat} (hx : x ∈ linePieces va len) : (s.part p).page? x.1 = some g := by
  obtain ⟨h1, h2, -⟩ := pieces_within (by omega) hx
  have h3 := pieces_pos (by omega) hx
  exact hpage x.1 h1 (by omega)

include hf hl hpage in
/-- A read of a range of a resident page gives the bytes of its frame. -/
theorem hub_hubRd_page (hg : g.frame = some f) (hwf : s.mem.wf) (hc : s.mem.clean) :
    ∃ t, s.hub (hubRd w p va len) = (.ok ((List.range' va len).map (fun a => s.mem.byteOf (g.phys f a)), false), t) ∧ State.reached p s t ∧
      t.mem.wf ∧ ∀ a, t.mem.byteOf a = s.mem.byteOf a := by
  have hva := Page.va_le_of_within hl hpage
  obtain ⟨l, t, ht, htr, htwf, htb, hbytes, hpoison⟩ := hub_mapM_hubRdPiece (w := w) (linePieces va len) hf hwf hc
    (fun x hx => Part.xlate_here (page?_of_linePiece hpage hx) hg (fun h => by cases h))
  refine ⟨t, ?_, htr, htwf, htb⟩
  have hall : l.flatMap (·.1) = (List.range' va len).map (fun a => s.mem.byteOf (g.phys f a)) := by
    rw [hbytes, ← linePieces_flatMap va len, List.map_flatMap]
    refine List.flatMap_congr (fun x hx => ?_)
    obtain ⟨h1, -⟩ := pieces_within (by omega) hx
    rw [Page.range'_phys (by omega), List.map_map]
    rfl
  simp only [hubRd, State.hub_bind, ht, State.hub_pure, joinReads, hall, hpoison]

end page

/-! ### Writes -/

theorem hub_forM_hubWrPiece (hk : w.kind = 3) (d : Nat × Nat → List Byte) (poison : Bool) (xs : List (Nat × Nat)) :
    ∀ {s : State}, s.filling = false → (∀ x ∈ xs, (s.part p).xlate x.1 true = .here (g.phys f x.1) g.h) →
    ∃ t, s.hub (xs.forM (fun x => hubWrPiece w p x.1 (d x) poison)) = (.ok (), t) ∧ State.reached p s t ∧
      t.mem = xs.foldl (fun m x => m.write s.grade (g.phys f x.1) (d x) poison) s.mem := by
  induction xs with
  | nil => exact fun {s} _ _ => ⟨s, by simp, .refl p s, rfl⟩
  | cons x xs ih =>
    intro s hf hx
    obtain ⟨t, ht, htr, htm⟩ := hub_hubWrPiece_here hf hk (hx x (List.mem_cons_self ..)) (d x) poison
    obtain ⟨u, hu, hur, hum⟩ := ih (s := t) (by rw [htr.filling, hf]) (fun y hy => by rw [htr.xlate]; exact hx y (List.mem_cons_of_mem _ hy))
    refine ⟨u, ?_, htr.trans hur, ?_⟩
    · simpa [List.forM_cons, ht] using hu
    · rw [hum, htm, htr.grade, List.foldl_cons]

/-- The memory after a range of a page in frame f is written, line by line. -/
def Mem.writePage (m : Mem) (gr : Grade) (g : Page) (f va : Nat) (d : List Byte) (poison : Bool) : Mem :=
  (linePieces va d.length).foldl (fun m x => m.write gr (g.phys f x.1) ((d.drop (x.1 - va)).take x.2) poison) m

theorem Mem.writePage_wf {m : Mem} (h : m.wf) (gr : Grade) (g : Page) (f va : Nat) (d : List Byte) (poison : Bool) :
    (m.writePage gr g f va d poison).wf :=
  foldl_keeps (P := Mem.wf) (fun _ _ hk => Mem.write_wf gr _ _ poison hk) _ h

theorem slice_getD {va a : Nat} {d : List Byte} {x : Nat × Nat} (h1 : va ≤ x.1) (h2 : x.1 ≤ a) (h3 : a < x.1 + x.2) :
    ((d.drop (x.1 - va)).take x.2).getD (a - x.1) 0#8 = d.getD (a - va) 0#8 := by
  rw [List.getD_eq_getElem?_getD, List.getD_eq_getElem?_getD, List.getElem?_take_of_lt (by omega), List.getElem?_drop]
  congr 2
  omega

/-- One piece of the range: its bytes are those of the data, others stay. -/
theorem Mem.byteOf_writeSlice {m : Mem} (h : m.wf) (gr : Grade) {va a : Nat} {d : List Byte} {x : Nat × Nat} (hva : g.va ≤ va)
    (hx : x ∈ linePieces va d.length) (ha : g.va ≤ a) (poison : Bool) :
    (m.write gr (g.phys f x.1) ((d.drop (x.1 - va)).take x.2) poison).byteOf (g.phys f a) =
      if x.1 ≤ a ∧ a < x.1 + x.2 then d.getD (a - va) 0#8 else m.byteOf (g.phys f a) := by
  obtain ⟨h1, h2, -⟩ := pieces_within (by omega) hx
  rw [Mem.byteOf_write gr _ _ _ h, slice_length h1 h2]
  have hin : (g.phys f x.1 ≤ g.phys f a ∧ g.phys f a < g.phys f x.1 + x.2) ↔ x.1 ≤ a ∧ a < x.1 + x.2 := by
    simp only [Page.phys]
    omega
  simp only [hin]
  split
  · next hr =>
    have hoff : g.phys f a - g.phys f x.1 = a - x.1 := by
      simp only [Page.phys]
      omega
    rw [hoff, slice_getD h1 hr.1 hr.2]
  · rfl

theorem Mem.byteOf_writePage {m : Mem} (h : m.wf) (gr : Grade) {va a : Nat} {d : List Byte} (hva : g.va ≤ va) (h1 : va ≤ a)
    (h2 : a < va + d.length) (poison : Bool) : (m.writePage gr g f va d poison).byteOf (g.phys f a) = d.getD (a - va) 0#8 := by
  obtain ⟨x, hx, hx1, hx2⟩ := exists_linePiece h1 h2
  refine foldl_reaches (I := Mem.wf) (P := fun k => k.byteOf (g.phys f a) = d.getD (a - va) 0#8)
    (fun k y _ hk => Mem.write_wf gr _ _ poison hk) (fun k y hy hk hp => ?_) (fun k hk => ?_) hx h
  · rw [Mem.byteOf_writeSlice hk gr hva hy (by omega), hp, ite_self]
  · rw [Mem.byteOf_writeSlice hk gr hva hx (by omega), if_pos ⟨hx1, hx2⟩]

theorem Mem.poisonAt_writePage {m : Mem} (h : m.wf) (gr : Grade) {va a : Nat} {d : List Byte} (hva : g.va ≤ va) (h1 : va ≤ a)
    (h2 : a < va + d.length) : (m.writePage gr g f va d true).poisonAt (g.phys f a) = true := by
  obtain ⟨x, hx, hx1, hx2⟩ := exists_linePiece h1 h2
  refine foldl_reaches (I := Mem.wf) (P := fun k => k.poisonAt (g.phys f a) = true)
    (fun k y _ hk => Mem.write_wf gr _ _ true hk) (fun k y _ hk hp => Mem.poisonAt_write_keeps gr _ _ hk hp) (fun k hk => ?_) hx h
  obtain ⟨h3, h4, -⟩ := pieces_within (by omega) hx
  refine Mem.poisonAt_write gr _ _ hk ?_ ?_
  · simp only [Page.phys]
    omega
  · rw [slice_length h3 h4]
    simp only [Page.phys]
    omega

section page
variable {s : State} {va : Nat} {d : List Byte} (hf : s.filling = false) (hl : 0 < d.length)
  (hpage : ∀ a, va ≤ a → a < va + d.length → (s.part p).page? a = some g) (hw : g.w = true) (poison : Bool)
include hf hl hpage hw

theorem hub_hubWr_away (hg : g.frame = none) : s.hub (hubWr w p va d poison) = (.error .wait, s) := by
  have hx : (s.part p).xlate va true = .away g.va := Part.xlate_away (hpage va (Nat.le_refl _) (by omega)) hg (fun _ => hw)
  simp [hubWr, linePieces, pieces_first (Nat.ne_of_gt hl), List.forM_cons, hub_hubWrPiece_away hf hx]

omit hl in
theorem hub_hubWr_page (hk : w.kind = 3) (hg : g.frame = some f) :
    ∃ t, s.hub (hubWr w p va d poison) = (.ok (), t) ∧ State.reached p s t ∧ t.mem = s.mem.writePage s.grade g f va d poison :=
  hub_forM_hubWrPiece hk (fun x => (d.drop (x.1 - va)).take x.2) poison (linePieces va d.length) hf
    (fun _ hx => Part.xlate_here (page?_of_linePiece hpage hx) hg (fun _ => hw))

end page
end range

end Sys2Proof.Machine
end
section
namespace Sys2Proof.Machine
open Sys2Proof

/-! ### Accesses of BAR2 -/

/-- A write of BAR2 that waits behind the page it needs or behind an earlier write. -/
def State.bar2Hold (s : State) (p va : Nat) (d : List Byte) (poison : Bool) : State :=
  s.onPart p (fun x => { x with bar2Held := x.bar2Held ++ [(va, d, poison)] })

theorem exec_bar2Read {p : Nat} (hp : p < 8) (va len : Nat) (s : State) :
    exec (.bar2Read p va len) s = .next ((s.bar2Get p va len).getD s) := if_pos (by simp [Instr.wf, hp])
theorem exec_bar2Write {p : Nat} (hp : p < 8) (va : Nat) (d : List Byte) (poison : Bool) (s : State) :
    exec (.bar2Write p va d poison) s = .next (s.bar2Put p va d poison) := if_pos (by simp [Instr.wf, hp])

section
variable {p va len : Nat} {s : State} (hp : p < 8) (ha : s.access (.vf p) = .whole)
include hp ha

theorem bar2Read_waits (hw : s.bar2Waits (.vf p) = true) : exec (.bar2Read p va len) s = .next s := by
  rw [exec_bar2Read hp]
  simp [State.bar2Get, ha, hw]

theorem bar2Read_outside (hw : s.bar2Waits (.vf p) = false) (hb : s.inBar2 p va len = false) :
    exec (.bar2Read p va len) s = .next (s.emit (.unsupported (.vf p) va)) := by
  rw [exec_bar2Read hp]
  simp [State.bar2Get, ha, hw, hb]

theorem bar2Write_outside {d : List Byte} (hb : s.inBar2 p va d.length = false) (poison : Bool) :
    exec (.bar2Write p va d poison) s = .next s := by
  rw [exec_bar2Write hp]
  simp [State.bar2Put, ha, hb]

theorem bar2Write_waits {d : List Byte} (hw : s.bar2Waits (.vf p) = true) (hb : s.inBar2 p va d.length = true) (poison : Bool) :
    exec (.bar2Write p va d poison) s = .next (s.bar2Hold p va d poison) := by
  rw [exec_bar2Write hp]
  simp [State.bar2Put, State.bar2Hold, ha, hb, hw]

/-! A read in the window that nothing holds up is turned away for want of pages with H, made by the hub, or waits. -/

theorem bar2Read_noPages (hw : s.bar2Waits (.vf p) = false) (hb : s.inBar2 p va len = true) (hh : ((s.part p).hostPages va len).1 = false) :
    exec (.bar2Read p va len) s = .next ((s.countUr p).emit (.unsupported (.vf p) va)) := by
  rw [exec_bar2Read hp]
  simp [State.bar2Get, ha, hw, hb, hh]

theorem bar2Read_ok {b : List Byte} {t : State} (hw : s.bar2Waits (.vf p) = false) (hb : s.inBar2 p va len = true)
    (hh : ((s.part p).hostPages va len).1 = true) (ht : s.hub (hubRd (whoPort (s.partPort p) p) p va len) = (.ok (b, false), t)) :
    exec (.bar2Read p va len) s = .next (t.emit (.bar2Data p b)) := by
  rw [exec_bar2Read hp]
  simp [State.bar2Get, ha, hw, hb, hh, ht]

theorem bar2Read_stops {e : Stop} {t : State} (hw : s.bar2Waits (.vf p) = false) (hb : s.inBar2 p va len = true)
    (hh : ((s.part p).hostPages va len).1 = true) (ht : s.hub (hubRd (whoPort (s.partPort p) p) p va len) = (.error e, t)) :
    exec (.bar2Read p va len) s = .next s := by
  rw [exec_bar2Read hp]
  simp [State.bar2Get, ha, hw, hb, hh, ht]

/-- A write in the window behind no other. -/
theorem bar2Write_inside {d : List Byte} (hw : s.bar2Waits (.vf p) = false) (hb : s.inBar2 p va d.length = true) (poison : Bool) :
    exec (.bar2Write p va d poison) s = .next ((s.bar2Do p va d poison).getD (s.bar2Hold p va d poison)) := by
  rw [exec_bar2Write hp]
  simp [State.bar2Put, State.bar2Hold, ha, hb, hw]

end

/-! What a BAR2 write comes to: turned away and counted, made by the hub, or held. -/

section
variable {s : State} {p va : Nat} {d : List Byte} {poison : Bool}

theorem State.bar2Do_noPages (h : ((s.part p).hostPages va d.length).1 = false) : s.bar2Do p va d poison = some (s.countUr p) := by
  simp [State.bar2Do, h]

theorem State.bar2Do_readOnly (h : (s.part p).hostPages va d.length = (true, false)) :
    s.bar2Do p va d poison = some (s.countFld .lcPort 0 (s.partPort p) 0 15 8 1) := by
  simp [State.bar2Do, h]

theorem State.bar2Do_ok {t : State} (h : (s.part p).hostPages va d.length = (true, true))
    (ht : s.hub (hubWr (whoPort (s.partPort p) p) p va d poison) = (.ok (), t)) : s.bar2Do p va d poison = some t := by
  simp [State.bar2Do, h, ht]

theorem State.bar2Do_stops {e : Stop} {t : State} (h : (s.part p).hostPages va d.length = (true, true))
    (ht : s.hub (hubWr (whoPort (s.partPort p) p) p va d poison) = (.error e, t)) : s.bar2Do p va d poison = none := by
  simp [State.bar2Do, h, ht]

end

section
variable {p va len : Nat} {s : State} {g : Page} (hp : p < 8) (hwf : s.mem.wf) (ha : s.access (.vf p) = .whole) (hl : 0 < len)
  (hf : s.filling = false) (hb : s.inBar2 p va len = true) (hw : s.bar2Waits (.vf p) = false)
include hp ha hb hw

/-- Accesses of a page that is not mapped are unsupported, and counted (R435). -/
theorem bar2Read_unmapped (hn : (s.part p).page? va = none) :
    ∃ t : State, exec (.bar2Read p va len) s = .next t ∧ t.mem = s.mem ∧ t.out = s.out ++ [.unsupported (.vf p) va] ∧
      t.fld .lcPort 0 (s.partPort p) 0 7 0 = min (s.fld .lcPort 0 (s.partPort p) 0 7 0 + 1) 255 := by
  refine ⟨_, bar2Read_noPages hp ha hw hb (Part.hostPages_unmapped len hn), ?_⟩
  exact ⟨by simp [State.countUr], by simp [State.countUr, State.emit], by simp [State.countUr, State.fld_countFld_same]⟩

theorem bar2Write_unmapped (hn : (s.part p).page? va = none) {d : List Byte} (hd : d.length = len) (poison : Bool) :
    ∃ t : State, exec (.bar2Write p va d poison) s = .next t ∧ t.mem = s.mem ∧
      t.fld .lcPort 0 (s.partPort p) 0 7 0 = min (s.fld .lcPort 0 (s.partPort p) 0 7 0 + 1) 255 := by
  subst hd
  refine ⟨_, bar2Write_inside hp ha hw hb poison, ?_⟩
  rw [State.bar2Do_noPages (Part.hostPages_unmapped _ hn)]
  exact ⟨by simp [State.countUr], by simp [State.countUr, State.fld_countFld_same]⟩

section
variable (hh : g.h = true) (hpage : ∀ a, va ≤ a → a < va + len → (s.part p).page? a = some g)
include hl hh hpage

/-- A write to a page without W is dropped, and counted. -/
theorem bar2Write_readOnly (hg : g.w = false) {d : List Byte} (hd : d.length = len) (poison : Bool) :
    ∃ t : State, exec (.bar2Write p va d poison) s = .next t ∧ t.mem = s.mem ∧
      t.fld .lcPort 0 (s.partPort p) 0 15 8 = min (s.fld .lcPort 0 (s.partPort p) 0 15 8 + 1) 255 := by
  subst hd
  refine ⟨_, bar2Write_inside hp ha hw hb poison, ?_⟩
  rw [State.bar2Do_readOnly (by rw [Part.hostPages_within hl hpage, hh, hg])]
  exact ⟨by simp, by simp [State.fld_countFld_same]⟩

include hf

theorem bar2Read_away (hn : g.frame = none) : exec (.bar2Read p va len) s = .next s :=
  bar2Read_stops hp ha hw hb (by rw [Part.hostPages_within hl hpage, hh]) (hub_hubRd_away hf hl hpage hn)

theorem bar2Write_away (hn : g.frame = none) (hg : g.w = true) {d : List Byte} (hd : d.length = len) (poison : Bool) :
    exec (.bar2Write p va d poison) s = .next (s.bar2Hold p va d poison) := by
  subst hd
  rw [bar2Write_inside hp ha hw hb, State.bar2Do_stops (by rw [Part.hostPages_within hl hpage, hh, hg]) (hub_hubWr_away hf hl hpage hg poison hn)]
  rfl

include hwf

/-- A read of a resident page gives the bytes of its frame. -/
theorem bar2Read_page {f : Nat} (hg : g.frame = some f) (hc : s.mem.clean) : ∃ (t : State) (b : List Byte),
    exec (.bar2Read p va len) s = .next t ∧ t.out = s.out ++ [.bar2Data p b] ∧ b.length = len ∧ t.cores = s.cores ∧
      (∀ a, t.byteAt a = s.byteAt a) ∧ ∀ j c, b[j]? = some c → ∃ pa, (s.part p).xlate (va + j) false = .here pa true ∧ s.byteAt pa = [c] := by
  obtain ⟨t, ht, htr, htwf, htb⟩ := hub_hubRd_page (w := whoPort (s.partPort p) p) hf hl hpage hg hwf hc
  refine ⟨_, (List.range' va len).map (fun a => s.mem.byteOf (g.phys f a)),
    bar2Read_ok hp ha hw hb (by rw [Part.hostPages_within hl hpage, hh]) ht, by rw [State.emit, htr.out], by simp, htr.cores,
    fun a => ?_, fun j c hj => ?_⟩
  · have hmem : t.byteAt a = s.byteAt a := by rw [State.byteAt_eq htwf, State.byteAt_eq hwf, htb]
    exact hmem
  · obtain ⟨hjl, rfl⟩ := List.getElem?_eq_some_iff.1 hj
    have hlen : j < len := by simpa using hjl
    refine ⟨g.phys f (va + j), ?_, ?_⟩
    · rw [← hh]
      exact Part.xlate_here (hpage _ (by omega) (by omega)) hg (fun h => by cases h)
    · rw [State.byteAt_eq hwf]
      simp

/-- A write to a resident page with W puts its bytes into the frame; poison of the TLP marks their lines (R262, R435). -/
theorem bar2Write_page {f : Nat} (hg : g.frame = some f) (hgw : g.w = true) {d : List Byte} (hd : d.length = len) (poison : Bool) :
    ∃ t : State, exec (.bar2Write p va d poison) s = .next t ∧ t.cores = s.cores ∧ t.out = s.out ∧
      ∀ j c, d[j]? = some c → ∃ pa, (s.part p).xlate (va + j) true = .here pa true ∧ t.byteAt pa = [c] ∧
        (poison = true → ((t.mem.settle pa 1).look pa 1).2 = true) := by
  subst hd
  obtain ⟨t, ht, htr, htm⟩ := hub_hubWr_page (w := whoPort (s.partPort p) p) hf hpage hgw poison rfl hg
  have htwf : t.mem.wf := htm ▸ Mem.writePage_wf hwf _ _ _ _ _ _
  have hva := Page.va_le_of_within hl hpage
  refine ⟨t, ?_, htr.cores, htr.out, fun j c hj => ?_⟩
  · rw [bar2Write_inside hp ha hw hb, State.bar2Do_ok (by rw [Part.hostPages_within hl hpage, hh, hgw]) ht]
    rfl
  · obtain ⟨hjl, rfl⟩ := List.getElem?_eq_some_iff.1 hj
    refine ⟨g.phys f (va + j), ?_, ?_, ?_⟩
    · rw [← hh]
      exact Part.xlate_here (hpage _ (by omega) (by omega)) hg (fun _ => hgw)
    · rw [State.byteAt_eq htwf, htm, Mem.byteOf_writePage hwf _ hva (by omega) (by omega)]
      simp [List.getD_eq_getElem?_getD, hjl]
    · rintro rfl
      rw [Mem.look_poison, htm]
      exact Mem.poisonAt_writePage hwf _ hva (by omega) (by omega)

end

end

/-- Settles O56, clause by clause from the lemmas above. -/
theorem hostRegisters : Obligations.HostRegisters := by
  refine ⟨?_, ?_, fun off v s h => mgmt_silent h off v, ?_, ?_, ?_, ?_⟩
  · exact fun m off a s hm h hlo => register_read hm h hlo
  · intro m off a s hm ha hx hmet
    refine ⟨fun hh hs => unseen_read hm ha hx hmet hh hs, fun v hw => ?_, fun v hh hw => ⟨fun hs => unseen_write hm ha hx hmet hh hw hs v,
      fun hs ho => ⟨fun hg hst => held_group_write hm ha hx hmet hh hw hs ho hg hst.1 hst.2 v,
        fun hg => plain_write hm ha hx hmet hh hw hs ho hg v⟩⟩⟩
    rw [exec_registerWrite hm, hw]
    rfl
  · exact fun m off v s hm => ⟨fun h hh => unsupported_access hm h hh v, fun hf hp hc => halted_unsupported hf hp hc,
      fun hf hmet => partial_access hm hf hmet off⟩
  · intro m p v s hm hp hv
    obtain ⟨hwaits, hother, hpops⟩ := pop_event hm hp s
    exact ⟨hwaits, hother, hpops, fun h => holdoff_idle hp hv h, fun hc hh => ⟨fun hn => holdoff_over hp hv hc hh hn,
      fun hn => holdoff_sends hp hv hc hh hn⟩⟩
  · intro p va len s hp ha
    refine ⟨fun hw => bar2Read_waits hp ha hw, fun hw hb => bar2Read_outside hp ha hw hb, ?_⟩
    rintro d poison rfl
    exact ⟨fun hb => bar2Write_outside hp ha hb poison, fun hw hb => bar2Write_waits hp ha hw hb poison⟩
  · intro p va len s hp hwf ha hl hf hb hw
    refine ⟨?_, ?_, ?_, ?_, ?_⟩
    · rintro ⟨g, hg, hh, hpage⟩
      exact bar2Read_away hp ha hl hf hb hw hh hpage hg
    · rintro ⟨g, hg, hh, hgw, hpage⟩ d poison hd
      exact bar2Write_away hp ha hl hf hb hw hh hpage hg hgw hd poison
    · rintro w ⟨g, f, hg, hh, -, hpage⟩ hpoison hwc
      exact bar2Read_page hp hwf ha hl hf hb hw hh hpage hg ⟨hpoison, hwc⟩
    · intro d poison hd
      refine ⟨?_, ?_⟩
      · rintro ⟨g, f, hg, hh, hgw, hpage⟩
        exact bar2Write_page hp hwf ha hl hf hb hw hh hpage hg hgw hd poison
      · rintro ⟨g, f, hg, hh, hgw, hpage⟩
        exact bar2Write_readOnly hp ha hl hb hw hh hpage hgw hd poison
    · exact fun hn => ⟨bar2Read_unmapped hp ha hb hw hn, fun d poison hd => bar2Write_unmapped hp ha hb hw hn hd poison⟩

end Sys2Proof.Machine
end
section
namespace Sys2Proof.Machine
open Sys2Proof

/-! ## O58: the queue of the block (R12, R22) -/

theorem step_cons (s : State) (c : Instr) (rest : List Instr) :
    step { s with pending := c :: rest } = exec c { s with pending := rest } := rfl

theorem step_nil (s : State) : step { s with pending := [] } = .next (idle { s with pending := [] }) := rfl

/-- The opcode table gives no bits: a word leaves the queue as it is. -/
theorem State.withFetchWord_eq (s : State) (nbits w : Nat) : s.withFetchWord nbits w = s := rfl

/-- Settles O58: a step is `exec` of the command in front, or one idle cycle. -/
theorem stepRunsFront : Obligations.StepRunsFront := by
  intro s c rest
  exact ⟨step_cons s c rest, step_nil s, fun nbits w => ⟨rfl, s.withFetchWord_eq nbits w⟩⟩

/-! ## O30: writes of codebook registers (R24, R43, R49, R51) -/

theorem exec_codebookRegisterWrite {m : Master} (hm : m.wf = true) {s : State} (hw : s.bar2Waits m = false) (off : Nat) (v : Word) :
    exec (.codebookRegisterWrite m off v) s = .next (codebookRegisterWrite m off v s) := by
  have he : exec (.codebookRegisterWrite m off v) s = .next (if s.bar2Waits m then s else codebookRegisterWrite m off v s) := if_pos hm
  rw [he, hw]
  rfl

@[simp] theorem State.reachesCore_unlatch (s : State) (m m' : Master) (n : Nat) : (s.unlatch m').reachesCore m n = s.reachesCore m n := by
  cases m <;> rfl

theorem codebookRegisterWrite_reached {m : Master} {off : Nat} {a : RegAt} {s : State} (ha : regFind off = some a)
    (hr : a.reg = .convCb4 ∨ a.reg = .convCb8) (hc : s.reachesCore m a.b = true) (v : Word) :
    codebookRegisterWrite m off v s = (s.unlatch m).codebookWrite a v := by
  have hbook : (a.reg == .convCb4 || a.reg == .convCb8) = true := by simpa using hr
  simp [codebookRegisterWrite, ha, hbook, hc]

/-- A write that nothing holds takes effect: the register holds the codebook's word, and no other changes. -/
theorem State.codebookWrite_free {s : State} {a : RegAt} (h : ((s.core a.b).holdsCodebook a || s.blockHeld a.b) = false) (v : Word) :
    (s.codebookWrite a v).rd a.reg a.b a.i a.j = codebookWord a v ∧ (s.codebookWrite a v).cores = s.cores ∧
      ∀ y, y ≠ Reg.addr a.reg a.b a.i a.j → tabFind (s.codebookWrite a v).regs y = tabFind s.regs y := by
  rw [State.codebookWrite, if_neg (ne_true_of_eq_false h)]
  exact ⟨s.rd_wr_same .., rfl, fun y hy => tabFind_put_other _ _ hy⟩

/-- A held write joins the held ones of its core, last in order. -/
theorem State.codebookWrite_held {s : State} {a : RegAt} (h : ((s.core a.b).holdsCodebook a || s.blockHeld a.b) = true) (v : Word) :
    (s.codebookWrite a v).regs = s.regs ∧ ((s.codebookWrite a v).core a.b).cbHeld = (s.core a.b).cbHeld ++ [(a.addr, v)] ∧
      ∀ q, q ≠ a.b → (s.codebookWrite a v).core q = s.core q := by
  rw [State.codebookWrite, if_pos h]
  exact ⟨rfl, by rw [State.core_onCore_same], fun q hq => State.core_onCore_other _ _ hq⟩

/-- Settles O30: the write reaches `State.codebookWrite`, which a held codebook or block alone diverts. -/
theorem codebookWrites : Obligations.CodebookWrites := by
  intro m off v a s hm ha hr hc hw
  refine ⟨_, exec_codebookRegisterWrite hm hw off v, ?_⟩
  rw [codebookRegisterWrite_reached ha hr hc]
  exact ⟨fun h => State.codebookWrite_free (s := s.unlatch m) h v, fun h => State.codebookWrite_held (s := s.unlatch m) h v⟩

end Sys2Proof.Machine
end
section
namespace Sys2Proof.Machine
open Sys2Proof

/-! ## O32: requests of a partition to Helm -/

/-! ### What the clocks, the registers of cores and the events may touch -/

/-- Only registers and the state of power differ. -/
def State.byClocks (s t : State) : Prop := t = { s with regs := t.regs, power := t.power }

theorem State.byClocks.refl (s : State) : s.byClocks s := rfl

theorem State.byClocks.trans {s t u : State} (h : s.byClocks t) (k : t.byClocks u) : s.byClocks u := by
  unfold State.byClocks at *
  rw [h] at k
  exact k

theorem State.byClocks.reqTurn_eq {s t : State} (h : s.byClocks t) : t.reqTurn = s.reqTurn := by rw [h]
theorem State.byClocks.cores_eq {s t : State} (h : s.byClocks t) : t.cores = s.cores := by rw [h]
theorem State.byClocks.mem_eq {s t : State} (h : s.byClocks t) : t.mem = s.mem := by rw [h]
theorem State.byClocks.part_eq {s t : State} (h : s.byClocks t) (p : Nat) : t.part p = s.part p := by
  unfold State.byClocks at h
  rw [State.part, h]
  rfl

theorem State.wr_byClocks (s : State) (r : Reg) (b i j : Nat) (v : Word) : s.byClocks (s.wr r b i j v) := rfl
theorem State.setFld_byClocks (s : State) (r : Reg) (b i j hi lo v : Nat) : s.byClocks (s.setFld r b i j hi lo v) := rfl
theorem State.onPower_byClocks (s : State) (f : Power → Power) : s.byClocks (s.onPower f) := rfl

theorem State.aim_byClocks (s : State) (d : Nat) : s.byClocks (s.aim d) := by
  have hthree : s.byClocks (((s.setFld .clkCore 0 d 0 14 8 (s.dieTarget d)).setFld .clkCore 0 d 0 19 16 (s.holdCause d)).setFld .clkCore 0 d 0 21 21
      (b2n (s.linked && s.freq 0 == s.freq 1))) :=
    ((s.setFld_byClocks ..).trans (State.setFld_byClocks ..)).trans (State.setFld_byClocks ..)
  simp only [State.aim]
  split
  · exact .refl s
  · split
    · exact hthree.trans (State.setFld_byClocks ..)
    · split
      · exact hthree.trans (State.setFld_byClocks ..)
      · exact hthree

theorem State.beginStep_byClocks (s : State) (d : Nat) : s.byClocks (s.beginStep d) := by
  simp only [State.beginStep]
  split
  · exact .refl s
  · split
    · exact (s.setFld_byClocks ..).trans (State.onPower_byClocks ..)
    · split
      · exact (s.setFld_byClocks ..).trans (State.onPower_byClocks ..)
      · exact .refl s

/-- The dies take up their targets: clock registers and power alone (R469). -/
theorem State.retarget_byClocks (s : State) : s.byClocks s.retarget := by
  have haim : s.byClocks ((s.aim 0).aim 1) := (s.aim_byClocks 0).trans (State.aim_byClocks _ 1)
  simp only [State.retarget]
  split
  · exact haim
  · exact (haim.trans (State.beginStep_byClocks _ 0)).trans (State.beginStep_byClocks _ 1)

theorem State.unjoin_byClocks (s : State) (p : Nat) : s.byClocks (s.unjoin p) := by
  simp only [State.unjoin]
  split
  · exact (s.onPower_byClocks _).trans (State.retarget_byClocks _)
  · exact .refl s

/-- An event of partition p: the partition but for its queue of events and its messages, and every register but two, are as they were. -/
structure State.signalled (p : Nat) (s t : State) : Prop where
  events : s.byEvents t
  part : ∃ evq hold pend, t.part p = { s.part p with evq := evq, msixHold := hold, msixPend := pend }
  rd : ∀ r b i j, Reg.addr r b i j ≠ Reg.addr .helmIrqStatus 0 p 0 → Reg.addr r b i j ≠ Reg.addr .helmEvqStatus 0 p 0 →
    t.rd r b i j = s.rd r b i j

theorem State.signalled.trans {p : Nat} {s t u : State} (h : State.signalled p s t) (k : State.signalled p t u) : State.signalled p s u where
  events := h.events.trans k.events
  part := by
    obtain ⟨_, _, _, hp⟩ := h.part
    obtain ⟨evq, hold, pend, kp⟩ := k.part
    exact ⟨evq, hold, pend, by rw [kp, hp]⟩
  rd := fun r b i j h1 h2 => (k.rd r b i j h1 h2).trans (h.rd r b i j h1 h2)

theorem State.signalled.refl (p : Nat) (s : State) : State.signalled p s s := ⟨rfl, ⟨_, _, _, rfl⟩, fun _ _ _ _ _ _ => rfl⟩

theorem State.wr_irqStatus_signalled (s : State) (p : Nat) (v : Word) : State.signalled p s (s.wr .helmIrqStatus 0 p 0 v) :=
  ⟨rfl, ⟨_, _, _, rfl⟩, fun _ _ _ _ h _ => State.rd_wr_other _ _ _ _ _ _ _ _ _ _ h⟩

theorem State.wr_evqStatus_signalled (s : State) (p : Nat) (v : Word) : State.signalled p s (s.wr .helmEvqStatus 0 p 0 v) :=
  ⟨rfl, ⟨_, _, _, rfl⟩, fun _ _ _ _ _ h => State.rd_wr_other _ _ _ _ _ _ _ _ _ _ h⟩

theorem State.sendMsix_signalled (s : State) (p : Nat) (fn : Master) (v : Nat) : State.signalled p s (s.sendMsix fn v) where
  events := s.sendMsix_byEvents fn v
  part := ⟨_, _, _, s.sendMsix_part fn v p⟩
  rd := fun r b i j _ _ => by
    simp only [State.sendMsix]
    split <;> rfl

theorem State.setPart_signalled (s : State) (p : Nat) (evq : List Event) (hold pend : List Nat) :
    State.signalled p s (s.setPart p { s.part p with evq := evq, msixHold := hold, msixPend := pend }) :=
  ⟨rfl, ⟨_, _, _, s.part_setPart_same p _⟩, fun _ _ _ _ _ _ => rfl⟩

theorem State.requestVector_signalled (s : State) (p v : Nat) : State.signalled p s (s.requestVector p v) := by
  simp only [State.requestVector]
  split
  · exact s.setPart_signalled ..
  · split
    · exact s.sendMsix_signalled ..
    · exact (s.setPart_signalled ..).trans (State.sendMsix_signalled ..)

theorem State.setCause_signalled (s : State) (p cause : Nat) : State.signalled p s (s.setCause p cause) := by
  simp only [State.setCause]
  split
  · exact s.wr_irqStatus_signalled ..
  · exact (s.wr_irqStatus_signalled ..).trans (State.requestVector_signalled ..)

theorem State.raise_signalled (s : State) (p cause unit tag value : Nat) : State.signalled p s (s.raise p cause unit tag value) := by
  have hfull : State.signalled p s ((s.setCause p cause).countFld .helmEvqStatus 0 p 0 31 16 1) :=
    (s.setCause_signalled p cause).trans (State.wr_evqStatus_signalled ..)
  simp only [State.raise]
  split
  · split
    · exact hfull.trans (State.setCause_signalled ..)
    · exact hfull
  · exact (s.setPart_signalled ..).trans (State.setCause_signalled ..)

/-! ### How a request ends (R281, R285) -/

/-- A field keeps its bits when another is written. -/
theorem getBits_setBits_other (w : Word) {hi lo hi' lo' : Nat} (h : hi < lo' ∨ hi' < lo) (v : Nat) :
    getBits (setBits w hi lo v) hi' lo' = getBits w hi' lo' := by
  refine Nat.eq_of_testBit_eq (fun i => ?_)
  simp only [getBits, setBits, bits, Nat.testBit_mod_two_pow, Nat.testBit_shiftRight]
  by_cases hi' : i < hi' + 1 - lo'
  · have hout : ¬ (lo ≤ lo' + i ∧ lo' + i - lo < hi + 1 - lo) := by omega
    rw [← BitVec.getLsbD, ← BitVec.getLsbD, BitVec.getLsbD_or, BitVec.getLsbD_and, BitVec.getLsbD_not]
    simp only [BitVec.getLsbD_ofNat, fieldMask, Nat.testBit_shiftLeft, Nat.testBit_two_pow_sub_one, Nat.testBit_mod_two_pow]
    rcases Nat.lt_or_ge (lo' + i) 32 with h32 | h32
    · grind
    · simp [h32]
  · simp [hi']

/-- The status register of a request that has ended with a code and a result. -/
def endedStatus (w : Word) (code result : Nat) : Word := setBits (setBits (setBits (setBits w 31 31 0) 30 30 1) 15 8 code) 7 0 result

theorem endedStatus_fields (w : Word) {code result : Nat} (hc : code < 256) (hr : result < 256) :
    getBits (endedStatus w code result) 31 31 = 0 ∧ getBits (endedStatus w code result) 30 30 = 1 ∧
      getBits (endedStatus w code result) 15 8 = code ∧ getBits (endedStatus w code result) 7 0 = result := by
  simp only [endedStatus]
  refine ⟨?_, ?_, ?_, ?_⟩
  · rw [getBits_setBits_other _ (by omega), getBits_setBits_other _ (by omega), getBits_setBits_other _ (by omega), getBits_setBits _ (by omega)]
    rfl
  · rw [getBits_setBits_other _ (by omega), getBits_setBits_other _ (by omega), getBits_setBits _ (by omega)]
    rfl
  · rw [getBits_setBits_other _ (by omega), getBits_setBits _ (by omega)]
    exact Nat.mod_eq_of_lt hc
  · rw [getBits_setBits _ (by omega)]
    exact Nat.mod_eq_of_lt hr

/-- The registers in which Helm answers lie apart from those that an event writes. -/
theorem Reg.answer_addr {p k : Nat} (hp : p < 8) (hk : k < 4) :
    (Reg.addr .helmReqStatus 0 p 0 ≠ Reg.addr .helmIrqStatus 0 p 0 ∧ Reg.addr .helmReqStatus 0 p 0 ≠ Reg.addr .helmEvqStatus 0 p 0) ∧
      (Reg.addr .helmReqRes 0 p k ≠ Reg.addr .helmIrqStatus 0 p 0 ∧ Reg.addr .helmReqRes 0 p k ≠ Reg.addr .helmEvqStatus 0 p 0) ∧
      Reg.addr .helmReqRes 0 p k ≠ Reg.addr .helmReqStatus 0 p 0 := by
  simp only [Reg.addr, Reg.spec, Blk.base]
  omega

/-- What the end of a request leaves: the answer, and everything else of the cores, of memory and of the partition but for the event. -/
structure State.ended (p code result : Nat) (s t : State) : Prop where
  answered : s.reqTurn = (p + 1) % 8 → t.answered p code result
  cores : t.cores = s.cores
  mem : t.mem = s.mem
  part : ∃ evq hold pend, t.part p = { s.part p with request := none, evq := evq, msixHold := hold, msixPend := pend }

/-- The state of a request's end but for its interrupt. -/
def State.endQuiet (s : State) (p code result : Nat) (res : List Nat) : State :=
  let t := (s.unjoin p).onPart p (fun x => { x with request := none })
  let u := if result = 0 then (res.zipIdx).foldl (fun s r => s.wr .helmReqRes 0 p r.2 (w32 r.1)) t else t
  u.wr .helmReqStatus 0 p 0 (endedStatus (u.rd .helmReqStatus 0 p) code result)

theorem State.endRequest_eq (s : State) (p code : Nat) (irq : Bool) (result : Nat) (res : List Nat) :
    s.endRequest p code irq result res =
      if irq then (s.endQuiet p code result res).raise p 2 0 0 result else s.endQuiet p code result res := rfl

theorem State.endRequest_signalled (s : State) (p code : Nat) (irq : Bool) (result : Nat) (res : List Nat) :
    State.signalled p (s.endQuiet p code result res) (s.endRequest p code irq result res) := by
  rw [s.endRequest_eq]
  split
  · exact State.raise_signalled ..
  · exact .refl ..

theorem foldl_wr_byClocks (r : Reg) (p : Nat) (res : List (Nat × Nat)) (s : State) :
    s.byClocks (res.foldl (fun s x => s.wr r 0 p x.2 (w32 x.1)) s) := by
  induction res generalizing s with
  | nil => exact .refl s
  | cons x l ih => exact (s.wr_byClocks ..).trans (ih _)

theorem State.endQuiet_byClocks (s : State) (p code result : Nat) (res : List Nat) :
    ((s.unjoin p).onPart p (fun x => { x with request := none })).byClocks (s.endQuiet p code result res) := by
  simp only [State.endQuiet]
  split
  · exact (foldl_wr_byClocks ..).trans (State.wr_byClocks ..)
  · exact State.wr_byClocks ..

theorem State.endRequest_ended (s : State) {p code result : Nat} (hp : p < 8) (hc : code < 256) (hr : result < 256) (irq : Bool)
    (res : List Nat) : State.ended p code result s (s.endRequest p code irq result res) := by
  have hsig := s.endRequest_signalled p code irq result res
  have hquiet := s.endQuiet_byClocks p code result res
  have hunjoin := s.unjoin_byClocks p
  have hparts : (s.endQuiet p code result res).part p = { s.part p with request := none } := by
    rw [hquiet.part_eq, State.part_onPart_same, hunjoin.part_eq]
  have hstatus : ∃ w, (s.endRequest p code irq result res).rd .helmReqStatus 0 p 0 = endedStatus w code result := by
    obtain ⟨⟨h1, h2⟩, -⟩ := Reg.answer_addr (k := 0) hp (by omega)
    exact ⟨_, (hsig.rd _ _ _ _ h1 h2).trans (State.rd_wr_same ..)⟩
  have hpart : ∃ evq hold pend, (s.endRequest p code irq result res).part p =
      { s.part p with request := none, evq := evq, msixHold := hold, msixPend := pend } := by
    obtain ⟨evq, hold, pend, h⟩ := hsig.part
    exact ⟨evq, hold, pend, by rw [h, hparts]⟩
  refine ⟨fun hturn => ?_, ?_, ?_, hpart⟩
  · obtain ⟨w, hw⟩ := hstatus
    obtain ⟨_, _, _, h⟩ := hpart
    refine ⟨?_, by rw [h], ?_⟩
    · exact (congrArg State.reqTurn hsig.events).trans (hquiet.reqTurn_eq.trans (hunjoin.reqTurn_eq.trans hturn))
    · simp only [State.fld, hw]
      exact endedStatus_fields w hc hr
  · exact hsig.events.cores_eq.trans (hquiet.cores_eq.trans hunjoin.cores_eq)
  · exact hsig.events.mem_eq.trans (hquiet.mem_eq.trans hunjoin.mem_eq)

/-- Two results stand in their registers when the request has ended. -/
theorem State.endRequest_results (s : State) {p : Nat} (hp : p < 8) (code : Nat) (irq : Bool) (a b : Nat) :
    (s.endRequest p code irq 0 [a, b]).rd .helmReqRes 0 p 0 = w32 a ∧ (s.endRequest p code irq 0 [a, b]).rd .helmReqRes 0 p 1 = w32 b := by
  have hsig := s.endRequest_signalled p code irq 0 [a, b]
  have hne : Reg.addr .helmReqRes 0 p 0 ≠ Reg.addr .helmReqRes 0 p 1 := by simp [Reg.addr, Reg.spec]
  obtain ⟨-, ⟨h1, h2⟩, h3⟩ := Reg.answer_addr (k := 0) hp (by omega)
  obtain ⟨-, ⟨k1, k2⟩, k3⟩ := Reg.answer_addr (k := 1) hp (by omega)
  rw [hsig.rd _ _ _ _ h1 h2, hsig.rd _ _ _ _ k1 k2]
  simp only [State.endQuiet, if_true, List.zipIdx_cons, List.zipIdx_nil, List.foldl_cons, List.foldl_nil, State.rd_wr_other _ _ _ _ _ _ _ _ _ _ h3,
    State.rd_wr_other _ _ _ _ _ _ _ _ _ _ k3]
  exact ⟨(State.rd_wr_other _ _ _ _ _ _ _ _ _ _ hne).trans (State.rd_wr_same ..), State.rd_wr_same ..⟩

/-! ### How a request is served (R281) -/

/-! The request of an active partition whose turn it is comes to what its service answers: it ends with result 0, it ends with another
result and no effect, or it waits. -/

section
variable {s t : State} {p code r : Nat} {irq : Bool} {a res : List Nat} {f : State → List Nat → Served} (hs : s.partState p = 1)
  (hn : s.nextRequest = some p) (hr : (s.part p).request = some (code, irq, a))
include hs hn hr

theorem serve_ok (h : f (s.passTurn p) a = .ok t res) : serve p code f s = t.endRequest p code irq 0 res := by
  simp [serve, hn, hs, State.request?, hr, h]

theorem serve_no (h : f (s.passTurn p) a = .no r) : serve p code f s = (s.passTurn p).endRequest p code irq r [] := by
  simp [serve, hn, hs, State.request?, hr, h]

theorem serve_wait (h : f (s.passTurn p) a = .wait t) : serve p code f s = t := by
  simp [serve, hn, hs, State.request?, hr, h]

end

section
variable {p : Nat} (hp : p < 8) (s : State)
include hp

theorem exec_coreAlloc : exec (.coreAlloc p) s = .next (serve p 0x01 (servedAlloc p) s) := if_pos (decide_eq_true hp)
theorem exec_coreFree : exec (.coreFree p) s = .next (serve p 0x02 (servedFree p) s) := if_pos (decide_eq_true hp)
theorem exec_map : exec (.map p) s = .next (serve p 0x03 (servedMap p) s) := if_pos (decide_eq_true hp)
theorem exec_unmap : exec (.unmap p) s = .next (serve p 0x04 (servedUnmap p) s) := if_pos (decide_eq_true hp)
theorem exec_protect : exec (.protect p) s = .next (serve p 0x05 (servedProtect p) s) := if_pos (decide_eq_true hp)

end

end Sys2Proof.Machine
end
section
namespace Sys2Proof.Machine
open Sys2Proof

/-! ### CORE_ALLOC and CORE_FREE (R280, R284) -/

/-- Only registers and cores differ. -/
def State.byCores (s t : State) : Prop := t = { s with regs := t.regs, cores := t.cores }

theorem State.byCores.refl (s : State) : s.byCores s := rfl

theorem State.byCores.trans {s t u : State} (h : s.byCores t) (k : t.byCores u) : s.byCores u := by
  unfold State.byCores at *
  rw [h] at k
  exact k

theorem State.byCores.reqTurn_eq {s t : State} (h : s.byCores t) : t.reqTurn = s.reqTurn := by rw [h]
theorem State.byCores.part_eq {s t : State} (h : s.byCores t) (p : Nat) : t.part p = s.part p := by
  unfold State.byCores at h
  rw [State.part, h]
  rfl

theorem State.wr_byCores (s : State) (r : Reg) (b i j : Nat) (v : Word) : s.byCores (s.wr r b i j v) := rfl
theorem State.onCore_byCores (s : State) (n : Nat) (f : Core → Core) : s.byCores (s.onCore n f) := rfl

/-- Only registers differ. -/
def State.byRegs (s t : State) : Prop := t = { s with regs := t.regs }

theorem State.byRegs.refl (s : State) : s.byRegs s := rfl

theorem State.byRegs.trans {s t u : State} (h : s.byRegs t) (k : t.byRegs u) : s.byRegs u := by
  unfold State.byRegs at *
  rw [h] at k
  exact k

theorem State.byRegs.byCores {s t : State} (h : s.byRegs t) : s.byCores t := by
  unfold State.byRegs at h
  rw [h]
  rfl

theorem State.byRegs.cores_eq {s t : State} (h : s.byRegs t) : t.cores = s.cores := by rw [h]

theorem foldl_byRegs {α : Type} (l : List α) {f : State → α → State} (h : ∀ (s : State) x, s.byRegs (f s x)) (s : State) :
    s.byRegs (l.foldl f s) := by
  induction l generalizing s with
  | nil => exact .refl s
  | cons x l ih => exact (h s x).trans (ih _)

theorem State.loadRegs_byRegs (s : State) (a len : Nat) : s.byRegs (s.loadRegs a len) := by
  unfold State.loadRegs
  split
  · exact .refl s
  · refine foldl_byRegs _ (fun s x => ?_) s
    split
    · exact .refl s
    · split <;> rfl

theorem State.loadCodebooks_byRegs (s : State) (n : Nat) : s.byRegs (s.loadCodebooks n) := by
  unfold State.loadCodebooks
  split
  · exact .refl s
  · refine foldl_byRegs _ (fun s x => ?_) s
    split
    · split <;> rfl
    · rfl

theorem State.freshCoreRegs_byRegs (s : State) (n : Nat) : s.byRegs (s.freshCoreRegs n) :=
  State.byRegs.trans (t := { s with regs := s.regs.filter (fun x => (x.1 < coreBlockAt n || x.1 ≥ coreBlockAt n + 0x10000) &&
    (x.1 < perfBlockAt n || x.1 ≥ perfBlockAt n + 0x100)) }) rfl ((State.loadRegs_byRegs ..).trans (State.loadCodebooks_byRegs ..))

theorem State.clearCore_byCores (s : State) (n : Nat) : s.byCores (s.clearCore n) :=
  State.byCores.trans (t := s.setCore n Core.init) rfl (State.freshCoreRegs_byRegs _ n).byCores

theorem State.clearCore_cores (s : State) (n : Nat) : (s.clearCore n).cores = (s.setCore n Core.init).cores :=
  (State.freshCoreRegs_byRegs _ n).cores_eq

@[simp] theorem State.core_clearCore_same (s : State) (n : Nat) : (s.clearCore n).core n = Core.init := by
  rw [State.core, s.clearCore_cores]
  exact s.core_setCore_same n _

theorem State.core_clearCore_other (s : State) {n m : Nat} (h : m ≠ n) : (s.clearCore n).core m = s.core m := by
  rw [State.core, s.clearCore_cores]
  exact s.core_setCore_other _ h

/-- Cores that are cleared one after the other: those are at their initial state, others stay. -/
theorem core_foldl_clearCore (l : List Nat) (s : State) (n : Nat) :
    (l.foldl (fun s n => s.clearCore n) s).core n = if n ∈ l then Core.init else s.core n := by
  induction l generalizing s with
  | nil => simp
  | cons m l ih =>
    rw [List.foldl_cons, ih]
    by_cases h : n = m
    · subst h
      simp
    · simp [h, s.core_clearCore_other h]

theorem foldl_clearCore_byCores (l : List Nat) (s : State) : s.byCores (l.foldl (fun s n => s.clearCore n) s) := by
  induction l generalizing s with
  | nil => exact .refl s
  | cons n l ih => exact (s.clearCore_byCores n).trans (ih _)

/-- A core as a partition receives it: cleared, numbered by its place and seeded (R189, R280). -/
def Core.given (seed : DWord) (k : Nat) : Core := { Core.init with np := k, seeded := true, seed := seed }

/-- What giving a rectangle does to one of its cores, c.1 at place c.2. -/
def State.giveCore (r : Rect) (seed : DWord) (s : State) (c : Nat × Nat) : State :=
  let t := (s.clearCore c.1).onCore c.1 (fun k => ({ k with np := c.2 }).reseed seed)
  if r.const then t.wr .arrConst c.1 0 0 (constWord r (c.2 / r.w) (c.2 % r.w)) else t

/-- The seed that the plan of partition p sets (R189). -/
def Part.planSeed (x : Part) : DWord := match x.plan with
  | some y => y.seed
  | none => 0#64

theorem State.giveRect_eq (s : State) (p : Nat) (r : Rect) : s.giveRect p r =
    let t := r.cores.zipIdx.foldl (State.giveCore r (s.part p).planSeed) (s.onPart p (fun x => { x with rects := x.rects ++ [r] }))
    if r.spans then t.retarget else t := rfl

theorem State.giveCore_byCores (r : Rect) (seed : DWord) (s : State) (c : Nat × Nat) : s.byCores (s.giveCore r seed c) := by
  have h : s.byCores ((s.clearCore c.1).onCore c.1 (fun k => ({ k with np := c.2 }).reseed seed)) :=
    (s.clearCore_byCores c.1).trans (State.onCore_byCores ..)
  simp only [State.giveCore]
  split
  · exact h.trans (State.wr_byCores ..)
  · exact h

theorem State.giveCore_cores (r : Rect) (seed : DWord) (s : State) (c : Nat × Nat) : (s.giveCore r seed c).cores =
    ((s.clearCore c.1).onCore c.1 (fun k => ({ k with np := c.2 }).reseed seed)).cores := by
  simp only [State.giveCore]
  split <;> rfl

theorem State.core_giveCore_same (r : Rect) (seed : DWord) (s : State) (c : Nat × Nat) :
    (s.giveCore r seed c).core c.1 = Core.given seed c.2 := by
  rw [State.core, s.giveCore_cores]
  refine (State.core_onCore_same ..).trans ?_
  rw [State.core_clearCore_same]
  rfl

theorem State.core_giveCore_other (r : Rect) (seed : DWord) (s : State) {c : Nat × Nat} {n : Nat} (h : n ≠ c.1) :
    (s.giveCore r seed c).core n = s.core n := by
  rw [State.core, s.giveCore_cores]
  exact (State.core_onCore_other _ _ h).trans (s.core_clearCore_other h)

section
variable (r : Rect) (seed : DWord)

theorem foldl_giveCore_byCores (l : List (Nat × Nat)) (s : State) : s.byCores (l.foldl (State.giveCore r seed) s) := by
  induction l generalizing s with
  | nil => exact .refl s
  | cons c l ih => exact (s.giveCore_byCores r seed c).trans (ih _)

theorem core_foldl_giveCore_other (l : List (Nat × Nat)) (s : State) {n : Nat} (h : n ∉ l.map Prod.fst) :
    (l.foldl (State.giveCore r seed) s).core n = s.core n := by
  induction l generalizing s with
  | nil => rfl
  | cons c l ih =>
    obtain ⟨hc, hl⟩ := not_or.1 (fun hn => h (List.mem_cons.2 hn))
    rw [List.foldl_cons, ih _ hl, s.core_giveCore_other r seed hc]

theorem core_foldl_giveCore (l : List (Nat × Nat)) (s : State) (hl : (l.map Prod.fst).Nodup) {c : Nat × Nat} (hc : c ∈ l) :
    (l.foldl (State.giveCore r seed) s).core c.1 = Core.given seed c.2 := by
  induction l generalizing s with
  | nil => cases hc
  | cons d l ih =>
    obtain ⟨hd, hl⟩ := List.nodup_cons.1 hl
    rw [List.foldl_cons]
    rcases List.mem_cons.1 hc with rfl | hc
    · rw [core_foldl_giveCore_other r seed l _ hd, s.core_giveCore_same]
    · exact ih _ hl hc

end

/-- The cores of a rectangle within the grid's 16 columns differ (R2). -/
theorem Rect.cores_nodup (r : Rect) (hw : r.w ≤ 16) : r.cores.Nodup := by
  refine List.nodup_flatMap.2 ⟨fun i _ => ?_, ?_⟩
  · exact List.Nodup.map (fun a b h => by omega) List.nodup_range
  · refine List.Pairwise.imp (R := fun a b => a ≠ b) (fun {a b} hab => ?_) List.nodup_range
    simp only [Function.onFun, List.disjoint_left, List.mem_map, List.mem_range]
    rintro n ⟨j, hj, rfl⟩ ⟨j', hj', h⟩
    omega

/-- What the clocks do after a change of rectangles touches neither cores nor partitions. -/
theorem State.retarget_if_byClocks (s : State) (b : Bool) : s.byClocks (if b then s.retarget else s) := by
  cases b
  · exact .refl s
  · exact s.retarget_byClocks

/-- What is so of a state that gives a rectangle to partition p. -/
structure State.gave (p : Nat) (r : Rect) (s t : State) : Prop where
  reqTurn : t.reqTurn = s.reqTurn
  part : t.part p = { s.part p with rects := (s.part p).rects ++ [r] }
  inside : ∀ n k, r.cores[k]? = some n → t.core n = Core.given (s.part p).planSeed k
  outside : ∀ n, n ∉ r.cores → t.core n = s.core n

theorem State.byClocks.core_eq {s t : State} (h : s.byClocks t) (n : Nat) : t.core n = s.core n := by
  rw [State.core, h.cores_eq]
  rfl

theorem State.giveRect_gave (s : State) (p : Nat) {r : Rect} (hw : r.w ≤ 16) : State.gave p r s (s.giveRect p r) := by
  have hfst : r.cores.zipIdx.map Prod.fst = r.cores := List.zipIdx_map_fst ..
  have hcores := foldl_giveCore_byCores r (s.part p).planSeed r.cores.zipIdx (s.onPart p (fun x => { x with rects := x.rects ++ [r] }))
  rw [s.giveRect_eq]
  have hclock := State.retarget_if_byClocks
    (r.cores.zipIdx.foldl (State.giveCore r (s.part p).planSeed) (s.onPart p (fun x => { x with rects := x.rects ++ [r] }))) r.spans
  refine ⟨hclock.reqTurn_eq.trans hcores.reqTurn_eq, ?_, fun n k hk => ?_, fun n hn => ?_⟩
  · exact (hclock.part_eq p).trans ((hcores.part_eq p).trans (s.part_onPart_same ..))
  · refine (hclock.core_eq n).trans (core_foldl_giveCore r _ _ _ (by rw [hfst]; exact r.cores_nodup hw) (c := (n, k)) ?_)
    exact List.mem_zipIdx_iff_getElem?.2 hk
  · exact (hclock.core_eq n).trans (core_foldl_giveCore_other r _ _ _ (by rw [hfst]; exact hn))

/-- What is so of a state that takes a rectangle back from partition p. -/
structure State.took (p : Nat) (r : Rect) (s t : State) : Prop where
  reqTurn : t.reqTurn = s.reqTurn
  part : t.part p = { s.part p with rects := (s.part p).rects.filter (fun y => y != r) }
  core : ∀ n, t.core n = if n ∈ r.cores then Core.init else s.core n

theorem State.takeRect_took (s : State) (p : Nat) (r : Rect) : State.took p r s (s.takeRect p r) := by
  have hcores := foldl_clearCore_byCores r.cores (s.onPart p (fun x => { x with rects := x.rects.filter (fun y => y != r) }))
  have hclock := State.retarget_if_byClocks
    (r.cores.foldl (fun s n => s.clearCore n) (s.onPart p (fun x => { x with rects := x.rects.filter (fun y => y != r) }))) r.spans
  exact ⟨hclock.reqTurn_eq.trans hcores.reqTurn_eq, (hclock.part_eq p).trans ((hcores.part_eq p).trans (s.part_onPart_same ..)),
    fun n => (hclock.core_eq n).trans (core_foldl_clearCore r.cores _ n)⟩

/-! What CORE_ALLOC comes to, once its checks have passed. -/

/-- The operands of a CORE_ALLOC that passes the checks of its operands (R284). -/
structure State.allocChecked (s : State) (p : Nat) (a : List Nat) : Prop where
  w1 : 1 ≤ bits (arg a 0) 4 0
  w16 : bits (arg a 0) 4 0 ≤ 16
  h1 : 1 ≤ bits (arg a 0) 12 8
  rows : bits (arg a 0) 12 8 ≤ s.grade.rows
  rsv5 : bits (arg a 0) 7 5 = 0
  rsv13 : bits (arg a 0) 15 13 = 0
  rsv18 : bits (arg a 0) 31 16 < 4
  quota : (s.part p).cores.length + bits (arg a 0) 4 0 * bits (arg a 0) 12 8 ≤ s.quota p PlanPart.cores

/-- The place that a CORE_ALLOC takes: the one that it names, if it is free, or else the lowest free one (R284). -/
def State.allocPlace (s : State) (a : List Nat) (o : Nat) : Prop :=
  if bit (arg a 0) 16 then s.rectFree o (bits (arg a 0) 4 0) (bits (arg a 0) 12 8) = true ∧ o = bits (arg a 1) 7 0
  else (List.range s.nCores).find? (fun i => s.rectFree i (bits (arg a 0) 4 0) (bits (arg a 0) 12 8)) = some o

/-- The rectangle that a CORE_ALLOC asks for, with its handle and place. -/
def allocRect (a : List Nat) (id o : Nat) : Rect := ⟨id, bits (arg a 0) 4 0, bits (arg a 0) 12 8, o, bit (arg a 0) 17⟩

theorem Grade.rows_le (g : Grade) : g.rows ≤ 12 := by cases g <;> decide

theorem servedAlloc_place {s : State} {p o id : Nat} {a : List Nat} (hc : s.allocChecked p a) (ho : s.allocPlace a o)
    (hid : (List.range 256).find? (fun i => !s.handleUsed i) = some id) : servedAlloc p s a =
      if (allocRect a id o).spans && !s.clocksEqual then .wait (s.joinDies p) else .ok (s.giveRect p (allocRect a id o)) [id, o] := by
  obtain ⟨hw1, hw16, hh1, hrows, h5, h13, h18, hq⟩ := hc
  have h12 := s.grade.rows_le
  have h18' : bits (arg a 0) 31 18 = 0 := by
    have h : bits (arg a 0) 31 16 = (arg a 0 >>> 16) % 2 ^ 16 := rfl
    simp only [bits, Nat.shiftRight_eq_div_pow] at *
    omega
  have hplace : (if bit (arg a 0) 16 then (if s.rectFree (bits (arg a 1) 7 0) (bits (arg a 0) 4 0) (bits (arg a 0) 12 8) then
      some (bits (arg a 1) 7 0) else none) else
      (List.range s.nCores).find? (fun i => s.rectFree i (bits (arg a 0) 4 0) (bits (arg a 0) 12 8))) = some o := by
    unfold State.allocPlace at ho
    split at ho
    · obtain ⟨hfree, rfl⟩ := ho
      rw [if_pos ‹_›, if_pos hfree]
    · rw [if_neg ‹_›, ho]
  have hfits : bit (arg a 0) 16 = true → rectFits s.grade (bits (arg a 1) 7 0) (bits (arg a 0) 4 0) (bits (arg a 0) 12 8) = true := by
    intro hf
    rw [State.allocPlace, if_pos hf] at ho
    obtain ⟨hfree, rfl⟩ := ho
    exact ((Bool.and_eq_true _ _).mp hfree).1
  have hlegal : (bits (arg a 0) 4 0 < 1 || bits (arg a 0) 4 0 > 16 || bits (arg a 0) 12 8 < 1 || bits (arg a 0) 12 8 > 12 ||
      bits (arg a 0) 7 5 != 0 || bits (arg a 0) 15 13 != 0 || bits (arg a 0) 31 18 != 0 ||
      (bit (arg a 0) 16 && !rectFits s.grade (bits (arg a 1) 7 0) (bits (arg a 0) 4 0) (bits (arg a 0) 12 8)) ||
      (!bit (arg a 0) 16 && decide (bits (arg a 0) 12 8 > s.grade.rows))) = false := by
    rw [h5, h13, h18', decide_eq_false (show ¬ bits (arg a 0) 4 0 < 1 by omega), decide_eq_false (show ¬ bits (arg a 0) 4 0 > 16 by omega),
      decide_eq_false (show ¬ bits (arg a 0) 12 8 < 1 by omega), decide_eq_false (show ¬ bits (arg a 0) 12 8 > 12 by omega),
      decide_eq_false (show ¬ bits (arg a 0) 12 8 > s.grade.rows by omega)]
    cases hf : bit (arg a 0) 16
    · rfl
    · rw [hfits hf]
      rfl
  simp only [servedAlloc, hlegal, Bool.false_eq_true, if_false, if_neg (Nat.not_lt.2 hq), hplace, hid]
  rfl

end Sys2Proof.Machine
end
section
namespace Sys2Proof.Machine
open Sys2Proof

/-! ### Memory that reads zero (R265, R286) -/

/-- No buffer entry stands for the line of address a, and the byte stored there is 0. -/
def Mem.zeroAt (m : Mem) (a : Nat) : Prop := m.entry? (a / 64) = none ∧ tabGet m.bytes a 0#8 = 0#8

theorem State.byteAt_of_zeroAt {s : State} {a : Nat} (h : s.mem.zeroAt a) : s.byteAt a = [0#8] := by
  obtain ⟨he, hb⟩ := h
  have hl : linesOf a 1 = [a / 64] := by simp [linesOf]
  simp only [State.byteAt, Mem.settle, hl, List.foldl_cons, List.foldl_nil, Mem.forceOut_of_none he, Mem.look, cellsRead, hb]

theorem tabFind_cellsZero (b : List Host.Cell) (pa len a : Nat) :
    tabFind (cellsZero b pa len) a = if pa ≤ a ∧ a < pa + len then none else tabFind b a := by
  induction b with
  | nil => simp [cellsZero, tabFind]
  | cons c t ih =>
    obtain ⟨k, v⟩ := c
    by_cases hk : k = a
    · subst hk
      by_cases hin : pa ≤ k ∧ k < pa + len
      · have hout : ¬ (k < pa ∨ pa + len ≤ k) := by omega
        simpa [cellsZero, hout, hin] using ih
      · have hout : k < pa ∨ pa + len ≤ k := by omega
        simp [cellsZero, hout, hin, tabFind]
    · by_cases hout : k < pa ∨ pa + len ≤ k
      · simpa [cellsZero, hout, tabFind, hk] using ih
      · simpa [cellsZero, hout, tabFind, hk] using ih

theorem Mem.entry?_fill_of_none {m : Mem} {line : Nat} (h : m.entry? line = none) (pa len : Nat) : (m.fill pa len).entry? line = none :=
  List.find?_eq_none.2 (fun e he => List.find?_eq_none.1 h e (List.mem_filter.1 he).1)

/-- What is filled from the start of a line on reads zero. -/
theorem Mem.zeroAt_fill (m : Mem) {pa len a : Nat} (hpa : pa % 64 = 0) (h1 : pa ≤ a) (h2 : a < pa + len) : (m.fill pa len).zeroAt a := by
  refine ⟨List.find?_eq_none.2 (fun e he hl => ?_), ?_⟩
  · have hout := (List.mem_filter.1 he).2
    have hline : e.line = a / 64 := by simpa using hl
    simp only [hline, ge_iff_le, Bool.or_eq_true, decide_eq_true_eq] at hout
    omega
  · have hnone : tabFind (m.fill pa len).bytes a = none := (tabFind_cellsZero m.bytes pa len a).trans (if_pos ⟨h1, h2⟩)
    rw [tabGet, hnone]
    rfl

/-- A fill leaves what reads zero at zero. -/
theorem Mem.zeroAt.fill {m : Mem} {a : Nat} (h : m.zeroAt a) (pa len : Nat) : (m.fill pa len).zeroAt a := by
  obtain ⟨he, hb⟩ := h
  refine ⟨Mem.entry?_fill_of_none he pa len, ?_⟩
  have hfind : tabFind (m.fill pa len).bytes a = if pa ≤ a ∧ a < pa + len then none else tabFind m.bytes a := tabFind_cellsZero m.bytes pa len a
  rw [tabGet, hfind]
  split
  · rfl
  · exact hb

/-! ### The bytes of a partition's pages (R286) -/

theorem insertOn_perm {α : Type} (key : α → Nat) (x : α) (l : List α) : (insertOn key x l).Perm (x :: l) := by
  induction l with
  | nil => exact .refl _
  | cons a t ih =>
    simp only [insertOn]
    split
    · exact .refl _
    · exact (ih.cons a).trans (.swap x a t)

theorem mem_insertOn {α : Type} {key : α → Nat} {x y : α} {l : List α} : y ∈ insertOn key x l ↔ y = x ∨ y ∈ l :=
  (insertOn_perm key x l).mem_iff.trans List.mem_cons

theorem nodup_eraseDups (l : List Nat) : l.eraseDups.Nodup := by
  induction hn : l.length using Nat.strongRecOn generalizing l with
  | ind n ih =>
    cases l with
    | nil => simp
    | cons a t =>
      rw [List.eraseDups_cons, List.nodup_cons]
      refine ⟨by simp, ih _ ?_ _ rfl⟩
      have := List.length_filter_le (fun b => !b == a) t
      simp only [List.length_cons] at hn
      omega

theorem Part.mem_smallFrames {x : Part} {n : Nat} :
    n ∈ x.smallFrames ↔ ∃ g ∈ x.pages, g.small = true ∧ ∃ f, g.frame = some f ∧ f / frameSize = n := by
  simp only [Part.smallFrames, List.mem_eraseDups, List.mem_filterMap, List.mem_filter, Option.map_eq_some_iff, and_assoc]

theorem Part.smallFrames_length_le {x : Part} {l : List Nat} (h : ∀ n ∈ x.smallFrames, n ∈ l) : x.smallFrames.length ≤ l.length :=
  ((nodup_eraseDups _).subperm h).length_le

/-- One more page in a frame counts for at most a frame (R286). -/
theorem Part.mappedBytes_add {x y : Part} {g : Page} {f : Nat} (hg : g.frame = some f) (hy : y.pages.Perm (g :: x.pages)) :
    y.mappedBytes ≤ x.mappedBytes + frameSize := by
  have hlarge := (hy.filter (fun g => !g.small)).length_eq
  have haway := (hy.filter (fun g => g.small && g.frame.isNone)).length_eq
  simp only [List.filter_cons, hg, Option.isNone_some, Bool.and_false, Bool.false_eq_true, if_false] at haway
  have hframes : ∀ n ∈ y.smallFrames, n ∈ x.smallFrames ∨ (g.small = true ∧ n = f / frameSize) := by
    intro n hn
    obtain ⟨h, hh, hsmall, f', hf', rfl⟩ := Part.mem_smallFrames.1 hn
    rcases List.mem_cons.1 (hy.mem_iff.1 hh) with rfl | hh
    · rw [hg] at hf'
      cases hf'
      exact .inr ⟨hsmall, rfl⟩
    · exact .inl (Part.mem_smallFrames.2 ⟨h, hh, hsmall, f', hf', rfl⟩)
  simp only [Part.mappedBytes, frameSize, haway]
  cases hs : g.small
  · have hle : y.smallFrames.length ≤ x.smallFrames.length :=
      Part.smallFrames_length_le (fun n hn => (hframes n hn).resolve_right (fun h => by simp [hs] at h))
    simp only [List.filter_cons, hs, Bool.not_false, if_true, List.length_cons] at hlarge
    omega
  · have hle : y.smallFrames.length ≤ (f / frameSize :: x.smallFrames).length :=
      Part.smallFrames_length_le (fun n hn => List.mem_cons.2 ((hframes n hn).symm.imp_left (·.2)))
    simp only [List.filter_cons, hs, Bool.not_true, Bool.false_eq_true, if_false] at hlarge
    rw [List.length_cons] at hle
    omega

/-! ### Placing pages (R286, R287) -/

/-- A page of a MAP with attributes `at_`, in frame f: its attributes, and memory that reads zero. -/
def Page.fresh (at_ : Nat) (m : Mem) (g : Page) : Prop :=
  g.w = bit at_ 0 ∧ g.h = bit at_ 1 ∧ ∃ f, g.frame = some f ∧ ∀ a, f ≤ a → a < f + g.size → m.zeroAt a

/-- What is so of a state that has placed n pages of partition p over [va, va + len), with free frames for all of them. -/
structure State.placed (p va len n at_ : Nat) (s t : State) : Prop where
  cores : t.cores = s.cores
  reqTurn : t.reqTurn = s.reqTurn
  free : (s.part p).freeFrames.length ≤ (t.part p).freeFrames.length + n
  bytes : (t.part p).mappedBytes ≤ (s.part p).mappedBytes + frameSize * n
  zero : ∀ a, s.mem.zeroAt a → t.mem.zeroAt a
  kept : ∀ g ∈ (s.part p).pages, g ∈ (t.part p).pages
  fresh : ∀ g ∈ (t.part p).pages, g ∈ (s.part p).pages ∨ g.fresh at_ t.mem
  cover : ∀ b, va ≤ b → b < va + len → ∃ g ∈ (t.part p).pages, g.va ≤ b ∧ b < g.va + g.size

theorem State.placed.refl (p va at_ : Nat) (s : State) : State.placed p va 0 0 at_ s s where
  cores := rfl
  reqTurn := rfl
  free := Nat.le_refl _
  bytes := Nat.le_refl _
  zero := fun _ h => h
  kept := fun _ h => h
  fresh := fun _ h => .inl h
  cover := fun b h1 h2 => by omega

theorem Page.fresh.mono {at_ : Nat} {m k : Mem} {g : Page} (h : g.fresh at_ m) (hz : ∀ a, m.zeroAt a → k.zeroAt a) : g.fresh at_ k := by
  obtain ⟨hw, hh, f, hf, hzero⟩ := h
  exact ⟨hw, hh, f, hf, fun a h1 h2 => hz a (hzero a h1 h2)⟩

theorem State.placed.trans {p va len len' n n' at_ : Nat} {s t u : State} (h : State.placed p va len n at_ s t)
    (k : State.placed p (va + len) len' n' at_ t u) : State.placed p va (len + len') (n + n') at_ s u where
  cores := k.cores.trans h.cores
  reqTurn := k.reqTurn.trans h.reqTurn
  free := by
    have h1 := h.free
    have h2 := k.free
    omega
  bytes := by
    have h1 := h.bytes
    have h2 := k.bytes
    rw [Nat.mul_add]
    omega
  zero := fun a ha => k.zero a (h.zero a ha)
  kept := fun g hg => k.kept g (h.kept g hg)
  fresh := fun g hg => by
    rcases k.fresh g hg with hg | hg
    · exact (h.fresh g hg).imp_right (fun hf => hf.mono k.zero)
    · exact .inr hg
  cover := fun b h1 h2 => by
    by_cases hb : b < va + len
    · obtain ⟨g, hg, hin⟩ := h.cover b h1 hb
      exact ⟨g, k.kept g hg, hin⟩
    · exact k.cover b (by omega) (by omega)

/-- The size of a page. -/
def pageSize (small : Bool) : Nat := if small then 0x10000 else frameSize

/-- The page that MAP puts at va in frame f. -/
def newPage (va : Nat) (small : Bool) (at_ f : Nat) : Page := ⟨va, small, bit at_ 0, bit at_ 1, bit at_ 2, some f, 0, 0, none⟩

/-- Partition p with one new page of a frame, its memory zeroed, and x.freeFrames the frames that stay free. -/
def State.putPage (s : State) (p : Nat) (g : Page) (f : Nat) (free : List Nat) : State :=
  (s.setPart p { s.part p with pages := insertOn Page.va g (s.part p).pages, freeFrames := free }).memDo (whoHelm p) (fun m => m.fill f g.size)

theorem State.memDo_reqTurn (s : State) (w : Who) (f : Mem → Mem) : (s.memDo w f).reqTurn = s.reqTurn := by
  rw [(s.memDo_same w f).1]

theorem State.putPage_part (s : State) (p : Nat) (g : Page) (f : Nat) (free : List Nat) : (s.putPage p g f free).part p =
    { s.part p with pages := insertOn Page.va g (s.part p).pages, freeFrames := free } := by
  rw [State.part, State.putPage, State.memDo_parts]
  exact s.part_setPart_same p _

theorem State.putPage_placed (s : State) {p va at_ f : Nat} {small : Bool} {free : List Nat} (hf : f % 64 = 0)
    (hfree : (s.part p).freeFrames.length ≤ free.length + 1) :
    State.placed p va (pageSize small) 1 at_ s (s.putPage p (newPage va small at_ f) f free) := by
  have hpart := s.putPage_part p (newPage va small at_ f) f free
  have hmem : (s.putPage p (newPage va small at_ f) f free).mem = s.mem.fill f (pageSize small) := State.memDo_mem ..
  refine ⟨State.memDo_cores .., State.memDo_reqTurn .., ?_, ?_, fun a ha => ?_, fun g hg => ?_, fun g hg => ?_, fun b h1 h2 => ?_⟩
  · rw [hpart]
    exact hfree
  · rw [hpart, Nat.mul_one]
    exact Part.mappedBytes_add (g := newPage va small at_ f) (f := f) rfl (insertOn_perm ..)
  · rw [hmem]
    exact ha.fill ..
  · rw [hpart]
    exact mem_insertOn.2 (.inr hg)
  · rw [hpart] at hg
    rcases mem_insertOn.1 hg with rfl | hg
    · refine .inr ⟨rfl, rfl, f, rfl, fun a h1 h2 => ?_⟩
      rw [hmem]
      exact Mem.zeroAt_fill _ hf h1 h2
    · exact .inl hg
  · refine ⟨newPage va small at_ f, ?_, h1, h2⟩
    rw [hpart]
    exact mem_insertOn.2 (.inl rfl)

theorem Part.smallRoom_aligned {x : Part} {a : Nat} (h : x.smallRoom = some a) : a % 64 = 0 := by
  obtain ⟨f, -, hfind⟩ := List.exists_of_findSome?_eq_some h
  obtain ⟨i, -, rfl⟩ := List.mem_map.1 (List.mem_of_find?_eq_some hfind)
  simp only [frameSize]
  omega

/-- With a free frame a page is placed: in a frame of small pages that has room, or in the first free frame. -/
theorem State.placePage_placed {s : State} {p : Nat} (hfree : 0 < (s.part p).freeFrames.length) (va : Nat) (small : Bool) (at_ : Nat) :
    ∃ t, s.placePage p va small at_ = some t ∧ State.placed p va (pageSize small) 1 at_ s t := by
  obtain ⟨f, l, hl⟩ := List.exists_cons_of_length_pos hfree
  cases hroom : (if small then (s.part p).smallRoom else none) with
  | some a =>
    have ha : a % 64 = 0 := by
      cases small
      · cases hroom
      · exact Part.smallRoom_aligned hroom
    refine ⟨s.putPage p (newPage va small at_ a) a (s.part p).freeFrames, ?_, s.putPage_placed ha (Nat.le_succ _)⟩
    simp only [State.placePage, hroom]
    rfl
  | none =>
    refine ⟨s.putPage p (newPage va small at_ (f * frameSize)) (f * frameSize) l, ?_, s.putPage_placed ?_ ?_⟩
    · simp only [State.placePage, hroom, hl]
      rfl
    · simp only [frameSize]
      omega
    · rw [hl, List.length_cons]

theorem State.placePages_placed (p : Nat) (small : Bool) (at_ n : Nat) :
    ∀ {s : State} (va : Nat), n ≤ (s.part p).freeFrames.length →
      ∃ t, s.placePages p va small at_ n = some t ∧ State.placed p va (n * pageSize small) n at_ s t := by
  induction n with
  | zero => exact fun {s} va _ => ⟨s, rfl, by rw [Nat.zero_mul]; exact .refl p va at_ s⟩
  | succ n ih =>
    intro s va hn
    obtain ⟨t, ht, hst⟩ := State.placePage_placed (s := s) (p := p) (by omega) va small at_
    obtain ⟨u, hu, htu⟩ := ih (s := t) (va + pageSize small) (by have := hst.free; omega)
    refine ⟨u, ?_, ?_⟩
    · simp only [State.placePages, ht]
      exact hu
    · rw [Nat.succ_mul, Nat.add_comm (n * pageSize small), Nat.add_comm n 1]
      exact hst.trans htu

/-! ### MAP (R287) -/

theorem pageRange_length {a : List Nat} {va len : Nat} {small : Bool} (h : pageRange a = some (va, len, small)) :
    len = arg a 2 * pageSize small := by
  simp only [pageRange, Option.ite_none_left_eq_some, Option.some.injEq, Prod.mk.injEq] at h
  obtain ⟨-, -, rfl, rfl⟩ := h
  rfl

/-- The address range of a MAP meets no page of the partition. -/
def Part.unmappedOn (x : Part) (va len : Nat) : Prop :=
  x.pages.all (fun g => !(decide (g.va < va + len) && decide (va < g.va + g.size))) = true

theorem Part.unmappedOn.any {x : Part} {va len : Nat} (h : x.unmappedOn va len) :
    x.pages.any (fun g => decide (g.va < va + len) && decide (va < g.va + g.size)) = false := by
  rw [List.any_eq_false]
  intro g hg hin
  simpa [hin] using List.all_eq_true.1 h g hg

/-! The equation of `servedMap` at its arguments would have the kernel evaluate `pageRange`; the proofs below open `servedMap`, `servedUnmap`
and `servedProtect` as functions, and put in what the range is before anything is evaluated. -/

/-- MAP of an unmapped range with frames and quota for it places its pages. -/
theorem servedMap_ok {s : State} {p va len : Nat} {small : Bool} {a : List Nat} (hr : pageRange a = some (va, len, small))
    (hu : (s.part p).unmappedOn va len) (hfree : arg a 2 ≤ (s.part p).freeFrames.length)
    (hq : (s.part p).mappedBytes + frameSize * arg a 2 ≤ s.quota p PlanPart.mapped) :
    ∃ t, servedMap p s a = .ok t [] ∧ State.placed p va len (arg a 2) (arg a 3) s t := by
  have hlen := pageRange_length hr
  obtain ⟨t, ht, hst⟩ := State.placePages_placed p small (arg a 3) (arg a 2) va hfree
  rw [← hlen] at hst
  refine ⟨t, ?_, hst⟩
  have hle : ¬ (t.part p).mappedBytes > s.quota p PlanPart.mapped := by
    have := hst.bytes
    omega
  conv_lhs => fun; fun; fun; delta servedMap
  simp only [hr]
  rw [if_neg (ne_true_of_eq_false hu.any), ht]
  exact if_neg hle

/-- Each address of a range that a MAP has placed translates to memory that reads zero, with the attributes asked for. -/
theorem State.placed.xlate {p va len n at_ : Nat} {s t u : State} (h : State.placed p va len n at_ s t) (hu : (s.part p).unmappedOn va len)
    (hmem : u.mem = t.mem) (hpages : (u.part p).pages = (t.part p).pages) {b : Nat} (h1 : va ≤ b) (h2 : b < va + len) :
    ∃ pa, (u.part p).xlate b false = .here pa (bit at_ 1) ∧ u.byteAt pa = [0#8] ∧ ((u.part p).xlate b true ≠ .fault ↔ bit at_ 0 = true) := by
  have hsome : ((u.part p).page? b).isSome := by
    obtain ⟨g, hg, hin⟩ := h.cover b h1 h2
    exact List.find?_isSome.2 ⟨g, hpages ▸ hg, by simpa using hin⟩
  obtain ⟨g, hg⟩ := Option.isSome_iff_exists.1 hsome
  obtain ⟨hlo, hhi⟩ := Part.page?_bounds hg
  have hfresh : g.fresh at_ t.mem := by
    refine (h.fresh g (hpages ▸ List.mem_of_find?_eq_some hg)).resolve_left (fun hold => ?_)
    have := List.all_eq_true.1 hu g hold
    simp only [Bool.not_eq_true', Bool.and_eq_false_iff, decide_eq_false_iff_not] at this
    omega
  obtain ⟨hw, hh, f, hf, hzero⟩ := hfresh
  refine ⟨g.phys f b, ?_, ?_, ?_⟩
  · rw [← hh]
    exact Part.xlate_here hg hf (fun h => by cases h)
  · refine State.byteAt_of_zeroAt (hmem ▸ hzero _ ?_ ?_)
    · exact Nat.le_add_right ..
    · simp only [Page.phys]
      omega
  · rw [← hw]
    cases hgw : g.w
    · simp [Part.xlate, hg, hgw]
    · simp [Part.xlate_here hg hf (fun _ => hgw)]

/-! ### UNMAP and PROTECT (R288) -/

theorem State.dropPage_pages (s : State) (p : Nat) (g : Page) :
    ((s.dropPage p g).part p).pages = (s.part p).pages.filter (fun h => h.va != g.va) := by
  simp only [State.dropPage]
  split
  · rw [State.part_setPart_same]
  · rw [State.part_setPart_same]
    split <;> rfl

theorem State.dropPage_rest (s : State) (p : Nat) (g : Page) : (s.dropPage p g).cores = s.cores ∧ (s.dropPage p g).reqTurn = s.reqTurn := by
  simp only [State.dropPage]
  split <;> exact ⟨rfl, rfl⟩

theorem foldl_dropPage_rest (p : Nat) (gs : List Page) (s : State) :
    (gs.foldl (fun s g => s.dropPage p g) s).cores = s.cores ∧ (gs.foldl (fun s g => s.dropPage p g) s).reqTurn = s.reqTurn := by
  induction gs generalizing s with
  | nil => exact ⟨rfl, rfl⟩
  | cons g gs ih =>
    obtain ⟨hc, hr⟩ := s.dropPage_rest p g
    obtain ⟨ihc, ihr⟩ := ih (s.dropPage p g)
    exact ⟨ihc.trans hc, ihr.trans hr⟩

theorem mem_foldl_dropPage (p : Nat) (gs : List Page) (s : State) (h : Page) :
    h ∈ ((gs.foldl (fun s g => s.dropPage p g) s).part p).pages ↔ h ∈ (s.part p).pages ∧ ∀ g ∈ gs, h.va ≠ g.va := by
  induction gs generalizing s with
  | nil => simp
  | cons g gs ih => simp [List.foldl_cons, ih, s.dropPage_pages, and_assoc]

theorem Part.mem_pagesIn {x : Part} {va len : Nat} {small : Bool} {gs : List Page} (h : x.pagesIn va len small = some gs) (g : Page) :
    g ∈ gs ↔ g ∈ x.pages ∧ va ≤ g.va ∧ g.va < va + len := by
  simp only [Part.pagesIn] at h
  split at h
  · cases h
    simp
  · cases h

/-- Dropping the pages of a range leaves those whose address lies outside it. -/
theorem mem_foldl_dropPage_pagesIn {s : State} {p va len : Nat} {small : Bool} {gs : List Page}
    (hgs : (s.part p).pagesIn va len small = some gs) (h : Page) :
    h ∈ ((gs.foldl (fun s g => s.dropPage p g) s).part p).pages ↔ h ∈ (s.part p).pages ∧ ¬ (va ≤ h.va ∧ h.va < va + len) := by
  rw [mem_foldl_dropPage]
  refine and_congr_right (fun hh => ⟨fun hne hin => hne h ((Part.mem_pagesIn hgs h).2 ⟨hh, hin⟩) rfl, fun hout g hg he => hout ?_⟩)
  rw [he]
  exact ((Part.mem_pagesIn hgs g).1 hg).2

/-- The pages of a range with the attributes of a PROTECT. -/
def Part.setRights (x : Part) (va len v : Nat) : Part :=
  { x with pages := x.pages.map (fun g => if decide (va ≤ g.va) && decide (g.va < va + len) then
      { g with w := bit v 0, h := bit v 1, p := bit v 2 } else g) }

section
variable {s : State} {p va len : Nat} {small : Bool} {a : List Nat} {gs : List Page}

section
variable (hr : pageRange [arg a 0, arg a 1, arg a 2, arg a 3 &&& 8] = some (va, len, small))
include hr

theorem servedUnmap_ok (hgs : (s.part p).pagesIn va len small = some gs) (hu : s.pagesUsed p gs = false) :
    servedUnmap p s a = .ok (gs.foldl (fun s g => s.dropPage p g) s) [] := by
  conv_lhs => fun; fun; fun; delta servedUnmap
  simp only [hr, hgs]
  exact if_neg (ne_true_of_eq_false hu)

theorem servedUnmap_used (hgs : (s.part p).pagesIn va len small = some gs) (hu : s.pagesUsed p gs = true) : servedUnmap p s a = .wait s := by
  conv_lhs => fun; fun; fun; delta servedUnmap
  simp only [hr, hgs]
  exact if_pos hu

theorem servedUnmap_none (hgs : (s.part p).pagesIn va len small = none) : servedUnmap p s a = .no 5 := by
  conv_lhs => fun; fun; fun; delta servedUnmap
  simp only [hr, hgs]

end

section
variable (hr : pageRange a = some (va, len, small)) (hgs : (s.part p).pagesIn va len small = some gs)
include hr hgs

theorem servedProtect_ok (hu : s.pagesUsed p gs = false) :
    servedProtect p s a = .ok (s.onPart p (fun x => x.setRights va len (arg a 3))) [] := by
  conv_lhs => fun; fun; fun; delta servedProtect
  simp only [hr, hgs]
  exact if_neg (ne_true_of_eq_false hu)

theorem servedProtect_used (hu : s.pagesUsed p gs = true) : servedProtect p s a = .wait s := by
  conv_lhs => fun; fun; fun; delta servedProtect
  simp only [hr, hgs]
  exact if_pos hu

end
end

end Sys2Proof.Machine
end
section
namespace Sys2Proof.Machine
open Sys2Proof

/-! ### The requests of O32 -/

/-- The turn among the requests is nothing that the use of pages depends on. -/
theorem State.pagesUsed_passTurn (s : State) (p q : Nat) (gs : List Page) : (s.passTurn q).pagesUsed p gs = s.pagesUsed p gs := rfl

section
variable {p : Nat} {irq : Bool} {a : List Nat} {s : State} (hp : p < 8) (hs : s.partState p = 1) (hn : s.nextRequest = some p)
include hp hs hn

/-! CORE_ALLOC. -/

section
variable (hr : (s.part p).request = some (0x01, irq, a)) (hc : s.allocChecked p a) {o id : Nat} (ho : s.allocPlace a o)
  (hid : (List.range 256).find? (fun i => !s.handleUsed i) = some id)
include hr hc ho hid

theorem coreAlloc_waits (hspan : (allocRect a id o).spans = true) (hclk : s.clocksEqual = false) :
    exec (.coreAlloc p) s = .next ((s.passTurn p).joinDies p) := by
  have hclk' : (s.passTurn p).clocksEqual = false := hclk
  have h := servedAlloc_place (s := s.passTurn p) ⟨hc.w1, hc.w16, hc.h1, hc.rows, hc.rsv5, hc.rsv13, hc.rsv18, hc.quota⟩ ho hid
  rw [if_pos (by simp [hspan, hclk'])] at h
  rw [exec_coreAlloc hp, serve_wait hs hn hr h]

theorem coreAlloc_gives (hclk : (allocRect a id o).spans = false ∨ s.clocksEqual = true) :
    ∃ t : State, exec (.coreAlloc p) s = .next t ∧ t.answered p 0x01 0 ∧ (t.part p).rects = (s.part p).rects ++ [allocRect a id o] ∧
      t.rd .helmReqRes 0 p 0 = w32 id ∧ t.rd .helmReqRes 0 p 1 = w32 o ∧
      (∀ n k, (allocRect a id o).cores[k]? = some n → t.core n = Core.given (s.part p).planSeed k) ∧
      ∀ n, n ∉ (allocRect a id o).cores → t.core n = s.core n := by
  have hnow : ¬ ((allocRect a id o).spans && !(s.passTurn p).clocksEqual) = true := by
    rcases hclk with h | h
    · simp [h]
    · have h' : (s.passTurn p).clocksEqual = true := h
      simp [h']
  have h := servedAlloc_place (s := s.passTurn p) ⟨hc.w1, hc.w16, hc.h1, hc.rows, hc.rsv5, hc.rsv13, hc.rsv18, hc.quota⟩ ho hid
  rw [if_neg hnow] at h
  have hg := (s.passTurn p).giveRect_gave p (r := allocRect a id o) hc.w16
  have hend := ((s.passTurn p).giveRect p (allocRect a id o)).endRequest_ended hp (code := 0x01) (result := 0) (by omega) (by omega) irq [id, o]
  obtain ⟨h0, h1⟩ := ((s.passTurn p).giveRect p (allocRect a id o)).endRequest_results hp 0x01 irq id o
  obtain ⟨_, _, _, hpart⟩ := hend.part
  refine ⟨_, by rw [exec_coreAlloc hp, serve_ok hs hn hr h], hend.answered hg.reqTurn, ?_, h0, h1, fun n k hk => ?_, fun n hn => ?_⟩
  · rw [hpart, hg.part]
    rfl
  · rw [State.core, hend.cores]
    exact hg.inside n k hk
  · rw [State.core, hend.cores]
    exact hg.outside n hn

end

/-! CORE_FREE. -/

section
variable (hr : (s.part p).request = some (0x02, irq, a))
include hr

theorem coreFree_takes {r : Rect} (hno : (s.part p).rectNo (arg a 0) = some r) (hb : (s.part p).rectBusy r.handle = false) :
    ∃ t : State, exec (.coreFree p) s = .next t ∧ t.answered p 0x02 0 ∧
      r ∉ (t.part p).rects ∧ (∀ n, n ∈ r.cores → t.core n = Core.init) ∧ ∀ n, n ∉ r.cores → t.core n = s.core n := by
  have hno' : ((s.passTurn p).part p).rectNo (arg a 0) = some r := hno
  have hb' : ((s.passTurn p).part p).rectBusy r.handle = false := hb
  have h : servedFree p (s.passTurn p) a = .ok ((s.passTurn p).takeRect p r) [] := by
    simp [servedFree, hno', hb']
  have ht := (s.passTurn p).takeRect_took p r
  have hend := ((s.passTurn p).takeRect p r).endRequest_ended hp (code := 0x02) (result := 0) (by omega) (by omega) irq []
  obtain ⟨_, _, _, hpart⟩ := hend.part
  have hcore : ∀ n, (((s.passTurn p).takeRect p r).endRequest p 0x02 irq 0 []).core n = if n ∈ r.cores then Core.init else s.core n := by
    intro n
    rw [State.core, hend.cores]
    exact ht.core n
  refine ⟨_, by rw [exec_coreFree hp, serve_ok hs hn hr h], hend.answered ht.reqTurn, ?_, fun n hn => ?_, fun n hn => ?_⟩
  · rw [hpart, ht.part]
    simp
  · rw [hcore, if_pos hn]
  · rw [hcore, if_neg hn]

theorem coreFree_unknown (hno : (s.part p).rectNo (arg a 0) = none) :
    ∃ t : State, exec (.coreFree p) s = .next t ∧ t.answered p 0x02 5 ∧ t.cores = s.cores ∧ (t.part p).rects = (s.part p).rects := by
  have hno' : ((s.passTurn p).part p).rectNo (arg a 0) = none := hno
  have h : servedFree p (s.passTurn p) a = .no 5 := by simp [servedFree, hno']
  have hend := (s.passTurn p).endRequest_ended hp (code := 0x02) (result := 5) (by omega) (by omega) irq []
  obtain ⟨_, _, _, hpart⟩ := hend.part
  exact ⟨_, by rw [exec_coreFree hp, serve_no hs hn hr h], hend.answered rfl, hend.cores, by rw [hpart]; rfl⟩

end

/-! MAP. -/

theorem map_places (hr : (s.part p).request = some (0x03, irq, a)) {va len : Nat} {small : Bool} (hrange : pageRange a = some (va, len, small))
    (hu : (s.part p).unmappedOn va len) (hfree : arg a 2 ≤ (s.part p).freeFrames.length)
    (hq : (s.part p).mappedBytes + frameSize * arg a 2 ≤ s.quota p PlanPart.mapped) :
    ∃ t : State, exec (.map p) s = .next t ∧ t.answered p 0x03 0 ∧
      (∀ b, va ≤ b → b < va + len → ∃ pa, (t.part p).xlate b false = .here pa (bit (arg a 3) 1) ∧ t.byteAt pa = [0#8] ∧
        ((t.part p).xlate b true ≠ .fault ↔ bit (arg a 3) 0 = true)) ∧
      (∀ g ∈ (s.part p).pages, g ∈ (t.part p).pages) ∧ t.cores = s.cores := by
  obtain ⟨t, ht, hplaced⟩ := servedMap_ok (s := s.passTurn p) hrange hu hfree hq
  have hend := t.endRequest_ended hp (code := 0x03) (result := 0) (by omega) (by omega) irq []
  obtain ⟨_, _, _, hpart⟩ := hend.part
  have hpages : ((t.endRequest p 0x03 irq 0 []).part p).pages = (t.part p).pages := by rw [hpart]
  refine ⟨_, by rw [exec_map hp, serve_ok hs hn hr ht], hend.answered hplaced.reqTurn, fun b h1 h2 => hplaced.xlate hu hend.mem hpages h1 h2,
    fun g hg => ?_, hend.cores.trans hplaced.cores⟩
  rw [hpages]
  exact hplaced.kept g hg

/-! UNMAP and PROTECT. -/

section
variable {va len : Nat} {small : Bool} {gs : List Page}

section
variable (hr : (s.part p).request = some (0x04, irq, a))
  (hrange : pageRange [arg a 0, arg a 1, arg a 2, arg a 3 &&& 8] = some (va, len, small))
include hr hrange

theorem unmap_drops (hgs : (s.part p).pagesIn va len small = some gs) (hu : s.pagesUsed p gs = false) :
    ∃ t : State, exec (.unmap p) s = .next t ∧ t.answered p 0x04 0 ∧
      (∀ g, g ∈ (t.part p).pages ↔ g ∈ (s.part p).pages ∧ ¬ (va ≤ g.va ∧ g.va < va + len)) ∧ t.cores = s.cores := by
  have h := servedUnmap_ok (s := s.passTurn p) hrange hgs (by rw [State.pagesUsed_passTurn, hu])
  obtain ⟨hcores, hturn⟩ := foldl_dropPage_rest p gs (s.passTurn p)
  have hend := (gs.foldl (fun s g => s.dropPage p g) (s.passTurn p)).endRequest_ended hp (code := 0x04) (result := 0) (by omega) (by omega) irq []
  obtain ⟨_, _, _, hpart⟩ := hend.part
  refine ⟨_, by rw [exec_unmap hp, serve_ok hs hn hr h], hend.answered hturn, fun g => ?_, hend.cores.trans hcores⟩
  rw [hpart]
  exact mem_foldl_dropPage_pagesIn (s := s.passTurn p) hgs g

theorem unmap_waits (hgs : (s.part p).pagesIn va len small = some gs) (hu : s.pagesUsed p gs = true) :
    exec (.unmap p) s = .next (s.passTurn p) := by
  rw [exec_unmap hp, serve_wait hs hn hr (servedUnmap_used (s := s.passTurn p) hrange hgs (by rw [State.pagesUsed_passTurn, hu]))]

theorem unmap_unknown (hgs : (s.part p).pagesIn va len small = none) :
    ∃ t : State, exec (.unmap p) s = .next t ∧ t.answered p 0x04 5 ∧ (t.part p).pages = (s.part p).pages ∧ t.mem = s.mem := by
  have h := servedUnmap_none (s := s.passTurn p) hrange hgs
  have hend := (s.passTurn p).endRequest_ended hp (code := 0x04) (result := 5) (by omega) (by omega) irq []
  obtain ⟨_, _, _, hpart⟩ := hend.part
  exact ⟨_, by rw [exec_unmap hp, serve_no hs hn hr h], hend.answered rfl, by rw [hpart]; rfl, hend.mem⟩

end

section
variable (hr : (s.part p).request = some (0x05, irq, a)) (hrange : pageRange a = some (va, len, small))
  (hgs : (s.part p).pagesIn va len small = some gs)
include hr hrange hgs

theorem protect_changes (hu : s.pagesUsed p gs = false) :
    ∃ t : State, exec (.protect p) s = .next t ∧ t.answered p 0x05 0 ∧ t.mem = s.mem ∧ t.cores = s.cores ∧
      (t.part p).pages = ((s.part p).setRights va len (arg a 3)).pages := by
  have h := servedProtect_ok (s := s.passTurn p) hrange hgs (by rw [State.pagesUsed_passTurn, hu])
  have hend := ((s.passTurn p).onPart p (fun x => x.setRights va len (arg a 3))).endRequest_ended hp (code := 0x05) (result := 0)
    (by omega) (by omega) irq []
  obtain ⟨_, _, _, hpart⟩ := hend.part
  refine ⟨_, by rw [exec_protect hp, serve_ok hs hn hr h], hend.answered rfl, hend.mem, hend.cores, ?_⟩
  rw [hpart, State.part_onPart_same]
  rfl

theorem protect_waits (hu : s.pagesUsed p gs = true) : exec (.protect p) s = .next (s.passTurn p) := by
  rw [exec_protect hp, serve_wait hs hn hr (servedProtect_used (s := s.passTurn p) hrange hgs (by rw [State.pagesUsed_passTurn, hu]))]

end
end
end

theorem Part.setRights_pages (x : Part) (va len v : Nat) : (x.setRights va len v).pages =
    x.pages.map (fun g => if va ≤ g.va ∧ g.va < va + len then { g with w := bit v 0, h := bit v 1, p := bit v 2 } else g) := by
  simp only [Part.setRights, Bool.and_eq_true, decide_eq_true_eq]

/-- Settles O32, request by request from the lemmas above. -/
theorem helmCoresAndPages : Obligations.HelmCoresAndPages := by
  intro p irq a s hp hs hn
  refine ⟨?_, ?_, ?_, ?_, ?_⟩
  · intro hr w h o id hw1 hw16 hh1 hrows h5 h13 h18 hq ho hid
    have hc : s.allocChecked p a := ⟨hw1, hw16, hh1, hrows, h5, h13, h18, hq⟩
    exact ⟨coreAlloc_waits hp hs hn hr hc ho hid, coreAlloc_gives hp hs hn hr hc ho hid⟩
  · intro hr
    exact ⟨fun r hno _ hb => coreFree_takes hp hs hn hr hno hb, coreFree_unknown hp hs hn hr⟩
  · intro hr va len small hrange hu hfree hq
    exact map_places hp hs hn hr hrange hu hfree hq
  · intro hr va len small hrange
    exact ⟨fun gs hgs => unmap_drops hp hs hn hr hrange hgs, fun gs hgs => unmap_waits hp hs hn hr hrange hgs, unmap_unknown hp hs hn hr hrange⟩
  · intro hr va len small gs hrange hgs
    rw [← Part.setRights_pages]
    exact ⟨protect_changes hp hs hn hr hrange hgs, protect_waits hp hs hn hr hrange hgs⟩

end Sys2Proof.Machine
end
section
namespace Sys2Proof.Machine
open Sys2Proof

/-! ## O17: loads of codebooks, micro-programs, the running bank and the seed -/

/-! ### Little-endian words of core store -/

theorem leNat_lt (l : List Byte) : leNat l < 256 ^ l.length := by
  induction l with
  | nil => simp [leNat]
  | cons b t ih =>
    have hb := b.isLt
    rw [leNat, List.length_cons, Nat.pow_succ]
    omega

theorem leNat_append (l m : List Byte) : leNat (l ++ m) = leNat l + 256 ^ l.length * leNat m := by
  induction l with
  | nil => simp [leNat]
  | cons b t ih =>
    rw [List.cons_append, leNat, leNat, ih, List.length_cons, Nat.pow_succ]
    ring

theorem cellsRead_add (m : List Host.Cell) (a k l : Nat) : cellsRead m a (k + l) = cellsRead m a k ++ cellsRead m (a + k) l := by
  rw [cellsRead_eq, cellsRead_eq, cellsRead_eq, ← List.map_append, List.range'_append_1]

theorem leAt_cellsRead (m : List Host.Cell) (a : Nat) {off k len : Nat} (h : off + k ≤ len) :
    leAt (cellsRead m a len) off k = leNat (cellsRead m (a + off) k) := by
  obtain ⟨rest, rfl⟩ := Nat.exists_eq_add_of_le h
  rw [leAt, Nat.add_assoc, cellsRead_add, List.drop_left' (by simp), cellsRead_add, List.take_left' (by simp)]

/-- Eight bytes are the two words that they hold. -/
theorem leNat_cellsRead_pair (m : List Host.Cell) (a : Nat) :
    (w32 (leNat (cellsRead m a 4))).toNat + (w32 (leNat (cellsRead m (a + 4) 4))).toNat * 2 ^ 32 = leNat (cellsRead m a 8) := by
  have hlo := leNat_lt (cellsRead m a 4)
  have hhi := leNat_lt (cellsRead m (a + 4) 4)
  rw [cellsRead_add m a 4 4, leNat_append]
  simp only [cellsRead_length, w32, BitVec.toNat_ofNat] at *
  omega

/-! ### Registers of a core -/

theorem Reg.vec_addr {n : Nat} (hn : n < 192) : Reg.vecCtl.addr n 0 0 < countersFrom ∧
    ∀ b k, b < 2 → k < 32 → Reg.vecProgLo.addr n b k < countersFrom ∧ Reg.vecProgHi.addr n b k < countersFrom := by
  simp only [Reg.addr, Reg.spec, Blk.base, countersFrom]
  refine ⟨by omega, fun b k hb hk => by omega⟩

theorem State.runBank_issue (s : State) {n : Nat} (hn : n < 192) (c : Cmd) : (s.issue n c).runBank n = s.runBank n :=
  s.fld_issue n c (Reg.vec_addr hn).1

theorem State.progWord_issue (s : State) {n b k : Nat} (hn : n < 192) (c : Cmd) (hb : b < 2) (hk : k < 32) :
    (s.issue n c).progWord n b k = s.progWord n b k := by
  obtain ⟨hlo, hhi⟩ := (Reg.vec_addr hn).2 b k hb hk
  simp only [State.progWord, s.rd_issue n c hlo, s.rd_issue n c hhi]

theorem State.wr_byRegs (s : State) (r : Reg) (b i j : Nat) (v : Word) : s.byRegs (s.wr r b i j v) := rfl

theorem State.byRegs.core_eq {s t : State} (h : s.byRegs t) (m : Nat) : t.core m = s.core m := by rw [State.core, h.cores_eq, State.core]

theorem State.byRegs.mem_eq {s t : State} (h : s.byRegs t) : t.mem = s.mem := by rw [h]

/-! ### Loading a codebook (R43, R214) -/

/-- Codebook k of core n with the four words of the bytes. -/
def State.loadCb4 (s : State) (n k : Nat) (bytes : List Byte) : State :=
  (List.range 4).foldl (fun s w => s.wr .convCb4 n k w (cb4Word bytes w)) s

theorem State.loadCb4_byRegs (s : State) (n k : Nat) (bytes : List Byte) : s.byRegs (s.loadCb4 n k bytes) :=
  foldl_byRegs _ (fun s _ => s.wr_byRegs ..) s

theorem State.rd_loadCb4 (s : State) (n k : Nat) (bytes : List Byte) {w : Nat} (hw : w < 4) :
    (s.loadCb4 n k bytes).rd .convCb4 n k w = cb4Word bytes w := by
  refine foldl_reaches (I := fun _ => True) (P := fun t : State => t.rd .convCb4 n k w = cb4Word bytes w) (x := w)
    (fun _ _ _ _ => trivial) (fun t v _ _ ht => ?_) (fun t _ => t.rd_wr_same ..) (List.mem_range.2 hw) trivial
  by_cases hv : w = v
  · rw [hv, State.rd_wr_same]
  · rw [State.rd_wr_other _ _ _ _ _ _ _ _ _ _ (by simp only [Reg.addr, Reg.spec]; omega), ht]

/-! ### Loading instructions (R168) -/

/-- Slot k of bank b of core n with an instruction's two words. -/
def State.loadInstr (s : State) (n b k : Nat) (lo hi : Word) : State := (s.wr .vecProgLo n b k lo).wr .vecProgHi n b k hi

theorem State.loadInstr_byRegs (s : State) (n b k : Nat) (lo hi : Word) : s.byRegs (s.loadInstr n b k lo hi) := rfl

theorem State.progWord_loadInstr_same (s : State) (n b k : Nat) (lo hi : Word) :
    (s.loadInstr n b k lo hi).progWord n b k = BitVec.ofNat 64 (lo.toNat + hi.toNat * 2 ^ 32) := by
  have hne : Reg.vecProgLo.addr n b k ≠ Reg.vecProgHi.addr n b k := by
    simp only [Reg.addr, Reg.spec]
    omega
  rw [State.progWord, State.loadInstr, State.rd_wr_same, State.rd_wr_other _ _ _ _ _ _ _ _ _ _ hne, State.rd_wr_same]

/-- The slots of the program store lie apart. -/
theorem Reg.vecProg_addr (n : Nat) {b k b' k' : Nat} (hk : k < 32) (hk' : k' < 32) (hne : b' ≠ b ∨ k' ≠ k) :
    (Reg.vecProgLo.addr n b' k' ≠ Reg.vecProgLo.addr n b k ∧ Reg.vecProgLo.addr n b' k' ≠ Reg.vecProgHi.addr n b k) ∧
      Reg.vecProgHi.addr n b' k' ≠ Reg.vecProgLo.addr n b k ∧ Reg.vecProgHi.addr n b' k' ≠ Reg.vecProgHi.addr n b k := by
  simp only [Reg.addr, Reg.spec, ne_eq]
  omega

theorem State.progWord_loadInstr_other (s : State) (n : Nat) {b k b' k' : Nat} (hk : k < 32) (hk' : k' < 32) (hne : b' ≠ b ∨ k' ≠ k)
    (lo hi : Word) : (s.loadInstr n b k lo hi).progWord n b' k' = s.progWord n b' k' := by
  obtain ⟨⟨hll, hlh⟩, hhl, hhh⟩ := Reg.vecProg_addr n hk hk' hne
  simp only [State.progWord, State.loadInstr, State.rd_wr_other _ _ _ _ _ _ _ _ _ _ hll, State.rd_wr_other _ _ _ _ _ _ _ _ _ _ hlh,
    State.rd_wr_other _ _ _ _ _ _ _ _ _ _ hhl, State.rd_wr_other _ _ _ _ _ _ _ _ _ _ hhh]

/-- The slots of bank b from `first` on with the instructions of the bytes. -/
def State.loadProg (s : State) (n b first cnt : Nat) (bytes : List Byte) : State :=
  (List.range cnt).foldl (fun s j => s.loadInstr n b (first + j) (w32 (leAt bytes (8 * j) 4)) (w32 (leAt bytes (8 * j + 4) 4))) s

theorem State.loadProg_byRegs (s : State) (n b first cnt : Nat) (bytes : List Byte) : s.byRegs (s.loadProg n b first cnt bytes) :=
  foldl_byRegs _ (fun s _ => s.loadInstr_byRegs ..) s

/-- A slot that a load names holds the eight bytes at its place of the source. -/
theorem State.progWord_loadProg_inside (s : State) (n b : Nat) {first cnt j : Nat} (hfit : first + cnt ≤ 32) (hj : j < cnt)
    (m : List Host.Cell) (a : Nat) : (s.loadProg n b first cnt (cellsRead m a (8 * cnt))).progWord n b (first + j) =
      BitVec.ofNat 64 (leNat (cellsRead m (a + 8 * j) 8)) := by
  rw [← leNat_cellsRead_pair, ← leAt_cellsRead m a (len := 8 * cnt) (by omega), Nat.add_assoc, ← leAt_cellsRead m a (len := 8 * cnt) (by omega)]
  refine foldl_reaches (I := fun _ => True) (P := fun t : State => t.progWord n b (first + j) = _) (x := j)
    (fun _ _ _ _ => trivial) (fun t i hi _ ht => ?_) (fun t _ => t.progWord_loadInstr_same ..) (List.mem_range.2 hj) trivial
  have hi := List.mem_range.1 hi
  by_cases hij : j = i
  · rw [hij, State.progWord_loadInstr_same]
  · rw [State.progWord_loadInstr_other _ _ (by omega) (by omega) (by omega), ht]

theorem State.progWord_loadProg_outside (s : State) (n b : Nat) {first cnt b' k : Nat} (hfit : first + cnt ≤ 32) (hk : k < 32)
    (hout : b' ≠ b ∨ k < first ∨ first + cnt ≤ k) (bytes : List Byte) :
    (s.loadProg n b first cnt bytes).progWord n b' k = s.progWord n b' k := by
  refine List.foldlRecOn (motive := fun t : State => t.progWord n b' k = s.progWord n b' k) _ _ rfl (fun t ht j hj => ?_)
  have hj := List.mem_range.1 hj
  rw [State.progWord_loadInstr_other _ _ (by omega) hk (by omega), ht]

/-! ### How the bodies run -/

theorem CM.go_rdAt_cs {n a len : Nat} {w : DWord} {r : Run} (hloc : locOf w = true) (h : a + len ≤ shadowBase) :
    CM.go (rdAt n (locOf w) a len) r = (.ok ((r.s.core n).csRead a len), r) := by
  rw [rdAt, hloc, if_pos rfl, CM.go_rdCs h]

/-- Checks that all pass let the command go on. -/
theorem CM.go_needAll {l : List (Bool × Nat)} (h : ∀ x ∈ l, x.1 = true) (r : Run) : CM.go (needAll l) r = (.ok (), r) := by
  have hnone : l.filter (fun x => !x.1) = [] := List.filter_eq_nil_iff.2 (fun x hx => by simp [h x hx])
  rw [needAll, hnone]
  rfl

section
variable {n : Nat} {c : Cmd} {s : State} {f : Nat}

theorem go_cbload_q4 (hloc : locOf c.w1 = true) (hq : c.w2.getLsbD 4 = false) (hin : addrOf c.w1 + 16 ≤ shadowBase)
    (hlegal : ∀ x ∈ ((s.core n).csRead (addrOf c.w1) 16).1, x.toNat < 64) : CM.go (cbloadBody n c) ⟨s, f, none⟩ =
      (.ok true, ⟨s.loadCb4 n (bits c.w2.toNat 3 0) ((s.core n).csRead (addrOf c.w1) 16).1, f, none⟩) := by
  have hall : ((s.core n).csRead (addrOf c.w1) 16).1.all (fun x => decide (x.toNat < 64)) = true := by simpa using hlegal
  simp only [cbloadBody, hq, Bool.not_false, Bool.true_or, Bool.false_eq_true, if_false, if_true, CM.go_bind, CM.go_need,
    CM.go_rdAt_cs hloc hin, hall, CM.go_modS, CM.go_pure, State.loadCb4]

section
variable {first cnt : Nat} (hloc : locOf c.w1 = true) (hfirst : bits c.w2.toNat 5 1 = first) (hcnt : bits c.w2.toNat 11 6 = cnt)
  (ha : addrOf c.w1 % 8 = 0) (h1 : 1 ≤ cnt) (h32 : cnt ≤ 32) (hfit : first + cnt ≤ 32) (hin : addrOf c.w1 + 8 * cnt ≤ shadowBase)
include hloc hfirst hcnt ha h1 h32 hfit hin

/-- The load goes ahead, unless its bank runs (R168). -/
theorem go_vpload : CM.go (vploadBody n c) ⟨s, f, none⟩ = if bits c.w2.toNat 0 0 = s.runBank n then
      (.error (.status 0x41 0), ⟨s, f, none⟩)
    else (.ok true, ⟨s.loadProg n (bits c.w2.toNat 0 0) first cnt ((s.core n).csRead (addrOf c.w1) (8 * cnt)).1, f, none⟩) := by
  have hchecks : ∀ r, CM.go (needAll [(aligned (addrOf c.w1) 8, 0x05),
      (decide (1 ≤ cnt) && decide (cnt ≤ 32) && decide (first + cnt ≤ 32), 0x06)]) r = (.ok (), r) :=
    CM.go_needAll (by simp [aligned, ha, h1, h32, hfit])
  simp only [vploadBody, hfirst, hcnt, CM.go_bind, hchecks, CM.go_rdAt_cs hloc hin, CM.go_getS, beq_iff_eq]
  split
  · next hb => simp [hb]
  · simp [State.loadProg, State.loadInstr]

end

theorem go_vpsel : CM.go (vpselBody n c) ⟨s, f, none⟩ = (.ok true, ⟨s.setFld .vecCtl n 0 0 0 0 (bits c.w1.toNat 0 0), f, none⟩) := by
  simp [vpselBody]

theorem go_seed : CM.go (seedBody n c) ⟨s, f, none⟩ =
    (.ok true, ⟨s.onCore n (fun k => k.reseed (BitVec.ofNat 64 (s.w3of n c 0))), f, none⟩) := by
  simp [seedBody]
end

/-! ### The four commands -/

/-- A well-formed pilot command answers the state that it comes to. -/
theorem answer_pilot {i : Instr} {op n : Nat} {c : Cmd} (hi : i.wf = pilotWf op n c) (hn : n < 192) (hop : c.op = op) (t : State) :
    answer i t = .next t := if_pos (by simp [hi, pilotWf, hn, hop])

section
variable {n : Nat} {c : Cmd} {s : State} (hn : n < 192)
include hn

theorem exec_cbload (hop : c.op = 0x08) : exec (.cbload n c) s = .next (pilotRun n c (cbloadBody n c) s) := answer_pilot rfl hn hop _
theorem exec_vpload (hop : c.op = 0x20) : exec (.vpload n c) s = .next (pilotRun n c (vploadBody n c) s) := answer_pilot rfl hn hop _
theorem exec_vpsel (hop : c.op = 0x21) : exec (.vpsel n c) s = .next (pilotRun n c (vpselBody n c) s) := answer_pilot rfl hn hop _
theorem exec_seed (hop : c.op = 0x22) : exec (.seed n c) s = .next (pilotRun n c (seedBody n c) s) := answer_pilot rfl hn hop _

end

/-- A command whose body ends well in a state with P completes from it. -/
theorem completes_of_go {i : Instr} {n : Nat} {c : Cmd} {s : State} {P : State → Prop} {body : CM Bool} {r : Run}
    (he : exec i s = .next (pilotRun n c body s)) (hrun : s.canRun n c) (hgo : CM.go body ⟨s.issue n c, 0, none⟩ = (.ok true, r))
    (hP : P r.s) : completes i n c s P :=
  ⟨r.s, r.flags, by rw [he, pilotRun_completes hrun hgo], hP⟩

section
variable {n : Nat} {c : Cmd} {s : State} (hn : n < 192) (hrun : s.canRun n c)
include hn hrun

theorem cbload_q4_completes (hop : c.op = 0x08) (hloc : locOf c.w1 = true) (hq : c.w2.getLsbD 4 = false)
    (hin : addrOf c.w1 + 16 ≤ shadowBase) (hlegal : ∀ x ∈ ((s.core n).csRead (addrOf c.w1) 16).1, x.toNat < 64) :
    completes (.cbload n c) n c s (fun t =>
      (∀ w, w < 4 → t.rd .convCb4 n (bits c.w2.toNat 3 0) w = cb4Word ((s.core n).csRead (addrOf c.w1) 16).1 w) ∧
      (∀ m, t.core m = (s.issue n c).core m) ∧ t.mem = s.mem) := by
  have hgo := go_cbload_q4 (s := s.issue n c) (n := n) (f := 0) hloc hq hin (by simpa using hlegal)
  rw [State.csRead_issue] at hgo
  have hregs := (s.issue n c).loadCb4_byRegs n (bits c.w2.toNat 3 0) ((s.core n).csRead (addrOf c.w1) 16).1
  exact completes_of_go (exec_cbload hn hop) hrun hgo
    ⟨fun w hw => State.rd_loadCb4 _ _ _ _ hw, hregs.core_eq, hregs.mem_eq.trans (s.issue_mem n c)⟩

section
variable {first cnt : Nat} (hop : c.op = 0x20) (hloc : locOf c.w1 = true) (hfirst : bits c.w2.toNat 5 1 = first)
  (hcnt : bits c.w2.toNat 11 6 = cnt) (ha : addrOf c.w1 % 8 = 0) (h1 : 1 ≤ cnt) (h32 : cnt ≤ 32) (hfit : first + cnt ≤ 32)
  (hin : addrOf c.w1 + 8 * cnt ≤ shadowBase)
include hop hloc hfirst hcnt ha h1 h32 hfit hin

theorem vpload_completes {b : Nat} (hb : bits c.w2.toNat 0 0 = b) (hidle : b ≠ s.runBank n) :
    completes (.vpload n c) n c s (fun t =>
      (∀ j, j < cnt → t.progWord n b (first + j) = BitVec.ofNat 64 (leNat (cellsRead (s.core n).cs (addrOf c.w1 + 8 * j) 8))) ∧
      (∀ k, k < first ∨ first + cnt ≤ k → k < 32 → t.progWord n b k = s.progWord n b k) ∧
      (∀ k, k < 32 → t.progWord n (1 - b) k = s.progWord n (1 - b) k) ∧ ∀ m, t.core m = (s.issue n c).core m) := by
  have hb2 : b < 2 := hb ▸ Nat.mod_lt _ (by decide)
  have hgo := go_vpload (s := s.issue n c) (n := n) (f := 0) hloc hfirst hcnt ha h1 h32 hfit hin
  rw [s.runBank_issue hn, hb, if_neg hidle, State.csRead_issue] at hgo
  refine completes_of_go (exec_vpload hn hop) hrun hgo ⟨fun j hj => ?_, fun k hout hk => ?_, fun k hk => ?_, fun m => ?_⟩
  · exact State.progWord_loadProg_inside _ n b hfit hj _ _
  · rw [State.progWord_loadProg_outside _ n b hfit hk (.inr hout), s.progWord_issue hn c hb2 hk]
  · rw [State.progWord_loadProg_outside _ n b hfit hk (.inl (by omega)), s.progWord_issue hn c (by omega) hk]
  · exact (State.loadProg_byRegs ..).core_eq m

theorem vpload_running_stops (hbusy : bits c.w2.toNat 0 0 = s.runBank n) :
    exec (.vpload n c) s = .next ((s.issue n c).failed n c (s.core n).cp (s.ccNext n) 0x41 0 0) := by
  have hgo := go_vpload (s := s.issue n c) (n := n) (f := 0) hloc hfirst hcnt ha h1 h32 hfit hin
  rw [s.runBank_issue hn, if_pos hbusy] at hgo
  rw [exec_vpload hn hop, pilotRun_stops hrun hgo]
  rfl

end

theorem vpsel_completes (hop : c.op = 0x21) :
    completes (.vpsel n c) n c s (fun t => t.runBank n = bits c.w1.toNat 0 0 ∧ ∀ m, t.core m = (s.issue n c).core m) := by
  refine completes_of_go (exec_vpsel hn hop) hrun go_vpsel ⟨?_, (State.wr_byRegs ..).core_eq⟩
  rw [State.runBank, State.fld_setFld_same _ _ _ _ _ (by decide)]
  exact Nat.mod_mod _ 2

theorem seed_reseeds (hop : c.op = 0x22) : exec (.seed n c) s = .next (((s.issue n c).onCore n (fun k =>
    { k with seed := BitVec.ofNat 64 (s.w3of n c 0), seeded := true, lanes := [] })).complete n c (s.ccNext n) 0) := by
  rw [exec_seed hn hop, pilotRun_completes hrun go_seed, State.w3of_issue]
  rfl

end

/-- Settles O17, command by command from the lemmas above. -/
theorem codebookAndProgramLoads : Obligations.CodebookAndProgramLoads := by
  intro n c s hn hrun
  refine ⟨cbload_q4_completes hn hrun, fun hop hloc ha h1 h32 hfit hin => ⟨?_, ?_⟩, vpsel_completes hn hrun, seed_reseeds hn hrun⟩
  · exact vpload_completes hn hrun hop hloc rfl rfl ha h1 h32 hfit hin rfl
  · exact vpload_running_stops hn hrun hop hloc rfl rfl ha h1 h32 hfit hin

end Sys2Proof.Machine
end
section
namespace Sys2Proof.Machine
open Sys2Proof

/-! ## O18 and O19: the matrix arrays over plain tensors of core store -/

/-! ### Reading an operand (R41, R85, R217) -/

/-- What a descriptor that core store holds has passed. -/
theorem Core.descAt_eq_some {k : Core} {a : Nat} {d : Desc} (h : k.descAt a = some d) :
    a % 128 = 0 ∧ a + 128 ≤ shadowBase ∧ ∃ f, Format.ofCode (leAt (k.csRead a 128).1 28 4 % 16) = some f ∧
      d = parseDesc a (k.csRead a 128).1 f ∧ ∀ x ∈ descChecks (k.csRead a 128).1 f d, x.1 = true := by
  unfold Core.descAt at h
  split at h
  · next ha =>
    dsimp only at h
    split at h
    · next f hf =>
      obtain ⟨hall, hd⟩ := Option.ite_none_right_eq_some.1 h
      cases hd
      exact ⟨ha.1, ha.2, f, hf, rfl, List.all_eq_true.1 hall⟩
    · cases h
  · cases h

/-- A plain tensor carries no side arrays (R110). -/
theorem Core.descAt_plain {k : Core} {a : Nat} {d : Desc} (h : k.descAt a = some d) (hp : d.fmt.isSlab = false) :
    d.classMap = 0 ∧ d.glintBase = 0 ∧ d.fbDir = 0 := by
  obtain ⟨-, -, f, -, rfl, -⟩ := k.descAt_eq_some h
  have hf : f.isSlab = false := hp
  simp [parseDesc, hf]

section
variable {n : Nat} {d : Desc} {r : Run}

theorem go_readDesc {a : Nat} (h : (r.s.core n).descAt a = some d) : CM.go (readDesc n true a) r = (.ok d, r) := by
  obtain ⟨ha, hin, f, hf, rfl, hall⟩ := Core.descAt_eq_some h
  have haligned : aligned a 128 = true := by simp [aligned, ha]
  simp only [readDesc, rdAt, CM.go_bind, haligned, CM.go_need, if_true, CM.go_rdCs hin, hf, CM.go_needAll hall, CM.go_pure]

/-- A plain tensor has no promoted form (R128). -/
theorem go_useDesc {a : Nat} (h : (r.s.core n).descAt a = some d) (hp : d.fmt.isSlab = false) :
    CM.go (useDesc n true a) r = (.ok (d, false), r) := by
  simp [useDesc, isPromoted, go_readDesc h, hp]

theorem go_needRange (hp : d.plainCore) (hside : d.classMap = 0 ∧ d.glintBase = 0 ∧ d.fbDir = 0) :
    CM.go (needRange d) r = (.ok (), r) := by
  obtain ⟨-, -, hin⟩ := hp
  obtain ⟨hc, hg, hf⟩ := hside
  simp [needRange, hin, hc, hg, hf]

/-- A stretch of a row of a plain tensor lies where its rows do. -/
theorem Desc.plainCore.stretch_within (hp : d.plainCore) {row sc : Nat} (hrow : row < d.rows) (hsc : sc < d.slabs) :
    d.elemAddr row (512 * sc) + min (d.cols - 512 * sc) 512 * d.fmt.bytes ≤ shadowBase := by
  obtain ⟨hslab, -, hin⟩ := hp
  have hcols : 512 * sc + min (d.cols - 512 * sc) 512 ≤ d.cols := by
    simp only [Desc.slabs, slabsPerRow] at hsc
    omega
  have hbytes := Nat.mul_le_mul_right d.fmt.bytes hcols
  have hpitch : row * d.pitch ≤ (d.rows - 1) * d.pitch := Nat.mul_le_mul_right _ (by omega)
  rw [Desc.extent, hslab, if_neg Bool.false_ne_true, if_neg (by omega)] at hin
  rw [Nat.add_mul] at hbytes
  rw [Desc.elemAddr]
  omega

/-- A slab column of a row of a plain tensor, as core k reads it. -/
def Core.plainSlab (k : Core) (d : Desc) (row sc : Nat) : SlabData :=
  let b := k.csRead (d.elemAddr row (512 * sc)) (min (d.cols - 512 * sc) 512 * d.fmt.bytes)
  let st := plainStretch d.fmt b.1
  ⟨st.vals, st.scales, st.nonfin, 0, [], b.2⟩

theorem go_readSlab (hp : d.plainCore) {row sc : Nat} (hrow : row < d.rows) (hsc : sc < d.slabs) :
    CM.go (readSlab n d row sc) r = (.ok ((r.s.core n).plainSlab d row sc), r) := by
  have hin := hp.stretch_within hrow hsc
  obtain ⟨hslab, hloc, -⟩ := hp
  simp only [readSlab, hslab, Bool.false_eq_true, if_false, rdAt, hloc, if_true, CM.go_bind, CM.go_rdCs hin, CM.go_pure, Core.plainSlab]

/-- A slab whose segments are all of class 0 takes nothing from records (R122). -/
theorem go_fillRecords {x : SlabData} (hx : x.cls = 0) (row sc : Nat) : CM.go (fillRecords n d row sc x) r = (.ok x, r) := by
  have hnone : (List.range 16).filter (fun g => decide (segClass x.cls g ≥ 2) && decide (512 * sc + 32 * g < d.cols)) = [] := by
    simp [hx, segClass, bits]
  rw [fillRecords, hnone]
  rfl

end

/-- A list of reads that leave the run as it is. -/
theorem CM.go_mapM {α β : Type} {l : List α} {f : α → CM β} {g : α → β} {r : Run} (h : ∀ x ∈ l, CM.go (f x) r = (.ok (g x), r)) :
    CM.go (l.mapM f) r = (.ok (l.map g), r) := by
  induction l with
  | nil => simp
  | cons x t ih =>
    rw [List.mapM_cons, CM.go_bind_ok (h x (List.mem_cons_self ..)), CM.go_bind_ok (ih (fun y hy => h y (List.mem_cons_of_mem _ hy)))]
    rfl

/-! ### WLOAD (R84, R85, R214) -/

/-- The rows of a tensor that array a takes of a block from row w0 on. -/
def blockRows (d : Desc) (w0 a : Nat) : List Nat := (List.range 32).filter (fun j => decide (w0 + 32 * a + j < d.rows))

theorem length_blockRows (d : Desc) (w0 a : Nat) : (blockRows d w0 a).length = min 32 (d.rows - (w0 + 32 * a)) := by
  have hcount : ∀ m k : Nat, ((List.range m).filter (fun j => decide (j < k))).length = min m k := by
    intro m k
    induction m with
    | zero => simp
    | succ m ih => by_cases h : m < k <;> simp [List.range_succ, h, ih] <;> omega
  rw [← hcount, blockRows]
  congr 2
  funext j
  simp only [decide_eq_decide]
  omega

/-- The block that array a takes of a plain tensor from core k's store. -/
def Core.plainBank (k : Core) (d : Desc) (w0 sc a : Nat) : Bank :=
  let cols := (blockRows d w0 a).map (fun j => k.plainSlab d (w0 + 32 * a + j) sc)
  ⟨d, w0 + 32 * a, sc, cols, true, cols.any (·.poison)⟩

/-- Bank b of array a of core n with its block. -/
def State.loadBank (n : Nat) (d : Desc) (w0 sc b : Nat) (s : State) (a : Nat) : State :=
  s.onCore n (fun k => { k with banks := tabPut k.banks (bankKey a b) (some (k.plainBank d w0 sc a)) })

/-- Banks b of core n with the block from row w0 on, made current (R85). -/
def State.loadBanks (s : State) (n : Nat) (d : Desc) (w0 sc b : Nat) : State :=
  (List.range 4).foldl (fun s a => s.setFld .arrEpoch n 0 0 (2 * a + b) (2 * a + b) 1)
    (((List.range 4).foldl (State.loadBank n d w0 sc b) s).setFld .arrEpoch n 0 0 9 9 b)

/-- One array's part of a WLOAD. -/
def wloadArray (n : Nat) (d : Desc) (w0 sc b a : Nat) : CM Unit := do
  let cols ← (blockRows d w0 a).mapM (fun j => readSlab n d (w0 + 32 * a + j) sc)
  modS (fun s => s.onCore n (fun k =>
    { k with banks := tabPut k.banks (bankKey a b) (some ⟨d, w0 + 32 * a, sc, cols, true, cols.any (·.poison)⟩) }))

theorem wloadBody_eq (n : Nat) (c : Cmd) : wloadBody n c = (do
    let (d, _) ← useDesc n (locOf c.w1) (addrOf c.w1)
    let w0 ← w3 n c 0
    let sc ← w3 n c 1
    needAll [(d.fmt.isOperand, 0x04), (w0 % 128 == 0 && decide (w0 < d.rows) && decide (sc < d.slabs), 0x06), (d.loc, 0x12)]
    needRange d
    let s ← getS
    let b := 1 - s.fld .arrEpoch n 0 0 9 9
    (List.range 4).forM (wloadArray n d w0 sc b)
    modS (fun s => (List.range 4).foldl (fun s a => s.setFld .arrEpoch n 0 0 (2 * a + b) (2 * a + b) 1) (s.setFld .arrEpoch n 0 0 9 9 b))
    return true) := rfl

theorem go_wloadArray {n : Nat} {d : Desc} (hp : d.plainCore) {sc : Nat} (hsc : sc < d.slabs) (w0 b a : Nat) (r : Run) :
    CM.go (wloadArray n d w0 sc b a) r = (.ok (), { r with s := r.s.loadBank n d w0 sc b a }) := by
  have hcols := CM.go_mapM (l := blockRows d w0 a) (r := r) (fun j hj =>
    go_readSlab (n := n) hp (row := w0 + 32 * a + j) (by simpa using (List.mem_filter.1 hj).2) hsc)
  rw [wloadArray, CM.go_bind_ok hcols, CM.go_modS]
  simp only [State.loadBank, State.onCore, Core.plainBank]

theorem foldl_loadBank_run (n : Nat) (d : Desc) (w0 sc b : Nat) (l : List Nat) (r : Run) :
    l.foldl (fun (r : Run) a => { r with s := r.s.loadBank n d w0 sc b a }) r = { r with s := l.foldl (State.loadBank n d w0 sc b) r.s } := by
  induction l generalizing r with
  | nil => rfl
  | cons a l ih => exact ih _

theorem go_wload {n : Nat} {c : Cmd} {s : State} {d : Desc} {f : Nat} (hloc : locOf c.w1 = true)
    (hd : (s.core n).descAt (addrOf c.w1) = some d) (hp : d.plainCore) (hop : d.fmt.isOperand = true) (h0 : s.w3of n c 0 % 128 = 0)
    (h1 : s.w3of n c 0 < d.rows) (hsc : s.w3of n c 1 < d.slabs) : CM.go (wloadBody n c) ⟨s, f, none⟩ =
      (.ok true, ⟨s.loadBanks n d (s.w3of n c 0) (s.w3of n c 1) (1 - s.fld .arrEpoch n 0 0 9 9), f, none⟩) := by
  have hchecks : ∀ r, CM.go (needAll [(d.fmt.isOperand, 0x04), (s.w3of n c 0 % 128 == 0 && decide (s.w3of n c 0 < d.rows) &&
      decide (s.w3of n c 1 < d.slabs), 0x06), (d.loc, 0x12)]) r = (.ok (), r) :=
    CM.go_needAll (by simp [hop, h0, h1, hsc, hp.2.1])
  have hrange : ∀ r, CM.go (needRange d) r = (.ok (), r) := fun r => go_needRange hp (Core.descAt_plain hd hp.1)
  have hloop := fun b => CM.go_forM (List.range 4) (wloadArray n d (s.w3of n c 0) (s.w3of n c 1) b) _ ⟨s, f, none⟩
    (fun a _ r => go_wloadArray hp hsc (s.w3of n c 0) b a r)
  simp only [wloadBody_eq, hloc, CM.go_bind, go_useDesc (r := ⟨s, f, none⟩) hd hp.1, CM.go_w3, hchecks, hrange, CM.go_getS, hloop,
    foldl_loadBank_run, CM.go_modS, CM.go_pure, State.loadBanks]

/-! What the loads leave of the core and of the registers. -/

theorem State.loadBank_core (n : Nat) (d : Desc) (w0 sc b : Nat) (s : State) (a : Nat) : (s.loadBank n d w0 sc b a).core n =
    { s.core n with banks := tabPut (s.core n).banks (bankKey a b) (some ((s.core n).plainBank d w0 sc a)) } := State.core_onCore_same ..

theorem State.loadBank_banks (n : Nat) (d : Desc) (w0 sc b : Nat) (s : State) (a : Nat) : ((s.loadBank n d w0 sc b a).core n).banks =
    tabPut (s.core n).banks (bankKey a b) (some ((s.core n).plainBank d w0 sc a)) := by
  rw [State.loadBank_core]

/-- Nothing of a state but banks of core n differs. -/
structure State.byBanks (n : Nat) (s t : State) : Prop where
  rest : t = { s with cores := t.cores }
  self : t.core n = { s.core n with banks := (t.core n).banks }
  other : ∀ q, q ≠ n → t.core q = s.core q

theorem State.byBanks.refl (n : Nat) (s : State) : State.byBanks n s s := ⟨rfl, rfl, fun _ _ => rfl⟩

theorem State.byBanks.loadBank {n : Nat} {s t : State} (h : State.byBanks n s t) (d : Desc) (w0 sc b a : Nat) :
    State.byBanks n s (t.loadBank n d w0 sc b a) where
  rest := by
    conv_lhs => rw [State.loadBank, State.onCore, State.setCore, h.rest]
    rfl
  self := by
    rw [State.loadBank_core, h.self]
  other := fun q hq => (State.core_onCore_other _ _ hq).trans (h.other q hq)

theorem State.foldl_loadBank_byBanks (n : Nat) (d : Desc) (w0 sc b : Nat) (s : State) :
    State.byBanks n s ((List.range 4).foldl (State.loadBank n d w0 sc b) s) :=
  List.foldlRecOn (motive := State.byBanks n s) _ _ (.refl n s) (fun _ h a _ => h.loadBank d w0 sc b a)

theorem bankKey_inj {a b a' b' : Nat} (hb : b < 2) (hb' : b' < 2) (h : bankKey a' b' = bankKey a b) : a' = a ∧ b' = b := by
  simp only [bankKey] at h
  omega

/-- What a block is does not depend on the banks. -/
theorem State.byBanks.plainBank {n : Nat} {s t : State} (h : State.byBanks n s t) (d : Desc) (w0 sc a : Nat) :
    (t.core n).plainBank d w0 sc a = (s.core n).plainBank d w0 sc a := by
  rw [h.self]
  rfl

theorem tabFind_foldl_loadBank {n : Nat} {d : Desc} {w0 sc b a : Nat} {s : State} (hb : b < 2) (ha : a < 4) :
    tabFind (((List.range 4).foldl (State.loadBank n d w0 sc b) s).core n).banks (bankKey a b) =
      some ((s.core n).plainBank d w0 sc a) := by
  refine foldl_reaches (I := State.byBanks n s)
    (P := fun t => tabFind (t.core n).banks (bankKey a b) = some ((s.core n).plainBank d w0 sc a)) (x := a)
    (fun t i _ h => h.loadBank d w0 sc b i) (fun t i _ h ht => ?_) (fun t h => ?_) (List.mem_range.2 ha) (.refl n s)
  · rw [State.loadBank_banks]
    by_cases hi : a = i
    · rw [hi, tabFind_put_same, h.plainBank]
    · exact (tabFind_put_other _ _ (fun he => hi (bankKey_inj hb hb he).1)).trans ht
  · rw [State.loadBank_banks, tabFind_put_same, h.plainBank]

theorem tabFind_foldl_loadBank_other {n : Nat} {d : Desc} {w0 sc b b' a : Nat} {s : State} (hb : b < 2) (hb' : b' < 2) (hne : b' ≠ b) :
    tabFind (((List.range 4).foldl (State.loadBank n d w0 sc b) s).core n).banks (bankKey a b') =
      tabFind (s.core n).banks (bankKey a b') := by
  refine List.foldlRecOn (motive := fun t : State => tabFind (t.core n).banks (bankKey a b') = tabFind (s.core n).banks (bankKey a b'))
    _ _ rfl (fun t ht i _ => ?_)
  rw [State.loadBank_banks]
  exact (tabFind_put_other _ _ (fun he => hne (bankKey_inj hb hb' he).2)).trans ht

theorem State.loadBanks_byRegs (s : State) (n : Nat) (d : Desc) (w0 sc b : Nat) :
    ((List.range 4).foldl (State.loadBank n d w0 sc b) s).byRegs (s.loadBanks n d w0 sc b) :=
  (State.wr_byRegs _ .arrEpoch n 0 0 _).trans (foldl_byRegs _ (fun t _ => t.wr_byRegs ..) _)

/-- The loaded bank is the current one (R85); the bits that then mark the banks ready lie below. -/
theorem State.fld_loadBanks (s : State) (n : Nat) (d : Desc) (w0 sc : Nat) {b : Nat} (hb : b < 2) :
    (s.loadBanks n d w0 sc b).fld .arrEpoch n 0 0 9 9 = b := by
  refine List.foldlRecOn (motive := fun t : State => t.fld .arrEpoch n 0 0 9 9 = b) _ _ ?_ (fun t ht a ha => ?_)
  · rw [State.fld_setFld_same _ _ _ _ _ (by decide)]
    omega
  · have ha := List.mem_range.1 ha
    rw [State.fld, State.setFld, State.rd_wr_same, getBits_setBits_other _ (by omega)]
    exact ht

theorem exec_wload {n : Nat} {c : Cmd} {s : State} (hn : n < 192) (hop : c.op = 0x10) :
    exec (.wload n c []) s = .next (pilotRun n c (wloadBody n c) s) := by
  have h : exec (.wload n c []) s = .next (pilotRun n c (wloadBody n c) (s.sramErrors n [])) :=
    if_pos (by simp [Instr.wf, pilotWf, hn, hop])
  rwa [s.sramErrors_nil] at h

theorem Reg.arrEpoch_addr {n : Nat} (hn : n < 192) : Reg.arrEpoch.addr n 0 0 < countersFrom := by
  simp only [Reg.addr, Reg.spec, Blk.base, countersFrom]
  omega

@[simp] theorem State.descAt_issue (s : State) (n : Nat) (c : Cmd) (m a : Nat) : ((s.issue n c).core m).descAt a = (s.core m).descAt a := by
  simp only [Core.descAt, State.csRead_issue]

@[simp] theorem State.banks_issue (s : State) (n : Nat) (c : Cmd) : ((s.issue n c).core n).banks = (s.core n).banks := by
  rw [s.core_issue]
  rfl

@[simp] theorem State.acc_issue (s : State) (n : Nat) (c : Cmd) : ((s.issue n c).core n).acc = (s.core n).acc := by
  rw [s.core_issue]
  rfl

/-- Settles O18: the body of WLOAD comes to `State.loadBanks` of the issued state. -/
theorem weightLoads : Obligations.WeightLoads := by
  intro n c s d hn hrun hop hloc hd hp hfmt w0 sc b h0 h1 hsc
  have hgo := go_wload (s := s.issue n c) (n := n) (f := 0) hloc (by simpa using hd) hp hfmt (by simpa using h0) (by simpa using h1)
    (by simpa using hsc)
  rw [s.fld_issue n c (Reg.arrEpoch_addr hn), s.w3of_issue, s.w3of_issue] at hgo
  have hb : b < 2 := by omega
  have hbanks := State.foldl_loadBank_byBanks n d w0 sc b (s.issue n c)
  have hregs := (s.issue n c).loadBanks_byRegs n d w0 sc b
  have hself := hbanks.self
  refine completes_of_go (exec_wload hn hop) hrun hgo
    ⟨fun a ha => ?_, fun a ha => ?_, State.fld_loadBanks _ _ _ _ _ hb, ?_, ?_, ?_, fun q hq => ?_⟩
  · refine ⟨_, by rw [hregs.core_eq]; exact tabFind_foldl_loadBank hb ha, rfl, rfl, rfl, rfl, ?_⟩
    rw [← length_blockRows]
    exact List.length_map ..
  · rw [hregs.core_eq, tabFind_foldl_loadBank_other hb (by omega) (by omega), State.banks_issue]
  · rw [hregs.core_eq, hself, ← s.acc_issue n c]
  · rw [hregs.core_eq, hself, ← s.cs_issue n c]
  · rw [hregs.mem_eq, hbanks.rest, ← s.issue_mem n c]
  · rw [hregs.core_eq, hbanks.other q hq, s.core_issue_other n c hq]

end Sys2Proof.Machine
end
section
namespace Sys2Proof.Machine
open Sys2Proof

/-! ### What a pass leaves alone (R75, R93, R130) -/

/-- The accumulator rows of a pass lie in the accumulators. -/
def PassAt.fits (q : PassAt) : Prop := 1 ≤ q.count ∧ q.first + q.count ≤ 512

/-- Tile t holds a row of the pass. -/
def PassAt.tile (q : PassAt) (t : Nat) : Prop := q.first / 32 ≤ t ∧ t ≤ (q.first + q.count - 1) / 32

/-- Nothing of a core but elements in tiles of the pass, and the turns of the Lighthouse, differs. -/
structure PassAt.coreFrame (q : PassAt) (k k' : Core) : Prop where
  rest : k' = { k with acc := k'.acc, lhNext := k'.lhNext }
  acc : ∀ a r j, r < 512 → j < 32 → ¬ q.tile (r / 32) → k'.accAt a r j = k.accAt a r j

/-- Nothing of a state but registers and what a pass may change of its root core differs. -/
structure PassAt.frame (q : PassAt) (s t : State) : Prop where
  rest : t = { s with regs := t.regs, cores := t.cores }
  root : q.coreFrame (s.core q.root) (t.core q.root)
  other : ∀ m, m ≠ q.root → t.core m = s.core m

section
variable {q : PassAt}

theorem PassAt.coreFrame.refl (k : Core) : q.coreFrame k k := ⟨rfl, fun _ _ _ _ _ _ => rfl⟩

theorem PassAt.coreFrame.trans {k k' k'' : Core} (h : q.coreFrame k k') (g : q.coreFrame k' k'') : q.coreFrame k k'' where
  rest := by
    rw [g.rest, h.rest]
  acc := fun a r j hr hj ht => (g.acc a r j hr hj ht).trans (h.acc a r j hr hj ht)

theorem PassAt.frame.refl (s : State) : q.frame s s := ⟨rfl, .refl _, fun _ _ => rfl⟩

theorem PassAt.frame.trans {s t u : State} (h : q.frame s t) (g : q.frame t u) : q.frame s u where
  rest := by
    rw [g.rest, h.rest]
  root := h.root.trans g.root
  other := fun m hm => (g.other m hm).trans (h.other m hm)

theorem PassAt.frame.mem_eq {s t : State} (h : q.frame s t) : t.mem = s.mem := by rw [h.rest]

theorem State.byRegs.passFrame {s t : State} (h : s.byRegs t) (q : PassAt) : q.frame s t where
  rest := by
    conv_lhs => rw [h]
    rw [← h.cores_eq]
  root := by
    rw [h.core_eq]
    exact .refl _
  other := fun m _ => h.core_eq m

theorem PassAt.coreFrame.setCore {s : State} {k : Core} (h : q.coreFrame (s.core q.root) k) : q.frame s (s.setCore q.root k) where
  rest := rfl
  root := by
    rw [State.core_setCore_same]
    exact h
  other := fun _ hm => State.core_setCore_other _ _ hm

theorem PassAt.frame.thenRegs {s t u : State} (h : q.frame s t) (g : t.byRegs u) : q.frame s u := h.trans (g.passFrame q)

theorem PassAt.frame.thenCore {s t : State} (h : q.frame s t) {f : Core → Core} (g : q.coreFrame (t.core q.root) (f (t.core q.root))) :
    q.frame s (t.onCore q.root f) := h.trans g.setCore

theorem foldl_passFrame {α : Type} {f : State → α → State} {l : List α} (h : ∀ s, ∀ x ∈ l, q.frame s (f s x)) (s : State) :
    q.frame s (l.foldl f s) :=
  List.foldlRecOn (motive := q.frame s) l f (.refl s) (fun t ht x hx => ht.trans (h t x hx))

/-! The elements. -/

theorem accKey_inj {a r j a' r' j' : Nat} (hr : r < 512) (hj : j < 32) (hr' : r' < 512) (hj' : j' < 32)
    (h : accKey a r j = accKey a' r' j') : r = r' := by
  simp only [accKey] at h
  omega

theorem PassAt.fits.row_lt (hq : q.fits) {r : Nat} (h : q.tile (r / 32)) : r < 512 := by
  obtain ⟨h1, h2⟩ := hq
  obtain ⟨-, h⟩ := h
  omega

/-- An element in a tile of the pass is written. -/
theorem PassAt.fits.accPut (hq : q.fits) (k : Core) (a : Nat) {r j : Nat} (hj : j < 32) (ht : q.tile (r / 32)) (v : Word) :
    q.coreFrame k (k.accPut a r j v) where
  rest := rfl
  acc := fun a' r' j' hr' hj' ht' => by
    refine tabGet_set_other _ _ _ _ (fun he => ht' ?_)
    rwa [accKey_inj hr' hj' (hq.row_lt ht) hj he]

theorem PassAt.fits.putTile (hq : q.fits) (k : Core) (a : Nat) {t : Nat} (ht : q.tile t) (l : List Word) : q.coreFrame k (k.putTile a t l) := by
  refine List.foldlRecOn (motive := q.coreFrame k) _ _ (.refl k) (fun k' h e he => h.trans (hq.accPut k' a (Nat.mod_lt _ (by decide)) ?_ _))
  have he := List.mem_range.1 he
  rwa [show (32 * t + e / 32) / 32 = t by omega]

theorem PassAt.tile_of_row {i : Nat} (hi : i < q.count) : q.tile ((q.first + i) / 32) := by
  simp only [PassAt.tile]
  omega

/-- The elements of a pass: row, array and column. -/
def PassAt.elems (q : PassAt) : List (Nat × Nat × Nat) :=
  (List.range q.count).flatMap (fun i => (List.range 4).flatMap (fun a => (List.range 32).map (fun j => (i, a, j))))

theorem PassAt.elems_bounds {x : Nat × Nat × Nat} (h : x ∈ q.elems) : x.1 < q.count ∧ x.2.2 < 32 := by
  obtain ⟨i, hi, h⟩ := List.mem_flatMap.1 h
  obtain ⟨a, -, h⟩ := List.mem_flatMap.1 h
  obtain ⟨j, hj, rfl⟩ := List.mem_map.1 h
  exact ⟨List.mem_range.1 hi, List.mem_range.1 hj⟩

theorem mem_ite_snoc {α : Type} {b : Bool} {l : List α} {x y : α} (h : y ∈ if b then l ++ [x] else l) : y ∈ l ∨ y = x := by
  cases b
  · exact .inl h
  · simpa using h

/-- One element of an attempt: the core, and the tiles that have overflowed. -/
def passStep (q : PassAt) (beyond : Bool) (fn : PassFn) (only : Nat → Nat → Bool) (s : State) (st : Core × List (Nat × Nat))
    (x : Nat × Nat × Nat) : Core × List (Nat × Nat) :=
  if !only x.2.1 ((q.first + x.1) / 32) then st else
  match fn x.1 x.2.1 x.2.2 with
  | none => st
  | some v =>
    let c : Int := -(16 * (s.comp q.root x.2.1 ((q.first + x.1) / 32) : Nat))
    let r1 := accStage beyond (st.1.accAt x.2.1 (q.first + x.1) x.2.2) (v.y.scale c) v.nan
    let r2 := match v.glint with
      | some g => glintStage r1.1 (g.1.scale c) g.2
      | none => (r1.1, false)
    (st.1.accPut x.2.1 (q.first + x.1) x.2.2 r2.1,
      if (r1.2 || r2.2) && !st.2.contains (x.2.1, (q.first + x.1) / 32) then st.2 ++ [(x.2.1, (q.first + x.1) / 32)] else st.2)

theorem passAttempt_eq (q : PassAt) (beyond : Bool) (fn : PassFn) (only : Nat → Nat → Bool) (s : State) :
    passAttempt q beyond fn only s = let r := q.elems.foldl (passStep q beyond fn only s) (s.core q.root, [])
      (s.setCore q.root r.1, r.2) := rfl

/-- A step writes its own element, and overflows its own tile or none. -/
theorem passStep_eq (q : PassAt) (beyond : Bool) (fn : PassFn) (only : Nat → Nat → Bool) (s : State) (st : Core × List (Nat × Nat))
    (x : Nat × Nat × Nat) : passStep q beyond fn only s st x = st ∨
      ∃ (v : Word) (b : Bool), passStep q beyond fn only s st x = (st.1.accPut x.2.1 (q.first + x.1) x.2.2 v,
        if b then st.2 ++ [(x.2.1, (q.first + x.1) / 32)] else st.2) := by
  rw [passStep]
  split
  · exact .inl rfl
  · split
    · exact .inl rfl
    · exact .inr ⟨_, _, rfl⟩

/-- An attempt writes elements of its rows, and the tiles that overflow are tiles of its rows. -/
theorem passAttempt_frame (hq : q.fits) (beyond : Bool) (fn : PassFn) (only : Nat → Nat → Bool) (s : State) :
    q.frame s (passAttempt q beyond fn only s).1 ∧ ∀ x ∈ (passAttempt q beyond fn only s).2, q.tile x.2 := by
  obtain ⟨hcore, htiles⟩ := List.foldlRecOn
    (motive := fun st : Core × List (Nat × Nat) => q.coreFrame (s.core q.root) st.1 ∧ ∀ x ∈ st.2, q.tile x.2)
    q.elems (passStep q beyond fn only s) (b := (s.core q.root, [])) ⟨.refl _, by simp⟩ (fun st h x hx => by
      obtain ⟨hi, hj⟩ := PassAt.elems_bounds hx
      obtain ⟨hcore, htiles⟩ := h
      rcases passStep_eq q beyond fn only s st x with he | ⟨v, b, he⟩
      · rw [he]
        exact ⟨hcore, htiles⟩
      · rw [he]
        refine ⟨hcore.trans (hq.accPut _ _ hj (PassAt.tile_of_row hi) v), fun y hy => ?_⟩
        rcases mem_ite_snoc hy with hy | rfl
        · exact htiles y hy
        · exact PassAt.tile_of_row hi)
  rw [passAttempt_eq]
  exact ⟨hcore.setCore, htiles⟩

/-! The retries, and the whole of a pass. -/

theorem State.coreEvent_byRegs (s : State) (n code k : Nat) (va : Option Nat) : s.byRegs (s.coreEvent n code k va) := (s.coreEvent_same n code k va).1

/-- What precedes a retry: the tile as it stood, scaled down, under the next count. -/
theorem retryStart_frame (hq : q.fits) (a : Nat) {t : Nat} (ht : q.tile t) (copy : List Word) (v : Nat) (s : State) : q.frame s
    (((s.onCore q.root (fun k => k.putTile a t copy)).setFld .arrHdr q.root a t 2 0 v).coreEvent q.root 0x09 1 none) := by
  have hput : q.frame s (s.onCore q.root (fun k => k.putTile a t copy)) := (PassAt.frame.refl s).thenCore (hq.putTile _ a ht copy)
  exact (hput.thenRegs (State.wr_byRegs ..)).thenRegs (State.coreEvent_byRegs ..)

theorem retryTile_frame (hq : q.fits) (beyond : Bool) (fn : PassFn) (a : Nat) {t : Nat} (ht : q.tile t) (fuel : Nat) (copy : List Word)
    (s : State) : q.frame s (retryTile q beyond fn a t fuel copy s) := by
  induction fuel generalizing copy s with
  | zero => exact .refl s
  | succ fuel ih =>
    have hcount : q.frame s (s.countFld .arrOvf q.root a 0 15 0 1) := (State.wr_byRegs ..).passFrame q
    simp only [retryTile]
    split
    · exact hcount.thenRegs (State.wr_byRegs ..)
    · have hagain := (hcount.trans (retryStart_frame hq a ht (copy.map (fun w => scale32 w (-16)))
          ((s.countFld .arrOvf q.root a 0 15 0 1).comp q.root a t + 1) _)).trans
        (passAttempt_frame hq beyond fn (fun x y => x == a && y == t) _).1
      split
      · exact hagain
      · exact hagain.trans (ih _ _)

theorem onePass_frame (hq : q.fits) (beyond : Bool) (fn : PassFn) (s : State) : q.frame s (onePass q beyond fn s) := by
  obtain ⟨hfirst, htiles⟩ := passAttempt_frame hq beyond fn (fun _ _ => true) s
  exact hfirst.trans (foldl_passFrame (fun t x hx => retryTile_frame hq beyond fn x.1 (htiles x hx) 8 _ t) _)

theorem runPasses_frame (hq : q.fits) (us : List PassUnit) (acc : Bool) (cc : Nat) (poison : Nat → Nat → Bool) (s : State) :
    q.frame s (runPasses us q acc cc poison s) := by
  have hset : ∀ l : List (Nat × Nat), q.frame s (if acc then s else l.foldl (fun s x => s.setFld .arrHdr q.root x.1 x.2 3 0 0) s) := by
    intro l
    split
    · exact .refl s
    · exact foldl_passFrame (fun t _ _ => (t.wr_byRegs ..).passFrame q) s
  unfold runPasses
  refine PassAt.frame.trans ?_ (foldl_passFrame (fun t _ _ => (t.wr_byRegs ..).passFrame q) _)
  refine PassAt.frame.thenRegs ?_ (State.coreEvent_byRegs ..)
  refine PassAt.frame.trans ?_ (foldl_passFrame (fun t _ _ => foldl_passFrame (fun u _ _ => onePass_frame hq _ _ u) t) _)
  exact (hset _).trans (foldl_passFrame (fun t _ _ => onePass_frame hq _ _ t) _)

theorem countTilePasses_frame (us : List PassUnit) (s : State) : q.frame s (s.countTilePasses q.root us q) := by
  refine foldl_passFrame (fun t a _ => ?_) s
  split
  · exact PassAt.coreFrame.setCore ⟨rfl, fun _ _ _ _ _ _ => rfl⟩
  · exact .refl t

end

end Sys2Proof.Machine
end
section
namespace Sys2Proof.Machine
open Sys2Proof

/-! ### PASS (R92, R93, R214) -/

/-- The hypotheses of a pass over plain rows of core store against banks of class 0, with its operands legal. -/
structure State.passReady (s : State) (n : Nat) (c : Cmd) (d : Desc) (l : List Bank) : Prop where
  loc : locOf c.w1 = true
  desc : (s.core n).descAt (addrOf c.w1) = some d
  plain : d.plainCore
  operand : d.fmt.isOperand = true
  whole : d.prism = 0
  count : 1 ≤ s.w3of n c 1 ∧ s.w3of n c 1 ≤ 512
  first : s.w3of n c 2 ≤ 511 ∧ s.w3of n c 2 + s.w3of n c 1 ≤ 512
  mode : s.w3of n c 4 < 6
  rows : s.w3of n c 0 + s.w3of n c 1 ≤ d.rows
  slab : s.w3of n c 3 < d.slabs
  banks : (List.range 4).mapM (fun a => tabFind (s.core n).banks (bankKey a (s.passBank n (s.w3of n c 4 / 2)))) = some l
  narrow : ∀ b ∈ l, b.desc.prism = 0 ∧ ∀ x ∈ b.cols, x.cls = 0

/-- The operands of a pass. -/
def State.passArgs (s : State) (n : Nat) (c : Cmd) : PassArgs :=
  ⟨s.w3of n c 0, s.w3of n c 1, s.w3of n c 2, s.w3of n c 3, ⟨bit (s.w3of n c 4) 0, s.w3of n c 4 / 2⟩⟩

/-- Where a pass of core n writes into its own accumulators. -/
def State.passAt (s : State) (n : Nat) (c : Cmd) : PassAt := ⟨n, s.w3of n c 2, s.w3of n c 1⟩

/-- The activation rows of a pass over a plain tensor of core k's store. -/
def Core.plainRows (k : Core) (d : Desc) (q : PassArgs) : List SlabData :=
  (List.range q.count).map (fun i => k.plainSlab d (q.row0 + i) q.sc)

/-- What core k brings to a pass of plain rows against banks of class 0. -/
def Core.plainUnit (k : Core) (d : Desc) (q : PassArgs) (l : List Bank) : PassUnit :=
  let w := (l.head?.map (·.desc)).getD d
  ⟨d.fmt, dy32 d.tscale, k.plainRows d q, w.fmt, dy32 w.tscale, l.map (·.cols)⟩

theorem State.passBank_issue (s : State) {n : Nat} (hn : n < 192) (c : Cmd) (b : Nat) : (s.issue n c).passBank n b = s.passBank n b := by
  rw [State.passBank, s.fld_issue n c (Reg.arrEpoch_addr hn), State.passBank]

section
variable {n : Nat} {c : Cmd} {s : State} {d : Desc} {l : List Bank} {r : Run}

theorem State.passReady.issue (h : s.passReady n c d l) (hn : n < 192) : (s.issue n c).passReady n c d l where
  loc := h.loc
  desc := by simpa using h.desc
  plain := h.plain
  operand := h.operand
  whole := h.whole
  count := by simpa using h.count
  first := by simpa using h.first
  mode := by simpa using h.mode
  rows := by simpa using h.rows
  slab := by simpa using h.slab
  banks := by simpa only [State.banks_issue, s.passBank_issue hn, State.w3of_issue] using h.banks
  narrow := h.narrow

theorem State.passReady.fits (h : s.passReady n c d l) : (s.passAt n c).fits := ⟨h.count.1, h.first.2⟩

theorem passMode_block {m : Nat} (hm : m < 6) : bits m 2 1 = m / 2 := by
  simp only [bits]
  omega

theorem go_passMode {m : Nat} (hm : m < 6) : CM.go (passMode m) r = (.ok ⟨bit m 0, m / 2⟩, r) := by
  have hlegal : (decide (m < 8) && bits m 2 1 != 3) = true := by
    rw [passMode_block hm]
    simp
    omega
  simp only [passMode, CM.go_bind, CM.go_need, hlegal, if_true, CM.go_pure]
  rw [passMode_block hm]

theorem go_passArgs (h : s.passReady n c d l) (f : Nat) : CM.go (passArgs n c) ⟨s, f, none⟩ = (.ok (s.passArgs n c), ⟨s, f, none⟩) := by
  have hlegal : (decide (1 ≤ s.w3of n c 1) && decide (s.w3of n c 1 ≤ 512) && decide (s.w3of n c 2 ≤ 511) &&
      decide (s.w3of n c 2 + s.w3of n c 1 ≤ 512)) = true := by
    simp [h.count, h.first]
  simp only [passArgs, CM.go_bind, CM.go_w3, go_passMode h.mode, CM.go_need, hlegal, if_true, CM.go_pure, State.passArgs]

theorem go_passDesc (h : s.passReady n c d l) (f : Nat) : CM.go (passDesc n c (s.passArgs n c)) ⟨s, f, none⟩ = (.ok d, ⟨s, f, none⟩) := by
  have hrows : (s.passArgs n c).row0 + (s.passArgs n c).count ≤ d.rows := h.rows
  have hslab : (s.passArgs n c).sc < d.slabs := h.slab
  have hchecks : ∀ r, CM.go (needAll [(d.fmt.isOperand, 0x04), (decide ((s.passArgs n c).row0 + (s.passArgs n c).count ≤ d.rows) &&
      decide ((s.passArgs n c).sc < d.slabs), 0x06), (d.loc, 0x12)]) r = (.ok (), r) :=
    CM.go_needAll (by simp [h.operand, hrows, hslab, h.plain.2.1])
  simp only [passDesc, h.loc, CM.go_bind, go_useDesc (r := ⟨s, f, none⟩) h.desc h.plain.1, hchecks,
    go_needRange h.plain (Core.descAt_plain h.desc h.plain.1), CM.go_pure]

theorem go_passBanks (h : s.passReady n c d l) (f : Nat) : CM.go (passBanks n (s.passArgs n c).mode) ⟨s, f, none⟩ = (.ok l, ⟨s, f, none⟩) := by
  simp only [passBanks, State.passArgs, CM.go_bind, CM.go_getS, h.banks, CM.go_pure]

theorem State.passReady.samePrism (h : s.passReady n c d l) : l.all (fun b => samePrism d b.desc) = true :=
  List.all_eq_true.2 (fun b hb => by simp [Machine.samePrism, h.whole, (h.narrow b hb).1])

theorem go_readRows (h : s.passReady n c d l) (f : Nat) : CM.go (readRows n d (s.passArgs n c)) ⟨s, f, none⟩ =
    (.ok ((s.core n).plainRows d (s.passArgs n c)), ⟨s, f, none⟩) := by
  refine CM.go_mapM (fun i hi => ?_)
  have hrow : (s.passArgs n c).row0 + i < d.rows :=
    lt_of_lt_of_le (Nat.add_lt_add_left (List.mem_range.1 hi) _) h.rows
  rw [CM.go_bind_ok (go_readSlab h.plain (sc := (s.passArgs n c).sc) hrow h.slab)]
  exact go_fillRecords rfl _ _

/-- A bank of class 0 has no records to load. -/
theorem go_readBank {b : Bank} (hb : ∀ x ∈ b.cols, x.cls = 0) : CM.go (readBank n b) r = (.ok b.cols, r) := by
  have hread := CM.go_mapM (l := List.range b.cols.length) (r := r) (g := fun j => b.cols.getD j ⟨[], [], [], 0, [], false⟩)
    (f := fun j => match b.cols[j]? with
      | some x => fillRecords n b.desc (b.row0 + j) b.slab x
      | none => refuse 0x06) (fun j hj => by
        have hj := List.mem_range.1 hj
        simp only [List.getElem?_eq_getElem hj, List.getD_eq_getElem?_getD, Option.getD_some]
        exact go_fillRecords (hb _ (List.getElem_mem hj)) _ _)
  refine hread.trans ?_
  congr 2
  exact List.ext_getElem (by simp) (fun j _ hj => by simp [List.getD_eq_getElem?_getD, List.getElem?_eq_getElem hj])

theorem go_passUnit (hnarrow : ∀ b ∈ l, ∀ x ∈ b.cols, x.cls = 0) (k : Core) (q : PassArgs) :
    CM.go (passUnit n d (k.plainRows d q) l) r = (.ok (k.plainUnit d q l), r) := by
  unfold passUnit
  rw [CM.go_bind_ok (CM.go_mapM (fun b hb => go_readBank (hnarrow b hb)))]
  cases l <;> rfl

theorem go_passInto (us : List PassUnit) (q : PassAt) (acc : Bool) (cc : Nat) : CM.go (passInto us q acc cc) r = (.ok (),
    { r with
      s := runPasses us q acc cc (passPoison us q) r.s
      flags := if (passTiles us q).any (fun x => passPoison us q x.1 x.2) then r.flags ||| 0x200 else r.flags }) := by
  simp only [passInto, CM.go_bind, CM.go_modS, CM.go_flagIf]

theorem go_pass (h : s.passReady n c d l) (f : Nat) :
    ∃ r, CM.go (passBody n c) ⟨s, f, none⟩ = (.ok true, r) ∧ (s.passAt n c).frame s r.s := by
  have hgo : ∃ us acc cc b f', CM.go (passBody n c) ⟨s, f, none⟩ = (.ok true, ⟨(runPasses us (s.passAt n c) acc cc
      (passPoison us (s.passAt n c)) (s.setFld .arrEpoch n 0 0 8 8 b)).countTilePasses n us (s.passAt n c), f', none⟩) := by
    simp only [passBody, CM.go_bind, go_passArgs h, go_passDesc h, go_passBanks h, CM.go_need, h.samePrism, if_true, go_readRows h,
      go_passUnit (fun b hb => (h.narrow b hb).2), CM.go_modS, CM.go_getS, go_passInto, CM.go_pure]
    exact ⟨_, _, _, _, _, rfl⟩
  obtain ⟨us, acc, cc, b, f', hgo⟩ := hgo
  refine ⟨_, hgo, PassAt.frame.trans ?_ (countTilePasses_frame us _)⟩
  exact ((s.wr_byRegs ..).passFrame _).trans (runPasses_frame h.fits us acc cc _ _)

/-! ### CPASS (R92, R93, R213) -/

theorem CM.go_tryCatch_ok {α : Type} {x : CM α} {f : Stop → CM α} {r r' : Run} {a : α} (h : CM.go x r = (.ok a, r')) :
    CM.go (tryCatch x f) r = (.ok a, r') := by
  change (ExceptT.tryCatch x f).run.run r = _
  rw [ExceptT.tryCatch, ExceptT.run_mk, StateT.run_bind]
  change (CM.go x r >>= _ : Id _) = _
  rw [h]
  rfl

/-- The rectangle of the one core n. -/
def Rect.onlyCore (r : Rect) (n : Nat) : Prop := r.cores = [n] ∧ r.origin = n ∧ r.w = 1 ∧ r.h = 1

theorem Rect.onlyCore.at_zero {r : Rect} (h : r.onlyCore n) : r.at 0 0 = n := by
  obtain ⟨-, ho, -, -⟩ := h
  simp [Rect.at, ho]

/-- The run of a CPASS over a rectangle of one core. -/
theorem go_rectRun (h : s.passReady n c d l) {q : Rect} (hq : q.onlyCore n) (f : Nat) :
    ∃ r, CM.go (rectRun q n c (s.passArgs n c)) ⟨s, f, none⟩ = (.ok (), r) ∧ (s.passAt n c).frame s r.s ∧ r.vals = none := by
  have hat := hq.at_zero
  obtain ⟨-, -, hw, hh⟩ := hq
  have hgo : ∃ us acc cc b f', CM.go (rectRun q n c (s.passArgs n c)) ⟨s, f, none⟩ = (.ok (), ⟨runPasses us (s.passAt n c) acc cc
      (passPoison us (s.passAt n c)) (s.setFld .arrEpoch n 0 0 8 8 b), f', none⟩) := by
    have hcolumn : CM.go (rectColumn q c (s.passArgs n c) 0) ⟨s, f, none⟩ =
        (.ok [(s.core n).plainUnit d (s.passArgs n c) l], ⟨s, f, none⟩) := by
      rw [rectColumn, hh]
      refine CM.go_mapM (l := List.range 1) (g := fun _ => (s.core n).plainUnit d (s.passArgs n c) l) (fun i hi => ?_)
      obtain rfl : i = 0 := Nat.lt_one_iff.1 (List.mem_range.1 hi)
      simp only [hat, CM.go_bind, go_passDesc h, go_passBanks h, CM.go_need, h.samePrism, if_true, go_readRows h,
        go_passUnit (fun b hb => (h.narrow b hb).2)]
    have hone : List.range 1 = [0] := rfl
    simp only [rectRun, hw, hh, hone, List.forM_eq_forM, List.forM_cons, List.forM_nil, List.foldl_cons, List.foldl_nil, Nat.sub_self,
      CM.go_bind, hcolumn, hat, CM.go_modS, CM.go_getS, go_passInto, CM.go_pure]
    exact ⟨_, _, _, _, _, rfl⟩
  obtain ⟨us, acc, cc, b, f', hgo⟩ := hgo
  exact ⟨_, hgo, ((s.wr_byRegs ..).passFrame _).trans (runPasses_frame h.fits us acc cc _ _), rfl⟩

/-- A core that issues a CPASS is the only one of its rectangle: it runs it (R93). -/
theorem go_cpass_alone (h : s.passReady n c d l) {q : Rect} (hr : s.rectOf n = some q) (hconst : q.const = true)
    (hbit : s.fld .arrConst n 0 0 0 0 = 1) (hq : q.onlyCore n) (f : Nat) :
    ∃ r, CM.go (cpassBody n c) ⟨s, f, none⟩ = (.ok true, r) ∧ (s.passAt n c).frame s r.s := by
  obtain ⟨⟨s', f', v⟩, hrun, hframe, rfl⟩ := go_rectRun h hq f
  have htry : CM.go (tryCatch (do
      rectRun q n c (s.passArgs n c)
      return none) (fun e => return some e)) ⟨s, f, none⟩ = (.ok none, ⟨s', f', none⟩) :=
    CM.go_tryCatch_ok (by rw [CM.go_bind_ok hrun, CM.go_pure])
  have hothers : q.cores.filter (· != n) = [] := by simp [hq.1]
  refine ⟨⟨s', f', none⟩, ?_, hframe⟩
  simp only [cpassBody, CM.go_bind, go_passArgs h, CM.go_getS, hr, CM.go_need, hconst, hbit, BEq.rfl, Bool.and_self, if_true, CM.go_ite,
    go_passDesc h, go_passBanks h, CM.go_pure, ite_self, hothers, List.all_nil, htry, CM.go_get, CM.go_modS, endFlights, List.foldl_nil]

/-- Core n with its CPASS in flight. -/
def State.cpassWaits (s : State) (n : Nat) (c : Cmd) : State := s.onCore n (fun k => { k with
  flights := k.flights ++ [⟨c, (k.cp + 2 ^ 48 - 32) % 2 ^ 48, k.cc,
    [s.w3of n c 0, s.w3of n c 1, s.w3of n c 2, s.w3of n c 3, s.w3of n c 4], 0, 0⟩] })

theorem b2n_bit_add (m : Nat) : b2n (bit m 0) + 2 * (m / 2) = m := by
  simp only [b2n, bit, Nat.testBit_zero, decide_eq_true_eq]
  split <;> omega

/-- A core of the rectangle without a CPASS in flight keeps it waiting (R213). -/
theorem go_cpass_waits (h : s.passReady n c d l) {q : Rect} (hr : s.rectOf n = some q) (hconst : q.const = true)
    (hbit : s.fld .arrConst n 0 0 0 0 = 1) {m : Nat} (hm : m ∈ q.cores) (hmn : m ≠ n) (hidle : (s.core m).flights = []) (f : Nat) :
    CM.go (cpassBody n c) ⟨s, f, none⟩ = (.ok false, ⟨s.cpassWaits n c, f, none⟩) := by
  have hmode : b2n (s.passArgs n c).mode.acc + 2 * (s.passArgs n c).mode.block = s.w3of n c 4 :=
    b2n_bit_add _
  have hnot : ∀ g : Nat → Bool, g m = false → (q.cores.filter (· != n)).all g = false := fun g hg =>
    List.all_eq_false.2 ⟨m, List.mem_filter.2 ⟨hm, by simp [hmn]⟩, by simp [hg]⟩
  have hflight : (s.core m).cpassFlight = none := by simp [Core.cpassFlight, hidle]
  simp only [cpassBody, CM.go_bind, go_passArgs h, CM.go_getS, hr, CM.go_need, hconst, hbit, BEq.rfl, Bool.and_self, if_true, CM.go_ite,
    go_passDesc h, go_passBanks h, CM.go_pure, ite_self]
  rw [if_neg, CM.go_modS]
  · rw [hmode]
    rfl
  · rw [hnot]
    · decide
    · rw [hflight]

/-! ### The statement -/

theorem exec_pass (hn : n < 192) (hop : c.op = 0x11) : exec (.pass n c []) s = .next (pilotRun n c (passBody n c) s) := by
  have h : exec (.pass n c []) s = .next (pilotRun n c (passBody n c) (s.sramErrors n [])) :=
    if_pos (by simp [Instr.wf, pilotWf, hn, hop])
  rwa [s.sramErrors_nil] at h

theorem exec_cpass (hn : n < 192) (hop : c.op = 0x12) : exec (.cpass n c) s = .next (pilotRun n c (cpassBody n c) s) :=
  answer_pilot rfl hn hop _

theorem Reg.arrConst_addr (hn : n < 192) : Reg.arrConst.addr n 0 0 < countersFrom := by
  simp only [Reg.addr, Reg.spec, Blk.base, countersFrom]
  omega

/-- What stays of a state through issue and a pass. -/
theorem PassAt.frame.keeps {q : PassAt} {u : State} (h : q.frame (s.issue q.root c) u) :
    (∀ a r j, r < 512 → j < 32 → ¬ q.tile (r / 32) → (u.core q.root).accAt a r j = (s.core q.root).accAt a r j) ∧
    (u.core q.root).cs = (s.core q.root).cs ∧ (∀ k, (u.core q.root).xval k = (s.core q.root).xval k) ∧ u.mem = s.mem ∧
    ∀ m, m ≠ q.root → u.core m = s.core m := by
  have hrest := h.root.rest
  refine ⟨fun a r j hr hj ht => ?_, ?_, fun k => ?_, h.mem_eq.trans (s.issue_mem ..), fun m hm => ?_⟩
  · rw [h.root.acc a r j hr hj ht, Core.accAt, State.acc_issue, Core.accAt]
  · rw [hrest, ← s.cs_issue q.root c]
  · rw [← s.xval_issue q.root c, hrest]
    rfl
  · rw [h.other m hm, s.core_issue_other _ _ hm]

end

/-- Settles O19: every step of a pass stays within `PassAt.frame`. -/
theorem passes : Obligations.Passes := by
  intro n c s d l hn hrun hloc hd hp hop hprism row0 k first sc mode h1 hk hfirst hfit hmode hrows hsc hbanks hnarrow keeps
  have hready : s.passReady n c d l := ⟨hloc, hd, hp, hop, hprism, ⟨h1, hk⟩, ⟨hfirst, hfit⟩, hmode, hrows, hsc, hbanks, hnarrow⟩
  have hissue := hready.issue hn
  have hkeeps : ∀ u, ((s.issue n c).passAt n c).frame (s.issue n c) u → keeps u := by
    intro u hu
    rw [State.passAt, s.w3of_issue, s.w3of_issue] at hu
    obtain ⟨hacc, hrest⟩ := hu.keeps
    exact ⟨fun a r j _ hr hj ht => hacc a r j hr hj (fun htile => ht.elim (not_lt.2 htile.1) (not_lt.2 htile.2)), hrest⟩
  refine ⟨fun hpass => ?_, fun q hcpass hr hconst hbit => ?_⟩
  · obtain ⟨r, hgo, hframe⟩ := go_pass hissue 0
    exact completes_of_go (exec_pass hn hpass) hrun hgo (hkeeps _ hframe)
  · have hr' : (s.issue n c).rectOf n = some q := by simpa using hr
    have hbit' : (s.issue n c).fld .arrConst n 0 0 0 0 = 1 := by rwa [s.fld_issue n c (Reg.arrConst_addr hn)]
    refine ⟨fun hcores horigin hw hh => ?_, fun m hm hmn hidle => ?_⟩
    · obtain ⟨r, hgo, hframe⟩ := go_cpass_alone hissue hr' hconst hbit' ⟨hcores, horigin, hw, hh⟩ 0
      exact completes_of_go (exec_cpass hn hcpass) hrun hgo (hkeeps _ hframe)
    · have hidle' : ((s.issue n c).core m).flights = [] := by rwa [s.core_issue_other n c hmn]
      rw [exec_cpass hn hcpass, pilotRun_inFlight hrun (go_cpass_waits hissue hr' hconst hbit' hm hmn hidle' 0)]
      simp only [State.cpassWaits, State.w3of_issue, State.onCore, State.cp_issue, State.cc_issue]
      rfl

end Sys2Proof.Machine
end
section
namespace Sys2Proof.Machine
open Sys2Proof

/-! ## O36: jobs end -/

/-! ### What Helm's bookkeeping leaves alone -/

/-- The registers of the work queues (R307) take these offsets. -/
def wqBlock (a : Nat) : Prop := 0x30000 ≤ a ∧ a < 0x31000

/-- The bookkeeping of partition p leaves its queues with their registers and jobs, its page table, the fabric, and every core's store and
accumulators. -/
structure State.booked (p : Nat) (s t : State) : Prop where
  fabric : t.fabric = s.fabric
  pages : (t.part p).pages = (s.part p).pages
  queues : (t.part p).queues = (s.part p).queues
  stores : ∀ n, (t.core n).cs = (s.core n).cs ∧ (t.core n).acc = (s.core n).acc
  wq : ∀ r b i j, wqBlock (Reg.addr r b i j) → t.rd r b i j = s.rd r b i j

theorem Reg.wqHead_addr {p q : Nat} (hp : p < 8) (hq : q < 64) : wqBlock (Reg.addr .helmWqHead 0 p q) := by
  simp only [wqBlock, Reg.addr, Reg.spec, Blk.base]
  omega

theorem Reg.wqTail_addr {p q : Nat} (hp : p < 8) (hq : q < 64) : wqBlock (Reg.addr .helmWqTail 0 p q) := by
  simp only [wqBlock, Reg.addr, Reg.spec, Blk.base]
  omega

theorem wqBlock.lt_counters {a : Nat} (h : wqBlock a) : a < countersFrom := lt_trans h.2 (by decide)

section
variable {p : Nat} {s t u : State}

theorem State.booked.refl (s : State) : State.booked p s s := ⟨rfl, rfl, rfl, fun _ => ⟨rfl, rfl⟩, fun _ _ _ _ _ => rfl⟩

theorem State.booked.trans (h : State.booked p s t) (g : State.booked p t u) : State.booked p s u where
  fabric := g.fabric.trans h.fabric
  pages := g.pages.trans h.pages
  queues := g.queues.trans h.queues
  stores := fun n => ⟨(g.stores n).1.trans (h.stores n).1, (g.stores n).2.trans (h.stores n).2⟩
  wq := fun r b i j ha => (g.wq r b i j ha).trans (h.wq r b i j ha)

theorem Part.onePage_congr {x x' : Part} (h : x'.pages = x.pages) {va len : Nat} {w : Bool} : x'.onePage va len w ↔ x.onePage va len w := by
  simp only [Part.onePage, Part.page?, h]

theorem State.booked.onePage_iff (h : State.booked p s t) {va len : Nat} {w : Bool} :
    (t.part p).onePage va len w ↔ (s.part p).onePage va len w := Part.onePage_congr h.pages

theorem foldl_booked {α : Type} {f : State → α → State} {l : List α} (h : ∀ s, ∀ x ∈ l, State.booked p s (f s x)) (s : State) :
    State.booked p s (l.foldl f s) :=
  List.foldlRecOn (motive := State.booked p s) l f (.refl s) (fun t ht x hx => ht.trans (h t x hx))

/-- A write of a register outside the block of the work queues. -/
theorem State.wr_booked (s : State) (r : Reg) (b i j : Nat) (v : Word) (h : ¬ wqBlock (Reg.addr r b i j)) :
    State.booked p s (s.wr r b i j v) where
  fabric := rfl
  pages := rfl
  queues := rfl
  stores := fun _ => ⟨rfl, rfl⟩
  wq := fun r' b' i' j' ha => s.rd_wr_other r r' b i j b' i' j' v (fun he => h (he ▸ ha))

theorem State.sameButCounters.booked (h : s.sameButCounters t) : State.booked p s t where
  fabric := h.fabric_eq
  pages := by rw [h.part_eq]
  queues := by rw [h.part_eq]
  stores := fun n => by rw [h.core_eq]; exact ⟨rfl, rfl⟩
  wq := fun _ _ _ _ ha => h.rd_eq ha.lt_counters

theorem State.signalled.booked (h : State.signalled p s t) (hp : p < 8) : State.booked p s t where
  fabric := h.events.fabric_eq
  pages := by
    obtain ⟨_, _, _, hpart⟩ := h.part
    rw [hpart]
  queues := by
    obtain ⟨_, _, _, hpart⟩ := h.part
    rw [hpart]
  stores := fun n => by rw [State.core, h.events.cores_eq]; exact ⟨rfl, rfl⟩
  wq := fun r b i j ha => by
    refine h.rd r b i j (fun he => ?_) (fun he => ?_) <;>
    · rw [he] at ha
      simp only [wqBlock, Reg.addr, Reg.spec, Blk.base] at ha
      omega

theorem State.raise_booked (s : State) (hp : p < 8) (cause unit tag value : Nat) : State.booked p s (s.raise p cause unit tag value) :=
  (s.raise_signalled p cause unit tag value).booked hp

/-- A change of the Logbook's state. -/
theorem State.onRel_booked (s : State) (f : Reliab → Reliab) : State.booked p s (s.onRel f) :=
  ⟨rfl, rfl, rfl, fun _ => ⟨rfl, rfl⟩, fun _ _ _ _ _ => rfl⟩

theorem Reg.log_addr (hp : p < 8) : ¬ wqBlock (Reg.addr .logRd 0 p 0) ∧ ¬ wqBlock (Reg.addr .logStatus 0 0 0) := by
  simp only [wqBlock, Reg.addr, Reg.spec, Blk.base]
  omega

theorem State.offerBmc_booked (s : State) (hp : p < 8) (r : LogRec) : State.booked p s (s.offerBmc r) := by
  simp only [State.offerBmc]
  split
  · exact s.onRel_booked _
  · exact s.wr_booked _ _ _ _ _ (Reg.log_addr hp).2

/-- A record that partition p is shown. -/
theorem State.log_booked (s : State) (hp : p < 8) {r : LogRec} (hr : r.part = p) : State.booked p s (s.log r) := by
  have fresh : ∀ r' : LogRec, r'.part = p → State.booked p s (let t := (s.onRel (fun x =>
      { x with ring := tabPut x.ring (x.seq % 4096) (some r'), seq := x.seq + 1 })).offerBmc r'
    if r'.part < 8 then (t.orReg .logRd 0 r'.part 0 0x80000000).raise r'.part 11 0 r'.tag r'.seq else t) := by
    intro r' hr'
    have h := (s.onRel_booked (p := p) (fun x => { x with ring := tabPut x.ring (x.seq % 4096) (some r'), seq := x.seq + 1 })).trans
      (State.offerBmc_booked _ hp r')
    rw [hr']
    simp only [hp, if_true]
    exact (h.trans (State.wr_booked _ .logRd 0 p 0 _ (Reg.log_addr hp).1)).trans (State.raise_booked _ hp ..)
  simp only [State.log]
  split
  · split
    · exact s.onRel_booked _
    · exact fresh { r with mtime := s.now, seq := s.rel.seq % 2 ^ 32, temp := s.unitTemp r.kind r.unit, mv := s.unitMv r.kind r.unit } hr
  · exact fresh { r with mtime := s.now, seq := s.rel.seq % 2 ^ 32, temp := s.unitTemp r.kind r.unit, mv := s.unitMv r.kind r.unit } hr

end

end Sys2Proof.Machine
end
section
namespace Sys2Proof.Machine
open Sys2Proof

/-! ### Helm's accesses to an entry in a resident page (R286) -/

theorem State.memDo_booked (p : Nat) (s : State) (w : Who) (f : Mem → Mem) : State.booked p s (s.memDo w f) :=
  State.booked.trans (t := { s with mem := f s.mem }) ⟨rfl, rfl, rfl, fun _ => ⟨rfl, rfl⟩, fun _ _ _ _ _ => rfl⟩ (s.memDo_same w f).booked

theorem mapM_eq_some_map {α β : Type} {f : α → Option β} {g : α → β} {l : List α} (h : ∀ x ∈ l, f x = some (g x)) :
    l.mapM f = some (l.map g) := by
  induction l with
  | nil => rfl
  | cons x l ih =>
    rw [List.mapM_cons, h x (List.mem_cons_self ..), ih (fun y hy => h y (List.mem_cons_of_mem _ hy))]
    rfl

section
variable {p : Nat} {s : State}

theorem State.pokeByte_booked (s : State) (va : Nat) (b : Byte) : State.booked p s (s.pokeByte p va b) := by
  simp only [State.pokeByte]
  split
  · exact .refl s
  · split
    · exact State.memDo_booked p s _ _
    · refine ⟨rfl, ?_, ?_, fun _ => ⟨rfl, rfl⟩, fun _ _ _ _ _ => rfl⟩ <;> rw [State.part_setPart_same]

theorem State.poke_booked (s : State) (va : Nat) (l : List Byte) : State.booked p s (s.poke p va l) := by
  induction l generalizing s va with
  | nil => exact .refl s
  | cons b l ih => exact (s.pokeByte_booked va b).trans (ih _ _)

variable {g : Page} {f : Nat}

theorem State.pokeByte_mem {va : Nat} (hg : (s.part p).page? va = some g) (hf : g.frame = some f) (b : Byte) :
    (s.pokeByte p va b).mem = s.mem.write s.grade (g.phys f va) [b] false := by
  simp only [State.pokeByte, hg, hf, State.memDo_mem, Page.phys]

theorem Page.phys_eq_iff {a b : Nat} (ha : g.va ≤ a) (hb : g.va ≤ b) : g.phys f a = g.phys f b ↔ a = b := by
  simp only [Page.phys]
  omega

theorem State.pokeByte_byteOf {va a : Nat} (hm : s.mem.wf) (hg : (s.part p).page? va = some g) (hf : g.frame = some f) (b : Byte)
    (ha : g.va ≤ a) : (s.pokeByte p va b).mem.byteOf (g.phys f a) = if a = va then b else s.mem.byteOf (g.phys f a) := by
  have hiff := Page.phys_eq_iff (f := f) ha (Part.page?_bounds hg).1
  rw [State.pokeByte_mem hg hf, Mem.byteOf_write _ _ _ _ hm]
  by_cases h : a = va
  · simp [h]
  · have hne := mt hiff.1 h
    rw [if_neg h, if_neg (by rw [List.length_singleton]; omega)]

/-- A write to a resident page changes the bytes of its range. -/
theorem State.poke_byteOf (hf : g.frame = some f) {l : List Byte} {va : Nat} (hm : s.mem.wf)
    (hg : ∀ a, va ≤ a → a < va + l.length → (s.part p).page? a = some g) : (s.poke p va l).mem.wf ∧ ∀ a, g.va ≤ a →
      (s.poke p va l).mem.byteOf (g.phys f a) = if va ≤ a ∧ a < va + l.length then l.getD (a - va) 0#8 else s.mem.byteOf (g.phys f a) := by
  induction l generalizing s va with
  | nil => exact ⟨hm, fun a _ => by rw [if_neg (by simp)]; rfl⟩
  | cons b l ih =>
    have hva := hg va (Nat.le_refl _) (by simp)
    have hpage : ∀ a, (((s.pokeByte p va b).part p).page? a) = (s.part p).page? a := fun a => by
      simp only [Part.page?, (s.pokeByte_booked va b).pages]
    have hm' : (s.pokeByte p va b).mem.wf := by
      rw [State.pokeByte_mem hva hf]
      exact Mem.write_wf _ _ _ _ hm
    obtain ⟨hwf, hrest⟩ := ih (va := va + 1) hm' (fun a h1 h2 => (hpage a).trans (hg a (by omega) (by simp; omega)))
    refine ⟨hwf, fun a ha => ?_⟩
    rw [State.poke, hrest a ha, State.pokeByte_byteOf hm hva hf b ha]
    rcases Nat.lt_trichotomy a va with h | rfl | h
    · rw [if_neg (by omega), if_neg (by omega), if_neg (by omega)]
    · simp
    · have hiff : va + 1 ≤ a ∧ a < va + 1 + l.length ↔ va ≤ a ∧ a < va + (b :: l).length := by
        rw [List.length_cons]
        omega
      simp only [hiff, if_neg (Nat.ne_of_gt h), show a - va = (a - (va + 1)) + 1 by omega, List.getD_cons_succ]

/-- What Helm reads of a resident page. -/
theorem State.peek_eq (hf : g.frame = some f) {va len : Nat} (hm : s.mem.wf)
    (hg : ∀ a, va ≤ a → a < va + len → (s.part p).page? a = some g) :
    s.peek p va len = some ((List.range len).map (fun i => s.mem.byteOf (g.phys f (va + i)))) := by
  refine mapM_eq_some_map (fun i hi => ?_)
  have hi := List.mem_range.1 hi
  have hbyte : ∀ b : Byte, BitVec.ofNat 8 (leNat [b]) = b := fun b => by simp [leNat]
  simp only [hg (va + i) (by omega) (by omega), hf, Mem.look_one hm, Page.phys, hbyte]

end

end Sys2Proof.Machine
end
section
namespace Sys2Proof.Machine
open Sys2Proof

/-! ### An add to a synchronisation object (R230, R231, R233) -/

theorem tabFind_map {α β : Type} (f : Nat × α → β) (l : Tab α) (n : Nat) :
    tabFind (l.map (fun x => (x.1, f x))) n = (tabFind l n).map (fun c => f (n, c)) := by
  induction l with
  | nil => rfl
  | cons x l ih =>
    by_cases h : x.1 = n
    · subst h; simp [tabFind]
    · simpa [tabFind, h] using ih

/-- A core as a signal of object k with value v leaves it: stirred where the object is its partition's, its wait on the object tested. -/
def Core.signalled (y : Core) (mine : Bool) (k v : Nat) : Core :=
  let y := if mine then { y with stirred := true } else y
  match y.pilot with
  | .waitSync o t _ => if o == k && decide (t ≤ v) then { y with pilot := .waitSync o t true } else y
  | _ => y

theorem Core.signalled_stores (y : Core) (mine : Bool) (k v : Nat) : (y.signalled mine k v).cs = y.cs ∧ (y.signalled mine k v).acc = y.acc := by
  have hstir : (if mine then { y with stirred := true } else y).cs = y.cs ∧ (if mine then { y with stirred := true } else y).acc = y.acc := by
    cases mine <;> exact ⟨rfl, rfl⟩
  simp only [Core.signalled]
  split
  · split
    · exact hstir
    · exact hstir
  · exact hstir

section
variable {p k : Nat} {s : State}

/-- The cores after a signal. -/
def State.signalCores (s : State) (k v : Nat) : State :=
  { s with cores := s.cores.map (fun x => (x.1, x.2.signalled (s.holder x.1 == some (s.fld .helmSyncCtl 0 k 0 6 4)) k v)) }

theorem State.signalCores_booked (s : State) (k v : Nat) : State.booked p s (s.signalCores k v) where
  fabric := rfl
  pages := rfl
  queues := rfl
  stores := fun n => by
    simp only [State.core, tabGet, State.signalCores, tabFind_map]
    cases tabFind s.cores n with
    | none => exact ⟨rfl, rfl⟩
    | some y => exact y.signalled_stores _ k v
  wq := fun _ _ _ _ _ => rfl

theorem State.syncPut_eq (s : State) (k v : Nat) : s.syncPut k v =
    let t := (s.wr .helmSyncCount 0 k 0 (BitVec.ofNat 32 v)).signalCores k v
    if t.fld .helmSyncCtl 0 k 0 0 0 == 1 && decide ((s.rd .helmSyncCount 0 k).toNat < (s.rd .helmSyncIrq 0 k).toNat) &&
      decide ((s.rd .helmSyncIrq 0 k).toNat ≤ v)
    then (t.orReg .helmSyncCtl 0 k 0 2).raise (t.fld .helmSyncCtl 0 k 0 6 4) 3 k 0 v else t := rfl

theorem getBits_or_low (w : Word) {v lo : Nat} (hi : Nat) (h : v < 2 ^ lo) : getBits (w ||| BitVec.ofNat 32 v) hi lo = getBits w hi lo := by
  have hv : (v % 2 ^ 32) >>> lo = 0 := by
    rw [Nat.shiftRight_eq_div_pow]
    exact Nat.div_eq_of_lt ((Nat.mod_le ..).trans_lt h)
  simp only [getBits, bits, BitVec.toNat_or, BitVec.toNat_ofNat, Nat.shiftRight_or_distrib, hv, Nat.or_zero]

/-- The registers of an object lie apart from each other, from the work queues', and from what an event writes. -/
theorem Reg.sync_addr (hk : k < 16384) : Reg.addr .helmSyncCtl 0 k 0 ≠ Reg.addr .helmSyncCount 0 k 0 ∧
    ¬ wqBlock (Reg.addr .helmSyncCtl 0 k 0) ∧ ¬ wqBlock (Reg.addr .helmSyncCount 0 k 0) ∧
    ∀ r, r < 8 → Reg.addr .helmSyncCount 0 k 0 ≠ Reg.addr .helmIrqStatus 0 r 0 ∧
      Reg.addr .helmSyncCount 0 k 0 ≠ Reg.addr .helmEvqStatus 0 r 0 := by
  simp only [wqBlock, Reg.addr, Reg.spec, Blk.base]
  refine ⟨by omega, by omega, by omega, fun r hr => by omega⟩

/-- What an add to object k of partition p does: its count alone is neither bookkeeping nor memory. -/
structure State.counted (p k v : Nat) (s t : State) : Prop where
  booked : State.booked p s t
  mem : t.mem = s.mem
  count : t.rd .helmSyncCount 0 k = BitVec.ofNat 32 v

theorem State.syncPut_counted (hp : p < 8) (hk : k < 16384) (hown : s.fld .helmSyncCtl 0 k 0 6 4 = p) (v : Nat) :
    State.counted p k v s (s.syncPut k v) := by
  obtain ⟨hne, hctl, hcount, hevent⟩ := Reg.sync_addr hk
  have hput : State.counted p k v s ((s.wr .helmSyncCount 0 k 0 (BitVec.ofNat 32 v)).signalCores k v) :=
    ⟨(s.wr_booked _ _ _ _ _ hcount).trans (State.signalCores_booked ..), rfl, State.rd_wr_same ..⟩
  have howner : ((s.wr .helmSyncCount 0 k 0 (BitVec.ofNat 32 v)).signalCores k v).fld .helmSyncCtl 0 k 0 6 4 = p := by
    rw [← hown]
    exact congrArg (getBits · 6 4) (State.rd_wr_other _ _ _ _ _ _ _ _ _ _ hne)
  rw [State.syncPut_eq]
  dsimp only
  split
  · rw [howner]
    have hraise := State.raise_signalled (((s.wr .helmSyncCount 0 k 0 (BitVec.ofNat 32 v)).signalCores k v).orReg .helmSyncCtl 0 k 0 2) p 3 k 0 v
    refine ⟨(hput.booked.trans (State.wr_booked _ _ _ _ _ _ hctl)).trans (hraise.booked hp), hraise.events.mem_eq, ?_⟩
    rw [hraise.rd _ _ _ _ (hevent p hp).1 (hevent p hp).2]
    exact (State.rd_wr_other _ .helmSyncCtl _ 0 k 0 _ _ _ _ hne.symm).trans hput.count
  · exact hput

theorem State.syncAdd_counted (hp : p < 8) (hk : k < 16384) (hown : s.fld .helmSyncCtl 0 k 0 6 4 = p) (a : Nat) :
    State.counted p k (min ((s.rd .helmSyncCount 0 k).toNat + a) 0xFFFFFFFF) s (s.syncAdd k a) := by
  obtain ⟨hne, hctl, hcount, hevent⟩ := Reg.sync_addr hk
  have hsat : ∀ u, u = (if (s.rd .helmSyncCount 0 k).toNat + a > 0xFFFFFFFF then s.orReg .helmSyncCtl 0 k 0 4 else s) →
      State.booked p s u ∧ u.mem = s.mem ∧ u.fld .helmSyncCtl 0 k 0 6 4 = p := by
    rintro u rfl
    split
    · have hset : (s.orReg .helmSyncCtl 0 k 0 4).rd .helmSyncCtl 0 k 0 = s.rd .helmSyncCtl 0 k 0 ||| BitVec.ofNat 32 4 := State.rd_wr_same ..
      exact ⟨s.wr_booked _ _ _ _ _ hctl, rfl, by rw [State.fld, hset, getBits_or_low _ _ (by decide)]; exact hown⟩
    · exact ⟨.refl s, rfl, hown⟩
  obtain ⟨hbooked, hmem, howner⟩ := hsat _ rfl
  obtain ⟨hput, hkeep, hcounted⟩ := State.syncPut_counted hp hk howner (min ((s.rd .helmSyncCount 0 k).toNat + a) 0xFFFFFFFF)
  obtain ⟨hfabric, hpages, hqueues, hstores, hwq⟩ := hbooked.trans hput
  exact ⟨⟨hfabric, hpages, hqueues, hstores, hwq⟩, hkeep.trans hmem, hcounted⟩

theorem State.objHeld_iff : s.objHeld p k = true ↔ k < 16384 ∧ s.fld .helmSyncCtl 0 k 0 3 3 = 1 ∧ s.fld .helmSyncCtl 0 k 0 6 4 = p := by
  simp [State.objHeld, and_assoc]

end

end Sys2Proof.Machine
end
section
namespace Sys2Proof.Machine
open Sys2Proof

/-! ### The CODE of an entry (R291, R292) -/

section
variable {p : Nat} {s t : State} {y : Queue}

theorem Part.onePage.mono {x : Part} {va len va' len' : Nat} {w : Bool} (h : x.onePage va len w) (h1 : va ≤ va') (h2 : va' + len' ≤ va + len) :
    x.onePage va' len' w := by
  obtain ⟨g, f, hf, hh, hw, hg⟩ := h
  exact ⟨g, f, hf, hh, hw, fun a ha hb => hg a (by omega) (by omega)⟩

theorem Queue.onePage_entry {x : Part} {w : Bool} (h : x.onePage y.base (64 * y.entries) w) {i : Nat} (hi : i < y.entries) :
    x.onePage (y.entry i) 64 w :=
  h.mono (Nat.le_add_right ..) (by simp only [Queue.entry]; omega)

/-- The CODE word of an entry lies in it. -/
theorem Queue.onePage_code {x : Part} {w : Bool} {i : Nat} (h : x.onePage (y.entry i) 64 w) : x.onePage (y.entry i + 32) 4 w :=
  h.mono (by omega) (by omega)

/-- A resident range reads the same where the pages are the same and the bytes of the range are. -/
theorem State.peek_congr (hpages : (t.part p).pages = (s.part p).pages) (hs : s.mem.wf) (ht : t.mem.wf) {va len : Nat}
    (hpage : (s.part p).onePage va len false) (hbytes : ∀ g f a, g.frame = some f → (s.part p).page? va = some g → g.va ≤ a →
      va ≤ a → a < va + len → t.mem.byteOf (g.phys f a) = s.mem.byteOf (g.phys f a)) : t.peek p va len = s.peek p va len := by
  obtain ⟨g, f, hf, -, -, hg⟩ := hpage
  have hg' : ∀ a, va ≤ a → a < va + len → (t.part p).page? a = some g := fun a ha hb => by
    rw [Part.page?, hpages]
    exact hg a ha hb
  rw [State.peek_eq hf hs hg, State.peek_eq hf ht hg']
  refine congrArg some ?_
  refine List.map_congr_left (fun i hi => ?_)
  have hi := List.mem_range.1 hi
  have hva := hg va (Nat.le_refl _) (by omega)
  exact hbytes g f _ hf hva (le_trans (Part.page?_bounds hva).1 (Nat.le_add_right ..)) (Nat.le_add_right ..) (by omega)

theorem State.booked.peek_eq (h : State.booked p s t) (hmem : t.mem = s.mem) (hs : s.mem.wf) {va len : Nat}
    (hpage : (s.part p).onePage va len false) : t.peek p va len = s.peek p va len :=
  State.peek_congr h.pages hs (hmem ▸ hs) hpage (fun _ _ _ _ _ _ _ _ => by rw [hmem])

theorem State.finishEntry_eq (s : State) (y : Queue) (i code : Nat) (done : Bool) (obj add : Nat) :
    ∃ u, u = s.poke p (y.entry i + 32) (leBytes code 4) ∧ s.finishEntry p y i code done obj add =
      if done && add != 0 && u.objHeld p obj then u.syncAdd obj add else u := ⟨_, rfl, rfl⟩

/-- The end of an entry: its CODE, and an add that it may ask for. -/
theorem State.finishEntry_booked (hp : p < 8) (s : State) (y : Queue) (i code : Nat) (done : Bool) (obj add : Nat) :
    State.booked p s (s.finishEntry p y i code done obj add) ∧
      (s.finishEntry p y i code done obj add).mem = (s.poke p (y.entry i + 32) (leBytes code 4)).mem := by
  obtain ⟨u, hu, he⟩ := State.finishEntry_eq (p := p) s y i code done obj add
  have hpoke : State.booked p s u := hu ▸ s.poke_booked _ _
  rw [he, ← hu]
  split
  · next hadd =>
    simp only [Bool.and_eq_true, State.objHeld_iff] at hadd
    obtain ⟨-, hk, -, hown⟩ := hadd
    have hcounted := State.syncAdd_counted hp hk hown add
    exact ⟨hpoke.trans hcounted.booked, hcounted.mem⟩
  · exact ⟨hpoke, rfl⟩

theorem State.finishEntry_code (hp : p < 8) (hm : s.mem.wf) {i : Nat} (hpage : (s.part p).onePage (y.entry i) 64 false)
    (code : Nat) (done : Bool) (obj add : Nat) : (s.finishEntry p y i code done obj add).mem.wf ∧
      (s.finishEntry p y i code done obj add).peek p (y.entry i + 32) 4 = some (leBytes code 4) := by
  obtain ⟨hbooked, hmem⟩ := State.finishEntry_booked hp s y i code done obj add
  obtain ⟨g, f, hf, -, -, hg⟩ := Queue.onePage_code hpage
  obtain ⟨hwf, hbytes⟩ := State.poke_byteOf (l := leBytes code 4) hf hm (by rwa [leBytes_length])
  have hwf' := hmem ▸ hwf
  refine ⟨hwf', ?_⟩
  rw [State.peek_eq hf hwf' (fun a ha hb => by rw [Part.page?, hbooked.pages]; exact hg a ha hb), hmem]
  refine congrArg some ?_
  have hva := (Part.page?_bounds (hg _ (Nat.le_refl _) (by omega))).1
  refine List.ext_getElem (by simp) (fun i hi hi' => ?_)
  have hi4 : i < 4 := by simpa using hi
  rw [List.getElem_map, List.getElem_range, hbytes _ (by omega), leBytes_length, if_pos (by omega), Nat.add_sub_cancel_left,
    List.getD_eq_getElem?_getD, List.getElem?_eq_getElem hi', Option.getD_some]

/-- The end of an entry leaves the CODE of every other entry of the page. -/
theorem State.finishEntry_code_other (hp : p < 8) (hm : s.mem.wf) (hpage : (s.part p).onePage y.base (64 * y.entries) false) {i k : Nat}
    (hi : i < y.entries) (hk : k < y.entries) (hne : k ≠ i) (code : Nat) (done : Bool) (obj add : Nat) :
    (s.finishEntry p y i code done obj add).peek p (y.entry k + 32) 4 = s.peek p (y.entry k + 32) 4 := by
  obtain ⟨hbooked, hmem⟩ := State.finishEntry_booked hp s y i code done obj add
  have hcode := Queue.onePage_code (Queue.onePage_entry hpage hk)
  obtain ⟨g, f, hf, -, -, hg⟩ := hpage
  have hwhole : ∀ a, y.entry i + 32 ≤ a → a < y.entry i + 32 + (leBytes code 4).length → (s.part p).page? a = some g := fun a ha hb => by
    rw [leBytes_length] at hb
    simp only [Queue.entry] at ha hb
    exact hg a (by omega) (by omega)
  obtain ⟨hwf, hbytes⟩ := State.poke_byteOf hf hm hwhole
  refine State.peek_congr hbooked.pages hm (hmem ▸ hwf) hcode (fun g' f' a hf' hg' ha h1 h2 => ?_)
  have hout : ¬ (y.entry i + 32 ≤ a ∧ a < y.entry i + 32 + 4) := by
    simp only [Queue.entry] at h1 h2 ⊢
    omega
  simp only [Queue.entry] at hg'
  obtain rfl : g = g' := Option.some.inj ((hg _ (by omega) (by omega)).symm.trans hg')
  obtain rfl : f = f' := Option.some.inj (hf.symm.trans hf')
  rw [hmem, hbytes a ha, leBytes_length, if_neg hout]

end

end Sys2Proof.Machine
end
section
namespace Sys2Proof.Machine
open Sys2Proof

/-! ### The head job of a queue ends (R291, R292) -/

section
variable {p : Nat} {s t u : State} {y : Queue} {h : Nat}

/-- The one queue of partition p has no head job and no RUN, and HEAD is at an entry; the rest is as bookkeeping leaves it. -/
structure State.jobOver (p : Nat) (y : Queue) (h : Nat) (s t : State) : Prop where
  fabric : t.fabric = s.fabric
  pages : (t.part p).pages = (s.part p).pages
  queues : (t.part p).queues = [{ y with head := none }]
  stores : ∀ n, (t.core n).cs = (s.core n).cs ∧ (t.core n).acc = (s.core n).acc
  head : t.wqHead p y.q = h
  run : t.fld .helmWqHead 0 p y.q 16 16 = 0
  tail : t.wqTail p y.q = s.wqTail p y.q

theorem State.booked.wqHead_eq (hb : State.booked p s t) (hp : p < 8) {q : Nat} (hq : q < 64) (hi lo : Nat) :
    t.fld .helmWqHead 0 p q hi lo = s.fld .helmWqHead 0 p q hi lo := by
  rw [State.fld, hb.wq _ _ _ _ (Reg.wqHead_addr hp hq), State.fld]

theorem State.booked.wqTail_eq (hb : State.booked p s t) (hp : p < 8) {q : Nat} (hq : q < 64) : t.wqTail p q = s.wqTail p q := by
  rw [State.wqTail, State.fld, hb.wq _ _ _ _ (Reg.wqTail_addr hp hq), State.wqTail, State.fld]

theorem State.jobOver.after (he : State.jobOver p y h s t) (hb : State.booked p t u) (hp : p < 8) (hq : y.q < 64) : State.jobOver p y h s u where
  fabric := hb.fabric.trans he.fabric
  pages := hb.pages.trans he.pages
  queues := hb.queues.trans he.queues
  stores := fun n => ⟨(hb.stores n).1.trans (he.stores n).1, (hb.stores n).2.trans (he.stores n).2⟩
  head := (hb.wqHead_eq hp hq 15 0).trans he.head
  run := (hb.wqHead_eq hp hq 16 16).trans he.run
  tail := (hb.wqTail_eq hp hq).trans he.tail

theorem State.jobOver.before (he : State.jobOver p y h t u) (hb : State.booked p s t) (hp : p < 8) (hq : y.q < 64) : State.jobOver p y h s u where
  fabric := he.fabric.trans hb.fabric
  pages := he.pages.trans hb.pages
  queues := he.queues
  stores := fun n => ⟨(he.stores n).1.trans (hb.stores n).1, (he.stores n).2.trans (hb.stores n).2⟩
  head := he.head
  run := he.run
  tail := he.tail.trans (hb.wqTail_eq hp hq)

theorem Reg.wqTail_ne_wqHead {q : Nat} : Reg.addr .helmWqTail 0 p q ≠ Reg.addr .helmWqHead 0 p q := by
  simp only [Reg.addr, Reg.spec, Blk.base]
  omega

/-- HEAD moves. -/
theorem State.jobOver.moveHead (he : State.jobOver p y h s t) {i : Nat} (hi : i < 65536) :
    State.jobOver p y i s (t.setFld .helmWqHead 0 p y.q 15 0 i) where
  fabric := he.fabric
  pages := he.pages
  queues := he.queues
  stores := he.stores
  head := (State.fld_setFld_same _ _ _ _ _ (by decide) _).trans (Nat.mod_eq_of_lt hi)
  run := by
    rw [State.fld, State.setFld, State.rd_wr_same, getBits_setBits_other _ (by omega)]
    exact he.run
  tail := by
    rw [← he.tail, State.wqTail, State.fld, State.setFld, State.rd_wr_other _ _ _ _ _ _ _ _ _ _ Reg.wqTail_ne_wqHead]
    rfl

/-- The head job of the one queue ends (R292). -/
theorem State.endJob_jobOver (hp : p < 8) (hq : y.q < 64) (hone : (s.part p).queues = [y]) {j : Job} (hent : y.entries ≤ 65536)
    (hidx : j.idx < y.entries) (code : Nat) : State.jobOver p y ((j.idx + 1) % y.entries) s (s.endJob p y j code) ∧
      (s.endJob p y j code).mem = (s.finishEntry p y j.idx code j.doneEn j.doneObj j.doneAdd).mem := by
  obtain ⟨hbooked, -⟩ := State.finishEntry_booked hp s y j.idx code j.doneEn j.doneObj j.doneAdd
  have hnext : (j.idx + 1) % y.entries < 65536 := (Nat.mod_lt _ (by omega)).trans_le hent
  generalize hu : s.finishEntry p y j.idx code j.doneEn j.doneObj j.doneAdd = u at hbooked
  have hrd : ∀ r b i k, (s.endJob p y j code).rd r b i k =
      ((u.setFld .helmWqHead 0 p y.q 15 0 ((j.idx + 1) % y.entries)).setRun p y.q false).rd r b i k := fun _ _ _ _ => by
    rw [State.endJob, hu]
    rfl
  refine ⟨State.jobOver.before (t := u) ⟨?_, ?_, ?_, fun _ => ?_, ?_, ?_, ?_⟩ hbooked hp hq, ?_⟩
  · rw [State.endJob, hu]; rfl
  · simp [State.endJob, State.setQueue, State.setRun, hu]
  · simp [State.endJob, State.setQueue, State.setRun, hu, hbooked.queues, hone]
  · rw [State.endJob, hu]; exact ⟨rfl, rfl⟩
  · rw [State.wqHead, State.fld, hrd, State.setRun, State.setFld, State.rd_wr_same, getBits_setBits_other _ (by omega)]
    exact (State.fld_setFld_same _ _ _ _ _ (by decide) _).trans (Nat.mod_eq_of_lt hnext)
  · rw [State.fld, hrd]
    exact State.fld_setFld_same _ _ _ _ _ (by decide) _
  · rw [State.wqTail, State.fld, hrd, State.setRun, State.setFld, State.rd_wr_other _ _ _ _ _ _ _ _ _ _ Reg.wqTail_ne_wqHead, State.setFld,
      State.rd_wr_other _ _ _ _ _ _ _ _ _ _ Reg.wqTail_ne_wqHead]
    rfl
  · rw [State.endJob, hu]; rfl

/-- Nothing is left to schedule where the one queue is at its TAIL (R294). -/
theorem State.jobOver.schedule_eq (he : State.jobOver p y h s t) (htail : t.wqTail p y.q = h) : t.schedule p = t := by
  have hqueue : (t.part p).queue? y.q = some { y with head := none } := by simp [Part.queue?, he.queues]
  have htake : t.takeEntry p y.q 65537 = t := by
    rw [State.takeEntry]
    simp only [hqueue, he.head, htail, BEq.rfl, Bool.or_true, if_true]
  have hready : (t.part p).ready = [] := by simp [Part.ready, he.queues, sortOn]
  rw [State.schedule]
  split
  · rfl
  · simp only [he.queues, List.foldl_cons, List.foldl_nil, htake, hready]

end

end Sys2Proof.Machine
end
section
namespace Sys2Proof.Machine
open Sys2Proof

/-! ### The entries after an aborted job's are flushed (R410) -/

section
variable {p : Nat} {s t : State} {y : Queue}

/-- d entries of a queue of e from entry i on, around its end. -/
def wrapped (e i d : Nat) : List Nat := (List.range d).map (fun m => (i + m) % e)

theorem wrap_succ_add (e i m : Nat) : ((i + 1) % e + m) % e = (i + (m + 1)) % e := by
  rw [Nat.mod_add_mod, Nat.add_assoc, Nat.add_comm 1 m]

theorem wrapped_succ {e i : Nat} (hi : i < e) (d : Nat) : wrapped e i (d + 1) = i :: wrapped e ((i + 1) % e) d := by
  rw [wrapped, List.range_succ_eq_map, List.map_cons, List.map_map, wrapped, Nat.add_zero, Nat.mod_eq_of_lt hi]
  exact congrArg (i :: ·) (List.map_congr_left (fun m _ => (wrap_succ_add e i m).symm))

theorem mem_wrapped {e i d k : Nat} : k ∈ wrapped e i d ↔ ∃ m, m < d ∧ (i + m) % e = k := by
  simp [wrapped]

/-- One entry ends without running. -/
def State.flushEntry (p : Nat) (y : Queue) (s : State) (i : Nat) : State :=
  match s.peek p (y.entry i) 64 with
  | some b => s.finishEntry p y i 0xFFFFFFFC (parseJob s i b).doneEn (parseJob s i b).doneObj (parseJob s i b).doneAdd
  | none => s

theorem State.flushQueue_succ (s : State) (y : Queue) (fuel i : Nat) : s.flushQueue p y (fuel + 1) i =
    if i == s.wqTail p y.q then s.setFld .helmWqHead 0 p y.q 15 0 i else (s.flushEntry p y i).flushQueue p y fuel ((i + 1) % y.entries) := rfl

theorem State.flushEntry_booked (hp : p < 8) (s : State) (y : Queue) (i : Nat) : State.booked p s (s.flushEntry p y i) := by
  rw [State.flushEntry]
  split
  · exact (State.finishEntry_booked hp ..).1
  · exact .refl s

/-- The entries from i on as far as TAIL. -/
theorem State.flushQueue_eq (hp : p < 8) (hq : y.q < 64) {d fuel i : Nat} (s : State) (hfuel : d < fuel) (hi : i < y.entries)
    (hend : (i + d) % y.entries = s.wqTail p y.q) (hon : ∀ m, m < d → (i + m) % y.entries ≠ s.wqTail p y.q) :
    s.flushQueue p y fuel i = ((wrapped y.entries i d).foldl (State.flushEntry p y) s).setFld
      .helmWqHead 0 p y.q 15 0 (s.wqTail p y.q) := by
  induction d generalizing fuel i s with
  | zero =>
    obtain ⟨fuel, rfl⟩ := Nat.exists_eq_succ_of_ne_zero (Nat.ne_of_gt hfuel)
    rw [Nat.add_zero, Nat.mod_eq_of_lt hi] at hend
    rw [State.flushQueue_succ, if_pos (by simp [hend]), hend]
    rfl
  | succ d ih =>
    obtain ⟨fuel, rfl⟩ := Nat.exists_eq_succ_of_ne_zero (Nat.ne_of_gt (Nat.zero_lt_of_lt hfuel))
    have hne : i ≠ s.wqTail p y.q := by
      have := hon 0 (Nat.succ_pos d)
      rwa [Nat.add_zero, Nat.mod_eq_of_lt hi] at this
    have htail := (State.flushEntry_booked hp s y i).wqTail_eq hp hq
    rw [State.flushQueue_succ, if_neg (by simpa using hne), ih (s.flushEntry p y i) (by omega) (Nat.mod_lt _ (by omega))
      (by rw [wrap_succ_add, htail]; exact hend) (fun m hm => by rw [wrap_succ_add, htail]; exact hon (m + 1) (by omega)), htail,
      wrapped_succ hi, List.foldl_cons]

theorem mod_of_lt_two_mul {e x : Nat} (hx : x < 2 * e) : x % e = x ∧ x < e ∨ x % e = x - e ∧ e ≤ x := by
  rcases Nat.lt_or_ge x e with h | h
  · exact .inl ⟨Nat.mod_eq_of_lt h, h⟩
  · exact .inr ⟨by rw [Nat.mod_eq_sub_mod h, Nat.mod_eq_of_lt (by omega)], h⟩

/-- The entries after entry i as far as TAIL: TAIL ends them, entry i is not among them, and the first k are, for every k below the distance
from i to TAIL. -/
theorem exists_wrapped {e i tail : Nat} (hi : i < e) (ht : tail < e) : ∃ d, d < e ∧ ((i + 1) % e + d) % e = tail ∧
    (∀ k ∈ wrapped e ((i + 1) % e) d, k < e ∧ k ≠ tail ∧ k ≠ i) ∧
    ∀ k, 1 ≤ k → k < (tail + e - i) % e → (i + k) % e ∈ wrapped e ((i + 1) % e) d := by
  obtain ⟨d, hd, hend, hdist⟩ : ∃ d, d < e ∧ (i + (d + 1) = tail ∨ i + (d + 1) = tail + e) ∧ (tail + e - i) % e ≤ d + 1 := by
    refine ⟨if i < tail then tail - i - 1 else tail + e - i - 1, ?_⟩
    have hmod := mod_of_lt_two_mul (e := e) (x := tail + e - i) (by omega)
    split <;> omega
  simp only [mem_wrapped, wrap_succ_add]
  refine ⟨d, hd, ?_, ?_, fun k h1 hk => ⟨k - 1, by omega, by rw [Nat.sub_add_cancel h1]⟩⟩
  · have hmod := mod_of_lt_two_mul (e := e) (x := i + (d + 1)) (by omega)
    omega
  · rintro k ⟨m, hm, rfl⟩
    have hmod := mod_of_lt_two_mul (e := e) (x := i + (m + 1)) (by omega)
    omega

/-! What the flush leaves in the entries. -/

theorem State.flushEntry_code (hp : p < 8) (hm : s.mem.wf) {i : Nat} (hpage : (s.part p).onePage (y.entry i) 64 false) :
    (State.flushEntry p y s i).peek p (y.entry i + 32) 4 = some (leBytes 0xFFFFFFFC 4) := by
  obtain ⟨g, f, hf, -, -, hg⟩ := id hpage
  rw [State.flushEntry, State.peek_eq hf hm hg]
  exact (State.finishEntry_code hp hm hpage ..).2

theorem State.flushEntry_code_other (hp : p < 8) (hm : s.mem.wf) (hpage : (s.part p).onePage y.base (64 * y.entries) false) {i k : Nat}
    (hi : i < y.entries) (hk : k < y.entries) (hne : k ≠ i) :
    (State.flushEntry p y s i).peek p (y.entry k + 32) 4 = s.peek p (y.entry k + 32) 4 := by
  rw [State.flushEntry]
  split
  · exact State.finishEntry_code_other hp hm hpage hi hk hne ..
  · rfl

theorem State.flushEntry_mem_wf (hp : p < 8) (hm : s.mem.wf) {i : Nat} (hpage : (s.part p).onePage (y.entry i) 64 false) :
    (State.flushEntry p y s i).mem.wf := by
  rw [State.flushEntry]
  split
  · exact (State.finishEntry_code hp hm hpage ..).1
  · exact hm

/-- Memory is well formed and the whole queue lies in one resident page. -/
def State.queueResident (p : Nat) (y : Queue) (s : State) : Prop := s.mem.wf ∧ (s.part p).onePage y.base (64 * y.entries) false

theorem State.queueResident.flushEntry (hr : State.queueResident p y s) (hp : p < 8) {i : Nat} (hi : i < y.entries) :
    State.queueResident p y (State.flushEntry p y s i) :=
  ⟨State.flushEntry_mem_wf hp hr.1 (Queue.onePage_entry hr.2 hi), (State.flushEntry_booked hp s y i).onePage_iff.2 hr.2⟩

/-- A flush of the entries of a list writes their CODE, and leaves that of every other entry. -/
theorem State.foldl_flushEntry_code (hr : State.queueResident p y s) (hp : p < 8) {l : List Nat} (hl : ∀ i ∈ l, i < y.entries) {k : Nat}
    (hk : k < y.entries) : (l.foldl (State.flushEntry p y) s).peek p (y.entry k + 32) 4 =
      if k ∈ l then some (leBytes 0xFFFFFFFC 4) else s.peek p (y.entry k + 32) 4 := by
  induction l generalizing s with
  | nil => simp
  | cons i l ih =>
    have hi := hl i (List.mem_cons_self ..)
    rw [List.foldl_cons, ih (hr.flushEntry hp hi) (fun x hx => hl x (List.mem_cons_of_mem _ hx))]
    by_cases hki : k = i
    · subst hki
      simp [State.flushEntry_code hp hr.1 (Queue.onePage_entry hr.2 hk)]
    · simp [hki, State.flushEntry_code_other hp hr.1 hr.2 hi hk hki]

end

end Sys2Proof.Machine
end
section
namespace Sys2Proof.Machine
open Sys2Proof

section
variable {p : Nat} {s t : State} {y : Queue}

/-- The flush moves HEAD to TAIL past entries that bookkeeping has ended (R410). -/
theorem State.flushQueue_spec (hp : p < 8) (hq : y.q < 64) (hent : y.entries ≤ 65536) {i : Nat} (hi : i < y.entries)
    (htail : s.wqTail p y.q < y.entries) :
    (∃ u, State.booked p s u ∧ s.flushQueue p y 65537 ((i + 1) % y.entries) = u.setFld .helmWqHead 0 p y.q 15 0 (s.wqTail p y.q)) ∧
    (State.queueResident p y s → State.queueResident p y (s.flushQueue p y 65537 ((i + 1) % y.entries)) ∧
      (s.flushQueue p y 65537 ((i + 1) % y.entries)).peek p (y.entry i + 32) 4 = s.peek p (y.entry i + 32) 4 ∧
      ∀ k, 1 ≤ k → k < (s.wqTail p y.q + y.entries - i) % y.entries →
        (s.flushQueue p y 65537 ((i + 1) % y.entries)).peek p (y.entry ((i + k) % y.entries) + 32) 4 = some (leBytes 0xFFFFFFFC 4)) := by
  obtain ⟨d, hd, hend, hin, hcover⟩ := exists_wrapped hi htail
  have hstart : (i + 1) % y.entries < y.entries := Nat.mod_lt _ (by omega)
  rw [State.flushQueue_eq hp hq s (d := d) (by omega) hstart hend (fun m hm => (hin _ (mem_wrapped.2 ⟨m, hm, rfl⟩)).2.1)]
  refine ⟨⟨_, foldl_booked (fun t x _ => t.flushEntry_booked hp y x) s, rfl⟩, fun hres => ?_⟩
  have hcode : ∀ k, k < y.entries → _ := fun k hk => State.foldl_flushEntry_code hres hp (fun x hx => (hin x hx).1) hk
  have hkeep : State.queueResident p y ((wrapped y.entries ((i + 1) % y.entries) d).foldl (State.flushEntry p y) s) :=
    List.foldlRecOn (motive := State.queueResident p y) _ _ hres (fun t ht x hx => ht.flushEntry hp (hin x hx).1)
  refine ⟨hkeep, (hcode i hi).trans (if_neg (fun hmem => (hin i hmem).2.2 rfl)), fun k h1 hk => ?_⟩
  exact (hcode _ (Nat.mod_lt _ (by omega))).trans (if_pos (hcover k h1 hk))

/-! ### Cores leave their job (R91, R204, R292) -/

theorem State.stopJob_core (s : State) (ns : List Nat) (n : Nat) :
    (s.stopJob ns).core n = if n ∈ ns then { s.core n with stopIssue := true } else s.core n := by
  induction ns generalizing s with
  | nil => rfl
  | cons m ns ih =>
    rw [State.stopJob, List.foldl_cons, ← State.stopJob, ih]
    by_cases h : n = m
    · subst h
      simp
    · simp [h, State.core_onCore_other]

theorem State.onCore_booked (s : State) (n : Nat) {f : Core → Core}
    (hf : (f (s.core n)).cs = (s.core n).cs ∧ (f (s.core n)).acc = (s.core n).acc) : State.booked p s (s.onCore n f) where
  fabric := rfl
  pages := rfl
  queues := rfl
  stores := fun m => by
    by_cases h : m = n
    · subst h
      rw [State.core_onCore_same]
      exact hf
    · rw [State.core_onCore_other _ _ h]
      exact ⟨rfl, rfl⟩
  wq := fun _ _ _ _ _ => rfl

/-- A change of cores alone. -/
def State.onlyCores (s t : State) : Prop := t = { s with cores := t.cores }

theorem foldl_onCore_onlyCores {ns : List Nat} (f : Core → Core) (s : State) :
    State.onlyCores s (ns.foldl (fun s n => s.onCore n f) s) :=
  List.foldlRecOn (motive := State.onlyCores s) ns _ rfl (fun t ht n _ => by
    unfold State.onlyCores at ht
    rw [State.onlyCores, State.onCore, State.setCore, ht])

theorem State.stopJob_onlyCores (s : State) (ns : List Nat) : State.onlyCores s (s.stopJob ns) := foldl_onCore_onlyCores _ s

theorem State.stopJob_booked (s : State) (ns : List Nat) : State.booked p s (s.stopJob ns) :=
  foldl_booked (fun t n _ => t.onCore_booked n ⟨rfl, rfl⟩) s

theorem State.idleCores_booked (s : State) (ns : List Nat) : State.booked p s (ns.foldl (fun s n => s.idleCore n) s) :=
  foldl_booked (fun t n _ => t.onCore_booked n ⟨rfl, rfl⟩) s

theorem State.idleCores_onlyCores (s : State) (ns : List Nat) : State.onlyCores s (ns.foldl (fun s n => s.idleCore n) s) :=
  foldl_onCore_onlyCores _ s

/-- What a core reset leaves of a core: a halted pilot without a job, arrays without blocks; the stores stay. -/
structure Core.isReset (k k' : Core) : Prop where
  pilot : k'.pilot = .halted
  x : k'.x = []
  cc : k'.cc = 0
  failures : k'.failures = []
  banks : k'.banks = []
  stores : k'.cs = k.cs ∧ k'.acc = k.acc ∧ k'.mailbox = k.mailbox

theorem State.resetArrays_byRegs (s : State) (n : Nat) :
    (s.onCore n (fun k => { k with banks := [], staged := [] })).byRegs (s.resetArrays n) :=
  (State.wr_byRegs ..).trans (foldl_byRegs _ (fun t a => t.wr_byRegs .arrFree n a 0 0xFFFFFFFF#32) _)

theorem State.resetCore_isReset (s : State) (n : Nat) : (s.core n).isReset ((s.resetCore n).core n) := by
  rw [State.resetCore, (State.resetArrays_byRegs _ n).core_eq, State.core_onCore_same, State.core_onCore_same]
  exact ⟨rfl, rfl, rfl, rfl, rfl, rfl, rfl, rfl⟩

theorem State.resetCore_other (s : State) {n m : Nat} (h : m ≠ n) : (s.resetCore n).core m = s.core m := by
  rw [State.resetCore, (State.resetArrays_byRegs _ n).core_eq, State.core_onCore_other _ _ h, State.core_onCore_other _ _ h]

theorem State.resetCore_byCores (s : State) (n : Nat) : s.byCores (s.resetCore n) := by
  have harrays : ∀ t : State, t.byCores (t.resetArrays n) := fun t => (t.onCore_byCores n _).trans (t.resetArrays_byRegs n).byCores
  unfold State.resetCore
  exact (s.onCore_byCores n _).trans (harrays _)

theorem Reg.arrays_addr (n a : Nat) : ¬ wqBlock (Reg.addr .arrEpoch n 0 0) ∧ ¬ wqBlock (Reg.addr .arrFree n a 0) ∧
    Reg.addr .arrEpoch n 0 0 ≠ Reg.addr .arrFree n a 0 := by
  simp only [wqBlock, Reg.addr, Reg.spec, Blk.base]
  omega

theorem State.resetArrays_booked (s : State) (n : Nat) : State.booked p s (s.resetArrays n) := by
  have hcore : State.booked p s (s.onCore n (fun k => { k with banks := [], staged := [] })) := s.onCore_booked n ⟨rfl, rfl⟩
  unfold State.resetArrays
  exact (hcore.trans (State.wr_booked _ _ _ _ _ _ (Reg.arrays_addr n 0).1)).trans
    (foldl_booked (fun t a _ => t.wr_booked _ _ _ _ _ (Reg.arrays_addr n a).2.1) _)

theorem State.resetCore_booked (s : State) (n : Nat) : State.booked p s (s.resetCore n) := by
  unfold State.resetCore
  exact (s.onCore_booked n ⟨rfl, rfl⟩).trans (State.resetArrays_booked _ n)

theorem State.resetCore_arrEpoch (s : State) (n : Nat) : (s.resetCore n).rd .arrEpoch n 0 0 = Reg.arrEpoch.spec.resetVal := by
  refine List.foldlRecOn (motive := fun t : State => t.rd .arrEpoch n 0 0 = Reg.arrEpoch.spec.resetVal) _ _ (State.rd_wr_same ..)
    (fun t ht a _ => ?_)
  rw [State.rd_wr_other _ _ _ _ _ _ _ _ _ _ (Reg.arrays_addr n a).2.2]
  exact ht

/-- Every core of a list that is reset is halted without a job. -/
theorem core_foldl_resetCore {ns : List Nat} {n : Nat} (hn : n ∈ ns) (s : State) :
    ((ns.foldl (fun s n => s.resetCore n) s).core n).pilot = .halted ∧ ((ns.foldl (fun s n => s.resetCore n) s).core n).x = [] ∧
      ((ns.foldl (fun s n => s.resetCore n) s).core n).failures = [] := by
  refine foldl_reaches (I := fun _ => True)
    (P := fun t : State => (t.core n).pilot = .halted ∧ (t.core n).x = [] ∧ (t.core n).failures = []) (x := n)
    (fun _ _ _ _ => trivial) (fun t m _ _ ht => ?_) (fun t _ => ?_) hn trivial
  · by_cases h : n = m
    · subst h
      obtain ⟨hpilot, hx, -, hfail, -⟩ := t.resetCore_isReset n
      exact ⟨hpilot, hx, hfail⟩
    · rwa [t.resetCore_other h]
  · obtain ⟨hpilot, hx, -, hfail, -⟩ := t.resetCore_isReset n
    exact ⟨hpilot, hx, hfail⟩

end

end Sys2Proof.Machine
end
section
namespace Sys2Proof.Machine
open Sys2Proof

/-- The one queue of partition p runs its head job j on rectangle r with nothing in flight; its indices lie in the queue, and the job's
entry in a resident page. -/
structure State.runs (s : State) (p : Nat) (y : Queue) (j : Job) (r : Rect) : Prop where
  part : p < 8
  number : y.q < 64
  one : (s.part p).queues = [y]
  mem : s.mem.wf
  head : y.head = some j
  running : j.st = .running
  rect : (s.part p).rectNo j.handle = some r
  drained : s.drained r.cores = true
  idx : j.idx < y.entries
  entries : y.entries ≤ 65536
  tail : s.wqTail p y.q < y.entries
  page : (s.part p).onePage (y.entry j.idx) 64 false

section
variable {p : Nat} {s t : State} {j : Job}

theorem State.poke_rd (s : State) {r : Reg} {b i k : Nat} (h : r.addr b i k < countersFrom) (va : Nat) (l : List Byte) :
    (s.poke p va l).rd r b i k = s.rd r b i k := by
  induction l generalizing s va with
  | nil => rfl
  | cons x l ih =>
    refine (ih (s.pokeByte p va x) (va + 1)).trans ?_
    simp only [State.pokeByte]
    split
    · rfl
    · split
      · exact (State.memDo_same s _ _).rd_eq h
      · rfl

theorem Reg.helmSyncCount_addr {k : Nat} (h : k < 16384) : Reg.helmSyncCount.addr 0 k 0 < countersFrom := by
  simp only [Reg.addr, Reg.spec, Blk.base, countersFrom]
  omega

/-- A DONE add of the entry is applied (R230, R292). -/
theorem State.endJob_count (hp : p < 8) (y : Queue) (hregs : t.regs = s.regs) (hdone : j.doneEn = true) (hadd : j.doneAdd ≠ 0)
    (hheld : s.objHeld p j.doneObj = true) (code : Nat) : ((t.endJob p y j code).rd .helmSyncCount 0 j.doneObj).toNat =
      min ((s.rd .helmSyncCount 0 j.doneObj).toNat + j.doneAdd) 0xFFFFFFFF := by
  obtain ⟨hk, hset, hown⟩ := State.objHeld_iff.1 hheld
  generalize hu : t.poke p (y.entry j.idx + 32) (leBytes code 4) = u
  have hrd : ∀ x : Reg, x.addr 0 j.doneObj 0 < countersFrom → u.rd x 0 j.doneObj = s.rd x 0 j.doneObj := fun x hx => by
    rw [← hu, State.poke_rd t hx, State.rd, hregs, State.rd]
  have hctl := hrd .helmSyncCtl (Reg.helmSyncCtl_addr hk)
  have hown' : u.fld .helmSyncCtl 0 j.doneObj 0 6 4 = p := (congrArg (getBits · 6 4) hctl).trans hown
  have hheld' : u.objHeld p j.doneObj = true :=
    State.objHeld_iff.2 ⟨hk, (congrArg (getBits · 3 3) hctl).trans hset, hown'⟩
  have hentry : t.finishEntry p y j.idx code j.doneEn j.doneObj j.doneAdd = u.syncAdd j.doneObj j.doneAdd := by
    simp [State.finishEntry, hu, hdone, hadd, hheld']
  have hnot : ∀ q, Reg.addr .helmSyncCount 0 j.doneObj 0 ≠ Reg.addr .helmWqHead 0 p q := fun q => by
    simp only [Reg.addr, Reg.spec, Blk.base]
    omega
  have hend : (t.endJob p y j code).rd .helmSyncCount 0 j.doneObj = (u.syncAdd j.doneObj j.doneAdd).rd .helmSyncCount 0 j.doneObj := by
    rw [State.endJob, hentry]
    exact (State.rd_wr_other _ _ _ _ _ _ _ _ _ _ (hnot _)).trans (State.rd_wr_other _ _ _ _ _ _ _ _ _ _ (hnot _))
  rw [hend, (State.syncAdd_counted hp hk hown' j.doneAdd).count, hrd .helmSyncCount (Reg.helmSyncCount_addr hk), BitVec.toNat_ofNat]
  omega

theorem exec_jobCompletion {q : Nat} (hp : p < 8) (hq : q < 64) (s : State) : exec (.jobCompletion p q) s = .next (jobCompletion p q s) :=
  if_pos (by simp [Instr.wf, hp, hq])

end

section
variable {p : Nat} {s t : State} {y : Queue} {j : Job} {r : Rect} (hr : s.runs p y j r)
include hr

theorem State.runs.queue : (s.part p).queue? y.q = some y := by simp [Part.queue?, hr.one]
theorem State.runs.cores : (s.part p).jobCores j = r.cores := by simp only [Part.jobCores, hr.rect]

/-- The head job of a state that bookkeeping has left ends (R292). -/
theorem State.runs.endJob (hb : State.booked p s t) (hmem : t.mem = s.mem) (code : Nat) :
    State.jobOver p y ((j.idx + 1) % y.entries) s (t.endJob p y j code) ∧ (t.endJob p y j code).mem.wf ∧
      (t.endJob p y j code).peek p (y.entry j.idx + 32) 4 = some (leBytes code 4) := by
  obtain ⟨hover, hkeep⟩ := State.endJob_jobOver hr.part hr.number (hb.queues.trans hr.one) hr.entries hr.idx code
  have hpage : (t.part p).onePage (y.entry j.idx) 64 false := hb.onePage_iff.2 hr.page
  obtain ⟨hwf, hcode⟩ := State.finishEntry_code hr.part (hmem ▸ hr.mem) hpage code j.doneEn j.doneObj j.doneAdd
  obtain ⟨hbooked, -⟩ := State.finishEntry_booked hr.part t y j.idx code j.doneEn j.doneObj j.doneAdd
  refine ⟨hover.before hb hr.part hr.number, hkeep ▸ hwf, ?_⟩
  rw [← hcode]
  refine State.peek_congr ?_ hwf (hkeep ▸ hwf) (hbooked.onePage_iff.2 (Queue.onePage_code hpage)) (fun _ _ _ _ _ _ _ _ => by rw [hkeep])
  rw [hover.pages, hbooked.pages]

/-! ### Completion (R292, R293) -/

theorem State.runs.jobCompletion_eq (hbeyond : ∀ n, n ∈ r.cores → (s.core n).pilot = .halted ∧
    ((s.core n).haltCode.isSome ∨ (s.core n).fatal = true) ∧ (s.core n).failures = []) :
    jobCompletion p y.q s = ((r.cores.foldl (fun s n => s.idleCore n) s).endJob p y j (s.jobCode r.cores)).schedule p := by
  have hall : r.cores.all (fun n => (s.core n).pilot == .halted && ((s.core n).haltCode.isSome || (s.core n).fatal) &&
      (s.core n).failures.isEmpty) = true := by
    refine List.all_eq_true.2 (fun n hn => ?_)
    obtain ⟨hpilot, hend, hfail⟩ := hbeyond n hn
    simp [hpilot, hend, hfail]
  simp only [jobCompletion, hr.queue, hr.head, hr.cores, hr.running, hall, hr.drained, BEq.rfl, Bool.true_or, Bool.not_true, Bool.or_self,
    Bool.false_eq_true, if_false]

theorem jobCompletion_spec (hbeyond : ∀ n, n ∈ r.cores → (s.core n).pilot = .halted ∧
    ((s.core n).haltCode.isSome ∨ (s.core n).fatal = true) ∧ (s.core n).failures = []) (hlast : s.wqTail p y.q = (j.idx + 1) % y.entries) :
    ∃ t : State, exec (.jobCompletion p y.q) s = .next t ∧ t.wqHead p y.q = (j.idx + 1) % y.entries ∧ t.fld .helmWqHead 0 p y.q 16 16 = 0 ∧
      t.peek p (y.entry j.idx + 32) 4 = some (leBytes (s.jobCode r.cores) 4) ∧ (t.part p).queues = [{ y with head := none }] ∧
      (∀ n, (t.core n).cs = (s.core n).cs) ∧
      (j.doneEn = true → j.doneAdd ≠ 0 → s.objHeld p j.doneObj = true → (t.rd .helmSyncCount 0 j.doneObj).toNat =
        min ((s.rd .helmSyncCount 0 j.doneObj).toNat + j.doneAdd) 0xFFFFFFFF) := by
  have hidle := s.idleCores_booked (p := p) r.cores
  have honly := s.idleCores_onlyCores r.cores
  have hregs : (r.cores.foldl (fun s n => s.idleCore n) s).regs = s.regs := by rw [honly]
  obtain ⟨hover, -, hcode⟩ := hr.endJob hidle (by rw [honly]) (s.jobCode r.cores)
  have hstays := hover.schedule_eq (hover.tail.trans hlast)
  refine ⟨_, exec_jobCompletion hr.part hr.number s, ?_⟩
  rw [hr.jobCompletion_eq hbeyond, hstays]
  exact ⟨hover.head, hover.run, hcode, hover.queues, fun n => (hover.stores n).1, fun hdone hadd hheld =>
    State.endJob_count hr.part y hregs hdone hadd hheld _⟩

end

end Sys2Proof.Machine
end
section
namespace Sys2Proof.Machine
open Sys2Proof

/-! ### Abort by poison (R410) -/

section
variable {p : Nat} {s t : State} {y : Queue} {j : Job} {r : Rect}

theorem State.sendMsix_regs (s : State) (fn : Master) (v : Nat) : (s.sendMsix fn v).regs = s.regs := by
  simp only [State.sendMsix]
  split <;> rfl

theorem State.requestVector_regs (s : State) (q v : Nat) : (s.requestVector q v).regs = s.regs := by
  simp only [State.requestVector]
  split
  · rfl
  · rw [State.sendMsix_regs]
    split <;> rfl

theorem State.setCause_irqStatus (s : State) (q c : Nat) :
    (s.setCause q c).rd .helmIrqStatus 0 q = s.rd .helmIrqStatus 0 q ||| BitVec.ofNat 32 (2 ^ c) := by
  have hset : (s.orReg .helmIrqStatus 0 q 0 (2 ^ c)).rd .helmIrqStatus 0 q = s.rd .helmIrqStatus 0 q ||| BitVec.ofNat 32 (2 ^ c) :=
    State.rd_wr_same ..
  simp only [State.setCause]
  split
  · exact hset
  · rw [State.rd, State.requestVector_regs]
    exact hset

/-- An event sets its cause (R436). -/
theorem State.raise_irqStatus (s : State) (q : Nat) {c : Nat} (hc : c < 32) (unit tag value : Nat) :
    ((s.raise q c unit tag value).rd .helmIrqStatus 0 q).getLsbD c = true := by
  have hbit : ∀ w : Word, (w ||| BitVec.ofNat 32 (2 ^ c)).getLsbD c = true := fun w => by
    rw [BitVec.getLsbD_or, BitVec.getLsbD_ofNat, Nat.testBit_two_pow_self]
    simp [hc]
  have hne : Reg.addr .helmIrqStatus 0 q 0 ≠ Reg.addr .helmEvqStatus 0 q 0 := by
    simp only [Reg.addr, Reg.spec]
    omega
  have hfull : (((s.setCause q c).countFld .helmEvqStatus 0 q 0 31 16 1).rd .helmIrqStatus 0 q).getLsbD c = true := by
    have hkeep : ((s.setCause q c).countFld .helmEvqStatus 0 q 0 31 16 1).rd .helmIrqStatus 0 q = (s.setCause q c).rd .helmIrqStatus 0 q :=
      State.rd_wr_other _ _ _ _ _ _ _ _ _ _ hne
    rw [hkeep, State.setCause_irqStatus]
    exact hbit _
  simp only [State.raise]
  split
  · split
    · rw [State.setCause_irqStatus, BitVec.getLsbD_or, hfull, Bool.true_or]
    · exact hfull
  · rw [State.setCause_irqStatus]
    exact hbit _

theorem State.drained_stopJob (s : State) (ns ms : List Nat) : (s.stopJob ns).drained ms = s.drained ms := by
  refine congrArg ms.all (funext (fun n => ?_))
  rw [State.stopJob_core]
  split <;> rfl

/-- No group breaks where none has a descriptor of the cores (R410). -/
theorem State.breakPosted_eq {ns : List Nat} (hposted : ∀ g ∈ s.fabric.groups, ∀ d ∈ g.2.queue ++ g.2.stalled.map (·.1), d.core ∉ ns)
    (hlost : s.fabric.lost = []) : s.breakPosted ns = s := by
  have hnone : s.fabric.groups.filter (fun g => (g.2.queue ++ g.2.stalled.map (·.1)).any (fun d => ns.contains d.core)) = [] := by
    refine List.filter_eq_nil_iff.2 (fun g hg => ?_)
    rw [List.any_eq_true]
    rintro ⟨d, hd, hcore⟩
    exact hposted g hg d hd (by simpa using hcore)
  rw [State.breakPosted, hnone, List.foldl_nil, State.settled, State.drain, hlost]

theorem State.consumed_isSome {ns : List Nat} (h : ∃ n, n ∈ ns ∧ ∃ f ∈ (s.core n).failures, f.status = 0x44) :
    ∃ x, s.consumed ns = some x := by
  obtain ⟨n, hn, f, hf, hs⟩ := h
  refine Option.isSome_iff_exists.1 (List.findSome?_isSome_iff.2 ⟨n, hn, ?_⟩)
  rw [Option.isSome_map, List.find?_isSome]
  exact ⟨f, hf, by simp [hs]⟩

/-- The cores of an aborted job after the flush, and the record and the event of the abort. -/
def State.abortCores (s : State) (p : Nat) (ns : List Nat) (rec : LogRec) (q idx : Nat) : State :=
  ((ns.foldl (fun s n => s.resetCore n) s).log rec).raise p 9 q 0 idx

theorem State.runs.jobAbort_eq (hr : s.runs p y j r) (hpoison : ∃ n, n ∈ r.cores ∧ ∃ f ∈ (s.core n).failures, f.status = 0x44) :
    ∃ rec : LogRec, rec.part = p ∧ jobAbort p y.q s = (((((s.stopJob r.cores).endJob p y j 0xFFFFFFFD).flushQueue p y 65537
      ((j.idx + 1) % y.entries)).breakPosted r.cores).abortCores p r.cores rec y.q j.idx).schedule p := by
  obtain ⟨⟨n, f⟩, hconsumed⟩ := State.consumed_isSome hpoison
  have hdrained : (s.stopJob r.cores).drained r.cores = true := by rw [State.drained_stopJob, hr.drained]
  simp only [jobAbort, hr.queue, hr.head, hr.cores, hconsumed, hr.running, BEq.rfl, Bool.true_or, Bool.not_true, Bool.false_eq_true, if_false,
    hdrained]
  exact ⟨_, rfl, rfl⟩

theorem State.abortCores_booked (hp : p < 8) (s : State) (ns : List Nat) {rec : LogRec} (hrec : rec.part = p) (q idx : Nat) :
    State.booked p s (s.abortCores p ns rec q idx) :=
  ((foldl_booked (fun t n _ => t.resetCore_booked n) s).trans (State.log_booked _ hp hrec)).trans (State.raise_booked _ hp ..)

theorem State.abortCores_mem (s : State) (p : Nat) (ns : List Nat) (rec : LogRec) (q idx : Nat) :
    (s.abortCores p ns rec q idx).mem = s.mem := by
  have hreset : (ns.foldl (fun s n => s.resetCore n) s).mem = s.mem :=
    List.foldlRecOn (motive := fun t : State => t.mem = s.mem) ns _ rfl (fun t ht n _ => by rw [t.resetCore_byCores n, ← ht])
  exact ((State.raise_byEvents ..).mem_eq.trans (State.log_byEvents ..).mem_eq).trans hreset

theorem State.abortCores_core (s : State) (p : Nat) (ns : List Nat) (rec : LogRec) (q idx n : Nat) :
    (s.abortCores p ns rec q idx).core n = (ns.foldl (fun s n => s.resetCore n) s).core n := by
  rw [State.core, State.abortCores, (State.raise_byEvents ..).cores_eq, (State.log_byEvents ..).cores_eq, State.core]

theorem exec_jobAbort {q : Nat} (hp : p < 8) (hq : q < 64) (s : State) : exec (.jobAbort p q) s = .next (jobAbort p q s) :=
  if_pos (by simp [Instr.wf, hp, hq])

theorem jobAbort_spec (hr : s.runs p y j r) (hpoison : ∃ n, n ∈ r.cores ∧ ∃ f ∈ (s.core n).failures, f.status = 0x44)
    (hposted : ∀ g ∈ s.fabric.groups, ∀ d ∈ g.2.queue ++ g.2.stalled.map (·.1), d.core ∉ r.cores) (hlost : s.fabric.lost = []) :
    ∃ t : State, exec (.jobAbort p y.q) s = .next t ∧ t.wqHead p y.q = t.wqTail p y.q ∧ t.wqTail p y.q = s.wqTail p y.q ∧
      t.fld .helmWqHead 0 p y.q 16 16 = 0 ∧ (t.rd .helmIrqStatus 0 p).getLsbD 9 = true ∧
      ((s.part p).onePage y.base (64 * y.entries) false → t.peek p (y.entry j.idx + 32) 4 = some (leBytes 0xFFFFFFFD 4) ∧
        ∀ k, 1 ≤ k → k < (s.wqTail p y.q + y.entries - j.idx) % y.entries →
          t.peek p (y.entry ((j.idx + k) % y.entries) + 32) 4 = some (leBytes 0xFFFFFFFC 4)) ∧
      ∀ n, n ∈ r.cores → (t.core n).pilot = .halted ∧ (t.core n).x = [] ∧ (t.core n).failures = [] ∧ (t.core n).cs = (s.core n).cs ∧
        (t.core n).acc = (s.core n).acc := by
  obtain ⟨rec, hrec, heq⟩ := hr.jobAbort_eq hpoison
  have hstop := s.stopJob_booked (p := p) r.cores
  obtain ⟨hover, hwf, hcode⟩ := hr.endJob hstop (by rw [s.stopJob_onlyCores]) 0xFFFFFFFD
  generalize hu : (s.stopJob r.cores).endJob p y j 0xFFFFFFFD = u at heq hover hwf hcode
  have htail : u.wqTail p y.q < y.entries := hover.tail ▸ hr.tail
  obtain ⟨⟨v, hflush, hv⟩, hcodes⟩ := State.flushQueue_spec hr.part hr.number hr.entries hr.idx htail
  have hflushed := (hover.after hflush hr.part hr.number).moveHead (htail.trans_le hr.entries)
  rw [← hv] at hflushed
  generalize u.flushQueue p y 65537 ((j.idx + 1) % y.entries) = w at heq hflushed hcodes hv
  have hbreak : w.breakPosted r.cores = w := State.breakPosted_eq (by rwa [hflushed.fabric]) (by rwa [hflushed.fabric])
  have habort := w.abortCores_booked hr.part r.cores hrec y.q j.idx
  have hdone := hflushed.after habort hr.part hr.number
  rw [hbreak, hdone.schedule_eq (hdone.tail.trans hover.tail.symm)] at heq
  refine ⟨_, by rw [exec_jobAbort hr.part hr.number, heq], hdone.head.trans (hover.tail.trans hdone.tail.symm), hdone.tail, hdone.run,
    State.raise_irqStatus _ _ (by decide) .., fun hpage => ?_, fun n hn => ?_⟩
  · have hresident : State.queueResident p y u := ⟨hwf, (Part.onePage_congr hover.pages).2 hpage⟩
    obtain ⟨⟨hwf', hpage'⟩, hfirst, hrest⟩ := hcodes hresident
    have hkeep : ∀ k, k < y.entries →
        (w.abortCores p r.cores rec y.q j.idx).peek p (y.entry k + 32) 4 = w.peek p (y.entry k + 32) 4 := fun k hk =>
      habort.peek_eq (w.abortCores_mem ..) hwf' (Queue.onePage_code (Queue.onePage_entry hpage' hk))
    refine ⟨(hkeep _ hr.idx).trans (hfirst.trans hcode), fun k h1 hk => ?_⟩
    exact (hkeep _ (Nat.mod_lt _ (Nat.zero_lt_of_lt hr.idx))).trans (hrest k h1 (hover.tail ▸ hk))
  · obtain ⟨hpilot, hx, hfail⟩ := core_foldl_resetCore hn w
    have hstores := hdone.stores n
    rw [State.abortCores_core] at hstores ⊢
    exact ⟨hpilot, hx, hfail, hstores⟩

end

end Sys2Proof.Machine
end
section
namespace Sys2Proof.Machine
open Sys2Proof

/-! ### Core reset (R460) -/

section
variable {m : Master} {n : Nat} {s : State}

theorem exec_coreReset (hm : m.wf = true) (hn : n < 192) (hw : s.bar2Waits m = false) :
    exec (.coreReset m n) s = .next (coreReset m n s) := by
  have he : exec (.coreReset m n) s = .next (if s.bar2Waits m then s else coreReset m n s) := if_pos (by simp [Instr.wf, hm, hn])
  rw [he, hw]
  rfl

theorem coreReset_free (hheld : s.blockHeld n = false) (hreach : s.reachesCore m n = true) (hjob : s.jobOn n = none) :
    coreReset m n s = (s.unlatch m).resetCore n := by
  have hjob' : (s.unlatch m).jobOn n = none := hjob
  simp only [coreReset, hheld, State.reachesCore_unlatch, hreach, hjob', Bool.not_true, Bool.false_eq_true, if_false]

theorem coreReset_undrained (hheld : s.blockHeld n = false) (hreach : s.reachesCore m n = true) {p : Nat} {y : Queue} {j : Job} {r : Rect}
    (hjob : s.jobOn n = some (p, y, j)) (hrect : (s.part p).rectNo j.handle = some r) (hbusy : s.drained r.cores = false) :
    coreReset m n s = (s.unlatch m).stopJob r.cores := by
  have hjob' : (s.unlatch m).jobOn n = some (p, y, j) := hjob
  have hcores : ((s.unlatch m).part p).jobCores j = r.cores := by
    have hrect' : ((s.unlatch m).part p).rectNo j.handle = some r := hrect
    simp only [Part.jobCores, hrect']
  have hbusy' : ((s.unlatch m).stopJob r.cores).drained r.cores = false := (State.drained_stopJob ..).trans hbusy
  simp only [coreReset, hheld, State.reachesCore_unlatch, hreach, hjob', hcores, hbusy', Bool.not_true, Bool.not_false, Bool.false_eq_true,
    if_false, if_true]

theorem coreReset_spec (hm : m.wf = true) (hn : n < 192) (hheld : s.blockHeld n = false) (hreach : s.reachesCore m n = true)
    (hw : s.bar2Waits m = false) :
    (s.jobOn n = none → ∃ t : State, exec (.coreReset m n) s = .next t ∧ (t.core n).pilot = .halted ∧ (t.core n).x = [] ∧ (t.core n).cc = 0 ∧
      (t.core n).banks = [] ∧ (t.core n).cs = (s.core n).cs ∧ (t.core n).acc = (s.core n).acc ∧ (t.core n).mailbox = (s.core n).mailbox ∧
      t.rd .arrEpoch n 0 0 = Reg.arrEpoch.spec.resetVal ∧ t.mem = s.mem ∧ ∀ k, k ≠ n → t.core k = s.core k) ∧
    (∀ p y j r, s.jobOn n = some (p, y, j) → (s.part p).rectNo j.handle = some r → s.drained r.cores = false →
      ∃ t : State, exec (.coreReset m n) s = .next t ∧ t.regs = s.regs ∧ t.parts = s.parts ∧
        ∀ k, t.core k = if k ∈ r.cores then { s.core k with stopIssue := true } else s.core k) := by
  refine ⟨fun hjob => ⟨_, exec_coreReset hm hn hw, ?_⟩, fun p y j r hjob hrect hbusy => ⟨_, exec_coreReset hm hn hw, ?_⟩⟩
  · obtain ⟨hpilot, hx, hcc, -, hbanks, hcs, hacc, hmail⟩ := (s.unlatch m).resetCore_isReset n
    rw [coreReset_free hheld hreach hjob]
    refine ⟨hpilot, hx, hcc, hbanks, hcs, hacc, hmail, State.resetCore_arrEpoch _ n, ?_, fun k hk => State.resetCore_other _ hk⟩
    rw [State.resetCore_byCores (s.unlatch m) n]
    rfl
  · have honly := (s.unlatch m).stopJob_onlyCores r.cores
    rw [coreReset_undrained hheld hreach hjob hrect hbusy]
    exact ⟨by rw [honly]; rfl, by rw [honly]; rfl, (s.unlatch m).stopJob_core r.cores⟩

end

/-- Settles O36: completion and abort end the head job by the bookkeeping of `State.jobOver`; a core reset resets or stops cores. -/
theorem jobsEnd : Obligations.JobsEnd := by
  refine ⟨?_, fun m n s hm hn hheld hreach hw => coreReset_spec hm hn hheld hreach hw⟩
  rintro p q y j r s hp hq hone rfl hmem hhead hrun hrect - hdrained - hidx hentries htail hpage
  have hr : s.runs p y j r := ⟨hp, hq, hone, hmem, hhead, hrun, hrect, hdrained, hidx, hentries, htail, hpage⟩
  exact ⟨fun hbeyond hlast => jobCompletion_spec hr hbeyond hlast, fun hpoison hposted hlost => jobAbort_spec hr hpoison hposted hlost⟩

end Sys2Proof.Machine
end

/-! ## O27: the instructions of a micro-program (R163 to R166, R170, R171, R186) -/

section
namespace Sys2Proof.Machine
open Sys2Proof

/-! ### A table written in a loop -/

section
variable {α β : Type} [DecidableEq α] {d d' : α} {key : β → Nat} {val : β → α}

theorem tabGet_foldl_tabSet_outside {l : List β} {y : Nat} (h : ∀ x ∈ l, key x ≠ y) (t : Tab α) :
    tabGet (l.foldl (fun t x => tabSet t (key x) d (val x)) t) y d' = tabGet t y d' := by
  refine List.foldlRecOn (motive := fun u => tabGet u y d' = tabGet t y d') l _ rfl (fun u hu x hx => ?_)
  rw [tabGet_set_other _ _ _ _ (Ne.symm (h x hx)), hu]

theorem tabGet_foldl_tabSet_inside {l : List β} {x : β} (hx : x ∈ l) (h : ∀ y ∈ l, key y = key x → val y = val x) (t : Tab α) :
    tabGet (l.foldl (fun t x => tabSet t (key x) d (val x)) t) (key x) d = val x := by
  refine foldl_reaches (I := fun _ => True) (P := fun u : Tab α => tabGet u (key x) d = val x) (x := x) (fun _ _ _ _ => trivial)
    (fun u y hy _ hu => ?_) (fun u _ => tabGet_set_same ..) hx trivial
  rw [tabGet_set]
  split
  · next he => exact h y hy he.symm
  · exact hu

end

/-! ### The results of the 256 lanes -/

theorem zipIdx_map_range {α : Type} (f : Nat → α) (m : Nat) : ((List.range m).map f).zipIdx = (List.range m).map (fun l => (f l, l)) := by
  refine List.ext_getElem (by simp) (fun l h1 h2 => ?_)
  simp

/-- A fold over results and their lanes in which the lane has no part is the fold over the lanes. -/
theorem foldl_zipIdx_range {α β : Type} (f : Nat → α) (g : β → α → β) (m : Nat) (b : β) :
    ((List.range m).map f).zipIdx.foldl (fun a y => g a y.1) b = (List.range m).foldl (fun a l => g a (f l)) b := by
  rw [zipIdx_map_range, List.foldl_map]

/-- An instruction that gives lane l of x the result f l, with flags fl, and leaves the core as it is. -/
def VecFn.gives (fn : VecFn) (i : DWord) (x : Lanes) (k : Core) (f : Nat → Word) (fl : VFlags) : Prop :=
  fn i x k = (some ((List.range 256).map f), fl, k)

section
variable {i : DWord} {x : Lanes} {k : Core} (hlive : x.live = fun _ => true)
include hlive

theorem perLane_gives (f : DWord → Word → Word → Word → Word × VFlags) :
    (perLane f).gives i x k (fun l => (f i (x.src i (srcA i) l) (x.src i (srcB i) l) (x.src i (srcC i) l)).1)
      ((List.range 256).foldl (fun a l => a ||| (f i (x.src i (srcA i) l) (x.src i (srcB i) l) (x.src i (srcC i) l)).2) 0) := by
  simp only [VecFn.gives, perLane, hlive, if_true, foldl_zipIdx_range _ (fun (a : Nat) (y : Word × VFlags) => a ||| y.2), List.map_map,
    Function.comp_def]

theorem fnSfn_gives :
    fnSfn.gives i x k (fun l => (sfnEval (bits i.toNat 38 35) (sfnMode x.force (i.getLsbD 34)) (x.src i (srcA i) l)).1)
      ((List.range 256).foldl (fun a l => a ||| (sfnEval (bits i.toNat 38 35) (sfnMode x.force (i.getLsbD 34)) (x.src i (srcA i) l)).2) 0) :=
  perLane_gives hlive (fun i a _ _ => sfnEval (bits i.toNat 38 35) (sfnMode x.force (i.getLsbD 34)) a)

omit hlive in
/-- The rotation of the lanes takes every lane once, so its operand flag is that of all the sources. -/
theorem niOf_rotated (f : Nat → Word) (r : Nat) :
    niOf ((List.range 256).map (fun l => f ((l + r) % 256))) = niOf ((List.range 256).map f) := by
  have hmem : ∀ w, w ∈ (List.range 256).map (fun l => f ((l + r) % 256)) ↔ w ∈ (List.range 256).map f := by
    intro w
    simp only [List.mem_map, List.mem_range]
    constructor
    · rintro ⟨l, -, rfl⟩
      exact ⟨(l + r) % 256, by omega, rfl⟩
    · rintro ⟨l, hl, rfl⟩
      exact ⟨(l + (256 - r % 256)) % 256, by omega, congrArg f (by omega)⟩
  have hany : ((List.range 256).map (fun l => f ((l + r) % 256))).any isNaN32 = ((List.range 256).map f).any isNaN32 := by
    rw [Bool.eq_iff_iff, List.any_eq_true, List.any_eq_true]
    simp only [hmem]
  simp only [niOf, hany]

theorem fnRot_gives :
    fnRot.gives i x k (fun l => x.src i (srcA i) ((l + bits i.toNat 7 0) % 256)) (niOf ((List.range 256).map (x.src i (srcA i)))) := by
  have hall : ∀ g : Nat → Word, (List.range 256).filterMap (fun l => if x.live l then ((List.range 256).map g)[l]? else none) =
      (List.range 256).map g := by
    intro g
    rw [← List.filterMap_eq_map]
    refine List.filterMap_congr (fun l hl => ?_)
    simp [hlive, List.mem_range.1 hl]
  rw [VecFn.gives, fnRot, hall, niOf_rotated (x.src i (srcA i))]

omit hlive in
/-- The values of the tile rows, each given to the 32 lanes of its row. -/
theorem flatMap_replicate_rows (g : Nat → Word) (m : Nat) :
    (List.range m).flatMap (fun q => List.replicate 32 (g q)) = (List.range (m * 32)).map (fun l => g (l / 32)) := by
  induction m with
  | zero => rfl
  | succ m ih =>
    have hrow : (List.range 32).map (fun j => g ((m * 32 + j) / 32)) = List.replicate 32 (g m) := by
      refine List.eq_replicate_iff.2 ⟨by simp, ?_⟩
      simp only [List.mem_map, List.mem_range]
      rintro w ⟨j, hj, rfl⟩
      exact congrArg g (by omega)
    rw [List.range_succ, List.flatMap_append, ih, Nat.succ_mul, List.range_add, List.map_append, List.map_map]
    simp only [List.flatMap_cons, List.flatMap_nil, List.append_nil, Function.comp_def, hrow]

theorem perRow_gives (f : List Word → Word × VFlags) :
    (perRow f).gives i x k (fun l => (f ((List.range 32).map (fun j => x.src i (srcA i) (l / 32 * 32 + j)))).1)
      ((List.range 8).foldl (fun a r => a ||| (f ((List.range 32).map (fun j => x.src i (srcA i) (32 * r / 32 * 32 + j)))).2) 0) := by
  have hany : ((List.range 32).any fun _ => true) = true := by decide
  have hrow : ∀ r, 32 * r / 32 * 32 = 32 * r := fun r => by omega
  have hlane : ∀ l, l / 32 * 32 = 32 * (l / 32) := fun l => Nat.mul_comm ..
  simp only [VecFn.gives, perRow, hlive, hany, if_true, foldl_zipIdx_range _ (fun (a : Nat) (y : Word × VFlags) => a ||| y.2), List.flatMap_map,
    hrow, hlane, flatMap_replicate_rows (fun q => (f ((List.range 32).map (fun j => x.src i (srcA i) (32 * q + j)))).1) 8]

end

/-! ### RAND (R184, R186) -/

theorem Core.lane_draw (k : Core) (l m : Nat) : (k.draw l).2.lane m = if m = l then (twiDraw (k.lane l)).2 else k.lane m := by
  split
  · next h =>
    subst h
    simp [Core.lane, Core.draw]
  · next h => simp [Core.lane, Core.draw, tabFind_put_other _ _ h]

/-- Each lane below m draws once from its own generator: the numbers are those of the generators before, and no other moves. -/
theorem foldl_draw (k : Core) (g : DWord → Word) (m : Nat) :
    ∃ tab, (List.range m).foldl (fun (st : List Word × Core) l => (g (st.2.draw l).1 :: st.1, (st.2.draw l).2)) ([], k) =
        (((List.range m).map (fun l => g (k.draw l).1)).reverse, { k with lanes := tab }) ∧
      ∀ l, ({ k with lanes := tab } : Core).lane l = if l < m then (twiDraw (k.lane l)).2 else k.lane l := by
  induction m with
  | zero => exact ⟨k.lanes, rfl, fun l => by simp⟩
  | succ m ih =>
    obtain ⟨tab, hfold, hlane⟩ := ih
    obtain ⟨u, hu⟩ : ∃ u : Core, u = { k with lanes := tab } := ⟨_, rfl⟩
    rw [← hu] at hfold hlane
    refine ⟨(u.draw m).2.lanes, ?_, fun l => ?_⟩
    · have hm : (u.draw m).1 = (k.draw m).1 := by simp [Core.draw, hlane]
      rw [List.range_succ, List.foldl_append, hfold]
      simp only [List.foldl_cons, List.foldl_nil, hm, List.map_append, List.map_cons, List.map_nil, List.reverse_append, List.reverse_cons,
        List.reverse_nil, List.nil_append, List.singleton_append]
      rw [hu]
      rfl
    · have hd : ({ k with lanes := (u.draw m).2.lanes } : Core).lane l = (u.draw m).2.lane l := by
        rw [hu]
        rfl
      rw [hd, Core.lane_draw, hlane, hlane]
      by_cases h1 : l = m
      · subst h1
        simp
      · have : l < m + 1 ↔ l < m := by omega
        simp [h1, this]

theorem fnRand_draws (i : DWord) (x : Lanes) (k : Core) : ∃ tab,
    fnRand i x k = (some ((List.range 256).map (fun l => rne32 ⟨draw24 (k.draw l).1, -24⟩)), 0, { k with lanes := tab }) ∧
      (∀ l, l < 256 → ({ k with lanes := tab } : Core).lane l = (twiDraw (k.lane l)).2) ∧
      ∀ l, 256 ≤ l → ({ k with lanes := tab } : Core).lane l = k.lane l := by
  obtain ⟨tab, hfold, hlane⟩ := foldl_draw k (fun d => rne32 ⟨draw24 d, -24⟩) 256
  refine ⟨tab, ?_, fun l hl => by rw [hlane, if_pos hl], fun l hl => by rw [hlane, if_neg (by omega)]⟩
  simp only [fnRand, hfold, List.reverse_reverse]

/-! ### The step of the engine -/

/-- The registers of the lanes once register `dst` of each holds its result. -/
@[irreducible] def lanesPut (regs : Tab Word) (dst : Nat) (rs : List Word) : Tab Word :=
  rs.zipIdx.foldl (fun t y => tabSet t (16 * y.2 + dst) 0#32 y.1) regs

section
variable (regs : Tab Word) {dst m : Nat} (f : Nat → Word)

theorem tabGet_lanesPut_same {l : Nat} (hl : l < m) : tabGet (lanesPut regs dst ((List.range m).map f)) (16 * l + dst) 0#32 = f l := by
  have hmem : (f l, l) ∈ (List.range m).map (fun l => (f l, l)) := List.mem_map.2 ⟨l, List.mem_range.2 hl, rfl⟩
  rw [lanesPut, zipIdx_map_range]
  refine tabGet_foldl_tabSet_inside (d := 0#32) (key := fun y : Word × Nat => 16 * y.2 + dst) (val := Prod.fst) hmem (fun y hy he => ?_) regs
  obtain ⟨m, -, rfl⟩ := List.mem_map.1 hy
  simp only at he ⊢
  exact congrArg f (by omega)

theorem tabGet_lanesPut_other (hd : dst < 16) {y : Nat} (hy : y % 16 ≠ dst ∨ 16 * m ≤ y) :
    tabGet (lanesPut regs dst ((List.range m).map f)) y 0#32 = tabGet regs y 0#32 := by
  rw [lanesPut, zipIdx_map_range]
  refine tabGet_foldl_tabSet_outside (key := fun y : Word × Nat => 16 * y.2 + dst) (val := Prod.fst) (fun z hz => ?_) regs
  obtain ⟨l, hm, rfl⟩ := List.mem_map.1 hz
  have := List.mem_range.1 hm
  simp only
  omega

end

theorem runVec_some {fn : VecFn} {i : DWord} {x : Lanes} {k k' : Core} {rs : List Word} {fl : VFlags} (hlive : x.live = fun _ => true)
    (h : fn i x k = (some rs, fl, k')) : runVec fn i x k = ({ x with regs := lanesPut x.regs (bits i.toNat 57 54) rs }, fl, k') := by
  simp only [runVec, h, hlive, if_true, lanesPut]

/-- The engine after an instruction: new registers, more flags, and the next place or the end of the group's program (R163). -/
def Engine.after (g : Engine) (i : DWord) (regs : Tab Word) (fl : VFlags) : Engine :=
  { g with regs := regs, flags := g.flags ||| fl, pc := if vecEnd i then g.pc else g.pc + 1, ended := vecEnd i }

/-- The state after an instruction of core n that leaves its generators as `lanes` has them. -/
def State.afterVec (s : State) (n : Nat) (i : DWord) (lanes : Tab (DWord × DWord)) (regs : Tab Word) (fl : VFlags) : State :=
  (s.setCore n { s.core n with engine := (s.core n).engine.after i regs fl, lanes := lanes }).orReg .vecFlags n 0 0 fl

section
variable {n : Nat} {s : State}

@[simp] theorem State.afterVec_core (i : DWord) (lanes : Tab (DWord × DWord)) (regs : Tab Word) (fl : VFlags) :
    (s.afterVec n i lanes regs fl).core n = { s.core n with engine := (s.core n).engine.after i regs fl, lanes := lanes } :=
  State.core_setCore_same ..

theorem State.afterVec_core_other (i : DWord) (lanes : Tab (DWord × DWord)) (regs : Tab Word) (fl : VFlags) {m : Nat} (h : m ≠ n) :
    (s.afterVec n i lanes regs fl).core m = s.core m := State.core_setCore_other _ _ h

theorem State.afterVec_flags (i : DWord) (lanes : Tab (DWord × DWord)) (regs : Tab Word) (fl : VFlags) :
    (s.afterVec n i lanes regs fl).rd .vecFlags n 0 0 = (s.orReg .vecFlags n 0 0 fl).rd .vecFlags n 0 0 := by
  simp only [State.afterVec, State.orReg, State.rd_wr_same, State.rd_setCore]

theorem State.afterVec_rd_other (i : DWord) (lanes : Tab (DWord × DWord)) (regs : Tab Word) (fl : VFlags) {r : Reg} {b i' j : Nat}
    (h : Reg.addr r b i' j ≠ Reg.addr .vecFlags n 0 0) : (s.afterVec n i lanes regs fl).rd r b i' j = s.rd r b i' j :=
  State.rd_wr_other _ _ _ _ _ _ _ _ _ _ h

/-- What the lanes of core n's group in progress see. -/
def State.laneView (s : State) (n : Nat) (v : Conversion) : Lanes :=
  { regs := (s.core n).engine.regs, latch := (v.vec.map (·.latch)).getD [], force := v.sfn }

/-- The word i stands at the engine's place, and the engine works on a tile of v. -/
structure State.runsWord (s : State) (n : Nat) (i : DWord) (v : Conversion) : Prop where
  clock : s.clockHalt = false
  active : (s.core n).engine.active = true
  going : (s.core n).engine.ended = false
  word : s.progWord n (s.core n).engine.bank (s.core n).engine.pc = i
  entry : ∃ q e, (s.core n).engineEntry = some (q, e, v)

variable {i : DWord} {v : Conversion} (h : s.runsWord n i v)
include h

theorem vecStep_eq {fn : VecFn} {x : Lanes} {fl : VFlags} {tab : Tab (DWord × DWord)}
    (hrun : runVec fn i (s.laneView n v) (s.core n) = (x, fl, { s.core n with lanes := tab })) :
    vecStep n fn i s = s.afterVec n i tab x.regs fl := by
  obtain ⟨q, e, he⟩ := h.entry
  have hgo : (s.clockHalt || !(s.core n).engine.active || (s.core n).engine.ended ||
      s.progWord n (s.core n).engine.bank (s.core n).engine.pc != i) = false := by
    simp [h.clock, h.active, h.going, h.word]
  simp only [State.laneView] at hrun
  simp only [vecStep, hgo, he, hrun]
  rfl

theorem vecStep_gives {fn : VecFn} {f : Nat → Word} {fl : VFlags} (hfn : fn.gives i (s.laneView n v) (s.core n) f fl) :
    vecStep n fn i s = s.afterVec n i (s.core n).lanes (lanesPut (s.core n).engine.regs (bits i.toNat 57 54) ((List.range 256).map f)) fl := by
  have hrun : runVec fn i (s.laneView n v) (s.core n) = ({ s.laneView n v with
      regs := lanesPut (s.core n).engine.regs (bits i.toNat 57 54) ((List.range 256).map f) }, fl, { s.core n with lanes := (s.core n).lanes }) :=
    runVec_some rfl hfn
  exact vecStep_eq h hrun

theorem vecStep_nop : vecStep n fnNop i s = s.afterVec n i (s.core n).lanes (s.core n).engine.regs 0 :=
  vecStep_eq (x := s.laneView n v) h rfl

end

theorem answer_vec {j : Instr} {op n : Nat} {i : DWord} (hj : j.wf = vecWf op n i) (hn : n < 192) (hop : bits i.toNat 63 58 = op) (t : State) :
    answer j t = .next t := if_pos (by simp [hj, vecWf, hn, hop])

theorem vecDst_lt (i : DWord) : bits i.toNat 57 54 < 16 := Nat.mod_lt _ (by decide)

/-- Settles O27: each instruction gives the lanes its results (`perLane_gives`, `perRow_gives`, `fnRot_gives`, `fnRand_draws`), and the
engine's step writes them and moves on (`vecStep_gives`). -/
theorem laneInstructions : Obligations.LaneInstructions := by
  intro n q i s e v hn hclock k g hactive hended hword hentry x a b c dst row moves flags writes does lanewise op
  have hruns : s.runsWord n i v := ⟨hclock, hactive, hended, hword, q, e, hentry⟩
  have hmoves : ∀ lanes regs fl, moves (s.afterVec n i lanes regs fl) := by
    intro lanes regs fl
    refine ⟨?_, ?_, ?_, ?_, ?_, rfl, fun m hm => State.afterVec_core_other _ _ _ _ hm, ?_, fun _ _ _ _ h => State.afterVec_rd_other _ _ _ _ h⟩
    all_goals rw [State.afterVec_core]
    · rfl
    · rfl
    · exact hactive
    · rfl
    · rfl
  have hflags : ∀ lanes regs fl, flags (s.afterVec n i lanes regs fl) fl :=
    fun lanes regs fl => ⟨by rw [State.afterVec_core]; rfl, State.afterVec_flags ..⟩
  have hwrites : ∀ lanes f fl, writes (s.afterVec n i lanes (lanesPut g.regs dst ((List.range 256).map f)) fl) f := by
    intro lanes f fl
    refine ⟨fun l hl => ?_, fun y hy => ?_⟩
    · rw [State.afterVec_core]
      exact tabGet_lanesPut_same g.regs f hl
    · rw [State.afterVec_core]
      exact tabGet_lanesPut_other g.regs f (vecDst_lt i) hy
  have hdoes : ∀ {j : Instr} {o : Nat} {fn : VecFn} {f : Nat → Word} {fl : VFlags}, exec j s = answer j (vecStep n fn i s) →
      j.wf = vecWf o n i → op = o → fn.gives i x k f fl → does j f fl := by
    intro j o fn f fl hexec hwf hop hgives
    refine ⟨_, ?_, hmoves (s.core n).lanes _ fl, ?_, hwrites _ f fl, hflags ..⟩
    · rw [hexec, answer_vec hwf hn hop, vecStep_gives hruns hgives]
    · rw [State.afterVec_core]
  have hlanes : ∀ (fn : DWord → Word → Word → Word → Word × VFlags) {j : Instr} {o : Nat}, exec j s = answer j (vecStep n (perLane fn) i s) →
      j.wf = vecWf o n i → op = o → lanewise j (fun l => fn i (a l) (b l) (c l)) :=
    fun fn _ _ hexec hwf hop => hdoes hexec hwf hop (perLane_gives rfl fn)
  have hrows : ∀ (fv : List Word → Word) (ff : List Word → VFlags) {j : Instr} {o : Nat},
      exec j s = answer j (vecStep n (perRow (fun w => (fv w, ff w))) i s) → j.wf = vecWf o n i → op = o →
      does j (fun l => fv (row l)) ((List.range 8).foldl (fun x r => x ||| ff (row (32 * r))) 0) :=
    fun fv ff _ _ hexec hwf hop => hdoes hexec hwf hop (perRow_gives rfl (fun w => (fv w, ff w)))
  refine ⟨fun hop => ?_, hlanes (fun _ a _ _ => (a, niOf [a])) rfl rfl, hlanes (fun _ a b _ => fadd a b) rfl rfl,
    hlanes (fun _ a b _ => fsub a b) rfl rfl, hlanes (fun _ a b _ => fmul a b) rfl rfl, hlanes (fun _ a b c => ffma a b c) rfl rfl,
    hlanes (fun _ a b _ => fmin a b) rfl rfl, hlanes (fun _ a b _ => fmax a b) rfl rfl,
    hlanes (fun _ a _ _ => (a &&& 0x7FFFFFFF#32, niOf [a])) rfl rfl, hlanes (fun _ a _ _ => (a ^^^ 0x80000000#32, niOf [a])) rfl rfl,
    hlanes (fun _ a b c => (if flt 0#32 c then a else b, niOf [a, b, c])) rfl rfl,
    hlanes (fun _ a b _ => (if flt a b then 0x3F800000#32 else 0#32, niOf [a, b])) rfl rfl, hlanes (fun _ a b _ => fdiv a b) rfl rfl,
    hlanes (fun _ a _ _ => fsqrt a) rfl rfl, fun hop => hdoes rfl rfl hop (fnSfn_gives rfl), fun hop => ?_,
    fun hop => hdoes rfl rfl hop (fnRot_gives rfl), hrows (fun w => (orderedSum w).1) (fun w => (orderedSum w).2) rfl rfl,
    hrows (fun w => (orderedMax w).1) (fun w => (orderedMax w).2.2) rfl rfl,
    hlanes (fun _ a _ _ => cvtb a) rfl rfl⟩
  · refine ⟨_, ?_, hmoves k.lanes g.regs 0, ?_, ?_, hflags ..⟩
    · exact (answer_vec rfl hn hop _).trans (congrArg _ (vecStep_nop hruns))
    · rw [State.afterVec_core]
    · rw [State.afterVec_core]; rfl
  · obtain ⟨tab, hrand, hdrawn, hrest⟩ := fnRand_draws i x k
    refine ⟨_, ?_, hmoves tab _ 0, hwrites tab _ 0, hflags .., fun l hl => ?_, fun l hl => ?_⟩
    · exact (answer_vec rfl hn hop _).trans (congrArg _ (vecStep_eq hruns (runVec_some rfl hrand)))
    · rw [State.afterVec_core]; exact hdrawn l hl
    · rw [State.afterVec_core]; exact hrest l hl

end Sys2Proof.Machine
end

/-! ## O29: writes of VEC_CTL and of the program store (R167, R168, R180, R183, R440) -/

section
namespace Sys2Proof.Machine
open Sys2Proof

/-! ### VEC_CTL and the program store -/

theorem State.fld_setFld_other (s : State) (r : Reg) (b i j : Nat) {hi lo hi' lo' : Nat} (h : hi < lo' ∨ hi' < lo) (v : Nat) :
    (s.setFld r b i j hi lo v).fld r b i j hi' lo' = s.fld r b i j hi' lo' := by
  rw [State.fld, State.setFld, State.rd_wr_same, getBits_setBits_other _ h, State.fld]

theorem State.runBank_lt (s : State) (n : Nat) : s.runBank n < 2 := Nat.mod_lt _ (by decide)

theorem State.progWord_congr {s t : State} {n b k : Nat} (hlo : t.rd .vecProgLo n b k = s.rd .vecProgLo n b k)
    (hhi : t.rd .vecProgHi n b k = s.rd .vecProgHi n b k) : t.progWord n b k = s.progWord n b k := by
  rw [State.progWord, State.progWord, hlo, hhi]

/-- The registers below the program store in a core's block. -/
theorem Reg.below_prog (n b k : Nat) : Reg.vecProgLo.addr n b k ≠ Reg.vecCtl.addr n 0 0 ∧ Reg.vecProgHi.addr n b k ≠ Reg.vecCtl.addr n 0 0 ∧
    Reg.vecProgLo.addr n b k ≠ Reg.vecStatus.addr n 0 0 ∧ Reg.vecProgHi.addr n b k ≠ Reg.vecStatus.addr n 0 0 := by
  simp only [Reg.addr, Reg.spec]
  omega

section
variable (s : State) (n : Nat)

@[simp] theorem State.progWord_setVecCtl (hi lo v b k : Nat) : (s.setFld .vecCtl n 0 0 hi lo v).progWord n b k = s.progWord n b k :=
  State.progWord_congr (s.rd_wr_other _ _ _ _ _ _ _ _ _ (Reg.below_prog n b k).1) (s.rd_wr_other _ _ _ _ _ _ _ _ _ (Reg.below_prog n b k).2.1)

@[simp] theorem State.progWord_setVecStatus (hi lo v b k : Nat) : (s.setFld .vecStatus n 0 0 hi lo v).progWord n b k = s.progWord n b k :=
  State.progWord_congr (s.rd_wr_other _ _ _ _ _ _ _ _ _ (Reg.below_prog n b k).2.2.1)
    (s.rd_wr_other _ _ _ _ _ _ _ _ _ (Reg.below_prog n b k).2.2.2)

/-- What a write of VEC_CTL leaves: the cores and the instructions. -/
structure State.byVecCtl (t : State) : Prop where
  cores : t.cores = s.cores
  prog : ∀ b k, t.progWord n b k = s.progWord n b k

variable {s n}

theorem State.byVecCtl.trans {t u : State} (h : s.byVecCtl n t) (g : t.byVecCtl n u) : s.byVecCtl n u :=
  ⟨g.cores.trans h.cores, fun b k => (g.prog b k).trans (h.prog b k)⟩

theorem State.setVecCtl_byVecCtl (hi lo v : Nat) : s.byVecCtl n (s.setFld .vecCtl n 0 0 hi lo v) :=
  ⟨rfl, fun _ _ => s.progWord_setVecCtl ..⟩

theorem State.flipBank_unasked (h : s.fld .vecCtl n 0 0 1 1 = 0) : s.flipBank n = s := by
  rw [State.flipBank, h]
  rfl

/-- A requested change of bank (R167): the other bank runs, the request clears, SFN_FORCE is as it was. -/
theorem State.flipBank_asked (h : s.fld .vecCtl n 0 0 1 1 = 1) : (s.flipBank n).runBank n = 1 - s.runBank n ∧
    (s.flipBank n).fld .vecCtl n 0 0 1 1 = 0 ∧ (s.flipBank n).fld .vecCtl n 0 0 5 4 = s.fld .vecCtl n 0 0 5 4 ∧
    s.byVecCtl n (s.flipBank n) := by
  have hflip : s.flipBank n = (s.setFld .vecCtl n 0 0 0 0 (1 - s.runBank n)).setFld .vecCtl n 0 0 1 1 0 := by
    rw [State.flipBank, h]
    rfl
  rw [hflip]
  refine ⟨?_, ?_, ?_, (State.setVecCtl_byVecCtl ..).trans (State.setVecCtl_byVecCtl ..)⟩
  · rw [State.runBank, State.fld_setFld_other _ _ _ _ _ (by decide), State.fld_setFld_same _ _ _ _ _ (by decide)]
    omega
  · exact State.fld_setFld_same _ _ _ _ _ (by decide) _
  · rw [State.fld_setFld_other _ _ _ _ _ (by decide), State.fld_setFld_other _ _ _ _ _ (by decide)]

/-- A write of VEC_CTL with SWITCH set (R180). -/
theorem State.writeVecCtl_switch {v : Word} (hv : v.getLsbD 1 = true) : s.byVecCtl n (s.writeVecCtl n v) ∧
    (s.writeVecCtl n v).fld .vecCtl n 0 0 5 4 = getBits v 5 4 ∧
    ((s.core n).engine.active = true → (s.writeVecCtl n v).runBank n = s.runBank n ∧ (s.writeVecCtl n v).fld .vecCtl n 0 0 1 1 = 1) ∧
    ((s.core n).engine.active = false → (s.writeVecCtl n v).runBank n = 1 - s.runBank n ∧ (s.writeVecCtl n v).fld .vecCtl n 0 0 1 1 = 0) := by
  obtain ⟨u, hu⟩ : ∃ u : State, u = (s.setFld .vecCtl n 0 0 5 4 (getBits v 5 4)).setFld .vecCtl n 0 0 1 1 1 := ⟨_, rfl⟩
  have hby : s.byVecCtl n u := by
    rw [hu]
    exact (State.setVecCtl_byVecCtl ..).trans (State.setVecCtl_byVecCtl ..)
  have hforce : u.fld .vecCtl n 0 0 5 4 = getBits v 5 4 := by
    rw [hu, State.fld_setFld_other _ _ _ _ _ (by decide), State.fld_setFld_same _ _ _ _ _ (by decide)]
    exact Nat.mod_eq_of_lt (Nat.mod_lt _ (by decide))
  have hask : u.fld .vecCtl n 0 0 1 1 = 1 := by
    rw [hu]
    exact State.fld_setFld_same _ _ _ _ _ (by decide) _
  have hbank : u.runBank n = s.runBank n := by
    rw [hu, State.runBank, State.fld_setFld_other _ _ _ _ _ (by decide), State.fld_setFld_other _ _ _ _ _ (by decide), State.runBank]
  have hwrite : s.writeVecCtl n v = if (s.core n).engine.active then u else u.flipBank n := by
    rw [State.writeVecCtl, if_pos hv, hu]
    rfl
  cases hactive : (s.core n).engine.active with
  | true =>
    rw [hwrite, hactive, if_pos rfl]
    exact ⟨hby, hforce, fun _ => ⟨hbank, hask⟩, nofun⟩
  | false =>
    obtain ⟨hflip, hclear, hkeep, hbyflip⟩ := State.flipBank_asked hask
    rw [hwrite, hactive, if_neg (by decide)]
    exact ⟨hby.trans hbyflip, hkeep.trans hforce, nofun, fun _ => ⟨by rw [hflip, hbank], hclear⟩⟩

end

/-! ### What events and records leave of the cores' registers (R413, R428, R436) -/

/-- Events and records leave every register of the cores' blocks and beyond. -/
structure State.noted (s t : State) : Prop where
  events : s.byEvents t
  rd : ∀ r b i j, Blk.core.base ≤ Reg.addr r b i j → t.rd r b i j = s.rd r b i j

theorem State.noted.trans {s t u : State} (h : s.noted t) (g : t.noted u) : s.noted u :=
  ⟨h.events.trans g.events, fun r b i j hr => (g.rd r b i j hr).trans (h.rd r b i j hr)⟩

theorem State.onRel_noted (s : State) (f : Reliab → Reliab) : s.noted (s.onRel f) := ⟨rfl, fun _ _ _ _ _ => rfl⟩

theorem State.wr_noted (s : State) {r : Reg} {b i j : Nat} (h : r.addr b i j < Blk.core.base) (v : Word) : s.noted (s.wr r b i j v) :=
  ⟨rfl, fun _ _ _ _ hr => State.rd_wr_other _ _ _ _ _ _ _ _ _ _ (by omega)⟩

theorem Reg.noted_addr {p : Nat} (hp : p < 8) : Reg.helmIrqStatus.addr 0 p 0 < Blk.core.base ∧ Reg.helmEvqStatus.addr 0 p 0 < Blk.core.base ∧
    Reg.logRd.addr 0 p 0 < Blk.core.base ∧ Reg.logStatus.addr 0 0 0 < Blk.core.base := by
  simp only [Reg.addr, Reg.spec, Blk.base]
  omega

theorem State.raise_noted (s : State) {p : Nat} (hp : p < 8) (cause unit tag value : Nat) : s.noted (s.raise p cause unit tag value) := by
  obtain ⟨hirq, hevq, -⟩ := Reg.noted_addr hp
  have h := s.raise_signalled p cause unit tag value
  exact ⟨h.events, fun r b i j hr => h.rd r b i j (by omega) (by omega)⟩

theorem State.offerBmc_noted (s : State) (r : LogRec) : s.noted (s.offerBmc r) := by
  simp only [State.offerBmc]
  split
  · exact s.onRel_noted _
  · exact s.wr_noted (Reg.noted_addr (p := 0) (by decide)).2.2.2 _

theorem State.log_noted (s : State) (r : LogRec) : s.noted (s.log r) := by
  have fresh : ∀ r : LogRec, s.noted (let t := (s.onRel (fun x =>
      { x with ring := tabPut x.ring (x.seq % 4096) (some r), seq := x.seq + 1 })).offerBmc r
    if r.part < 8 then (t.orReg .logRd 0 r.part 0 0x80000000).raise r.part 11 0 r.tag r.seq else t) := by
    intro r
    have h := (s.onRel_noted (fun x => { x with ring := tabPut x.ring (x.seq % 4096) (some r), seq := x.seq + 1 })).trans
      (State.offerBmc_noted _ r)
    simp only
    split
    · next hp => exact (h.trans (State.wr_noted _ (Reg.noted_addr hp).2.2.1 _)).trans (State.raise_noted _ hp ..)
    · exact h
  simp only [State.log]
  split
  · split
    · exact s.onRel_noted _
    · exact fresh { r with mtime := s.now, seq := s.rel.seq % 2 ^ 32, temp := s.unitTemp r.kind r.unit, mv := s.unitMv r.kind r.unit }
  · exact fresh { r with mtime := s.now, seq := s.rel.seq % 2 ^ 32, temp := s.unitTemp r.kind r.unit, mv := s.unitMv r.kind r.unit }

theorem Reg.core_addr {r : Reg} (h : r.spec.blk = .core) (b i j : Nat) : Blk.core.base ≤ r.addr b i j := by
  simp only [Reg.addr, h]
  omega

theorem State.noted.progWord {s t : State} (h : s.noted t) (n b k : Nat) : t.progWord n b k = s.progWord n b k :=
  State.progWord_congr (h.rd _ _ _ _ (Reg.core_addr rfl ..)) (h.rd _ _ _ _ (Reg.core_addr rfl ..))

/-! ### The commit of an instruction (R168, R183) -/

/-- Core n without the word staged for slot k of bank b. -/
def State.unstage (s : State) (n b k : Nat) : State := s.onCore n (fun c => { c with staged := tabPut c.staged (b * 32 + k) none })

@[simp] theorem State.runBank_unstage (s : State) (n b k m : Nat) : (s.unstage n b k).runBank m = s.runBank m := rfl

theorem State.commitProg_idle {s : State} {n b : Nat} (h : b ≠ s.runBank n) (k : Nat) (v : Word) : s.commitProg n b k v =
    (s.unstage n b k).loadInstr n b k ((tabFind (s.core n).staged (b * 32 + k)).getD (s.rd .vecProgLo n b k)) v := by
  have hb : (b == (s.unstage n b k).runBank n) = false := by simpa using h
  simp only [State.unstage] at hb
  simp only [State.commitProg, hb, State.loadInstr, State.unstage]
  rfl

/-- A commit to the running bank is refused and recorded: the error bit alone of the block's registers changes. -/
theorem State.commitProg_running {s : State} {n b : Nat} (h : b = s.runBank n) (hp : ∀ p, s.holder n = some p → p < 8) (k : Nat) (v : Word) :
    ((s.unstage n b k).setFld .vecStatus n 0 0 3 3 1).noted (s.commitProg n b k v) := by
  have hb : (b == (s.unstage n b k).runBank n) = true := by simpa using h
  simp only [State.unstage] at hb
  simp only [State.commitProg, hb, if_true]
  split
  · next p hold => exact (State.raise_noted _ (hp p hold) ..).trans (State.log_noted ..)
  · exact State.log_noted ..

/-! ### The commands -/

section
variable {m : Master} {n b k : Nat} {v : Word} {s : State} (hm : m.wf = true) (hn : n < 192) (hw : s.bar2Waits m = false)
include hm hn hw

theorem exec_switch (hv : v.getLsbD 1 = true) : exec (.switch m n v) s = .next (s.coreWrite m n (fun s => s.writeVecCtl n v)) := by
  have he : exec (.switch m n v) s = answerBy m (.switch m n v) s (s.coreWrite m n (fun s => s.writeVecCtl n v)) := rfl
  rw [he, answerBy, hw, answer, if_pos (by simp [Instr.wf, hm, hn, hv])]
  rfl

theorem exec_programStage (hb : b < 2) (hk : k < 32) :
    exec (.programStage m n b k v) s = .next (s.coreWrite m n (fun s => s.stageProg n b k v)) := by
  have he : exec (.programStage m n b k v) s = answerBy m (.programStage m n b k v) s (s.coreWrite m n (fun s => s.stageProg n b k v)) := rfl
  rw [he, answerBy, hw, answer, if_pos (by simp [Instr.wf, hm, hn, hb, hk])]
  rfl

theorem exec_programCommit (hb : b < 2) (hk : k < 32) :
    exec (.programCommit m n b k v) s = .next (s.coreWrite m n (fun s => s.commitProg n b k v)) := by
  have he : exec (.programCommit m n b k v) s = answerBy m (.programCommit m n b k v) s (s.coreWrite m n (fun s => s.commitProg n b k v)) := rfl
  rw [he, answerBy, hw, answer, if_pos (by simp [Instr.wf, hm, hn, hb, hk])]
  rfl

end

section
variable {m : Master} {n : Nat} {s : State} (hheld : s.blockHeld n = false)
include hheld

theorem State.coreWrite_reached (h : s.reachesCore m n = true) (f : State → State) : s.coreWrite m n f = f (s.unlatch m) := by
  simp [State.coreWrite, hheld, h]

theorem State.coreWrite_unreached (h : s.reachesCore m n = false) (f : State → State) : s.coreWrite m n f = s.unlatch m := by
  simp [State.coreWrite, hheld, h]

end

/-- Settles O29: `State.writeVecCtl_switch` for SWITCH, `State.commitProg_idle` and `State.commitProg_running` for a high word. -/
theorem programStore : Obligations.ProgramStore := by
  intro m n b k v s hm hn hb hk hheld hw hholder bank same
  have hstage := exec_programStage (v := v) hm hn hw hb hk
  have hcommit := exec_programCommit (v := v) hm hn hw hb hk
  refine ⟨fun hreach => ⟨fun hv => ?_, ?_, ?_⟩, fun hreach => ⟨_, fun hv => ?_, ?_, ?_, rfl⟩⟩
  · obtain ⟨hby, hforce, hactive, hidle⟩ := State.writeVecCtl_switch (s := s.unlatch m) (n := n) hv
    exact ⟨_, by rw [exec_switch hm hn hw hv, State.coreWrite_reached hheld hreach], fun b' k' _ _ => hby.prog b' k', hforce, hactive, hidle⟩
  · refine ⟨(s.unlatch m).stageProg n b k v, by rw [hstage, State.coreWrite_reached hheld hreach], fun _ _ _ _ => rfl, ?_⟩
    rw [State.stageProg, State.core_onCore_same]
    exact tabFind_put_same (s.core n).staged (b * 32 + k) (some v)
  · refine ⟨_, by rw [hcommit, State.coreWrite_reached hheld hreach], ?_⟩
    have hgone : tabFind (((s.unlatch m).unstage n b k).core n).staged (b * 32 + k) = none := by
      rw [State.unstage, State.core_onCore_same]
      exact tabFind_put_same (s.core n).staged (b * 32 + k) none
    by_cases hrun : b = bank
    · have hnoted := State.commitProg_running (s := s.unlatch m) (b := b) hrun hholder k v
      refine ⟨?_, fun hne => absurd hrun hne, fun _ => ⟨fun b' k' _ _ => ?_, ?_⟩⟩
      · rw [State.core, hnoted.events.cores_eq]
        exact hgone
      · rw [hnoted.progWord, State.progWord_setVecStatus]
        rfl
      · rw [State.fld, hnoted.rd _ _ _ _ (Reg.core_addr rfl ..), ← State.fld]
        exact State.fld_setFld_same _ _ _ _ _ (by decide) _
    · rw [State.commitProg_idle (s := s.unlatch m) hrun]
      refine ⟨hgone, fun _ => ⟨State.progWord_loadInstr_same .., fun b' k' _ hk' hne => ?_⟩, fun he => absurd he hrun⟩
      have hslot : b' ≠ b ∨ k' ≠ k := by
        by_contra hno
        push Not at hno
        exact hne (Prod.ext hno.1 hno.2)
      rw [State.progWord_loadInstr_other _ _ hk hk' hslot]
      rfl
  · rw [exec_switch hm hn hw hv, State.coreWrite_unreached hheld hreach]
  · rw [hstage, State.coreWrite_unreached hheld hreach]
  · rw [hcommit, State.coreWrite_unreached hheld hreach]

end Sys2Proof.Machine
end

/-! ## O28: group boundaries (R158 to R160, R165, R167) -/

section
namespace Sys2Proof.Machine
open Sys2Proof

/-! ### The engine's tile (R157, R158, R190) -/

theorem listSet_eq_set {α : Type} (l : List α) (i : Nat) (v : α) : listSet l i v = l.set i v := by
  induction l generalizing i with
  | nil => rfl
  | cons a t ih => cases i <;> simp [listSet, ih]

/-- An entry replaced by one that looks the same to f leaves what f shows of the list. -/
theorem map_listSet {α β : Type} {f : α → β} {l : List α} {i : Nat} {a b : α} (h : l[i]? = some a) (hf : f b = f a) :
    (listSet l i b).map f = l.map f := by
  have hi : (l.map f)[i]? = some (f a) := by rw [List.getElem?_map, h]; rfl
  obtain ⟨hlt, hval⟩ := List.getElem?_eq_some_iff.1 hi
  rw [listSet_eq_set, List.map_set, hf, ← hval, List.set_getElem_self]

/-- What `closePrefix` sees of an entry: its command and its place. -/
def TileEntry.place (e : TileEntry) : Nat × TileJob := (e.cc, e.job)

theorem closePrefix_congr (span : Nat) {q q' : List TileEntry} (h : q'.map TileEntry.place = q.map TileEntry.place) (fuel p : Nat) :
    closePrefix span q' fuel p = closePrefix span q fuel p := by
  have hany : ∀ (q : List TileEntry) (x : TileEntry) (p : Nat), (q.take p).any (fun h => h.cc == x.cc && h.job.same span x.job) =
      ((q.map TileEntry.place).take p).any (fun h => h.1 == x.place.1 && h.2.same span x.place.2) := by
    intro q x p
    rw [← List.map_take, List.any_map]
    rfl
  have hlast : ∀ (q : List TileEntry) (p : Nat), (q.zipIdx).foldl (fun m x =>
        if (q.take p).any (fun h => h.cc == x.1.cc && h.job.same span x.1.job) then Nat.max m (x.2 + 1) else m) p =
      ((q.map TileEntry.place).zipIdx).foldl (fun m x =>
        if ((q.map TileEntry.place).take p).any (fun h => h.1 == x.1.1 && h.2.same span x.1.2) then Nat.max m (x.2 + 1) else m) p := by
    intro q p
    rw [List.zipIdx_map, List.foldl_map]
    simp only [hany]
    rfl
  induction fuel generalizing p with
  | zero => rfl
  | succ fuel ih => simp only [closePrefix, hlast, h, ih]

theorem Core.engineWindow_congr {k k' : Core} (hq : k'.tileq.map TileEntry.place = k.tileq.map TileEntry.place) (hc : k'.convs = k.convs) :
    k'.engineWindow = k.engineWindow := by
  have hhead : k'.tileq.head?.map TileEntry.place = k.tileq.head?.map TileEntry.place := by
    rw [← List.head?_map, ← List.head?_map, hq]
  have hclose := fun span => closePrefix_congr span hq 16 1
  unfold Core.engineWindow
  rw [hc]
  cases hl : k.tileq with
  | nil =>
    have : k'.tileq = [] := by simpa [hl] using hq
    rw [this]
  | cons x t =>
    cases hl' : k'.tileq with
    | nil => simp [hl, hl'] at hq
    | cons x' t' =>
      have hcc : x'.cc = x.cc := by
        simp [hl, hl', TileEntry.place] at hhead
        exact hhead.1
      rw [hl, hl'] at hclose
      simp only [hcc, hclose]

theorem Core.engineEntry_eq_some {k : Core} {q : Nat} {e : TileEntry} {v : Conversion} : k.engineEntry = some (q, e, v) ↔
    k.tileq.findIdx? (fun e => !e.vecLeft) = some q ∧ q < k.engineWindow ∧ k.tileq[q]? = some e ∧
      k.convs.find? (fun v => v.cc == e.cc) = some v := by
  unfold Core.engineEntry
  constructor
  · intro h
    split at h
    · cases h
    · next i hi =>
      split at h
      · cases h
      · next hw =>
        split at h
        · cases h
        · next e' he' =>
          obtain ⟨v', hv', heq⟩ := Option.map_eq_some_iff.1 h
          cases heq
          exact ⟨hi, by omega, he', hv'⟩
  · rintro ⟨hi, hw, he, hv⟩
    simp [hi, he, hv, Nat.not_le.2 hw]

/-- The engine keeps its place in the queue when its tile's elements change. -/
theorem Core.engineEntry_listSet {k : Core} {q : Nat} {e e' : TileEntry} {v : Conversion} (h : k.engineEntry = some (q, e, v))
    (hplace : e'.place = e.place) (hleft : e'.vecLeft = e.vecLeft) {g : Engine} :
    ({ k with tileq := listSet k.tileq q e', engine := g } : Core).engineEntry = some (q, e', v) := by
  obtain ⟨hi, hw, he, hv⟩ := Core.engineEntry_eq_some.1 h
  have hlen : q < k.tileq.length := (List.getElem?_eq_some_iff.1 he).1
  have hcc : e'.cc = e.cc := congrArg Prod.fst hplace
  have hfind : ∀ l : List TileEntry, l.findIdx? (fun e => !e.vecLeft) = (l.map (fun e => !e.vecLeft)).findIdx? id := fun l => by
    rw [List.findIdx?_map]
    rfl
  refine Core.engineEntry_eq_some.2 ⟨?_, ?_, ?_, ?_⟩
  · show (listSet k.tileq q e').findIdx? _ = some q
    rw [hfind, map_listSet he (by rw [hleft]), ← hfind, hi]
  · exact lt_of_lt_of_eq hw (Core.engineWindow_congr (k := k) (k' := { k with tileq := listSet k.tileq q e', engine := g })
      (map_listSet he hplace) rfl).symm
  · show (listSet k.tileq q e')[q]? = some e'
    rw [listSet_eq_set, List.getElem?_set_self hlen]
  · rw [hcc]
    exact hv

/-! ### A group starts (R160, R165) -/

/-- The compensated element in v0, and v4 to v15 at zero. -/
def groupStart (regs : Tab Word) (comp g : Nat) (tile : Nat → Word) : Prop :=
  (∀ l, l < 256 → tabGet regs (16 * l) 0#32 = (compensate comp (tile (256 * g + l))).1) ∧
    ∀ l r, l < 256 → 4 ≤ r → r < 16 → tabGet regs (16 * l + r) 0#32 = 0#32

theorem Core.groupRegs_start (k : Core) (v : VecOperands) (comp g : Nat) (tile : Nat → Word) :
    groupStart (k.groupRegs v comp g tile).1 comp g tile := by
  refine ⟨fun l hl => ?_, fun l r _ hr hr' => ?_⟩
  · refine foldl_reaches (I := fun _ => True) (x := l)
      (P := fun st : Tab Word × VFlags × Bool => tabGet st.1 (16 * l) 0#32 = (compensate comp (tile (256 * g + l))).1)
      (fun _ _ _ _ => trivial) (fun st y _ _ hst => ?_) (fun st _ => ?_) (List.mem_range.2 hl) trivial
    · simp only [tabGet_set, if_neg (show ¬ 16 * l = 16 * y + 3 by omega), if_neg (show ¬ 16 * l = 16 * y + 2 by omega),
        if_neg (show ¬ 16 * l = 16 * y + 1 by omega)]
      split
      · next he => rw [show y = l by omega]
      · exact hst
    · simp only [tabGet_set, if_neg (show ¬ 16 * l = 16 * l + 3 by omega), if_neg (show ¬ 16 * l = 16 * l + 2 by omega),
        if_neg (show ¬ 16 * l = 16 * l + 1 by omega), if_true]
  · refine List.foldlRecOn (motive := fun st : Tab Word × VFlags × Bool => tabGet st.1 (16 * l + r) 0#32 = 0#32) _ _ rfl
      (fun st hst y _ => ?_)
    simp only [tabGet_set, if_neg (show ¬ 16 * l + r = 16 * y + 3 by omega), if_neg (show ¬ 16 * l + r = 16 * y + 2 by omega),
      if_neg (show ¬ 16 * l + r = 16 * y + 1 by omega), if_neg (show ¬ 16 * l + r = 16 * y by omega)]
    exact hst

/-- A group has started on tile e, which stands at place q: the program's entry in the running bank, the lanes as R160 has them. -/
structure State.groupStarted (n q : Nat) (e : TileEntry) (o : VecOperands) (s t : State) : Prop where
  engine : ∃ regs, (t.core n).engine = ⟨true, (s.core n).engine.group, o.prog, false, s.runBank n, regs, 0⟩ ∧
    groupStart regs (getBits e.hdr 2 0) (s.core n).engine.group (fun j => tabGet e.elems j 0#32)
  tile : ∃ flags hdr, (t.core n).tileq = listSet (s.core n).tileq q { e with flags := flags, hdr := hdr }
  stores : (t.core n).acc = (s.core n).acc ∧ (t.core n).cs = (s.core n).cs
  mem : t.mem = s.mem
  others : ∀ m, m ≠ n → t.core m = s.core m

theorem State.startGroup_started {s : State} {n q : Nat} {e : TileEntry} {v : Conversion} {o : VecOperands}
    (hentry : (s.core n).engineEntry = some (q, e, v)) (hvec : v.vec = some o) (hprog : s.progOk n (s.runBank n) 32 o.prog = true) :
    State.groupStarted n q e o s (s.startGroup n) := by
  obtain ⟨r, hr⟩ : ∃ r, r = (s.core n).groupRegs o (getBits e.hdr 2 0) (s.core n).engine.group (fun j => tabGet e.elems j 0#32) := ⟨_, rfl⟩
  have hstart : groupStart r.1 (getBits e.hdr 2 0) (s.core n).engine.group (fun j => tabGet e.elems j 0#32) :=
    hr ▸ Core.groupRegs_start ..
  simp only [State.startGroup, hentry, hvec, hprog, if_true, ← hr]
  refine ⟨⟨r.1, ?_, hstart⟩, ⟨e.flags ||| r.2.1, if r.2.2 then setBits e.hdr 4 4 1 else e.hdr, ?_⟩, ⟨?_, ?_⟩, rfl,
    fun m hm => State.core_setCore_other _ _ hm⟩
  all_goals rw [State.core_setCore_same]

/-! ### A group ends (R158 to R160) -/

/-- The elements of a tile with those of group g taken from v0 of the lanes. -/
def groupElems (elems : Tab Word) (g : Nat) (regs : Tab Word) : Tab Word :=
  (List.range 256).foldl (fun t l => tabSet t (256 * g + l) 0#32 (tabGet regs (16 * l) 0#32)) elems

theorem tabGet_groupElems_inside (elems : Tab Word) (g : Nat) (regs : Tab Word) {l : Nat} (hl : l < 256) :
    tabGet (groupElems elems g regs) (256 * g + l) 0#32 = tabGet regs (16 * l) 0#32 := by
  rw [groupElems]
  exact tabGet_foldl_tabSet_inside (key := fun l => 256 * g + l) (val := fun l => tabGet regs (16 * l) 0#32) (x := l) (List.mem_range.2 hl)
    (fun y _ he => congrArg (fun l => tabGet regs (16 * l) 0#32) (by omega)) elems

theorem tabGet_groupElems_outside (elems : Tab Word) {g : Nat} (regs : Tab Word) {y : Nat} (hy : y < 256 * g ∨ 256 * (g + 1) ≤ y) :
    tabGet (groupElems elems g regs) y 0#32 = tabGet elems y 0#32 := by
  rw [groupElems]
  refine tabGet_foldl_tabSet_outside (key := fun l => 256 * g + l) (val := fun l => tabGet regs (16 * l) 0#32) (fun l hl => ?_) elems
  have := List.mem_range.1 hl
  omega

/-- The tile with the results of a group that is not its last. -/
def TileEntry.withGroup (e : TileEntry) (g : Engine) : TileEntry :=
  { e with elems := groupElems e.elems g.group g.regs, flags := e.flags ||| g.flags, vecLeft := false }

@[simp] theorem TileEntry.withGroup_elems (e : TileEntry) (g : Engine) : (e.withGroup g).elems = groupElems e.elems g.group g.regs := by
  rw [TileEntry.withGroup]

theorem Core.finishGroup_eq {k : Core} {q : Nat} {e : TileEntry} {v : Conversion} (h : k.engineEntry = some (q, e, v))
    (hg : k.engine.group < 3) : k.finishGroup = { k with
      tileq := listSet k.tileq q (e.withGroup k.engine)
      engine := { k.engine with active := false, ended := false, pc := 0, regs := [], flags := 0, group := k.engine.group + 1 } } := by
  have hlast : (k.engine.group == 3) = false := by simpa using Nat.ne_of_lt hg
  simp only [Core.finishGroup, h, hlast, TileEntry.withGroup, groupElems]
  rfl

theorem Core.engineEntry_vecLeft {k : Core} {q : Nat} {e : TileEntry} {v : Conversion} (h : k.engineEntry = some (q, e, v)) :
    e.vecLeft = false := by
  obtain ⟨hi, -, he, -⟩ := Core.engineEntry_eq_some.1 h
  obtain ⟨hq, hp, -⟩ := List.findIdx?_eq_some_iff_getElem.1 hi
  obtain ⟨-, rfl⟩ := List.getElem?_eq_some_iff.1 he
  simpa using hp

/-! ### The boundary -/

section
variable {n : Nat} {s : State} (hclock : s.clockHalt = false)
include hclock

theorem groupBoundary_going (hactive : (s.core n).engine.active = true) (hgoing : (s.core n).engine.ended = false) :
    groupBoundary n s = s := by
  simp [groupBoundary, hclock, hactive, hgoing]

theorem groupBoundary_idle (hidle : (s.core n).engine.active = false) : groupBoundary n s = (s.flipBank n).startGroup n := by
  simp [groupBoundary, hclock, hidle]

theorem groupBoundary_ended (hactive : (s.core n).engine.active = true) (hended : (s.core n).engine.ended = true) :
    groupBoundary n s = ((s.onCore n Core.finishGroup).flipBank n).startGroup n := by
  simp [groupBoundary, hclock, hactive, hended]

end

theorem State.startGroup_none {s : State} {n : Nat} (h : (s.core n).engineEntry = none) : s.startGroup n = s := by
  simp only [State.startGroup, h]

/-- Settles O28: `State.startGroup_started` starts a group, `Core.finishGroup_eq` ends one, `State.flipBank_asked` changes the bank. -/
theorem groupBoundaries : Obligations.GroupBoundaries := by
  intro n s hn hclock k g bank
  have hexec : exec (.groupBoundary n) s = .next (groupBoundary n s) := if_pos (decide_eq_true hn)
  rw [hexec]
  refine ⟨fun hactive hgoing => by rw [groupBoundary_going hclock hactive hgoing], fun q e v o hentry hvec hswitch hprog => ⟨fun hidle => ?_,
    fun hactive hended hg => ?_⟩, fun hidle hnone hswitch => ?_⟩
  · have hstart := State.startGroup_started hentry hvec hprog
    obtain ⟨regs, hengine, hv0, hzero⟩ := hstart.engine
    refine ⟨_, by rw [groupBoundary_idle hclock hidle, State.flipBank_unasked hswitch], ?_⟩
    rw [hengine]
    exact ⟨rfl, rfl, rfl, rfl, rfl, hv0, hzero, hstart.stores.1, hstart.stores.2, hstart.mem, hstart.others⟩
  · have hleft := Core.engineEntry_vecLeft hentry
    have hfinish := Core.finishGroup_eq hentry hg
    obtain ⟨u, hu⟩ : ∃ u : State, u = s.onCore n Core.finishGroup := ⟨_, rfl⟩
    have hcore : u.core n = k.finishGroup := by rw [hu, State.core_onCore_same]
    have hentry' : (u.core n).engineEntry = some (q, e.withGroup g, v) := by
      rw [hcore, hfinish]
      exact Core.engineEntry_listSet (e' := e.withGroup g) hentry rfl hleft.symm
    have hbound : groupBoundary n s = u.startGroup n := by
      rw [groupBoundary_ended hclock hactive hended, ← hu, State.flipBank_unasked]
      rw [hu]
      exact hswitch
    have hstart : State.groupStarted n q (e.withGroup g) o u (u.startGroup n) :=
      State.startGroup_started hentry' hvec (by rw [hu]; exact hprog)
    obtain ⟨regs, hengine, -⟩ := hstart.engine
    obtain ⟨flags, hdr, htile⟩ := hstart.tile
    have hlen : q < (u.core n).tileq.length := by
      obtain ⟨-, -, he, -⟩ := Core.engineEntry_eq_some.1 hentry'
      exact (List.getElem?_eq_some_iff.1 he).1
    refine ⟨_, { e.withGroup g with flags := flags, hdr := hdr }, by rw [hbound], ?_, rfl, fun l hl => ?_, fun y hy => ?_, by rw [hengine],
      ?_, by rw [hengine], ?_, ?_, fun m hm => ?_⟩
    · rw [htile, listSet_eq_set, List.getElem?_set_self hlen]
    · simp only [TileEntry.withGroup_elems]
      exact tabGet_groupElems_inside _ _ _ hl
    · simp only [TileEntry.withGroup_elems]
      exact tabGet_groupElems_outside _ _ hy
    · rw [hengine, hcore, hfinish]
    · rw [hstart.stores.1, hcore, hfinish]
    · rw [hstart.stores.2, hcore, hfinish]
    · rw [hstart.others m hm, hu, State.core_onCore_other _ _ hm]
  · obtain ⟨hbank, hclear, -, hby⟩ := State.flipBank_asked hswitch
    have hnone' : ((s.flipBank n).core n).engineEntry = none := by
      rw [State.core, hby.cores]
      exact hnone
    exact ⟨s.flipBank n, by rw [groupBoundary_idle hclock hidle, State.startGroup_none hnone'], hbank, hclear, hby.cores⟩

end Sys2Proof.Machine
end

/-! ## O20: tiles read and written (R148 to R150) -/

section
namespace Sys2Proof.Machine
open Sys2Proof

/-! ### Writes to core store -/

theorem CM.go_wrAt_true {n a : Nat} {d : List Byte} {p : Bool} {r : Run} (h : a + d.length ≤ shadowBase) : CM.go (wrAt n true a d p) r =
    (.ok (), { r with s := r.s.onCore n (fun k => k.csWrite a d p), flags := if p then r.flags ||| 0x200 else r.flags }) := by
  rw [wrAt, if_pos rfl, CM.go_wrCs h]

theorem CM.go_rdAt_true {n a len : Nat} {r : Run} (h : a + len ≤ shadowBase) :
    CM.go (rdAt n true a len) r = (.ok ((r.s.core n).csRead a len), r) := by
  rw [rdAt, if_pos rfl, CM.go_rdCs h]

theorem tabGet_cellsRead_congr {m m' : List Host.Cell} {a len : Nat} (h : ∀ x, a ≤ x → x < a + len → tabGet m' x 0#8 = tabGet m x 0#8) :
    cellsRead m' a len = cellsRead m a len := by
  rw [cellsRead_eq, cellsRead_eq]
  refine List.map_congr_left (fun x hx => ?_)
  obtain ⟨h1, h2⟩ := List.mem_range'_1.1 hx
  exact h x h1 h2

/-- A range apart from the one written reads as it did. -/
theorem cellsRead_write_apart (m : List Host.Cell) {a b len : Nat} (d : List Byte) (h : b + len ≤ a ∨ a + d.length ≤ b) :
    cellsRead (cellsWrite m a d) b len = cellsRead m b len :=
  tabGet_cellsRead_congr (fun x h1 h2 => cellsWrite_outside _ _ _ _ (by omega))

theorem cellsRead_write_length (m : List Host.Cell) (a : Nat) {d : List Byte} {len : Nat} (h : d.length = len) :
    cellsRead (cellsWrite m a d) a len = d := by
  rw [← h, cellsRead_write]

@[simp] theorem Core.csWrite_cs (k : Core) (a : Nat) (d : List Byte) (p : Bool) : (k.csWrite a d p).cs = cellsWrite k.cs a d := rfl
@[simp] theorem Core.csWrite_acc (k : Core) (a : Nat) (d : List Byte) (p : Bool) : (k.csWrite a d p).acc = k.acc := rfl

/-- A command word of an address with LOC is not zero. -/
theorem ne_zero_of_locOf {w : DWord} (h : locOf w = true) : w ≠ 0#64 := by
  rintro rfl
  exact absurd h (by decide)

/-! ### Tiles of the accumulators (R147) -/

theorem length_flatMap_leBytes (l : List Word) (len : Nat) : (l.flatMap (fun w => leBytes w.toNat len)).length = l.length * len := by
  induction l with
  | nil => simp
  | cons w t ih => rw [List.flatMap_cons, List.length_append, ih, leBytes_length, List.length_cons, Nat.succ_mul, Nat.add_comm]

@[simp] theorem Core.length_tileWords (k : Core) (a t : Nat) : (k.tileWords a t).length = 1024 := by simp [Core.tileWords]

/-- A core with the elements of tile (a, t) below `m` written. -/
theorem foldl_accPut (k : Core) (a t : Nat) (w : Nat → Word) (l : List Nat) :
    l.foldl (fun k e => k.accPut a (32 * t + e / 32) (e % 32) (w e)) k =
      { k with acc := l.foldl (fun m e => tabSet m (accKey a (32 * t + e / 32) (e % 32)) 0#32 (w e)) k.acc } := by
  induction l generalizing k with
  | nil => rfl
  | cons e l ih => rw [List.foldl_cons, ih]; rfl

theorem Core.putTile_eq (k : Core) (a t : Nat) (l : List Word) : k.putTile a t l = { k with acc := (k.putTile a t l).acc } := by
  rw [Core.putTile, foldl_accPut]

/-- Element e of tile t of array a. -/
def tileKey (a t e : Nat) : Nat := accKey a (32 * t + e / 32) (e % 32)

theorem tileKey_inj {a t e a' t' e' : Nat} (ht : t < 16) (he : e < 1024) (ht' : t' < 16) (he' : e' < 1024)
    (h : tileKey a t e = tileKey a' t' e') : a = a' ∧ t = t' ∧ e = e' := by
  simp only [tileKey, accKey] at h
  omega

section
variable (k : Core) (w : Nat → Word) {a t e : Nat} (ht : t < 16) {l : List Nat} (hl : ∀ e ∈ l, e < 1024)
include ht hl

theorem accAt_foldl_accPut_same (he : e ∈ l) :
    (l.foldl (fun k e => k.accPut a (32 * t + e / 32) (e % 32) (w e)) k).accAt a (32 * t + e / 32) (e % 32) = w e := by
  rw [foldl_accPut, Core.accAt]
  refine tabGet_foldl_tabSet_inside (d := 0#32) (key := tileKey a t) (val := w) he (fun y hy h => ?_) k.acc
  rw [(tileKey_inj ht (hl y hy) ht (hl e he) h).2.2]

theorem accAt_foldl_accPut_other {a' t' : Nat} (ht' : t' < 16) (he : e < 1024) (hne : (a', t') ≠ (a, t)) :
    (l.foldl (fun k e => k.accPut a (32 * t + e / 32) (e % 32) (w e)) k).accAt a' (32 * t' + e / 32) (e % 32) =
      k.accAt a' (32 * t' + e / 32) (e % 32) := by
  rw [foldl_accPut, Core.accAt, Core.accAt]
  refine tabGet_foldl_tabSet_outside (key := tileKey a t) (val := w) (fun y hy h => hne ?_) k.acc
  obtain ⟨ha, ht, -⟩ := tileKey_inj ht (hl y hy) ht' he h
  rw [ha, ht]

end

theorem Core.putTile_same (k : Core) (a : Nat) {t e : Nat} (ht : t < 16) (l : List Word) (he : e < 1024) :
    (k.putTile a t l).accAt a (32 * t + e / 32) (e % 32) = l.getD e 0#32 := by
  rw [Core.putTile]
  exact accAt_foldl_accPut_same k (fun e => l.getD e 0#32) ht (fun _ h => List.mem_range.1 h) (List.mem_range.2 he)

theorem Core.putTile_other (k : Core) {a t a' t' e : Nat} (ht : t < 16) (ht' : t' < 16) (he : e < 1024) (hne : (a', t') ≠ (a, t))
    (l : List Word) : (k.putTile a t l).accAt a' (32 * t' + e / 32) (e % 32) = k.accAt a' (32 * t' + e / 32) (e % 32) := by
  rw [Core.putTile]
  exact accAt_foldl_accPut_other k (fun e => l.getD e 0#32) ht (fun _ h => List.mem_range.1 h) ht' he hne

/-! ### The header of a tile (R148) -/

/-- LAST_CMD, LOADED and COMP of a tile that has been written. -/
theorem State.closeTile_hdr (s : State) (n a t cc : Nat) (loaded poison : Bool) :
    getBits ((s.closeTile n a t cc loaded poison).hdr n a t) 31 16 = cc % 2 ^ 16 ∧
    getBits ((s.closeTile n a t cc loaded poison).hdr n a t) 7 7 = b2n loaded % 2 ∧
    getBits ((s.closeTile n a t cc loaded poison).hdr n a t) 2 0 = getBits (s.hdr n a t) 2 0 := by
  simp only [State.closeTile, State.hdr, State.rd_wr_same]
  split
  all_goals
    refine ⟨?_, ?_, ?_⟩ <;> simp only [getBits_setBits_other, getBits_setBits, Nat.reduceLT, Nat.reduceAdd, Nat.reduceSub, true_or, or_true,
      Nat.pow_one]

@[simp] theorem State.core_closeTile (s : State) (n a t cc : Nat) (loaded poison : Bool) (m : Nat) :
    (s.closeTile n a t cc loaded poison).core m = s.core m := rfl

/-- The words of a tile as TWRITE takes them. -/
def Core.wordsAt (k : Core) (off : Nat) : List Word := (List.range 1024).map (fun e => w32 (leAt (k.csRead off 4096).1 (4 * e) 4))

/-- Core n with tile (a, t) written by its command in progress: the elements, and a header word of which the low bits count. -/
def State.writeTile (s : State) (n a t : Nat) (words : List Word) (w : Nat) (poison : Bool) : State :=
  let u := (s.onCore n (fun k => k.putTile a t words)).wr .arrHdr n a t (w32 (w % 16))
  u.closeTile n a t (u.core n).cc true poison

theorem State.writeTile_core (s : State) (n a t : Nat) (words : List Word) (w : Nat) (poison : Bool) :
    (s.writeTile n a t words w poison).core n = (s.core n).putTile a t words := by
  rw [State.writeTile, State.core_closeTile, State.core_wr, State.core_onCore_same]

theorem State.writeTile_mem (s : State) (n a t : Nat) (words : List Word) (w : Nat) (poison : Bool) :
    (s.writeTile n a t words w poison).mem = s.mem := by
  rw [State.writeTile, State.closeTile, State.wr_mem, State.wr_mem, State.onCore_mem]

theorem getBits_w32_low (x : Nat) : getBits (w32 (x % 16)) 2 0 = x % 8 := by
  simp only [getBits, bits, w32, BitVec.toNat_ofNat, Nat.shiftRight_zero]
  omega

theorem State.writeTile_hdr (s : State) (n a t : Nat) (words : List Word) (w : Nat) (poison : Bool) :
    getBits ((s.writeTile n a t words w poison).hdr n a t) 31 16 = (s.core n).cc % 2 ^ 16 ∧
    getBits ((s.writeTile n a t words w poison).hdr n a t) 7 7 = 1 ∧
    getBits ((s.writeTile n a t words w poison).hdr n a t) 2 0 = w % 8 := by
  have hcc : (((s.onCore n (fun k => k.putTile a t words)).wr .arrHdr n a t (w32 (w % 16))).core n).cc = (s.core n).cc := by
    rw [State.core_wr, State.core_onCore_same, Core.putTile_eq]
  obtain ⟨hcmd, hloaded, hcomp⟩ := State.closeTile_hdr ((s.onCore n (fun k => k.putTile a t words)).wr .arrHdr n a t (w32 (w % 16)))
    n a t (s.core n).cc true poison
  rw [State.writeTile, hcc]
  refine ⟨hcmd, hloaded, hcomp.trans ?_⟩
  rw [State.hdr, State.rd_wr_same, getBits_w32_low]

/-! ### What an issue leaves of the tiles -/

@[simp] theorem State.tileWords_issue (s : State) (n : Nat) (c : Cmd) (a t : Nat) :
    ((s.issue n c).core n).tileWords a t = (s.core n).tileWords a t := by simp only [Core.tileWords, Core.accAt, State.acc_issue]

theorem State.hdr_issue (s : State) {n a t : Nat} (c : Cmd) (hn : n < 192) (ha : a < 4) (ht : t < 16) :
    (s.issue n c).hdr n a t = s.hdr n a t := by
  refine s.rd_issue n c ?_
  simp only [Reg.addr, Reg.spec, Blk.base, countersFrom]
  omega

/-! ### The commands -/

section
variable {n : Nat} {c : Cmd} {s : State} {f : Nat} (hloc1 : locOf c.w1 = true) (hloc2 : locOf c.w2 = true) (hv : s.w3of n c 0 < 64)
  (halign : addrOf c.w1 % 128 = 0) (hin1 : addrOf c.w1 + 4096 ≤ shadowBase) (hin2 : addrOf c.w2 + 4 ≤ shadowBase)

omit hloc1 hloc2 hv halign hin1 hin2 in
theorem go_tileSel {v : Nat} (hv : v < 64) (read : Bool) (r : Run) : CM.go (tileSel read v) r = (.ok ⟨v % 4, bits v 5 2, false⟩, r) := by
  have h512 : v < 512 := by omega
  have h76 : bits v 7 6 = 0 := by
    simp only [bits, Nat.shiftRight_eq_div_pow]
    omega
  have h8 : bit v 8 = false := Nat.testBit_lt_two_pow (by omega)
  have hcheck : (decide (v < 512) && bits v 7 6 == 0 && (read || !bit v 8)) = true := by simp [h512, h76, h8]
  simp only [tileSel, hcheck, CM.go_bind, CM.go_need, if_true, CM.go_pure]
  rw [h8]
  rfl

include halign hin1 hin2

theorem go_tileAddrs (r : Run) : CM.go (tileAddrs c) r = (.ok (), r) :=
  CM.go_needAll (by simp [halign, hin1, hin2]) r

include hloc1 hloc2 hv

/-- TREAD writes the elements and the header word, each with the tile's poison. -/
theorem go_tread : ∃ r p, CM.go (treadBody n c) ⟨s, f, none⟩ = (.ok true, r) ∧ r.s = (s.onCore n (fun k => k.csWrite (addrOf c.w1)
      (((s.core n).tileWords (s.w3of n c 0 % 4) (bits (s.w3of n c 0) 5 2)).flatMap (fun w => leBytes w.toNat 4)) p)).onCore n (fun k =>
        k.csWrite (addrOf c.w2) (leBytes (s.hdr n (s.w3of n c 0 % 4) (bits (s.w3of n c 0) 5 2)).toNat 4) p) := by
  have hlen1 : addrOf c.w1 + (((s.core n).tileWords (s.w3of n c 0 % 4) (bits (s.w3of n c 0) 5 2)).flatMap
      (fun w => leBytes w.toNat 4)).length ≤ shadowBase := by
    rw [length_flatMap_leBytes, Core.length_tileWords]
    exact hin1
  have hlen2 : addrOf c.w2 + (leBytes (s.hdr n (s.w3of n c 0 % 4) (bits (s.w3of n c 0) 5 2)).toNat 4).length ≤ shadowBase := by
    rw [leBytes_length]
    exact hin2
  have hw2 : (c.w2 != 0#64) = true := by simpa using ne_zero_of_locOf hloc2
  apply Exists.intro
  refine ⟨(s.hdr n (s.w3of n c 0 % 4) (bits (s.w3of n c 0) 5 2)).getLsbD 4, ?_, ?_⟩
  · simp only [treadBody, CM.go_bind, CM.go_w3, go_tileSel hv, go_tileAddrs halign hin1 hin2, CM.go_getS, State.tileOut,
      CM.go_wrAt_true hlen1, CM.go_wrAt_true hlen2, hw2, hloc1, hloc2, Bool.not_false, Bool.not_true, Bool.and_true, Bool.false_and,
      Bool.false_eq_true, if_true, if_false, CM.go_flagIf, CM.go_pure]
    rfl
  · rfl

/-- TWRITE takes the elements and the low bits of the header word, and closes the tile with its own CC. -/
theorem go_twrite : ∃ r p, CM.go (twriteBody n c) ⟨s, f, none⟩ = (.ok true, r) ∧ r.s = s.writeTile n (s.w3of n c 0 % 4)
    (bits (s.w3of n c 0) 5 2) ((s.core n).wordsAt (addrOf c.w1)) (leNat ((s.core n).csRead (addrOf c.w2) 4).1) p := by
  have hw2 : (c.w2 == 0#64) = false := by simpa using ne_zero_of_locOf hloc2
  apply Exists.intro
  refine ⟨((s.core n).csRead (addrOf c.w1) 4096).2 || ((s.core n).csRead (addrOf c.w2) 4).2 ||
    bit (leNat ((s.core n).csRead (addrOf c.w2) 4).1) 4, ?_, ?_⟩
  · simp only [twriteBody, CM.go_bind, CM.go_w3, go_tileSel hv, go_tileAddrs halign hin1 hin2, hloc1, hloc2, CM.go_rdAt_true hin1,
      CM.go_rdAt_true hin2, hw2, Bool.false_eq_true, if_false, CM.go_modS, CM.go_flagIf, CM.go_pure]
    rfl
  · rfl

end

/-- Settles O20: `go_tread` and `go_twrite` say what the two commands write. -/
theorem tileReadsAndWrites : Obligations.TileReadsAndWrites := by
  intro n c s hn hrun hloc1 hloc2 v a t at1 at2 hv halign hin1 hin2
  have hv' : (s.issue n c).w3of n c 0 < 64 := by rwa [s.w3of_issue]
  have ha : a < 4 := Nat.mod_lt _ (by decide)
  have ht : t < 16 := Nat.mod_lt _ (by decide)
  refine ⟨fun hop hapart => ?_, fun hop => ?_⟩
  · obtain ⟨r, p, hgo, hs⟩ := go_tread (s := s.issue n c) (f := 0) hloc1 hloc2 hv' halign hin1 hin2
    refine completes_of_go (answer_pilot rfl hn hop _) hrun hgo ?_
    rw [s.w3of_issue, s.tileWords_issue, s.hdr_issue c hn ha ht] at hs
    have hlen : (((s.core n).tileWords a t).flatMap (fun w => leBytes w.toNat 4)).length = 4096 := by
      rw [length_flatMap_leBytes, Core.length_tileWords]
    have hlen' : (leBytes (s.hdr n a t).toNat 4).length = 4 := leBytes_length ..
    have hcs : (r.s.core n).cs = cellsWrite (cellsWrite (s.core n).cs at1 (((s.core n).tileWords a t).flatMap (fun w => leBytes w.toNat 4)))
        at2 (leBytes (s.hdr n a t).toNat 4) := by
      rw [hs, State.core_onCore_same, State.core_onCore_same, Core.csWrite_cs, Core.csWrite_cs, s.cs_issue]
    refine ⟨?_, ?_, ?_, ?_, fun x hx1 hx2 => ?_⟩
    · rw [hcs, cellsRead_write_apart _ _ (by omega), cellsRead_write_length _ _ hlen]
    · rw [hcs, cellsRead_write_length _ _ hlen']
    · rw [hs, State.core_onCore_same, State.core_onCore_same, Core.csWrite_acc, Core.csWrite_acc, s.acc_issue]
    · rw [hs, State.onCore_mem, State.onCore_mem, s.issue_mem]
    · rw [State.csByte, hcs, cellsWrite_outside _ _ _ _ (by omega), cellsWrite_outside _ _ _ _ (by omega), State.csByte]
  · obtain ⟨r, p, hgo, hs⟩ := go_twrite (s := s.issue n c) (f := 0) hloc1 hloc2 hv' halign hin1 hin2
    refine completes_of_go (answer_pilot rfl hn hop _) hrun hgo ?_
    rw [s.w3of_issue] at hs
    have hcore : r.s.core n = ((s.issue n c).core n).putTile a t (((s.issue n c).core n).wordsAt at1) := by rw [hs, State.writeTile_core]
    obtain ⟨hcmd, hloaded, hcomp⟩ := State.writeTile_hdr (s.issue n c) n a t (((s.issue n c).core n).wordsAt at1)
      (leNat (((s.issue n c).core n).csRead at2 4).1) p
    refine ⟨fun e he => ?_, fun a' t' e _ ht' he hne => ?_, ?_, ?_, ?_, ?_, ?_⟩
    · rw [hcore, Core.putTile_same _ _ ht _ he, Core.wordsAt, List.getD_eq_getElem?_getD, List.getElem?_map,
        List.getElem?_range he, s.csRead_issue]
      exact congrArg w32 (leAt_cellsRead _ _ (by omega))
    · rw [hcore, Core.putTile_other _ ht ht' he hne, Core.accAt, State.acc_issue, Core.accAt]
    · rw [hs, hcmd, s.cc_issue]
    · rw [hs, hloaded]
    · rw [hs, hcomp, s.csRead_issue]
      rfl
    · rw [hcore, Core.putTile_eq, ← s.cs_issue n c]
    · rw [hs, State.writeTile_mem, s.issue_mem]

end Sys2Proof.Machine
end

/-! ## O21: conversions of accumulator tiles (R107, R111, R157, R158, R395) -/

section
namespace Sys2Proof.Machine
open Sys2Proof

/-! ### What the write of a tile leaves unchanged -/

/-- From s to t nothing outside the registers changed but the store of core n, and of that no byte in `kept`: its conversions and what waits for
them are as they were. -/
structure State.stored (n : Nat) (kept : Nat → Prop) (s t : State) : Prop where
  mem : t.mem = s.mem
  other : ∀ q, q ≠ n → t.core q = s.core q
  bytes : ∀ a, kept a → t.csByte n a = s.csByte n a
  convs : (t.core n).convs = (s.core n).convs
  tileq : (t.core n).tileq = (s.core n).tileq
  cbHeld : (t.core n).cbHeld = (s.core n).cbHeld

section
variable {n : Nat} {kept : Nat → Prop} {s t u : State}

theorem State.stored.refl (s : State) : s.stored n kept s := ⟨rfl, fun _ _ => rfl, fun _ _ => rfl, rfl, rfl, rfl⟩

theorem State.stored.trans (h : s.stored n kept t) (g : t.stored n kept u) : s.stored n kept u where
  mem := g.mem.trans h.mem
  other q hq := (g.other q hq).trans (h.other q hq)
  bytes a ha := (g.bytes a ha).trans (h.bytes a ha)
  convs := g.convs.trans h.convs
  tileq := g.tileq.trans h.tileq
  cbHeld := g.cbHeld.trans h.cbHeld

theorem State.byRegs.stored (h : s.byRegs t) : s.stored n kept t where
  mem := h.mem_eq
  other q _ := h.core_eq q
  bytes a _ := by rw [State.csByte, h.core_eq, State.csByte]
  convs := by rw [h.core_eq]
  tileq := by rw [h.core_eq]
  cbHeld := by rw [h.core_eq]

theorem State.csWrite_stored (s : State) {a : Nat} {d : List Byte} (h : ∀ x, kept x → x < a ∨ a + d.length ≤ x) (p : Bool) :
    s.stored n kept (s.onCore n (fun k => k.csWrite a d p)) where
  mem := s.onCore_mem ..
  other q hq := s.core_onCore_other _ hq
  bytes x hx := by
    rw [State.csByte, s.core_onCore_same, Core.csWrite_cs, cellsWrite_outside _ _ _ _ (h x hx), State.csByte]
  convs := by rw [s.core_onCore_same]; rfl
  tileq := by rw [s.core_onCore_same]; rfl
  cbHeld := by rw [s.core_onCore_same]; rfl

end

/-! ### A tile into a plain tensor (R60 to R63, R533) -/

section
variable {d : Desc} {row col k : Nat}

/-- Elements of a row of a plain tensor lie below the shadow frame. -/
theorem Desc.plainCore.elems_within (hp : d.plainCore) (hrow : row < d.rows) (hcol : col + k ≤ d.cols) :
    d.elemAddr row col + k * d.fmt.bytes ≤ shadowBase := by
  obtain ⟨hslab, -, hin⟩ := hp
  have hbytes := Nat.mul_le_mul_right d.fmt.bytes hcol
  have hpitch : row * d.pitch ≤ (d.rows - 1) * d.pitch := Nat.mul_le_mul_right _ (by omega)
  rw [Desc.extent, hslab, if_neg Bool.false_ne_true, if_neg (by omega)] at hin
  rw [Nat.add_mul] at hbytes
  rw [Desc.elemAddr]
  omega

/-- A byte of no element is none of a row's elements. -/
theorem Desc.outside.elems {a : Nat} (h : d.outside a) (hrow : row < d.rows) (hcol : col + k ≤ d.cols) :
    a < d.elemAddr row col ∨ d.elemAddr row col + k * d.fmt.bytes ≤ a := by
  have hbytes := Nat.mul_le_mul_right d.fmt.bytes hcol
  have hout := h row hrow
  rw [Nat.add_mul] at hbytes
  simp only [Desc.elemAddr] at hout ⊢
  omega

end

/-- The rows of a tile that a tensor holds. -/
def liveRows (d : Desc) (row : Nat) : List Nat := (List.range 32).filter (fun r => decide (row + r < d.rows))

theorem lt_of_mem_liveRows {d : Desc} {row i : Nat} (h : i ∈ liveRows d row) : row + i < d.rows := by simpa using (List.mem_filter.1 h).2

/-- The bytes of row i of a tile in a plain tensor. -/
def Tile.rowBytes (t : Tile) (d : Desc) (i : Nat) : List Byte := (List.range (min 32 (d.cols - t.col))).flatMap (fun j =>
  leBytes (plainWordCode d.fmt (dy32 d.tscale) t.comp (t.words.getD (32 * i + j) 0#32)).1 d.fmt.bytes)

theorem Tile.length_rowBytes (t : Tile) (d : Desc) (i : Nat) : (t.rowBytes d i).length = min 32 (d.cols - t.col) * d.fmt.bytes := by
  simp [Tile.rowBytes, List.length_flatMap, leBytes_length]

/-- The run after the write of row i of a tile. -/
def Tile.wroteRow (n : Nat) (d : Desc) (t : Tile) (r : Run) (i : Nat) : Run :=
  { r with
    s := r.s.onCore n (fun k => k.csWrite (d.elemAddr (t.row + i) t.col) (t.rowBytes d i) t.poison)
    flags := if t.poison then r.flags ||| 0x200 else r.flags }

/-- The writes of a tile into a plain tensor. -/
def Tile.writeRows (n : Nat) (d : Desc) (t : Tile) : CM Unit :=
  (liveRows d t.row).forM (fun i => wrAt n d.loc (d.elemAddr (t.row + i) t.col) (t.rowBytes d i) t.poison)

/-- Whether a NaN of a tile becomes an integer (R62). -/
def Tile.losesNaN (t : Tile) (d : Desc) : Bool := (liveRows d t.row).any (fun i => (List.range (min 32 (d.cols - t.col))).any (fun j =>
  (plainWordCode d.fmt (dy32 d.tscale) t.comp (t.words.getD (32 * i + j) 0#32)).2))

theorem emitPlain_core {n : Nat} {w : Spec} {t : Tile} (hloc : w.desc.loc = true) : emitPlain n w t = (do
    flagIf (t.losesNaN w.desc) 1
    t.writeRows n w.desc
    if !(liveRows w.desc t.row).isEmpty && min 32 (w.desc.cols - t.col) != 0 then modS (fun s => s.coreEvent n 0x06 1 none) else pure ()) := by
  unfold emitPlain
  simp only [hloc, Bool.not_true, Bool.false_eq_true, if_false, bind_pure_unit]
  rw [Tile.losesNaN, Tile.writeRows, hloc]
  rfl

section
variable {n : Nat} {w : Spec} {t : Tile} (hp : w.desc.plainCore) (hcol : t.col ≤ w.desc.cols)
include hcol

include hp in
theorem go_writeRow {i : Nat} (hi : i ∈ liveRows w.desc t.row) (r : Run) :
    CM.go (wrAt n w.desc.loc (w.desc.elemAddr (t.row + i) t.col) (t.rowBytes w.desc i) t.poison) r = (.ok (), t.wroteRow n w.desc r i) := by
  have hin := hp.elems_within (lt_of_mem_liveRows hi) (show t.col + min 32 (w.desc.cols - t.col) ≤ w.desc.cols by omega)
  rw [← t.length_rowBytes w.desc i] at hin
  obtain ⟨-, hloc, -⟩ := hp
  rw [hloc, CM.go_wrAt_true hin]
  rfl

theorem Tile.wroteRow_stored {i : Nat} (hi : i ∈ liveRows w.desc t.row) (r : Run) :
    r.s.stored n w.desc.outside (t.wroteRow n w.desc r i).s := by
  refine State.csWrite_stored _ (fun x hx => ?_) _
  rw [t.length_rowBytes]
  exact hx.elems (lt_of_mem_liveRows hi) (by omega)

include hp in
theorem go_writeRows (r : Run) : ∃ r', CM.go (t.writeRows n w.desc) r = (.ok (), r') ∧ r.s.stored n w.desc.outside r'.s := by
  rw [Tile.writeRows]
  exact ⟨_, CM.go_forM _ _ (t.wroteRow n w.desc) r (fun i hi r => go_writeRow hp hcol hi r),
    List.foldlRecOn (motive := fun r' : Run => r.s.stored n w.desc.outside r'.s) _ _ (State.stored.refl _)
      (fun r' h i hi => h.trans (Tile.wroteRow_stored hcol hi r'))⟩

include hp in
/-- A tile goes into a plain tensor of core store, where its column is no farther than the tensor's end. -/
theorem go_emitPlain (r : Run) : ∃ r', CM.go (emitPlain n w t) r = (.ok (), r') ∧ r.s.stored n w.desc.outside r'.s := by
  have hflag : CM.go (flagIf (t.losesNaN w.desc) 1) r = (.ok (), ⟨r.s, if t.losesNaN w.desc then r.flags ||| 1 else r.flags, r.vals⟩) :=
    CM.go_flagIf ..
  obtain ⟨r', hrows, hstored⟩ := go_writeRows hp hcol ⟨r.s, if t.losesNaN w.desc then r.flags ||| 1 else r.flags, r.vals⟩
  rw [emitPlain_core hp.2.1, CM.go_bind_ok hflag, CM.go_bind_ok hrows, CM.go_ite]
  split
  · exact ⟨_, CM.go_modS .., hstored.trans (State.coreEvent_byRegs ..).stored⟩
  · exact ⟨_, CM.go_pure .., hstored⟩

end

/-! ### The tile queue -/

/-- What the queue's intake leaves as it was: everything but the queue of core n and the tiles still to come of its conversions. -/
structure State.fed (n : Nat) (s t : State) : Prop where
  mem : t.mem = s.mem
  other : ∀ q, q ≠ n → t.core q = s.core q
  ccs : (t.core n).convs.map (·.cc) = (s.core n).convs.map (·.cc)
  cc : (t.core n).cc = (s.core n).cc
  cs : (t.core n).cs = (s.core n).cs
  acc : (t.core n).acc = (s.core n).acc

section
variable {n : Nat} {s t u : State}

theorem State.fed.refl (s : State) : s.fed n s := ⟨rfl, fun _ _ => rfl, rfl, rfl, rfl, rfl⟩

theorem State.fed.trans (h : s.fed n t) (g : t.fed n u) : s.fed n u where
  mem := g.mem.trans h.mem
  other q hq := (g.other q hq).trans (h.other q hq)
  ccs := g.ccs.trans h.ccs
  cc := g.cc.trans h.cc
  cs := g.cs.trans h.cs
  acc := g.acc.trans h.acc

/-- A tile moves from conversion cc to the queue. -/
theorem State.take_fed (s : State) (n cc : Nat) (e : TileEntry) (rest : List TileJob) :
    s.fed n (s.onCore n (fun k => { k with
      tileq := k.tileq ++ [e], convs := k.convs.map (fun x => if x.cc == cc then { x with feed := rest } else x) })) where
  mem := s.onCore_mem ..
  other q hq := s.core_onCore_other _ hq
  ccs := by
    rw [s.core_onCore_same, List.map_map]
    refine List.map_congr_left (fun x _ => ?_)
    simp only [Function.comp]
    split <;> rfl
  cc := by rw [s.core_onCore_same]
  cs := by rw [s.core_onCore_same]
  acc := by rw [s.core_onCore_same]

theorem State.feedQueue_fed (s : State) (n fuel : Nat) : s.fed n (s.feedQueue n fuel) := by
  induction fuel generalizing s with
  | zero => exact .refl s
  | succ fuel ih =>
    rw [State.feedQueue]
    dsimp only
    split
    · exact .refl s
    · split
      · exact .refl s
      · split
        · exact .refl s
        · exact (State.take_fed ..).trans (ih _)

theorem State.feedQueue_idle (h : (s.core n).convs = []) (fuel : Nat) : s.feedQueue n fuel = s := by
  cases fuel with
  | zero => rfl
  | succ fuel =>
    rw [State.feedQueue]
    simp [h]

end

/-! ### The start of a conversion (R107, R157, R214, R395) -/

/-- The run of tiles that a selector names, and what makes it legal (R214). -/
theorem go_tileRun {v : Nat} (hv : v < 2 ^ 17) (hzero : bits v 15 13 = 0) (hcount : 1 ≤ bits v 12 8) (hlast : bits v 7 4 + bits v 12 8 ≤ 16)
    (harrays : bits v 3 0 ≠ 0) (r : Run) : CM.go (tileRun v) r = (.ok ⟨bits v 3 0, bits v 7 4, bits v 12 8, bit v 16⟩, r) := by
  simp only [tileRun, hv, hzero, hcount, hlast, bne_iff_ne.2 harrays, decide_true, beq_self_eq_true, Bool.and_true, CM.go_bind, CM.go_need, if_true,
    CM.go_pure]

/-- A destination that a conversion of core n accepts wherever its tiles go, in the run r. -/
structure Desc.accepted (n : Nat) (d : Desc) (r : Run) : Prop where
  dest : CM.go (needDest d) r = (.ok (), r)
  cover : ∀ js, CM.go (needCover d js) r = (.ok (), r)
  resid : CM.go (readResid n d) r = (.ok none, r)
  range : CM.go (needRange d) r = (.ok (), r)

section
variable {n : Nat} {c : Cmd} {s : State} {d : Desc} {f : Nat}

theorem go_startConversion (hd : d.accepted n ⟨s, f, none⟩) (hvec : c.w2.getLsbD 63 = false) (hv : s.w3of n c 0 < 2 ^ 17)
    (hzero : bits (s.w3of n c 0) 15 13 = 0) (hcount : 1 ≤ bits (s.w3of n c 0) 12 8)
    (hlast : bits (s.w3of n c 0) 7 4 + bits (s.w3of n c 0) 12 8 ≤ 16) (harrays : bits (s.w3of n c 0) 3 0 ≠ 0)
    (hcol : s.w3of n c 2 % 32 = 0) (htrans : bit (s.w3of n c 0) 16 = false) (ckpt : Bool) :
    ∃ v : Conversion, v.cc = (s.core n).cc ∧ CM.go (startConversion n c d ckpt) ⟨s, f, none⟩ =
      (.ok false, ⟨(s.setCore n { s.core n with convs := (s.core n).convs ++ [v] }).feedQueue n 16, f, none⟩) := by
  apply Exists.intro
  refine ⟨?_, ?_⟩
  rotate_left
  · simp only [startConversion, CM.go_bind, hd.dest, CM.go_w3, go_tileRun hv hzero hcount hlast harrays, CM.go_need, hcol, htrans, hd.cover,
      hd.resid, hd.range, hvec, beq_self_eq_true, Bool.not_false, Bool.true_or, if_true, Bool.false_eq_true, if_false, CM.go_pure, CM.go_getS,
      CM.go_setS, CM.go_modS]
    rfl
  · rfl


/-- A plain tensor names neither glints nor a rotation nor a residual (R110). -/
theorem Core.descAt_bare {k : Core} {a : Nat} {d : Desc} (h : k.descAt a = some d) (hp : d.fmt.isSlab = false) :
    d.glint = 0 ∧ d.prism = 0 ∧ d.residual = 0 := by
  obtain ⟨-, -, f, -, rfl, -⟩ := k.descAt_eq_some h
  have hf : f.isSlab = false := hp
  simp [parseDesc, hf]

theorem go_needCover (hglint : d.glint = 0) (hprism : d.prism = 0) (js : List TileJob) (r : Run) : CM.go (needCover d js) r = (.ok (), r) :=
  CM.go_needAll (by simp [hglint, hprism]) r

theorem go_readResid (h : d.residual = 0) (r : Run) : CM.go (readResid n d) r = (.ok none, r) := by simp [readResid, h]

theorem Desc.plainCore.accepted {k : Core} {a : Nat} (hp : d.plainCore) (h : k.descAt a = some d) (r : Run) : d.accepted n r := by
  obtain ⟨hglint, hprism, hresid⟩ := Core.descAt_bare h hp.1
  exact ⟨by simp [needDest, hp.1], fun js => go_needCover hglint hprism js r, go_readResid hresid r, go_needRange hp (Core.descAt_plain h hp.1)⟩

theorem Desc.accepted_slab (hclass : d.classMap ≠ 0) (hdir : d.fbDir ≠ 0) (hpool : d.fbPool ≠ 0) (hresid : d.residual = 0) (hprism : d.prism = 0)
    (hglint : d.glint = 0) (hbase : d.base + d.extent ≤ shadowBase) (hmap : d.classMap + 4 * d.rows * d.slabs ≤ shadowBase)
    (hglints : d.glintBase = 0) (hback : d.fbDir + 64 * ((d.rows + 31) / 32) * d.slabs ≤ shadowBase) (r : Run) : d.accepted n r :=
  ⟨by simp [needDest, hclass, hdir, hpool], fun js => go_needCover hglint hprism js r, go_readResid hresid r,
    by simp [needRange, hbase, hmap, hglints, hback]⟩

section
variable {r : Run} (hloc : locOf c.w1 = true) (hd : (r.s.core n).descAt (addrOf c.w1) = some d)
include hloc hd

theorem go_convertBody (hp : d.plainCore) : CM.go (convertBody n c) r = CM.go (startConversion n c d false) r := by
  rw [convertBody, hloc, CM.go_bind_ok (go_useDesc hd hp.1)]

theorem go_ckptBody (hfmt : d.fmt = .q8c) (hresid : d.residual = 0) (hstoch : d.stoch = false) :
    CM.go (ckptBody n c) r = CM.go (startConversion n c d true) r := by
  rw [ckptBody, hloc, CM.go_bind_ok (go_readDesc hd), CM.go_bind_ok (CM.go_needAll (by simp [hfmt, hresid, hstoch]) _)]

end

/-- A command that only starts a conversion, with a legal run of tiles and no micro-program, leaves one more in flight. -/
theorem starts_of_accepted {i : Instr} {body : CM Bool} (he : exec i s = .next (pilotRun n c body s)) (hrun : s.canRun n c)
    (hd : d.accepted n ⟨s.issue n c, 0, none⟩) {ckpt : Bool}
    (hbody : CM.go body ⟨s.issue n c, 0, none⟩ = CM.go (startConversion n c d ckpt) ⟨s.issue n c, 0, none⟩)
    (hvec : c.w2.getLsbD 63 = false) (hv : s.w3of n c 0 < 2 ^ 17)
    (hzero : bits (s.w3of n c 0) 15 13 = 0) (hcount : 1 ≤ bits (s.w3of n c 0) 12 8)
    (hlast : bits (s.w3of n c 0) 7 4 + bits (s.w3of n c 0) 12 8 ≤ 16) (harrays : bits (s.w3of n c 0) 3 0 ≠ 0)
    (hcol : s.w3of n c 2 % 32 = 0) (htrans : bit (s.w3of n c 0) 16 = false) :
    ∃ t : State, exec i s = .next t ∧ (t.core n).convs.map (·.cc) = (s.core n).convs.map (·.cc) ++ [s.ccNext n] ∧ (t.core n).cc = s.ccNext n ∧
      (t.core n).cs = (s.core n).cs ∧ (t.core n).acc = (s.core n).acc ∧ t.mem = s.mem ∧ ∀ q, q ≠ n → t.core q = s.core q := by
  rw [← s.w3of_issue n c] at hv hzero hcount hlast harrays hcol htrans
  obtain ⟨v, hcc, hgo⟩ := go_startConversion hd hvec hv hzero hcount hlast harrays hcol htrans ckpt
  rw [← hbody] at hgo
  rw [State.cc_issue] at hcc
  have hconvs : ((s.issue n c).core n).convs = (s.core n).convs := by rw [s.core_issue]; rfl
  have hfed := State.feedQueue_fed ((s.issue n c).setCore n { (s.issue n c).core n with convs := ((s.issue n c).core n).convs ++ [v] }) n 16
  refine ⟨_, by rw [he, pilotRun_inFlight hrun hgo], ?_, ?_, ?_, ?_, ?_, fun q hq => ?_⟩
  · rw [hfed.ccs, State.core_setCore_same, List.map_append, hconvs]
    simp [hcc]
  · rw [hfed.cc, State.core_setCore_same, State.cc_issue]
  · rw [hfed.cs, State.core_setCore_same, State.cs_issue]
  · rw [hfed.acc, State.core_setCore_same, State.acc_issue]
  · rw [hfed.mem, State.setCore_mem, State.issue_mem]
  · rw [hfed.other q hq, State.core_setCore_other _ _ hq, State.core_issue_other _ _ _ hq]

end

/-! ### The last tile of a conversion (R111, R158) -/

/-- A lone tile is a window of its own. -/
theorem closePrefix_single (span : Nat) (e : TileEntry) : closePrefix span [e] 16 1 = 1 := by
  rw [closePrefix]
  simp

theorem Core.window_single {k : Core} {e : TileEntry} {v : Conversion} (hq : k.tileq = [e]) (hc : k.convs = [v]) (hcc : v.cc = e.cc)
    (hfeed : v.feed = []) : k.window = some (v, 1) := by
  simp [Core.window, hq, hc, hcc, hfeed, closePrefix_single]

theorem addCounts_plain {n : Nat} {w : Spec} (h : w.desc.fmt.isSlab = false) (a b : Nat) : addCounts n w a b = pure () := by
  simp [addCounts, h]

section
variable {n : Nat} {s : State} {v : Conversion}

theorem CM.go_forM_single {α : Type} (f : α → CM Unit) (x : α) (r : Run) : CM.go ([x].forM f) r = CM.go (f x) r := by
  have h : [x].forM f = (f x >>= fun _ => pure ()) := by simp [List.forM_eq_forM]
  rw [h, bind_pure_unit]

/-- The window of one tile of a plain destination is converted by the write of the tile. -/
theorem go_convertWindow (hp : v.desc.plainCore) {e : TileEntry} (hcol : e.job.col ≤ v.desc.cols) (r : Run) :
    ∃ r', CM.go (convertWindow n v [e]) r = (.ok (), r') ∧ r.s.stored n v.desc.outside r'.s := by
  have hslab : (!v.spec.desc.fmt.isSlab) = true := by simp [Conversion.spec, hp.1]
  obtain ⟨r', hgo, hstored⟩ := go_emitPlain (n := n) (w := v.spec) (t := e.tile v) hp hcol
    { r with flags := if e.flags != 0 then r.flags ||| e.flags else r.flags }
  refine ⟨r', ?_, hstored⟩
  simp only [convertWindow, CM.go_bind, CM.go_forM_single, CM.go_flagIf, hslab, if_true, hgo]

theorem go_settleCounts {x : Conversion} (hc : (s.core n).convs = [x]) (hp : x.desc.fmt.isSlab = false) (f : Nat) :
    CM.go (settleCounts n x.cc) ⟨s, f, none⟩ = (.ok (), ⟨s, f, none⟩) := by
  have hcounts : ∀ a b, addCounts n x.spec a b = pure () := fun a b => addCounts_plain hp a b
  simp [settleCounts, hc, hcounts]

theorem State.releaseCodebooks_none (h : (s.core n).cbHeld = []) : s.releaseCodebooks n = s.setCore n { s.core n with cbHeld := [] } := by
  simp only [State.releaseCodebooks, h, List.takeWhile_nil, List.drop_nil, List.foldl_nil]

/-- The end of the only conversion of a core, its queue empty and nothing held for it. -/
theorem State.endConv_only {x : Conversion} (hc : (s.core n).convs = [x]) (hcc : x.cc = v.cc) (hq : (s.core n).tileq = [])
    (hheld : (s.core n).cbHeld = []) (flags : Nat) : ∃ u : State, s.endConv n v flags none = u.complete n v.cmd v.cc flags ∧
      (u.core n).tileq = [] ∧ (u.core n).convs = [] ∧ (u.core n).cs = (s.core n).cs ∧ u.mem = s.mem ∧ ∀ q, q ≠ n → u.core q = s.core q := by
  let t := s.onCore n (fun k => k.dropConv v.cc)
  have hrelease : t.releaseCodebooks n = t.setCore n { (s.core n).dropConv v.cc with cbHeld := [] } := by
    rw [State.releaseCodebooks_none (by simp [t, Core.dropConv, hheld]), State.core_onCore_same]
  have hconvs : ((t.releaseCodebooks n).core n).convs = [] := by simp [hrelease, Core.dropConv, hc, hcc]
  refine ⟨t.releaseCodebooks n, by rw [State.endConv, State.feedQueue_idle hconvs], ?_, hconvs, ?_, ?_, fun q hq => ?_⟩
  · simp [hrelease, Core.dropConv, hq]
  · simp [hrelease, Core.dropConv]
  · simp [hrelease, t]
  · rw [hrelease, State.core_setCore_other _ _ hq, State.core_onCore_other _ _ hq]

/-- The state after the converter has taken the only tile of a conversion from the queue. -/
def State.tookTile (s : State) (n cc flags : Nat) : State := s.onCore n (fun k => { k with
  tileq := k.tileq.drop 1
  convs := k.convs.map (fun x => if x.cc == cc then { x with left := x.left - 1, flags := flags } else x) })

theorem tileConversion_last (hclock : s.clockHalt = false) {e : TileEntry} (hq : (s.core n).tileq = [e]) (hc : (s.core n).convs = [v])
    (hcc : v.cc = e.cc) (hleft : v.left = 1) (hfeed : v.feed = []) (hvec : e.vecLeft = true) {r : Run}
    (hwindow : CM.go (convertWindow n v [e]) ⟨s, v.flags, none⟩ = (.ok (), r))
    (hsettle : CM.go (settleCounts n v.cc) ⟨r.s.tookTile n v.cc r.flags, r.flags, none⟩ = (.ok (), ⟨r.s.tookTile n v.cc r.flags, r.flags, none⟩)) :
    tileConversion n s = (r.s.tookTile n v.cc r.flags).endConv n v r.flags none := by
  have hw := Core.window_single hq hc hcc hfeed
  have htake : (s.core n).tileq.take 1 = [e] := by rw [hq]; rfl
  rw [State.tookTile] at hsettle
  simp only [tileConversion, hclock, Bool.false_eq_true, if_false, hw, htake, List.all_cons, List.all_nil, hvec, Bool.and_true, Bool.not_true,
    CM.go_def, hwindow, hleft, gt_iff_lt, Nat.lt_irrefl, hsettle]
  rfl

end

/-- Settles O21: CONVERT and CKPT add their conversion to those in flight and then only feed the queue; the last tile of a plain destination is a
write of its rows, after which the conversion leaves the core. -/
theorem conversionsInFlight : Obligations.ConversionsInFlight := by
  refine ⟨fun n c s d hn hrun hloc hvec hd => ?_, fun n s v e hn hclock hq hc hcc hleft hfeed hvec hheld hp _ _ hcol _ => ?_⟩
  · intro vsel rsel hv hzero hcount hlast harrays hcol htrans starts
    have hd' : ((s.issue n c).core n).descAt (addrOf c.w1) = some d := by rwa [State.descAt_issue]
    refine ⟨fun hop hp => ?_, fun hop hfmt _ hclass hdir hpool hresid hstoch hprism hglint hbase hmap hglints hback => ?_⟩
    · exact starts_of_accepted (answer_pilot rfl hn hop _) hrun (hp.accepted hd _) (go_convertBody hloc hd' hp) hvec hv hzero hcount hlast harrays
        hcol htrans
    · exact starts_of_accepted (answer_pilot rfl hn hop _) hrun (Desc.accepted_slab hclass hdir hpool hresid hprism hglint hbase hmap hglints hback _)
        (go_ckptBody hloc hd' hfmt hresid hstoch) hvec hv hzero hcount hlast harrays hcol htrans
  · obtain ⟨r, hwindow, hstored⟩ := go_convertWindow (n := n) hp hcol.le ⟨s, v.flags, none⟩
    have hconvs : ((r.s.tookTile n v.cc r.flags).core n).convs = [{ v with left := v.left - 1, flags := r.flags }] := by
      simp [State.tookTile, hstored.convs, hc]
    have hqueue : ((r.s.tookTile n v.cc r.flags).core n).tileq = [] := by simp [State.tookTile, hstored.tileq, hq]
    have hcb : ((r.s.tookTile n v.cc r.flags).core n).cbHeld = [] := by simp [State.tookTile, hstored.cbHeld, hheld]
    have hsettle := go_settleCounts hconvs hp.1 r.flags
    obtain ⟨u, hend, hu, hnone, hcs, hmem, hother⟩ := State.endConv_only (v := v) hconvs rfl hqueue hcb r.flags
    refine ⟨u, r.flags, ?_, hu, hnone, hmem.trans hstored.mem, fun a ha => ?_, fun q hq => ?_⟩
    · have hexec : exec (.tileConversion n []) s = .next (tileConversion n (s.sramErrors n [])) := if_pos (by simp [Instr.wf, hn])
      rw [hexec, State.sramErrors_nil, tileConversion_last hclock hq hc hcc hleft hfeed hvec hwindow hsettle, hend]
    · rw [State.csByte, hcs, State.tookTile, State.core_onCore_same]
      exact hstored.bytes a ha
    · rw [hother q hq, State.tookTile, State.core_onCore_other _ _ hq, hstored.other q hq]

end Sys2Proof.Machine
end

/-! ## O22: a VMAP whose destination is narrower than its source (R160, R217, R533)

The clause on VMAP does not ask that the destination hold the results. A tile beyond the columns of a narrow destination writes no element, but the
write of its empty row is still checked against the end of core store (`wrCs`, R217): where the place of the tile's first column lies beyond
that end, VMAP is refused with 0x11 and does not complete. -/

section
namespace Sys2Proof.Machine
open Sys2Proof

/-! ### What a completion with a signal leaves (R207, R240) -/

theorem State.byEvents.addIssued_eq {s t : State} (h : s.byEvents t) : t.addIssued = s.addIssued := by rw [h]

/-- A command with SIG has issued an add to its object. -/
theorem State.complete_addIssued (s : State) (n : Nat) {c : Cmd} (hsig : c.sig = true) (cc flags : Nat) :
    0 < tabGet (s.complete n c cc flags).addIssued c.sigObj 0 := by
  have hadd : ∀ t : State, 0 < tabGet (t.syncAdd c.sigObj c.sigAdd).addIssued c.sigObj 0 := fun t => by
    rw [State.syncAdd]
    dsimp only
    rw [tabGet_set_same]
    omega
  rw [State.complete, if_pos hsig]
  split
  · split
    · rw [(State.raise_byEvents ..).addIssued_eq]
      exact hadd _
    · exact hadd _
  · exact hadd _

theorem State.failed_addIssued (s : State) (n : Nat) (c : Cmd) (cp cc code flags addr : Nat) :
    (s.failed n c cp cc code flags addr).addIssued = s.addIssued := by simp [State.failed]

theorem State.addIssued_issue (s : State) (n : Nat) (c : Cmd) : (s.issue n c).addIssued = s.addIssued := by
  obtain ⟨_, _, _, _, he, _⟩ := s.issue_spec n c
  rw [he]

/-- A command with SIG that is refused has not completed from any state. -/
theorem not_completes_of_refused {i : Instr} {n : Nat} {c : Cmd} {s : State} {body : CM Bool} {r : Run} {code a : Nat} {P : State → Prop}
    (he : exec i s = .next (pilotRun n c body s)) (hrun : s.canRun n c)
    (hgo : CM.go body ⟨s.issue n c, 0, none⟩ = (.error (.status code a), r)) (hcode : code < 0x40) (hsig : c.sig = true)
    (hnone : tabGet s.addIssued c.sigObj 0 = 0) : ¬ completes i n c s P := by
  rintro ⟨u, flags, hu, -⟩
  rw [he, pilotRun_stops hrun hgo, if_pos (by simp [hcode])] at hu
  have hissued := u.complete_addIssued n hsig (s.ccNext n) flags
  rw [← Host.Outcome.next.inj hu, State.failed_addIssued, State.addIssued_issue, hnone] at hissued
  exact Nat.lt_irrefl 0 hissued

/-! ### A tile that is emitted or stopped -/

theorem CM.go_tryCatch_error {α : Type} {x : CM α} {f : Stop → CM α} {r r' : Run} {e : Stop} (h : CM.go x r = (.error e, r')) :
    CM.go (tryCatch x f) r = CM.go (f e) r' := by
  change (ExceptT.tryCatch x f).run.run r = _
  rw [ExceptT.tryCatch, ExceptT.run_mk, StateT.run_bind]
  change (CM.go x r >>= _ : Id _) = _
  rw [h]
  rfl

section
variable {α : Type} {x : CM α} {r r' : Run}

theorem CM.go_attempt_ok {a : α} (h : CM.go x r = (.ok a, r')) (d : α) : CM.go (attempt x d) r = (.ok (a, none), r') := by
  rw [attempt]
  refine CM.go_tryCatch_ok ?_
  rw [CM.go_bind_ok h, CM.go_pure]

theorem CM.go_attempt_stop {code a : Nat} (h : CM.go x r = (.error (.status code a), r')) (d : α) :
    CM.go (attempt x d) r = (.ok (d, some (.status code a)), r') := by
  rw [attempt, CM.go_tryCatch_error (CM.go_bind_error h), CM.go_pure]

end

section
variable {n : Nat} {w : Spec} {t : Tile} {r r' : Run} {stop : Option Stop}

theorem go_emitTiles_plain (hp : w.desc.fmt.isSlab = false) {x : Unit × Option Stop} (h : CM.go (attempt (emitPlain n w t) ()) r = (.ok x, r')) :
    CM.go (emitTiles n w [t] ⟨0, 0, none⟩) r = (.ok ⟨0, 0, x.2⟩, r') := by
  simp [emitTiles, hp, h]

/-- A tile beyond the columns of its destination and beyond the end of core store is refused, though it has no element to write. -/
theorem go_emitPlain_beyond (hloc : w.desc.loc = true) (hrow : t.row < w.desc.rows) (hcol : w.desc.cols ≤ t.col)
    (hfar : shadowBase < w.desc.elemAddr t.row t.col) (r : Run) : ∃ r', CM.go (emitPlain n w t) r = (.error (.status 0x11 0), r') := by
  have hrows : ∃ l, liveRows w.desc t.row = 0 :: l := by
    rw [liveRows, List.range_succ_eq_map, List.filter_cons_of_pos (by simpa using hrow)]
    exact ⟨_, rfl⟩
  obtain ⟨l, hl⟩ := hrows
  have hlen : (t.rowBytes w.desc 0).length = 0 := by rw [t.length_rowBytes, Nat.sub_eq_zero_of_le hcol, Nat.min_zero, Nat.zero_mul]
  have hwrite : ∀ r, CM.go (t.writeRows n w.desc) r = (.error (.status 0x11 0), r) := by
    intro r
    have hcheck : decide (w.desc.elemAddr t.row t.col + (t.rowBytes w.desc 0).length ≤ shadowBase) = false := by
      rw [hlen]
      exact decide_eq_false (by omega)
    rw [Tile.writeRows, hl, List.forM_eq_forM, List.forM_cons]
    refine CM.go_bind_error ?_
    rw [hloc, wrAt, if_pos rfl, wrCs, Nat.add_zero, hcheck]
    refine CM.go_bind_error ?_
    rfl
  rw [emitPlain_core hloc]
  exact ⟨_, (CM.go_bind_ok (CM.go_flagIf ..)).trans (CM.go_bind_error (hwrite _))⟩

end

/-! ### A tile of the source through the engine -/

/-- Elements of a row of a plain tensor, as core k reads them. -/
def Core.wideRow (k : Core) (d : Desc) (row col len : Nat) : Row :=
  let b := k.csRead (d.elemAddr row col) (len * d.fmt.bytes)
  ⟨(List.range len).map (fun j => wideVal d.fmt (leAt b.1 (j * d.fmt.bytes) d.fmt.bytes)), b.2⟩

theorem go_readWide {n : Nat} {d : Desc} {row col len : Nat} (hp : d.plainCore) (hrow : row < d.rows) (hcol : col + len ≤ d.cols) (r : Run) :
    CM.go (readWide n d row col len) r = (.ok ((r.s.core n).wideRow d row col len), r) := by
  rw [readWide, hp.2.1, CM.go_bind_ok (CM.go_rdAt_true (hp.elems_within hrow hcol)), CM.go_pure]
  rfl

/-- The tile at (row, col) of a plain tensor, as core k reads it. -/
def Core.sourceTile (k : Core) (d : Desc) (row col : Nat) : Tile :=
  { gridTile ((List.range (Nat.min 32 (d.rows - row))).map (fun i => k.wideRow d (row + i) col (Nat.min 32 (d.cols - col)))) 0 0 with
    row := row, col := col }

section
variable {n : Nat} {d : Desc} {row col : Nat} (hp : d.plainCore) (hcol : col ≤ d.cols)
include hp hcol

theorem go_readTile (r : Run) : CM.go (readTile n d row col) r = (.ok ((r.s.core n).sourceTile d row col), r) := by
  have hread : ∀ i ∈ List.range (Nat.min 32 (d.rows - row)), CM.go (readWide n d (row + i) col (Nat.min 32 (d.cols - col))) r =
      (.ok ((r.s.core n).wideRow d (row + i) col (Nat.min 32 (d.cols - col))), r) := by
    intro i hi
    have hi := List.mem_range.1 hi
    have hmin : Nat.min 32 (d.rows - row) ≤ d.rows - row := Nat.min_le_right ..
    have hmin' : Nat.min 32 (d.cols - col) ≤ d.cols - col := Nat.min_le_right ..
    exact go_readWide hp (by omega) (by omega) r
  rw [readTile, CM.go_bind_ok (CM.go_mapM hread), CM.go_pure]
  rfl

theorem go_vmapTile (v : VecOperands) (r : Run) :
    ∃ t r', CM.go (do vecTile n v (← readTile n d row col)) r = (.ok t, r') ∧ t.row = row ∧ t.col = col := by
  rw [CM.go_bind_ok (go_readTile hp hcol r), vecTile]
  simp only [CM.go_bind, CM.go_getS, CM.go_setS, CM.go_flag, CM.go_pure]
  exact ⟨_, _, rfl, rfl, rfl⟩

end

/-! ### The run of such a VMAP -/

/-- A matrix of one row and 64 columns is two tiles, each in a group of its own for a plain destination. -/
theorem gridJobs_row : (gridJobs 1 64).take 2 = [⟨0, 0, 0, 0⟩, ⟨0, 0, 0, 32⟩] := by decide

theorem byQuarter_pair (a b : TileJob) : byQuarter 32 [a, b] = [[a], [b]] := by simp [byQuarter]

theorem go_settle_stop {n : Nat} {w : Spec} (hp : w.desc.fmt.isSlab = false) (e f : Nat) (y : Stop) (r : Run) :
    CM.go (settle n w ⟨e, f, some y⟩) r = (.error y, r) := by
  rw [settle, addCounts_plain hp, CM.go_bind_ok (CM.go_attempt_ok (CM.go_pure ..) ())]
  rfl

section
variable {n : Nat} {c : Cmd} {s : State} {sd dd : Desc} {v : VecOperands} {f : Nat}

/-- Two tiles of which the second is beyond its destination and beyond the end of core store: the work on them stops with 0x11. -/
theorem go_emitGroups_beyond {w : Spec} {tile : TileJob → CM Tile} {a b : TileJob} (hp : w.desc.plainCore) (hrow : b.row < w.desc.rows)
    (ha : a.col ≤ w.desc.cols) (hb : w.desc.cols ≤ b.col) (hfar : shadowBase < w.desc.elemAddr b.row b.col)
    (htile : ∀ j ∈ [a, b], ∀ r, ∃ t r', CM.go (tile j) r = (.ok t, r') ∧ t.row = j.row ∧ t.col = j.col) (r : Run) :
    ∃ r', CM.go (emitGroups n w [a, b] tile) r = (.error (.status 0x11 0), r') := by
  have hspan : w.desc.span = 32 := by simp [Desc.span, hp.1]
  obtain ⟨ta, r1, hta, -, hcol⟩ := htile a (by simp) r
  obtain ⟨r2, hea, -⟩ := go_emitPlain (n := n) (t := ta) hp (hcol ▸ ha) r1
  obtain ⟨tb, r3, htb, hrowb, hcolb⟩ := htile b (by simp) r2
  obtain ⟨r4, heb⟩ := go_emitPlain_beyond (n := n) (w := w) (t := tb) hp.2.1 (hrowb ▸ hrow) (hcolb ▸ hb) (hrowb ▸ hcolb ▸ hfar) r3
  have hma : CM.go ([a].mapM tile) r = (.ok [ta], r1) := by simp [hta]
  have hmb : CM.go ([b].mapM tile) r2 = (.ok [tb], r3) := by simp [htb]
  refine ⟨r4, ?_⟩
  rw [emitGroups, hspan, byQuarter_pair]
  simp only [List.foldlM_cons, List.foldlM_nil, CM.go_bind, CM.go_pure, Option.isSome_none, Bool.false_eq_true, if_false,
    CM.go_attempt_ok hma, CM.go_attempt_ok hmb, go_emitTiles_plain hp.1 (CM.go_attempt_ok hea ()), go_emitTiles_plain hp.1 (CM.go_attempt_stop heb ()),
    go_settle_stop hp.1]

theorem go_vecDest (hloc : locOf c.w2 = true) (hd : (s.core n).descAt (addrOf c.w2) = some dd) (hp : dd.plainCore) (js : List TileJob) :
    CM.go (vecDest n c js) ⟨s, f, none⟩ = (.ok ⟨c, (s.core n).cc, addrOf c.w2, dd, none, s.thresholds n dd⟩, ⟨s, f, none⟩) := by
  have haccept := hp.accepted (n := n) hd ⟨s, f, none⟩
  simp only [vecDest, hloc, CM.go_bind, go_useDesc (r := ⟨s, f, none⟩) hd hp.1, haccept.dest, haccept.range, haccept.cover, haccept.resid, CM.go_getS,
    CM.go_pure]

theorem go_vmap_beyond (hl1 : locOf c.w1 = true) (hl2 : locOf c.w2 = true) (hs : (s.core n).descAt (addrOf c.w1) = some sd)
    (hd : (s.core n).descAt (addrOf c.w2) = some dd) (hps : sd.plainCore) (hpd : dd.plainCore) (hfmt : sd.fmt = .fp32)
    (hrows : sd.rows = 1) (hcols : sd.cols = 64) (hcnt : s.w3of n c 1 = 2)
    (hv : CM.go (startVec n (s.w3of n c 0)) ⟨s, f, none⟩ = (.ok v, ⟨s, f, none⟩))
    (hrow : 0 < dd.rows) (hcol : dd.cols ≤ 32) (hfar : shadowBase < dd.elemAddr 0 32) :
    ∃ r, CM.go (vmapBody n c) ⟨s, f, none⟩ = (.error (.status 0x11 0), r) := by
  have htile : ∀ j ∈ [(⟨0, 0, 0, 0⟩ : TileJob), ⟨0, 0, 0, 32⟩], ∀ r : Run, ∃ t r',
      CM.go (do vecTile n v (← readTile n sd j.row j.col)) r = (.ok t, r') ∧ t.row = j.row ∧ t.col = j.col := by
    intro j hj r
    refine go_vmapTile hps ?_ v r
    rw [hcols]
    simp only [List.mem_cons, List.not_mem_nil, or_false] at hj
    obtain rfl | rfl := hj <;> decide
  obtain ⟨r, hgo⟩ := go_emitGroups_beyond (n := n) (w := ⟨c, (s.core n).cc, addrOf c.w2, dd, none, s.thresholds n dd⟩)
    (tile := fun j => do vecTile n v (← readTile n sd j.row j.col)) hpd hrow (Nat.zero_le _) hcol hfar htile ⟨s, f, none⟩
  refine ⟨r, ?_⟩
  have hjobs : (gridJobs sd.rows sd.cols).take 2 = [⟨0, 0, 0, 0⟩, ⟨0, 0, 0, 32⟩] := by rw [hrows, hcols, gridJobs_row]
  have hwide : isWide32 sd.fmt = true := by rw [hfmt]; rfl
  have htiles : (decide (1 ≤ 2) && decide (2 ≤ ((sd.rows + 31) / 32) * ((sd.cols + 31) / 32))) = true := by rw [hrows, hcols]; rfl
  have hread := go_readDesc (r := ⟨s, f, none⟩) hs
  have hrange := go_needRange (r := ⟨s, f, none⟩) hps (Core.descAt_plain hs hps.1)
  simp only [vmapBody, hl1, CM.go_bind, hread, CM.go_need, hwide, if_true, hrange, CM.go_w3, hcnt, htiles, hv, hjobs, go_vecDest hl2 hd hpd, hgo]

theorem exec_vmap (hn : n < 192) (hop : c.op = 0x1E) : exec (.vmap n c) s = .next (pilotRun n c (vmapBody n c) s) := answer_pilot rfl hn hop _

end

/-! ### The counterexample -/

/-- A descriptor of an FP32 tensor in core store with scale 1. -/
def fp32Descriptor (base rows cols : Nat) : List Byte := leBytes base 8 ++ leBytes rows 4 ++ leBytes cols 4 ++ leBytes (4 * cols) 8 ++
  leBytes 0x3F800000 4 ++ leBytes (7 + 2 ^ 23) 4 ++ List.replicate 96 0#8

/-- One row of 64 elements. -/
def wideSource : Desc := parseDesc 0 (fp32Descriptor 0x1000 1 64) .fp32

/-- The one element that ends where the shadow frame begins. -/
def narrowDest : Desc := parseDesc 128 (fp32Descriptor (shadowBase - 4) 1 1) .fp32

/-- Core 0 belongs to partition 0, which has a page at 0 and holds object 0; its descriptors stand at 0 and 128 of core store, an empty vector operand
record at 256. The program at 0 is one NOP with END. -/
def vmapState : State :=
  let core := { Core.init with
    pilot := .running
    cs := cellsWrite (cellsWrite [] 0 (fp32Descriptor 0x1000 1 64)) 128 (fp32Descriptor (shadowBase - 4) 1 1)
    x := [(1, 256#64), (2, 2#64)] }
  let part := { Part.init with
    rects := [⟨0, 1, 1, 0, false⟩]
    pages := [⟨0, false, false, false, false, some 0, 0, 0, none⟩]
    frames := [0] }
  let s := { State.reset with parts := [(0, part)], cores := [(0, core)] }
  (s.wr .helmSyncCtl 0 0 0 8#32).wr .vecProgHi 0 0 0 2#32

/-- VMAP of two tiles with a signal to object 0. -/
def vmapCmd : Cmd := ⟨BitVec.ofNat 64 (0x1E + 2 ^ 10), BitVec.ofNat 64 (2 ^ 48), BitVec.ofNat 64 (128 + 2 ^ 48), BitVec.ofNat 64 (1 + 2 * 64)⟩

/-- A record of zeros: the program at 0, no second tile, no vectors, x0 in every place of the latch. -/
def emptyVec : VecOperands := ⟨0, none, none, none, List.replicate 15 0#32⟩

theorem leAt_zeros (m o k : Nat) : leAt (List.replicate m 0#8) o k = 0 := by
  rw [leAt, List.drop_replicate, List.take_replicate]
  induction min k (m - o) with
  | zero => rfl
  | succ i ih => simp [List.replicate_succ, leNat, ih]

theorem go_readVec_zeros {n off : Nat} {p : Bool} {r : Run} (ha : aligned off 32 = true) (hin : off + 32 ≤ shadowBase)
    (hz : (r.s.core n).csRead off 32 = (List.replicate 32 0#8, p)) : CM.go (readVec n off) r = (.ok emptyVec, r) := by
  rw [readVec]
  simp only [CM.go_bind, CM.go_need, ha, if_true, CM.go_rdCs hin, hz, CM.go_getS, CM.go_pure, leAt_zeros]
  simp [vecPtr, bits, bit, emptyVec, Core.xval, w32]

theorem go_startVec_zeros {n off : Nat} {p : Bool} {r : Run} (ha : aligned off 32 = true) (hin : off + 32 ≤ shadowBase)
    (hz : (r.s.core n).csRead off 32 = (List.replicate 32 0#8, p)) (hprog : r.s.progOk n (r.s.runBank n) 32 0 = true) :
    CM.go (startVec n off) r = (.ok emptyVec, r) := by
  have htake : CM.go (takeVec n off) r = (.ok emptyVec, r) := by
    rw [takeVec, CM.go_bind_ok (go_readVec_zeros ha hin hz)]
    rfl
  have hok : r.s.progOk n (r.s.runBank n) 32 emptyVec.prog = true := hprog
  rw [startVec, CM.go_bind_ok htake]
  simp only [CM.go_bind, CM.go_need, CM.go_getS, hok, if_true, CM.go_pure]

theorem vmapCmd_canRun : vmapState.canRun 0 vmapCmd := by
  refine ⟨by decide +kernel, by decide +kernel, ⟨by decide +kernel, fun _ => ⟨0, by decide +kernel, by decide +kernel⟩, ?_, ?_⟩, by decide +kernel,
    by decide +kernel⟩
  · exact fun h => absurd h (by decide)
  · intro o ho
    obtain rfl := Option.some.inj ho
    decide

theorem wideSource_plain : wideSource.plainCore := ⟨by decide +kernel, by decide +kernel, by decide +kernel⟩
theorem narrowDest_plain : narrowDest.plainCore := ⟨by decide +kernel, by decide +kernel, by decide +kernel⟩
theorem descAt_wideSource : (vmapState.core 0).descAt (addrOf vmapCmd.w1) = some wideSource := by decide +kernel
theorem descAt_narrowDest : (vmapState.core 0).descAt (addrOf vmapCmd.w2) = some narrowDest := by decide +kernel

/-- The record is empty and its program legal. -/
theorem go_startVec : CM.go (startVec 0 (vmapState.w3of 0 vmapCmd 0)) ⟨vmapState.issue 0 vmapCmd, 0, none⟩ =
    (.ok emptyVec, ⟨vmapState.issue 0 vmapCmd, 0, none⟩) := by
  have h0 : vmapState.w3of 0 vmapCmd 0 = 256 := by decide +kernel
  have hprog : (vmapState.issue 0 vmapCmd).progOk 0 ((vmapState.issue 0 vmapCmd).runBank 0) 32 0 = true := by decide +kernel
  have hread : ((vmapState.issue 0 vmapCmd).core 0).csRead 256 32 = (List.replicate 32 0#8, false) := by
    rw [State.csRead_issue]
    decide +kernel
  rw [h0]
  exact go_startVec_zeros rfl (by decide) hread hprog

/-- Refutes O22: `vmapState` meets the hypotheses of the clause on VMAP, and the run ends with 0x11 at the second tile. SIG tells the refusal from
a completion, of whatever state: the add to object 0 is never issued. -/
theorem not_rowCommands : ¬ Obligations.RowCommands := by
  intro h
  obtain ⟨-, -, hrows⟩ := h 0 vmapCmd vmapState (by decide) vmapCmd_canRun
  obtain ⟨-, hvmap⟩ := hrows wideSource narrowDest (by decide) (by decide) descAt_wideSource descAt_narrowDest wideSource_plain narrowDest_plain rfl rfl
  have hcnt : vmapState.w3of 0 vmapCmd 1 = 2 := by decide +kernel
  obtain ⟨r, hgo⟩ := go_vmap_beyond (n := 0) (c := vmapCmd) (s := vmapState.issue 0 vmapCmd) (f := 0) (by decide) (by decide)
    ((State.descAt_issue ..).trans descAt_wideSource) ((State.descAt_issue ..).trans descAt_narrowDest) wideSource_plain narrowDest_plain rfl
    (by decide +kernel) (by decide +kernel) ((State.w3of_issue ..).trans hcnt) ((State.w3of_issue ..).symm ▸ go_startVec) (by decide +kernel)
    (by decide +kernel) (by decide +kernel)
  exact not_completes_of_refused (exec_vmap (by decide) (by decide)) vmapCmd_canRun hgo (by decide) (by decide) (by decide +kernel)
    (hvmap emptyVec (by decide) (by rw [hcnt]; decide) (by rw [hcnt]; decide +kernel) go_startVec)

end Sys2Proof.Machine
end

/-! ## O31: the jumps of the Twilight generator (R185, R187, R188)

The transition is linear over GF(2), and `twiMap` holds its images of the unit vectors: on the numbers of states it is the transition itself.
A composition of maps is the composition of what they do, so a map squared k times is 2^k advances. -/

section
namespace Sys2Proof.Machine
open Sys2Proof

/-! ### Applying and composing maps -/

@[simp] theorem gf2Apply_nil (v : Nat) : gf2Apply [] v = 0 := rfl

/-- The fold of `gf2Apply` from any accumulator: what it adds does not depend on the accumulator. -/
theorem gf2Apply_foldl (m : Gf2Map) (a v : Nat) :
    (m.foldl (fun (p : Nat × Nat) c => (if p.2 % 2 == 1 then p.1 ^^^ c else p.1, p.2 / 2)) (a, v)).1 = a ^^^ gf2Apply m v := by
  induction m generalizing a v with
  | nil => simp
  | cons c m ih =>
    rw [gf2Apply, List.foldl_cons, List.foldl_cons, ih, ih]
    split <;> simp [Nat.xor_assoc]

theorem gf2Apply_cons (c : Nat) (m : Gf2Map) (v : Nat) :
    gf2Apply (c :: m) v = (if v % 2 = 1 then c else 0) ^^^ gf2Apply m (v / 2) := by
  rw [gf2Apply, List.foldl_cons, gf2Apply_foldl]
  simp

/-- A map is linear over GF(2). -/
theorem gf2Apply_xor (m : Gf2Map) (v w : Nat) : gf2Apply m (v ^^^ w) = gf2Apply m v ^^^ gf2Apply m w := by
  induction m generalizing v w with
  | nil => simp
  | cons c m ih =>
    simp only [gf2Apply_cons, Nat.xor_div_two, ih]
    have hbit : (if (v ^^^ w) % 2 = 1 then c else 0) = (if v % 2 = 1 then c else 0) ^^^ (if w % 2 = 1 then c else 0) := by
      have hsum : (v ^^^ w) % 2 = (v + w) % 2 := Nat.xor_mod_two_eq
      rcases Nat.mod_two_eq_zero_or_one v with hv | hv <;> rcases Nat.mod_two_eq_zero_or_one w with hw | hw <;>
        simp [hsum, Nat.add_mod, hv, hw]
    rw [hbit]
    ac_rfl

@[simp] theorem gf2Apply_zero (m : Gf2Map) : gf2Apply m 0 = 0 := by
  simpa using gf2Apply_xor m 0 0

theorem gf2Apply_comp (f g : Gf2Map) (v : Nat) : gf2Apply (gf2Comp f g) v = gf2Apply f (gf2Apply g v) := by
  induction g generalizing v with
  | nil => simp [gf2Comp]
  | cons c g ih =>
    rw [gf2Comp, List.map_cons, gf2Apply_cons, gf2Apply_cons, gf2Apply_xor, apply_ite (gf2Apply f), gf2Apply_zero, ← gf2Comp, ih]

/-- A composition with itself is two advances. -/
theorem gf2Apply_comp_self (m : Gf2Map) : gf2Apply (gf2Comp m m) = (gf2Apply m)^[2] :=
  funext (gf2Apply_comp m m)

/-- k squarings of a map are 2^k advances. -/
theorem gf2Apply_square (m : Gf2Map) (k : Nat) : gf2Apply (gf2Square m k) = (gf2Apply m)^[2 ^ k] := by
  induction k generalizing m with
  | zero => rfl
  | succ k ih => rw [gf2Square, ih, gf2Apply_comp_self, ← Function.iterate_mul, Nat.pow_succ']

/-- The jumps of the low k bits of j add up to j mod 2^k advances. -/
theorem twiJumpBits_eq_iterate (m : Gf2Map) (k j v : Nat) : twiJumpBits m k j v = (gf2Apply m)^[j % 2 ^ k] v := by
  induction k generalizing m j v with
  | zero => simp [twiJumpBits, Nat.mod_one]
  | succ k ih =>
    have hbit : (if j % 2 == 1 then gf2Apply m v else v) = (gf2Apply m)^[j % 2] v := by
      rcases Nat.mod_two_eq_zero_or_one j with hj | hj <;> simp [hj]
    rw [twiJumpBits, ih, hbit, gf2Apply_comp_self, ← Function.iterate_mul, ← Function.iterate_add_apply, Nat.pow_succ', Nat.mod_mul,
      Nat.add_comm]

/-! ### A linear function as a map -/

/-- A function on numbers is linear over GF(2) (R185). -/
def Gf2Linear (f : Nat → Nat) : Prop := ∀ a b, f (a ^^^ b) = f a ^^^ f b

theorem Gf2Linear.map_zero {f : Nat → Nat} (hf : Gf2Linear f) : f 0 = 0 := by simpa using hf 0 0

theorem Gf2Linear.comp_double {f : Nat → Nat} (hf : Gf2Linear f) : Gf2Linear (fun a => f (2 * a)) := fun a b => by
  have hdouble : 2 * (a ^^^ b) = 2 * a ^^^ 2 * b := by
    simpa [Nat.shiftLeft_eq, Nat.mul_comm] using Nat.shiftLeft_xor_distrib (a := a) (b := b) (i := 1)
  exact (congrArg f hdouble).trans (hf ..)

/-- A bit below an even number: no carry, so the sum over GF(2) is the sum. -/
theorem xor_double_eq_add {b : Nat} (hb : b < 2) (x : Nat) : b ^^^ 2 * x = b + 2 * x := by
  have hdiv : (b ^^^ 2 * x) / 2 = x := by simp [Nat.xor_div_two, Nat.div_eq_of_lt hb]
  have hmod : (b ^^^ 2 * x) % 2 = (b + 2 * x) % 2 := Nat.xor_mod_two_eq
  omega

/-- The images of the first k unit vectors determine a linear function on the numbers below 2^k. -/
theorem gf2Apply_map_range {f : Nat → Nat} (hf : Gf2Linear f) (k v : Nat) :
    gf2Apply ((List.range k).map (fun i => f (2 ^ i))) v = f (v % 2 ^ k) := by
  induction k generalizing f v with
  | zero => simp [Nat.mod_one, hf.map_zero]
  | succ k ih =>
    have htail : ((List.range k).map Nat.succ).map (fun i => f (2 ^ i)) = (List.range k).map (fun i => f (2 * 2 ^ i)) := by
      simp [Nat.pow_succ']
    have hlow : (if v % 2 = 1 then f (2 ^ 0) else 0) = f (v % 2) := by
      rcases Nat.mod_two_eq_zero_or_one v with hv | hv <;> simp [hv, hf.map_zero]
    have hsplit : v % 2 ^ (k + 1) = v % 2 ^^^ 2 * (v / 2 % 2 ^ k) := by
      rw [Nat.pow_succ', Nat.mod_mul, xor_double_eq_add (Nat.mod_lt v (by decide))]
    rw [List.range_succ_eq_map, List.map_cons, htail, gf2Apply_cons, hlow, ih hf.comp_double, ← hf, hsplit]

/-! ### The transition of the generator (R185) -/

theorem xor_interchange (a b c d : BitVec 64) : a ^^^ b ^^^ (c ^^^ d) = a ^^^ c ^^^ (b ^^^ d) := by ac_rfl

theorem xor_shiftLeft_linear (a b : BitVec 64) (n : Nat) : a ^^^ b ^^^ ((a ^^^ b) <<< n) = a ^^^ (a <<< n) ^^^ (b ^^^ (b <<< n)) := by
  rw [BitVec.shiftLeft_xor_distrib, xor_interchange]

theorem xor_ushiftRight_linear (a b : BitVec 64) (n : Nat) : a ^^^ b ^^^ ((a ^^^ b) >>> n) = a ^^^ (a >>> n) ^^^ (b ^^^ (b >>> n)) := by
  rw [BitVec.ushiftRight_xor_distrib, xor_interchange]

/-- The sum of two states over GF(2). -/
def twiXor (s t : Twi) : Twi := (s.1 ^^^ t.1, s.2 ^^^ t.2)

theorem twiNext_xor (s t : Twi) : twiNext (twiXor s t) = twiXor (twiNext s) (twiNext t) := by
  simp only [twiNext, twiXor]
  rw [xor_shiftLeft_linear, xor_ushiftRight_linear, xor_interchange _ _ s.2, BitVec.ushiftRight_xor_distrib s.2, xor_interchange _ _ (s.2 >>> 26)]

theorem twiOfNat_xor (a b : Nat) : twiOfNat (a ^^^ b) = twiXor (twiOfNat a) (twiOfNat b) := by
  simp only [twiOfNat, twiXor, Nat.shiftRight_xor_distrib, BitVec.ofNat_xor]

/-- The number of a state is that of its words side by side. -/
theorem twiToNat_eq_append (s : Twi) : twiToNat s = (s.2 ++ s.1).toNat := by
  rw [BitVec.toNat_append, ← Nat.shiftLeft_add_eq_or_of_lt s.1.isLt, Nat.shiftLeft_eq, Nat.add_comm, twiToNat]

theorem twiToNat_lt (s : Twi) : twiToNat s < 2 ^ 128 := by
  rw [twiToNat_eq_append]
  exact (s.2 ++ s.1).isLt

theorem twiToNat_xor (s t : Twi) : twiToNat (twiXor s t) = twiToNat s ^^^ twiToNat t := by
  simp only [twiToNat_eq_append, twiXor]
  rw [← BitVec.toNat_xor, BitVec.xor_append]

@[simp] theorem twiOfNat_twiToNat (s : Twi) : twiOfNat (twiToNat s) = s := by
  have hlow : s.1.toNat < 2 ^ 64 := s.1.isLt
  ext1 <;> apply BitVec.eq_of_toNat_eq
  · simpa [twiOfNat, twiToNat] using hlow
  · simp [twiOfNat, twiToNat, Nat.shiftRight_eq_div_pow, Nat.add_mul_div_right]
    omega

theorem twiStep_linear : Gf2Linear (fun n => twiToNat (twiNext (twiOfNat n))) := fun a b => by
  simp only [twiOfNat_xor, twiNext_xor, twiToNat_xor]

/-- `twiMap` is the transition of R185 on the numbers of states. -/
theorem twiMap_semiconj : Function.Semiconj twiToNat twiNext (gf2Apply twiMap) := fun s => by
  rw [twiMap, gf2Apply_map_range twiStep_linear, Nat.mod_eq_of_lt (twiToNat_lt s), twiOfNat_twiToNat]

/-! ### The jumps (R188) -/

theorem natRepeat_eq_iterate {α : Type} (f : α → α) (n : Nat) (a : α) : Nat.repeat f n a = f^[n] a := by
  induction n with
  | zero => rfl
  | succ n ih => rw [Nat.repeat, ih, Function.iterate_succ_apply']

/-- The jumps of j's bits, the map at hand being 2^80 advances, are j × 2^80 advances of the state. -/
theorem twiJumpBits_twiToNat {j : Nat} (hj : j < 2 ^ 16) (s : Twi) :
    twiJumpBits (gf2Square twiMap 80) 16 j (twiToNat s) = twiToNat (twiNext^[j * 2 ^ 80] s) := by
  rw [twiJumpBits_eq_iterate, Nat.mod_eq_of_lt hj, gf2Apply_square, ← Function.iterate_mul, Nat.mul_comm]
  exact (twiMap_semiconj.iterate_right _ s).symm

/-- Settles O31: the number of a state carries the transition of R185 over to `twiMap`, so squaring the map 80 times and applying the jumps of
j's bits advances the state j × 2^80 times. -/
theorem twilightJumps : Obligations.TwilightJumps := by
  intro seed j hj
  rw [natRepeat_eq_iterate, twiJump]
  split
  case isTrue h0 => rw [eq_of_beq h0, Nat.zero_mul, Function.iterate_zero_apply]
  case isFalse => rw [twiJumpBits_twiToNat hj, twiOfNat_twiToNat]

end Sys2Proof.Machine
end

/-! ## O5 and O59: x0, and the state after reset -/

section
namespace Sys2Proof.Machine
open Sys2Proof

/-! ### Scalar registers (R203) -/

@[simp] theorem Core.xval_zero (k : Core) : k.xval 0 = 0#64 := rfl

@[simp] theorem Core.setX_zero (k : Core) (v : DWord) (tag : Bool) : k.setX 0 v tag = k := rfl

theorem Core.setX_eq (k : Core) (r : Nat) (v : DWord) (tag : Bool) :
    k.setX r v tag = { k with x := (k.setX r v tag).x, tags := (k.setX r v tag).tags } := by
  unfold Core.setX
  split <;> rfl

theorem Core.xval_setX_same {k : Core} {r : Nat} (h : r ≠ 0) (v : DWord) (tag : Bool) : (k.setX r v tag).xval r = v := by
  simp [Core.setX, Core.xval, h]

theorem Core.xval_setX_other {k : Core} {r q : Nat} (h : q ≠ r) (v : DWord) (tag : Bool) : (k.setX r v tag).xval q = k.xval q := by
  unfold Core.setX
  split
  · rfl
  · simp only [Core.xval, tabGet_set_other _ _ _ _ h]

theorem Core.tags_setX_same {k : Core} {r : Nat} (h : r ≠ 0) (v : DWord) (tag : Bool) : (k.setX r v tag).tags.contains r = tag := by
  simp only [Core.setX, h, if_false, contains_setTo, if_true]

theorem Core.tags_setX_other {k : Core} {r q : Nat} (h : q ≠ r) (v : DWord) (tag : Bool) :
    (k.setX r v tag).tags.contains q = k.tags.contains q := by
  unfold Core.setX
  split
  · rfl
  · simp only [contains_setTo, h, if_false]

/-- Settles O5: x0 is the branch of `setX` that changes nothing, and the other registers are a table. -/
theorem zeroRegister : Obligations.ZeroRegister := by
  intro k r v tag
  have hframe := k.setX_eq r v tag
  exact ⟨rfl, rfl, fun h => ⟨Core.xval_setX_same h v tag, Core.tags_setX_same h v tag⟩,
    fun q h => ⟨Core.xval_setX_other h v tag, Core.tags_setX_other h v tag⟩,
    by rw [hframe], by rw [hframe], by rw [hframe], by rw [hframe]⟩

/-! ### Reset (R204, R265, R276, R312, R347, R448) -/

theorem State.reset_inv : State.reset.inv := by
  refine ⟨Mem.init_wf, ?_, ?_, ?_, ?_⟩
  · exact ⟨by decide, by decide⟩
  · simp [State.inRange, State.reset, Fabric.init]
  · simp [State.lengths, State.reset, Power.init]
  · intro c hc
    simp [State.reset] at hc

theorem State.fld_reset (r : Reg) (b i j hi lo : Nat) : State.reset.fld r b i j hi lo = getBits (r.resetAt j) hi lo := rfl

/-- Settles O59: nothing is listed in any table of the reset state, so every accessor gives its default. -/
theorem resetState : Obligations.ResetState := by
  refine ⟨State.reset_inv, rfl, rfl, fun _ _ _ _ => rfl, fun _ => ?_, fun _ => ⟨?_, rfl⟩, fun _ => ?_,
    fun _ => ⟨rfl, rfl, rfl, fun k => ?_, fun _ => rfl⟩, fun a => ?_, rfl, rfl⟩
  · exact (State.fld_reset ..).trans (by decide)
  · exact (State.fld_reset ..).trans (by decide)
  · exact (State.fld_reset ..).trans (by decide)
  · simp [Core.xval, State.core, State.reset, Core.init]
  · rw [State.byteAt_eq Mem.init_wf]
    rfl

end Sys2Proof.Machine
end

/-! ## O1 to O4: the scalar commands (R212) -/

section
namespace Sys2Proof.Machine
open Sys2Proof

/-! ### How a command answers, from how its body runs -/

section
variable {n : Nat} {c : Cmd} {s : State} (hn : n < 192) (hrun : s.canRun n c) {i : Instr} {op : Nat} {body : CM Bool}
  (hwf : i.wf = pilotWf op n c) (hexec : exec i s = answer i (pilotRun n c body s)) (hop : c.op = op)
include hn hwf hexec hop

theorem exec_pilotRun : exec i s = .next (pilotRun n c body s) := hexec.trans (answer_pilot hwf hn hop _)

include hrun

/-- A command whose body ends well in t completes from t. -/
theorem exec_ends {t : State} {f : Nat} (hgo : CM.go body ⟨s.issue n c, 0, none⟩ = (.ok true, ⟨t, f, none⟩)) :
    exec i s = .next (t.complete n c (s.ccNext n) f) := by
  rw [exec_pilotRun hn hwf hexec hop, pilotRun_completes hrun hgo]

/-- A command whose body leaves it in flight, or blocked, answers what the body left. -/
theorem exec_leaves {t : State} {f : Nat} (hgo : CM.go body ⟨s.issue n c, 0, none⟩ = (.ok false, ⟨t, f, none⟩)) : exec i s = .next t := by
  rw [exec_pilotRun hn hwf hexec hop, pilotRun_inFlight hrun hgo]

/-- A refused command, and one that a scalar address stops, answers the issued state with its failure (R219). -/
theorem exec_refused {code a : Nat} {t : State} (hgo : CM.go body ⟨s.issue n c, 0, none⟩ = (.error (.status code a), ⟨t, 0, none⟩))
    (hcode : code < 0x40 ∨ code = 0x50) :
    exec i s = .next ((s.issue n c).failed n c (s.core n).cp (s.ccNext n) code 0 a) := by
  rw [exec_pilotRun hn hwf hexec hop, pilotRun_stops hrun hgo, if_pos (by simpa using hcode)]

end

/-! ### Arithmetic -/

/-- Settles O1: each command is a write of rd with its function of ra and rb. -/
theorem scalarArithmetic : Obligations.ScalarArithmetic := by
  intro n c s hn hrun
  have alu {i : Instr} {op : Nat} (f : DWord → DWord → DWord) (hwf : i.wf = pilotWf op n c)
      (hexec : exec i s = answer i (pilotRun n c (aluRR n c f) s)) (hop : c.op = op) : exec i s =
      .next (((s.issue n c).onCore n (fun k => k.setX c.rd (f ((s.core n).xval c.ra) ((s.core n).xval c.rb)) false)).complete n c (s.ccNext n) 0) :=
    exec_ends hn hrun hwf hexec hop (by simp [aluRR])
  refine ⟨fun hop => ?_, fun hop => ?_, alu (· + ·) rfl rfl, alu (· - ·) rfl rfl, alu (· * ·) rfl rfl, fun hop => ?_, alu (· &&& ·) rfl rfl,
    alu (· ||| ·) rfl rfl, alu (· ^^^ ·) rfl rfl, alu (fun a b => a <<< (b.toNat % 64)) rfl rfl, alu (fun a b => a >>> (b.toNat % 64)) rfl rfl,
    alu (fun a b => a.sshiftRight (b.toNat % 64)) rfl rfl, fun hop => ?_⟩
  case refine_1 | refine_2 | refine_3 => exact exec_ends hn hrun rfl rfl hop (by simp)
  case refine_4 =>
    have h := alu (fun a b => if a.slt b then 1#64 else 0#64) (i := .slt n c) rfl rfl hop
    simpa only [BitVec.slt, decide_eq_true_eq] using h

end Sys2Proof.Machine
end

section
namespace Sys2Proof.Machine
open Sys2Proof

/-! ### Branches and jumps -/

theorem go_target {c : Cmd} (ha : c.w2.toNat % 32 = 0) (hlt : c.w2.toNat < 2 ^ 48) (r : Run) :
    CM.go (target c) r = (.ok c.w2.toNat, r) := by
  have hlt' : c.w2.toNat < 281474976710656 := hlt
  simp [target, ha, hlt']

theorem go_target_misaligned {c : Cmd} (ha : c.w2.toNat % 32 ≠ 0) (r : Run) :
    CM.go (target c) r = (.error (.status 0x05 0), r) := by
  simp [target, ha]

/-- The core whose pilot goes to the target of the command where it is taken (R212). -/
def State.jumps (t : State) (n : Nat) (c : Cmd) (taken : Bool) : State :=
  if taken then t.onCore n (fun k => { k with cp := c.w2.toNat }) else t

theorem go_branch {n : Nat} {c : Cmd} (ha : c.w2.toNat % 32 = 0) (hlt : c.w2.toNat < 2 ^ 48) (test : DWord → DWord → Bool) (u : State) :
    CM.go (branch n c test) ⟨u, 0, none⟩ = (.ok true, ⟨u.jumps n c (test ((u.core n).xval c.ra) ((u.core n).xval c.rb)), 0, none⟩) := by
  cases htest : test ((u.core n).xval c.ra) ((u.core n).xval c.rb) <;> simp [branch, go_target ha hlt, htest, State.jumps]

/-- What LOOP tests is the register after its write: x0 still reads 0 (R203). -/
theorem Core.xval_setX_loop (k : Core) (r : Nat) (v : DWord) : (k.setX r v false).xval r = if r = 0 then 0#64 else v := by
  by_cases h : r = 0
  · simp [h]
  · simp [h, Core.xval_setX_same h]

/-- Settles O2: the target is taken by the branch's own test, and a misaligned one is refused before anything else. -/
theorem branchesAndJumps : Obligations.BranchesAndJumps := by
  intro n c s hn hrun
  refine ⟨fun ha hlt => ?_, fun ha hop => ?_⟩
  · have taken {i : Instr} {op : Nat} (test : DWord → DWord → Bool) (hwf : i.wf = pilotWf op n c)
        (hexec : exec i s = answer i (pilotRun n c (branch n c test) s)) (hop : c.op = op) : exec i s =
        .next (((s.issue n c).jumps n c (test ((s.core n).xval c.ra) ((s.core n).xval c.rb))).complete n c (s.ccNext n) 0) :=
      exec_ends hn hrun hwf hexec hop (by rw [go_branch ha hlt, State.xval_issue, State.xval_issue])
    refine ⟨taken (fun a b => a == b) rfl rfl, taken (fun a b => decide (a ≠ b)) rfl ?_, taken (fun a b => a.slt b) rfl rfl,
      taken (fun a b => b.sle a) rfl rfl, fun hop => ?_, fun hop => ?_⟩
    case refine_1 =>
      have hne : (fun a b : DWord => a != b) = fun a b => decide (a ≠ b) := funext fun _ => funext fun _ => decide_not.symm
      exact hne ▸ rfl
    case refine_2 => exact exec_ends hn hrun rfl rfl hop (by simp [go_target ha hlt])
    case refine_3 =>
      refine exec_ends hn hrun rfl rfl hop ?_
      by_cases h0 : c.ra = 0 <;> by_cases hv : (s.core n).xval c.ra - 1#64 = 0#64 <;>
        simp [go_target ha hlt, Core.xval_setX_loop, h0, hv]
  · exact exec_refused hn hrun rfl rfl hop (CM.go_bind_error (go_target_misaligned ha _)) (.inl (by decide))

end Sys2Proof.Machine
end

section
namespace Sys2Proof.Machine
open Sys2Proof

/-! ### Writing a core twice -/

theorem tabInsert_tabInsert {α : Type} (t : Tab α) (i : Nat) (a b : α) : tabInsert i b (tabInsert i a t) = tabInsert i b t := by
  induction t with
  | nil => simp [tabInsert]
  | cons x t ih =>
    obtain ⟨k, c⟩ := x
    by_cases hlt : k < i
    · simp [tabInsert, hlt, ih]
    · by_cases he : k = i <;> simp [tabInsert, hlt, he]

theorem filter_tabInsert {α : Type} (t : Tab α) (i : Nat) (a : α) :
    (tabInsert i a t).filter (fun x => x.1 != i) = t.filter (fun x => x.1 != i) := by
  induction t with
  | nil => simp [tabInsert]
  | cons x t ih =>
    obtain ⟨k, c⟩ := x
    by_cases hlt : k < i
    · simp [tabInsert, hlt, List.filter_cons, ih]
    · by_cases he : k = i <;> simp [tabInsert, hlt, he]

/-- A key set twice holds the second value, where the first was listed. -/
theorem tabSet_tabSet {α : Type} [DecidableEq α] (t : Tab α) (i : Nat) {d a : α} (b : α) (h : a ≠ d) :
    tabSet (tabSet t i d a) i d b = tabSet t i d b := by
  by_cases hb : b = d
  · simp only [tabSet, tabPut, h, hb, if_true, if_false, filter_tabInsert]
  · simp only [tabSet, tabPut, h, hb, if_false, tabInsert_tabInsert]

/-- A core that has stirred is no core as device start leaves it. -/
theorem Core.ne_init_of_stirred {k : Core} (h : k.stirred = true) : k ≠ Core.init := fun he => by
  rw [he] at h
  cases h

theorem State.onCore_onCore (s : State) (n : Nat) {f : Core → Core} (g : Core → Core) (h : (f (s.core n)).stirred = true) :
    (s.onCore n f).onCore n g = s.onCore n (fun k => g (f k)) := by
  have hcore : (s.onCore n f).core n = f (s.core n) := s.core_onCore_same n f
  have hcores : tabSet (tabSet s.cores n Core.init (f (s.core n))) n Core.init (g (f (s.core n))) =
      tabSet s.cores n Core.init (g (f (s.core n))) := tabSet_tabSet _ _ _ (Core.ne_init_of_stirred h)
  rw [State.onCore, hcore]
  exact congrArg (fun l => ({ s with cores := l } : State)) hcores

@[simp] theorem State.stirred_issue (s : State) (n : Nat) (c : Cmd) : ((s.issue n c).core n).stirred = true := by
  rw [s.core_issue]
  rfl

@[simp] theorem Core.setX_stirred (k : Core) (r : Nat) (v : DWord) (tag : Bool) : (k.setX r v tag).stirred = k.stirred := by
  rw [Core.setX_eq]

@[simp] theorem Core.csWrite_stirred (k : Core) (a : Nat) (d : List Byte) (p : Bool) : (k.csWrite a d p).stirred = k.stirred := rfl

/-! ### CALL and RET (R212, R224) -/

theorem go_scalarCs (a : Nat) (frame : Bool) (r : Run) : CM.go (scalarCs a frame) r =
    if a % 8 = 0 ∧ (a + 8 ≤ shadowBase ∨ frame = true ∧ a + 8 ≤ 0x400000) then (.ok (), r) else (.error (.status 0x50 a), r) := by
  simp only [scalarCs, CM.go_ite, CM.go_pure, CM.go_stopAt, Bool.and_eq_true, beq_iff_eq, Bool.or_eq_true, decide_eq_true_eq]

/-- Settles O3: the slot is checked before anything is written, and the writes to the core are one. -/
theorem callAndReturn : Obligations.CallAndReturn := by
  intro n c s hn hrun
  refine ⟨fun hop ha hlt hslot => ?_, fun hop ha hlt hslot => ?_, fun t hop hslot hread ha hlt => ?_⟩
  · have hin := (go_scalarCs (((s.core n).xval 63 - 8#64).toNat) false ⟨s.issue n c, 0, none⟩).trans (if_pos ⟨hslot.1, .inl hslot.2⟩)
    refine exec_ends hn hrun rfl rfl hop ?_
    simp only [CM.go_bind, go_target ha hlt, CM.go_xOf, State.xval_issue, hin, CM.go_getS, State.cp_issue, CM.go_csPut, CM.go_setXTo,
      CM.go_setCp, CM.go_pure]
    rw [State.onCore_onCore _ _ _ (by simp), State.onCore_onCore _ _ _ (by simp)]
  · have hout := (go_scalarCs (((s.core n).xval 63 - 8#64).toNat) false ⟨s.issue n c, 0, none⟩).trans
      (if_neg (fun h => hslot ⟨h.1, h.2.elim id (fun h => absurd h.1 (by decide))⟩))
    refine exec_refused hn hrun rfl rfl hop (t := s.issue n c) ?_ (.inr rfl)
    simp only [CM.go_bind, go_target ha hlt, CM.go_xOf, State.xval_issue, hout]
  · have hin := (go_scalarCs ((s.core n).xval 63).toNat false ⟨s.issue n c, 0, none⟩).trans (if_pos ⟨hslot.1, .inl hslot.2⟩)
    have hval : leNat (leBytes t 8) = t := by
      rw [leNat_leBytes]
      exact Nat.mod_eq_of_lt (hlt.trans (by decide))
    refine exec_ends hn hrun rfl rfl hop ?_
    simp only [CM.go_bind, CM.go_xOf, State.xval_issue, hin, CM.go_csLook, State.csRead_issue, hread, hval, CM.go_need, ha, beq_self_eq_true,
      hlt, decide_true, if_true, Bool.false_eq_true, if_false, CM.go_setXTo, CM.go_setCp, CM.go_pure]
    rw [State.onCore_onCore _ _ _ (by simp)]

end Sys2Proof.Machine
end

section
namespace Sys2Proof.Machine
open Sys2Proof

/-! ### An access to device memory (R286, R290, R497) -/

/-- An access by a core of partition p, or by the hub for it: memory, the counters and the access counters of pages may differ. -/
structure State.accessed (p : Nat) (s t : State) : Prop where
  rest : t = { s with mem := t.mem, regs := t.regs, parts := t.parts }
  rd : ∀ r b i j, Reg.addr r b i j < countersFrom → t.rd r b i j = s.rd r b i j
  xlate : ∀ va w, (t.part p).xlate va w = (s.part p).xlate va w

theorem State.accessed.trans {p : Nat} {s t u : State} (h : State.accessed p s t) (g : State.accessed p t u) : State.accessed p s u where
  rest := by
    have hrest := g.rest
    rw [h.rest] at hrest
    exact hrest
  rd := fun r b i j ha => (g.rd r b i j ha).trans (h.rd r b i j ha)
  xlate := fun va w => (g.xlate va w).trans (h.xlate va w)

theorem State.accessed.cores_eq {p : Nat} {s t : State} (h : State.accessed p s t) : t.cores = s.cores := by rw [h.rest]
theorem State.accessed.core_eq {p : Nat} {s t : State} (h : State.accessed p s t) (m : Nat) : t.core m = s.core m := by
  rw [State.core, h.cores_eq, State.core]
theorem State.accessed.fabric_eq {p : Nat} {s t : State} (h : State.accessed p s t) : t.fabric = s.fabric := by rw [h.rest]
theorem State.accessed.grade_eq {p : Nat} {s t : State} (h : State.accessed p s t) : t.grade = s.grade := by rw [h.rest]
theorem State.accessed.fld_eq {p : Nat} {s t : State} (h : State.accessed p s t) {r : Reg} {b i j : Nat} (ha : r.addr b i j < countersFrom)
    (hi lo : Nat) : t.fld r b i j hi lo = s.fld r b i j hi lo := by rw [State.fld, h.rd r b i j ha, State.fld]

theorem State.sameButCounters.accessed {s t : State} (h : s.sameButCounters t) (p : Nat) : State.accessed p s t where
  rest := by
    have hrest := h.1
    rw [h.parts_eq, h.mem_eq]
    exact hrest
  rd := h.2
  xlate := fun va w => by rw [h.part_eq]

/-- A page is touched and memory changes with its counts. -/
theorem State.touch_accessed (s : State) (p a : Nat) (w : Who) (f : Mem → Mem) : State.accessed p s ((s.touchPage p a).memDo w f) :=
  have htouch : State.accessed p s { s.touchPage p a with mem := f s.mem } := ⟨rfl, fun _ _ _ _ _ => rfl, s.xlate_touchPage p a⟩
  htouch.trans (((s.touchPage p a).memDo_same w f).accessed p)

/-! ### The holder of a core, across an access (R278, R290) -/

/-- The first entry that answers P keeps its key where an entry is replaced by one that answers P as it did, or one is added at a key of its own. -/
theorem find?_tabInsert {α : Type} {P : α → Bool} {p : Nat} {y : α} {l : Tab α} (h : (l.find? (fun x => P x.2)).map (·.1) = some p)
    (hy : ∀ z, tabFind l p = some z → P y = P z) : ((tabInsert p y l).find? (fun x => P x.2)).map (·.1) = some p := by
  induction l with
  | nil => simp at h
  | cons x t ih =>
    obtain ⟨k, a⟩ := x
    rcases Nat.lt_trichotomy k p with hlt | rfl | hgt
    · have hne : k ≠ p := Nat.ne_of_lt hlt
      cases ha : P a with
      | true => exact absurd (by simpa [ha] using h) hne
      | false =>
        have hkept := ih (by simpa [ha] using h) (fun z hz => hy z (by simpa [tabFind, hne] using hz))
        simpa [tabInsert, hlt, ha] using hkept
    · have hya : P y = P a := hy a (by simp [tabFind])
      cases ha : P a with
      | true => simp [tabInsert, hya, ha]
      | false => simpa [tabInsert, hya, ha] using h
    · have hne : k ≠ p := Nat.ne_of_gt hgt
      have hnot : ¬ k < p := Nat.not_lt_of_gt hgt
      cases hb : P y with
      | true => simp [tabInsert, hnot, hb]
      | false => simpa [tabInsert, hnot, hne, hb] using h

theorem Part.pages_ne_nil {x : Part} {va pa : Nat} {w h : Bool} (hx : x.xlate va w = .here pa h) : x.pages ≠ [] := by
  intro hnil
  simp [Part.xlate, Part.page?, hnil] at hx

/-- A touch of a page moves no core: the partition still stands in the table, as it has a page. -/
theorem State.holder_touchPage {s : State} {n p : Nat} (hp : s.holder n = some p) (hpages : (s.part p).pages ≠ []) (va : Nat) :
    (s.touchPage p va).holder n = some p := by
  have hne : ({ s.part p with pages := (s.part p).pages.map (fun q =>
      if decide (q.va ≤ va) && decide (va < q.va + q.size) then q.touch s.hubCycles else q) } : Part) ≠ Part.init := by
    intro he
    exact hpages (List.map_eq_nil_iff.1 (congrArg Part.pages he))
  simp only [State.holder, State.touchPage, State.onPart, State.setPart, tabSet, if_neg hne, tabPut]
  refine find?_tabInsert (P := fun x : Part => x.cores.contains n) hp (fun z hz => ?_)
  simp only [State.part, tabGet, hz, Option.getD_some]
  rfl

theorem State.holder_access {s : State} {n p : Nat} (hp : s.holder n = some p) (hpages : (s.part p).pages ≠ []) (va : Nat) (w : Who)
    (f : Mem → Mem) : ((s.touchPage p va).memDo w f).holder n = some p :=
  ((s.touchPage p va).memDo_same w f).holder_eq n |>.trans (State.holder_touchPage hp hpages va)

section
variable {n p va pa : Nat} {h : Bool} {r : Run} (hp : r.s.holder n = some p)
include hp

theorem go_rdPiece_here (hx : (r.s.part p).xlate va false = .here pa h) (len : Nat) :
    ∃ t, CM.go (rdPiece n va len) r = (.ok ((r.s.mem.settle pa len).look pa len), { r with s := t }) ∧ State.accessed p r.s t ∧
      t.mem = r.s.mem.settle pa len ∧ t.holder n = some p := by
  have hcount := (((r.s.touchPage p va).memDo (r.s.whoCore n va) (fun m => m.settle pa len)).hubEvent_same 0x42 1 (r.s.whoCore n va)).trans
    (State.coreEvent_same _ n 0x0B 1 (some va))
  have hmem : ((((r.s.touchPage p va).memDo (r.s.whoCore n va) (fun m => m.settle pa len)).hubEvent 0x42 1 (r.s.whoCore n va)).coreEvent
      n 0x0B 1 (some va)).mem = r.s.mem.settle pa len := by
    rw [hcount.mem_eq, State.memDo_mem, State.touchPage_mem]
  refine ⟨_, ?_, (r.s.touch_accessed p va (r.s.whoCore n va) _).trans (hcount.accessed p), hmem,
    (hcount.holder_eq n).trans (State.holder_access hp (Part.pages_ne_nil hx) va _ _)⟩
  simp only [rdPiece, CM.go_bind, CM.go_holderOf hp, CM.go_getS, hx, CM.go_setS, CM.go_pure, hmem]

/-- A write without poison consumes none (R409). -/
theorem go_wrPiece_here (hx : (r.s.part p).xlate va true = .here pa h) (d : List Byte) :
    ∃ t, CM.go (wrPiece n va d false) r = (.ok (), { r with s := t }) ∧ State.accessed p r.s t ∧
      t.mem = r.s.mem.write r.s.grade pa d false := by
  have hcount := ((r.s.touchPage p va).memDo (r.s.whoCore n va) (fun m => m.write r.s.grade pa d false)).coreEvent_same n 0x0B 1 (some va)
  refine ⟨_, ?_, (r.s.touch_accessed p va (r.s.whoCore n va) _).trans (hcount.accessed p), ?_⟩
  · simp only [wrPiece, CM.go_bind, CM.go_holderOf hp, CM.go_getS, hx, CM.go_setS, CM.go_flagIf, Bool.false_and, Bool.false_eq_true, if_false,
      CM.go_pure]
  · rw [hcount.mem_eq, State.memDo_mem, State.touchPage_mem]

end

/-! ### LD, ST and RDC (R212) -/

theorem go_scalarVa {a : Nat} (ha : a % 8 = 0) (hlt : a + 8 ≤ 2 ^ 48) (r : Run) : CM.go (scalarVa a) r = (.ok (), r) := by
  simp only [scalarVa, ha, beq_self_eq_true, hlt, decide_true, Bool.and_self, if_true, CM.go_pure]

/-- Settles O4: each access runs its one piece, in the space that bit 18 of W1 names. -/
theorem loadsAndStores : Obligations.LoadsAndStores := by
  intro n c s hn hrun
  refine ⟨fun hop hloc hok hclean => ?_, fun hop hloc hok => ?_, fun p pa h hp ha hlt hloc => ⟨fun hop hx hclean => ?_, fun hop hx => ?_⟩,
    fun hop ha hlt => ?_, fun hop hloc ha => ?_⟩
  · have hin := (go_scalarCs ((s.core n).xval c.ra + c.w2).toNat (s.core n).occupied ⟨s.issue n c, 0, none⟩).trans (if_pos hok)
    refine exec_ends hn hrun rfl rfl hop ?_
    simp only [CM.go_bind, CM.go_xOf, State.xval_issue, hloc, if_true, CM.go_getS, State.occupied_issue, hin, CM.go_csLook,
      State.csRead_issue, hclean, Bool.false_eq_true, if_false, CM.go_setXTo, CM.go_pure]
  · have hin := (go_scalarCs ((s.core n).xval c.ra + c.w2).toNat (s.core n).occupied ⟨s.issue n c, 0, none⟩).trans (if_pos hok)
    refine exec_ends hn hrun rfl rfl hop ?_
    simp only [CM.go_bind, CM.go_xOf, State.xval_issue, hloc, if_true, CM.go_getS, State.occupied_issue, hin, CM.go_csPut, CM.go_pure]
  · obtain ⟨t, hgo, hacc, hmem, -⟩ := go_rdPiece_here (r := ⟨s.issue n c, 0, none⟩) (n := n) (by simpa using hp)
      (by rwa [State.part_issue]) 8
    simp only [State.issue_mem] at hgo hmem
    refine ⟨t, exec_ends hn hrun rfl rfl hop ?_, hmem, hacc.cores_eq⟩
    simp only [CM.go_bind, CM.go_xOf, State.xval_issue, hloc, Bool.false_eq_true, if_false, go_scalarVa ha hlt, hgo, hclean,
      CM.go_setXTo, CM.go_pure]
  · obtain ⟨t, hgo, hacc, hmem⟩ := go_wrPiece_here (r := ⟨s.issue n c, 0, none⟩) (n := n) (by simpa using hp)
      (by rwa [State.part_issue]) (leBytes ((s.core n).xval c.rb).toNat 8)
    simp only [State.issue_mem, State.issue_grade] at hmem
    refine ⟨t, exec_ends hn hrun rfl rfl hop ?_, hmem, hacc.cores_eq⟩
    simp only [CM.go_bind, CM.go_xOf, State.xval_issue, hloc, Bool.false_eq_true, if_false, go_scalarVa ha hlt, hgo, CM.go_pure]
  · refine exec_ends hn hrun rfl rfl hop ?_
    simp only [CM.go_bind, CM.go_need, ha, beq_self_eq_true, if_true, hlt, decide_true, CM.go_getS, CM.go_setS, CM.go_setXTo, CM.go_pure,
      BitVec.ofNat_toNat]
  · have hout := (go_scalarCs ((s.core n).xval c.ra + c.w2).toNat (s.core n).occupied ⟨s.issue n c, 0, none⟩).trans (if_neg (fun h => ha h.1))
    refine exec_refused hn hrun rfl rfl hop (t := s.issue n c) ?_ (.inr rfl)
    simp only [CM.go_bind, CM.go_xOf, State.xval_issue, hloc, if_true, CM.go_getS, State.occupied_issue, hout]

end Sys2Proof.Machine
end

/-! ## O6: what issue and completion change, and what they leave alone -/

section
namespace Sys2Proof.Machine
open Sys2Proof

/-! ### The cores after a signal and after a completion -/

/-- A signal changes of a core its mark of R234 and, where it waits, the mark of its wait (R231). -/
theorem Core.signalled_eq (y : Core) (mine : Bool) (k v : Nat) :
    y.signalled mine k v = { y with stirred := (y.signalled mine k v).stirred, pilot := (y.signalled mine k v).pilot } := by
  have hstir : ∃ b, (if mine then { y with stirred := true } else y) = { y with stirred := b } := by
    cases mine
    · exact ⟨y.stirred, rfl⟩
    · exact ⟨true, rfl⟩
  obtain ⟨b, hb⟩ := hstir
  simp only [Core.signalled, hb]
  split
  · split <;> rfl
  · rfl

theorem State.core_signalCores (s : State) (k v m : Nat) : ∃ mine, (s.signalCores k v).core m = (s.core m).signalled mine k v := by
  simp only [State.core, tabGet, State.signalCores, tabFind_map]
  cases tabFind s.cores m with
  | none => exact ⟨false, rfl⟩
  | some y => exact ⟨_, rfl⟩

theorem State.byEvents.core_eq {s t : State} (h : s.byEvents t) (m : Nat) : t.core m = s.core m := by rw [State.core, h.cores_eq]; rfl

/-- An update of a counter signals the cores and leaves memory as it was. -/
theorem State.syncPut_cores (s : State) (k v : Nat) : (s.syncPut k v).mem = s.mem ∧
    (s.syncPut k v).cores = ((s.wr .helmSyncCount 0 k 0 (BitVec.ofNat 32 v)).signalCores k v).cores := by
  rw [State.syncPut_eq]
  dsimp only
  split
  · exact ⟨(State.raise_byEvents ..).mem_eq, (State.raise_byEvents ..).cores_eq⟩
  · exact ⟨rfl, rfl⟩

theorem State.core_syncPut (s : State) (k v m : Nat) : ∃ mine, (s.syncPut k v).core m = (s.core m).signalled mine k v := by
  rw [State.core, (s.syncPut_cores k v).2]
  exact State.core_signalCores _ k v m

theorem State.core_syncAdd (s : State) (k a m : Nat) :
    ∃ mine, (s.syncAdd k a).core m = (s.core m).signalled mine k (min ((s.rd .helmSyncCount 0 k).toNat + a) 0xFFFFFFFF) := by
  have hput : ∀ t : State, t.cores = s.cores → ∃ mine, (t.syncPut k (min ((s.rd .helmSyncCount 0 k).toNat + a) 0xFFFFFFFF)).core m =
      (s.core m).signalled mine k (min ((s.rd .helmSyncCount 0 k).toNat + a) 0xFFFFFFFF) := fun t ht => by
    have hcore : t.core m = s.core m := congrArg (tabGet · m Core.init) ht
    exact hcore ▸ t.core_syncPut k _ m
  refine hput (if (s.rd .helmSyncCount 0 k).toNat + a > 0xFFFFFFFF then s.orReg .helmSyncCtl 0 k 0 4 else s) ?_
  split <;> rfl

theorem State.syncAdd_mem (s : State) (k a : Nat) : (s.syncAdd k a).mem = s.mem := by
  refine (State.syncPut_cores _ k _).1.trans ?_
  split <;> rfl

/-- The state of a completion before its interrupt: the flags, then the signal (R207, R240). -/
def State.completeQuiet (s : State) (n : Nat) (c : Cmd) (flags : Nat) : State :=
  if c.sig then (s.orReg .coreFlags n 0 0 flags).syncAdd c.sigObj c.sigAdd else s.orReg .coreFlags n 0 0 flags

theorem State.complete_byEvents (s : State) (n : Nat) (c : Cmd) (cc flags : Nat) :
    (s.completeQuiet n c flags).byEvents (s.complete n c cc flags) := by
  change (s.completeQuiet n c flags).byEvents (match (s.completeQuiet n c flags).holder n with
    | some p => if c.irq then (s.completeQuiet n c flags).raise p 0 n c.tag cc else s.completeQuiet n c flags
    | none => s.completeQuiet n c flags)
  split
  · split
    · exact State.raise_byEvents ..
    · exact .refl _
  · exact .refl _

theorem State.complete_mem (s : State) (n : Nat) (c : Cmd) (cc flags : Nat) : (s.complete n c cc flags).mem = s.mem := by
  refine (s.complete_byEvents n c cc flags).mem_eq.trans ?_
  rw [State.completeQuiet]
  split
  · exact State.syncAdd_mem ..
  · rfl

/-- A completion changes of any core at most the marks of a signal. -/
theorem State.core_complete (s : State) (n : Nat) (c : Cmd) (cc flags m : Nat) :
    ∃ b w, (s.complete n c cc flags).core m = { s.core m with stirred := b, pilot := w } := by
  rw [(s.complete_byEvents n c cc flags).core_eq, State.completeQuiet]
  split
  · obtain ⟨mine, h⟩ := (s.orReg .coreFlags n 0 0 flags).core_syncAdd c.sigObj c.sigAdd m
    exact ⟨_, _, h.trans (Core.signalled_eq ..)⟩
  · exact ⟨_, _, rfl⟩

theorem State.complete_quiet (s : State) (n : Nat) {c : Cmd} (hirq : c.irq = false) (cc flags : Nat) :
    s.complete n c cc flags = s.completeQuiet n c flags := by
  change (match (s.completeQuiet n c flags).holder n with
    | some p => if c.irq then (s.completeQuiet n c flags).raise p 0 n c.tag cc else s.completeQuiet n c flags
    | none => s.completeQuiet n c flags) = _
  simp only [hirq, Bool.false_eq_true, if_false]
  split <;> rfl

/-! ### The count of an object -/

theorem Reg.coreFlags_addr (n k : Nat) : Reg.addr .helmSyncCount 0 k 0 ≠ Reg.addr .coreFlags n 0 0 := by
  simp only [Reg.addr, Reg.spec, Blk.base]
  omega

theorem State.part_lt_eight (s : State) (k : Nat) : s.fld .helmSyncCtl 0 k 0 6 4 < 8 := by
  simp only [State.fld, getBits, bits]
  exact Nat.mod_lt _ (by decide)

theorem State.syncAdd_count (s : State) {k : Nat} (hk : k < 16384) (a : Nat) :
    ((s.syncAdd k a).rd .helmSyncCount 0 k).toNat = min ((s.rd .helmSyncCount 0 k).toNat + a) 0xFFFFFFFF := by
  rw [(State.syncAdd_counted (s.part_lt_eight k) hk rfl a).count, BitVec.toNat_ofNat]
  exact Nat.mod_eq_of_lt (by omega)

/-- Settles O6: an issue by its own laws, a completion as its flags, its signal and its interrupt one after the other. -/
theorem issueAndCompletion : Obligations.IssueAndCompletion := by
  intro n c s cc flags
  refine ⟨⟨s.cc_issue n c, s.cp_issue n c, fun m hm => s.core_issue_other n c hm, s.xval_issue n c, s.csRead_issue n c, s.issue_mem n c,
    fun r b i j h => s.rd_issue n c h⟩, fun hsig hirq => ?_, fun _ hsig hirq hk => ?_, s.complete_mem n c cc flags, fun m => ?_⟩
  · rw [s.complete_quiet n hirq, State.completeQuiet, hsig]
    rfl
  · rw [s.complete_quiet n hirq, State.completeQuiet, if_pos hsig, State.syncAdd_count _ hk]
    exact congrArg (fun v : Word => min (v.toNat + c.sigAdd) 0xFFFFFFFF) (State.rd_wr_other _ _ _ _ _ _ _ _ _ _ (Reg.coreFlags_addr n c.sigObj))
  · obtain ⟨b, w, h⟩ := s.core_complete n c cc flags m
    rw [h]
    exact ⟨rfl, rfl, rfl⟩

end Sys2Proof.Machine
end

/-! ## O7 to O9: control, HALT and refusals -/

section
namespace Sys2Proof.Machine
open Sys2Proof

theorem State.evqFull_issue (s : State) (n : Nat) (c : Cmd) (p : Nat) : (s.issue n c).evqFull p = s.evqFull p := by
  rw [State.evqFull, s.part_issue]
  rfl

/-- Settles O7: each body runs to its own effect; a FENCE with commands in flight waits. -/
theorem pilotControl : Obligations.PilotControl := by
  intro n c s hn hrun
  refine ⟨fun hop => exec_ends hn hrun rfl rfl hop rfl, fun hop h0 => ?_, fun hop h0 => ?_, fun p hop hp hroom => ?_, fun hop ha => ?_⟩
  · exact exec_ends hn hrun rfl rfl hop (by simp [h0])
  · rw [exec_pilotRun hn (i := .fence n c) rfl rfl hop, pilotRun_eq hrun]
    simp [h0]
  · have hp' := CM.go_holderOf (r := ⟨s.issue n c, 0, none⟩) ((s.holder_issue n c n).trans hp)
    refine exec_ends hn hrun rfl rfl hop ?_
    simp only [CM.go_bind, hp', CM.go_getS, State.evqFull_issue, hroom, Bool.false_eq_true, if_false, CM.go_pure, CM.go_w3, State.w3of_issue,
      CM.go_modS]
  · refine exec_ends hn hrun rfl rfl hop ?_
    have hslot : leNat ((s.core n).csRead (shadowBase + 0x208) 8).1 % 32 = 0 := ha
    simp only [CM.go_bind, CM.go_csLook, State.csRead_issue, CM.go_need, hslot, beq_self_eq_true, if_true, CM.go_modS, CM.go_pure]

end Sys2Proof.Machine
end

section
namespace Sys2Proof.Machine
open Sys2Proof

/-! ### HALT and the combination of its codes (R216, R292) -/

theorem go_haltBody {n : Nat} {c : Cmd} {s : State} (hcode : s.w3of n c 0 % 2 ^ 32 < 0xFFFFFFF0) : CM.go (do
    let code := (← w3 n c 0) % 2 ^ 32
    need (decide (code < 0xFFFFFFF0)) 0x13
    modS (fun s => s.onCore n (fun k => { k with pilot := .halted, haltCode := some code }))
    return true) ⟨s, 0, none⟩ =
    (.ok true, ⟨s.onCore n (fun k => { k with pilot := .halted, haltCode := some (s.w3of n c 0 % 2 ^ 32) }), 0, none⟩) := by
  simp only [CM.go_bind, CM.go_w3, CM.go_need, hcode, decide_true, if_true, CM.go_modS, CM.go_pure]

/-- The stable sort holds what the list holds. -/
theorem sortOn_perm {α : Type} (key : α → Nat) (l : List α) : (sortOn key l).Perm l := by
  have hfold : ∀ acc : List α, (l.foldl (fun a x => insertOn key x a) acc).Perm (l ++ acc) := by
    induction l with
    | nil => exact fun acc => .refl acc
    | cons x l ih =>
      intro acc
      exact (ih _).trans (((insertOn_perm key x acc).append_left l).trans List.perm_middle)
  simpa [sortOn] using hfold []

theorem insertOn_pairwise {α : Type} {key : α → Nat} {l : List α} (x : α) (h : l.Pairwise (key · ≤ key ·)) :
    (insertOn key x l).Pairwise (key · ≤ key ·) := by
  induction l with
  | nil => exact List.pairwise_singleton ..
  | cons a t ih =>
    have hle : ∀ y ∈ t, key a ≤ key y := fun _ hy => List.rel_of_pairwise_cons h hy
    rw [insertOn]
    split
    · next hlt =>
      refine List.Pairwise.cons (fun y hy => ?_) h
      rcases List.mem_cons.1 hy with rfl | hy
      · exact hlt.le
      · exact hlt.le.trans (hle y hy)
    · next hge =>
      refine List.Pairwise.cons (fun y hy => ?_) (ih h.of_cons)
      rcases mem_insertOn.1 hy with rfl | hy
      · exact not_lt.1 hge
      · exact hle y hy

theorem sortOn_pairwise {α : Type} (key : α → Nat) (l : List α) : (sortOn key l).Pairwise (key · ≤ key ·) :=
  foldl_keeps (P := fun a : List α => a.Pairwise (key · ≤ key ·)) (fun _ x h => insertOn_pairwise x h) l .nil

/-- The first of a sorted list with a property, where it holds for none of smaller key. -/
theorem find?_sorted {l : List Nat} {f : Nat → Bool} {n : Nat} (hl : l.Pairwise (· ≤ ·)) (hn : n ∈ l) (hf : f n = true)
    (hlow : ∀ m ∈ l, m < n → f m = false) : l.find? f = some n := by
  induction l with
  | nil => cases hn
  | cons a t ih =>
    rcases List.mem_cons.1 hn with rfl | hn
    · exact List.find?_cons_of_pos hf
    · rcases (List.rel_of_pairwise_cons hl hn).lt_or_eq with hlt | rfl
      · rw [List.find?_cons_of_neg (by simp [hlow a (List.mem_cons_self ..) hlt])]
        exact ih hl.of_cons hn (fun m hm => hlow m (List.mem_cons_of_mem _ hm))
      · exact List.find?_cons_of_pos hf

theorem State.jobCode_notFatal {s : State} {ns : List Nat} (h : ∀ n ∈ ns, (s.core n).fatal = false) : s.jobCode ns =
    match (sortOn id ns).find? (fun n => ((s.core n).haltCode.getD 0) != 0) with
    | some n => (s.core n).haltCode.getD 0
    | none => 0 :=
  if_neg (by simpa using h)

theorem State.failed_core (s : State) (n : Nat) (c : Cmd) (cp cc code flags addr : Nat) (issued : Bool) (m : Nat) :
    ∃ r f, (s.failed n c cp cc code flags addr issued).core m = { s.core m with replay := r, failures := f } := by
  by_cases hm : m = n
  · subst hm
    rw [State.failed, State.core_onCore_same, State.core_orReg]
    split
    · exact ⟨_, _, rfl⟩
    · exact ⟨_, _, rfl⟩
  · rw [State.failed, State.core_onCore_other _ _ hm]
    exact ⟨_, _, rfl⟩

theorem State.failed_mem (s : State) (n : Nat) (c : Cmd) (cp cc code flags addr : Nat) (issued : Bool) :
    (s.failed n c cp cc code flags addr issued).mem = s.mem := rfl

/-- Settles O8: the code is checked before the pilot halts, and Helm's choice is the first of the sorted cores. -/
theorem haltCodes : Obligations.HaltCodes := by
  refine ⟨fun n c s hn hrun hop => ⟨fun hcode => ?_, fun hcode => ⟨?_, ?_⟩⟩, fun ns s hfatal => ⟨fun hzero => ?_, fun n hn hcode hlow => ?_⟩⟩
  · rw [← s.w3of_issue n c] at hcode
    refine completes_of_go (exec_pilotRun hn (i := .halt n c) rfl rfl hop) hrun (go_haltBody hcode) ⟨?_, ?_⟩
    · rw [State.core_onCore_same]
    · rw [State.core_onCore_same, State.w3of_issue]
  · have hbad : ¬ s.w3of n c 0 % 2 ^ 32 < 0xFFFFFFF0 := Nat.not_lt.2 hcode
    refine exec_refused hn hrun rfl rfl hop (t := s.issue n c) ?_ (.inl (by decide))
    simp only [CM.go_bind, CM.go_w3, State.w3of_issue, CM.go_need, hbad, decide_false, Bool.false_eq_true, if_false]
  · obtain ⟨r, f, h⟩ := (s.issue n c).failed_core n c (s.core n).cp (s.ccNext n) 0x13 0 0 true n
    rw [h, s.core_issue]
    exact ⟨rfl, rfl⟩
  · have hnone : (sortOn id ns).find? (fun n => ((s.core n).haltCode.getD 0) != 0) = none := by
      refine List.find?_eq_none.2 (fun n hn => ?_)
      simp [hzero n ((sortOn_perm id ns).mem_iff.1 hn)]
    rw [State.jobCode_notFatal hfatal, hnone]
  · have hmem : ∀ m, m ∈ sortOn id ns ↔ m ∈ ns := fun m => (sortOn_perm id ns).mem_iff
    have hfirst : (sortOn id ns).find? (fun n => ((s.core n).haltCode.getD 0) != 0) = some n :=
      find?_sorted (sortOn_pairwise id ns) ((hmem n).2 hn) (by simpa using hcode) (fun m hm hlt => by simp [hlow m ((hmem m).1 hm) hlt])
    rw [State.jobCode_notFatal hfatal, hfirst]

/-! ### Refusals (R219) and opcodes in neither table (R210) -/

theorem opKnown_of_opSpec {op : Nat} (h : opSpec op ≠ none) : opKnown op = true := by
  revert h
  unfold opSpec
  split
  all_goals simp [opKnown]
  omega

theorem opSpec_of_unknown {op : Nat} (h : opKnown op = false) : opSpec op = none :=
  Classical.not_not.1 (fun hne => absurd (opKnown_of_opSpec hne) (by simp [h]))

theorem Cmd.clean_of_unknown {c : Cmd} (h : opKnown c.op = false) : c.clean = false := by rw [Cmd.clean, opSpec_of_unknown h]

theorem State.holder_of_fetchStop {s : State} {n : Nat} (h : s.fetchStop n = none) : ∃ p, s.holder n = some p := by
  rw [State.fetchStop] at h
  split at h
  · cases h
  · split at h
    · cases h
    · exact ⟨_, ‹_›⟩

/-- A recording takes no copy of a command that it leaves out. -/
theorem go_record_none {s : State} {n : Nat} {c : Cmd} (h : (s.core n).recording = none ∨ notRecorded c.op = true) :
    CM.go (record n c) ⟨s.issue n c, 0, none⟩ = (.ok (), ⟨s.issue n c, 0, none⟩) := by
  simp only [record, CM.go_bind, CM.go_getS, State.recording_issue]
  split
  · rfl
  · next r hr =>
    have hout : notRecorded c.op = true := h.resolve_left (by simp [hr])
    simp [hout]

/-- A command whose fields no table explains is refused by the checks of every command, before its body. -/
theorem pilotRun_unclean {s : State} {n : Nat} {c : Cmd} (hissue : s.mayIssue n c = true) (hfetch : s.fetchStop n = none)
    (hrec : (s.core n).recording = none ∨ notRecorded c.op = true) (hclean : c.clean = false) (body : CM Bool) :
    pilotRun n c body s = (s.issue n c).failed n c (s.core n).cp (s.ccNext n) 0x01 0 0 := by
  have hcheck : CM.go (do checkCmd n c; body : CM Bool) ⟨s.issue n c, 0, none⟩ = (.error (.status 0x01 0), ⟨s.issue n c, 0, none⟩) :=
    CM.go_bind_error (by simp [checkCmd, hclean])
  have hissued : ((s.onCore n Core.issued).coreEvent n 0x02 1 none).tagIssue n c (((s.core n).cc + 1) % 2 ^ 64) = s.issue n c := rfl
  simp only [pilotRun, hissue, hfetch, hclean, Bool.not_true, Bool.false_and, Bool.false_eq_true, if_false, CM.go_def, hissued,
    go_record_none hrec]
  exact congrArg (fun x : Except Stop Bool × Run => match x with
    | (.ok true, r) => r.s.complete n c (s.ccNext n) r.flags
    | (.ok false, r) => r.s
    | (.error .wait, _) => s
    | (.error (.status code a), r) =>
      (if code < 0x40 || code == 0x50 then s.issue n c else r.s).failed n c (s.core n).cp (s.ccNext n) code r.flags a) hcheck

theorem State.mayIssue_fresh {s : State} {n : Nat} {c : Cmd} (h : s.mayIssue n c = true) :
    (s.core n).replay = none ∧ (s.core n).failures = [] := by
  simp only [State.mayIssue, Bool.and_eq_true, Option.isNone_iff_eq_none, List.isEmpty_iff] at h
  simp only [h, and_self]

/-- A failure of a core that replays nothing and has none waiting is its only one. -/
theorem State.failed_fresh {s : State} {n : Nat} (h : (s.core n).replay = none ∧ (s.core n).failures = []) (c : Cmd) (cp cc code flags addr : Nat)
    (issued : Bool) : s.failed n c cp cc code flags addr issued = (s.orReg .coreFlags n 0 0 flags).onCore n (fun k =>
      { k with failures := [⟨c, cp, (cp + 32) % 2 ^ 48, cc, code, flags, addr, issued⟩] }) := by
  obtain ⟨hreplay, hfail⟩ := h
  simp only [State.failed, State.onCore, State.core_orReg, hreplay, hfail, List.nil_append]

/-- Settles O9: the failure is added to the issued state where the status is below 0x40, else to what the body left. -/
theorem refusedCommands : Obligations.RefusedCommands := by
  refine ⟨fun n c s body code a r hrun hbody => ⟨fun hcode => ?_, fun hlow hne => ?_⟩, fun n c s hn hop hissue hfetch hrec => ?_⟩
  · have hstop : pilotRun n c body s = (s.issue n c).failed n c (s.core n).cp (s.ccNext n) code r.flags a := by
      rw [pilotRun_stops hrun hbody, if_pos (by simpa using hcode)]
    refine ⟨hstop, ?_, fun m => ?_⟩
    · rw [hstop, State.failed_mem, State.issue_mem]
    · obtain ⟨p, f, h⟩ := (s.issue n c).failed_core n c (s.core n).cp (s.ccNext n) code r.flags a true m
      rw [hstop, h]
      refine ⟨s.cs_issue n c m, ?_⟩
      by_cases hm : m = n
      · subst hm
        rw [s.core_issue]
        rfl
      · rw [s.core_issue_other n c hm]
  · rw [pilotRun_stops hrun hbody, if_neg (by simp [hne, hlow])]
  · have hwf : exec (.invalidOpcode n c) s = .next (pilotRun n c (refuse 0x01) s) := if_pos (by simp [Instr.wf, hn, hop])
    rw [hwf, pilotRun_unclean hissue hfetch hrec (Cmd.clean_of_unknown hop), State.failed_fresh]
    rw [s.core_issue]
    exact State.mayIssue_fresh hissue

end Sys2Proof.Machine
end

/-! ## O11 and O12: synchronisation objects (R229 to R233, R243) -/

section
namespace Sys2Proof.Machine
open Sys2Proof

/-! ### What an update leaves of the registers of an object -/

theorem getBits_or (w x : Word) (hi lo : Nat) : getBits (w ||| x) hi lo = getBits w hi lo ||| getBits x hi lo := by
  simp only [getBits, bits, BitVec.toNat_or, Nat.shiftRight_or_distrib, Nat.or_mod_two_pow]

theorem getBits_bit_lt (w : Word) (i : Nat) : getBits w i i < 2 := by
  simp only [getBits, bits, Nat.add_sub_cancel_left]
  exact Nat.mod_lt _ (by decide)

/-- The registers of an object lie apart from each other and from those of an event. -/
theorem Reg.syncCtl_addr (k : Nat) : Reg.addr .helmSyncCtl 0 k 0 ≠ Reg.addr .helmSyncCount 0 k 0 ∧
    Reg.addr .helmSyncIrq 0 k 0 ≠ Reg.addr .helmSyncCtl 0 k 0 ∧
    ∀ p, p < 8 → Reg.addr .helmSyncCtl 0 k 0 ≠ Reg.addr .helmIrqStatus 0 p 0 ∧ Reg.addr .helmSyncCtl 0 k 0 ≠ Reg.addr .helmEvqStatus 0 p 0 ∧
      Reg.addr .helmIrqMask 0 p 0 ≠ Reg.addr .helmSyncCtl 0 k 0 ∧ Reg.addr .helmIrqMask 0 p 0 ≠ Reg.addr .helmSyncCount 0 k 0 := by
  simp only [Reg.addr, Reg.spec, Blk.base]
  refine ⟨by omega, by omega, fun p hp => by omega⟩

section
variable {s : State} {k : Nat}

/-- A counter has its value and its waits are tested; the threshold of R233 is not yet looked at. -/
def State.counts (s : State) (k v : Nat) : State := (s.wr .helmSyncCount 0 k 0 (BitVec.ofNat 32 v)).signalCores k v

theorem State.counts_rd {r : Reg} {b i j : Nat} (h : r.addr b i j ≠ Reg.addr .helmSyncCount 0 k 0) (v : Nat) :
    (s.counts k v).rd r b i j = s.rd r b i j :=
  State.rd_wr_other _ _ _ _ _ _ _ _ _ _ h

theorem State.counts_ctl (v hi lo : Nat) : (s.counts k v).fld .helmSyncCtl 0 k 0 hi lo = s.fld .helmSyncCtl 0 k 0 hi lo :=
  congrArg (getBits · hi lo) (State.counts_rd (Reg.syncCtl_addr k).1 v)

/-- The update takes the counter across its enabled threshold (R233). -/
def State.crosses (s : State) (k v : Nat) : Prop :=
  s.fld .helmSyncCtl 0 k 0 0 0 = 1 ∧ (s.rd .helmSyncCount 0 k).toNat < (s.rd .helmSyncIrq 0 k).toNat ∧ (s.rd .helmSyncIrq 0 k).toNat ≤ v

theorem State.syncPut_crosses {v : Nat} (h : s.crosses k v) :
    s.syncPut k v = ((s.counts k v).orReg .helmSyncCtl 0 k 0 2).raise (s.fld .helmSyncCtl 0 k 0 6 4) 3 k 0 v := by
  obtain ⟨hen, hold, hnew⟩ := h
  have hctl := fun hi lo => State.counts_ctl (s := s) (k := k) v hi lo
  simp only [State.counts] at hctl
  rw [State.syncPut_eq]
  simp only [State.counts, hctl, hen, hold, hnew, beq_self_eq_true, decide_true, Bool.and_self, if_true]

theorem State.syncPut_stays {v : Nat} (h : ¬ s.crosses k v) : s.syncPut k v = s.counts k v := by
  have hctl := fun hi lo => State.counts_ctl (s := s) (k := k) v hi lo
  simp only [State.counts] at hctl
  rw [State.syncPut_eq]
  simp only [hctl]
  exact if_neg (by simpa [State.crosses, and_assoc] using h)

/-- Of an object's own register an update touches IRQ_PEND alone. -/
theorem State.syncPut_ctl_crosses {v : Nat} (h : s.crosses k v) (hi lo : Nat) :
    (s.syncPut k v).fld .helmSyncCtl 0 k 0 hi lo = s.fld .helmSyncCtl 0 k 0 hi lo ||| getBits 2#32 hi lo := by
  obtain ⟨_, _, hevent⟩ := Reg.syncCtl_addr k
  obtain ⟨hirq, hevq, _, _⟩ := hevent _ (s.part_lt_eight k)
  have hraise := ((s.counts k v).orReg .helmSyncCtl 0 k 0 2).raise_signalled (s.fld .helmSyncCtl 0 k 0 6 4) 3 k 0 v
  have hset : ((s.counts k v).orReg .helmSyncCtl 0 k 0 2).rd .helmSyncCtl 0 k = (s.counts k v).rd .helmSyncCtl 0 k ||| 2#32 :=
    State.rd_wr_same ..
  rw [State.syncPut_crosses h, State.fld, hraise.rd _ _ _ _ hirq hevq, hset, getBits_or]
  exact congrArg (· ||| getBits 2#32 hi lo) (State.counts_ctl v hi lo)

theorem State.syncPut_ctl_stays {v : Nat} (h : ¬ s.crosses k v) (hi lo : Nat) :
    (s.syncPut k v).fld .helmSyncCtl 0 k 0 hi lo = s.fld .helmSyncCtl 0 k 0 hi lo := by rw [State.syncPut_stays h, State.counts_ctl]

theorem State.syncPut_ctl_other {hi lo : Nat} (h : getBits 2#32 hi lo = 0) (v : Nat) :
    (s.syncPut k v).fld .helmSyncCtl 0 k 0 hi lo = s.fld .helmSyncCtl 0 k 0 hi lo := by
  by_cases hcross : s.crosses k v
  · rw [State.syncPut_ctl_crosses hcross, h, Nat.or_zero]
  · exact State.syncPut_ctl_stays hcross hi lo

theorem State.syncPut_count (hk : k < 16384) (v : Nat) : (s.syncPut k v).rd .helmSyncCount 0 k = BitVec.ofNat 32 v :=
  (State.syncPut_counted (s.part_lt_eight k) hk rfl v).count

/-- The state in which the sum of an add is put: SAT is set where the sum saturates (R230). -/
def State.saturated (s : State) (k sum : Nat) : State := if sum > 0xFFFFFFFF then s.orReg .helmSyncCtl 0 k 0 4 else s

/-- An add is the put of its saturated sum, counted for the census. -/
theorem State.syncAdd_put (s : State) (k a : Nat) : ∃ issued applied, s.syncAdd k a =
    { (s.saturated k ((s.rd .helmSyncCount 0 k).toNat + a)).syncPut k (min ((s.rd .helmSyncCount 0 k).toNat + a) 0xFFFFFFFF) with
      addIssued := issued, addApplied := applied } := ⟨_, _, rfl⟩

theorem State.saturated_ctl (sum hi lo : Nat) : (s.saturated k sum).fld .helmSyncCtl 0 k 0 hi lo =
    if sum > 0xFFFFFFFF then s.fld .helmSyncCtl 0 k 0 hi lo ||| getBits 4#32 hi lo else s.fld .helmSyncCtl 0 k 0 hi lo := by
  rw [State.saturated]
  split
  · have hset : (s.orReg .helmSyncCtl 0 k 0 4).rd .helmSyncCtl 0 k = s.rd .helmSyncCtl 0 k ||| 4#32 := State.rd_wr_same ..
    rw [State.fld, hset, getBits_or]
    rfl
  · rfl

theorem State.saturated_rd {r : Reg} {b i j : Nat} (h : r.addr b i j ≠ Reg.addr .helmSyncCtl 0 k 0) (sum : Nat) :
    (s.saturated k sum).rd r b i j = s.rd r b i j := by
  rw [State.saturated]
  split
  · exact State.rd_wr_other _ _ _ _ _ _ _ _ _ _ h
  · rfl

/-- A wait that the value meets is marked as met (R231). -/
theorem Core.signalled_met {y : Core} {th v : Nat} {b : Bool} (h : y.pilot = .waitSync k th b) (hv : th ≤ v) (mine : Bool) :
    (y.signalled mine k v).pilot = .waitSync k th true := by
  have hstir : (if mine then { y with stirred := true } else y).pilot = .waitSync k th b := by cases mine <;> exact h
  simp only [Core.signalled, hstir, beq_self_eq_true, hv, decide_true, Bool.and_self, if_true]

/-! ### The commands and the host's writes -/

theorem go_objOf {n p : Nat} {c : Cmd} {u : State} (hp : u.holder n = some p) : CM.go (objOf n c) ⟨u, 0, none⟩ =
    if u.objHeld p (u.w3of n c 0 % 2 ^ 14) then (.ok (u.w3of n c 0 % 2 ^ 14), ⟨u, 0, none⟩) else (.error (.status 0x0E 0), ⟨u, 0, none⟩) := by
  have hholder := CM.go_holderOf (r := ⟨u, 0, none⟩) hp
  cases hheld : u.objHeld p (u.w3of n c 0 % 2 ^ 14) <;>
    simp only [objOf, CM.go_bind, CM.go_w3, CM.go_getS, hholder, CM.go_need, hheld, Bool.false_eq_true, if_false, if_true, CM.go_pure]

theorem State.syncCount_issue (s : State) (n : Nat) (c : Cmd) {k : Nat} (hk : k < 16384) :
    (s.issue n c).rd .helmSyncCount 0 k = s.rd .helmSyncCount 0 k :=
  s.rd_issue n c (by simp only [Reg.addr, Reg.spec, Blk.base, countersFrom]; omega)

theorem State.reachesObj_unlatch (s : State) (m m' : Master) (k : Nat) : (s.unlatch m).reachesObj m' k = s.reachesObj m' k := by
  cases m' <;> rfl

/-- A well-formed host write that no BAR2 write delays answers its effect. -/
theorem answerBy_met {m : Master} {i : Instr} {s : State} (hwf : i.wf = true) (hw : s.bar2Waits m = false) (t : State) :
    answerBy m i s t = .next t := by
  rw [answerBy, hw, answer, if_pos hwf]
  rfl

/-- Settles O11: each source comes to `syncAdd` or `syncSet`, and these to `syncPut`. -/
theorem syncObjects : Obligations.SyncObjects := by
  refine ⟨fun n c s hn hrun => ⟨fun p hp hheld => ?_, fun p hp hheld => ?_⟩, fun n o t c s hn hpilot hblocked hfrozen => ?_,
    fun m k v s hm hk hreach hw => ?_, fun s k a v hk => ⟨s.syncAdd_count hk a, ?_, ?_, fun n th b hpilot => ⟨fun hth => ?_, fun hth => ?_⟩⟩⟩
  · have hk : s.w3of n c 0 % 2 ^ 14 < 16384 := Nat.mod_lt _ (by decide)
    have hobj := go_objOf (c := c) ((s.holder_issue n c n).trans hp)
    rw [State.w3of_issue, State.objHeld_issue, if_pos hheld] at hobj
    refine ⟨fun hop => ?_, fun hop => ?_, fun hop hth => ?_, fun hop hth => ?_⟩
    · refine exec_ends hn hrun rfl rfl hop ?_
      by_cases ha : s.w3of n c 1 % 2 ^ 32 = 0
      · simp only [CM.go_bind, hobj, CM.go_w3, State.w3of_issue, ha, bne_self_eq_false, Bool.false_eq_true, if_false, if_true, CM.go_pure]
      · have hne : (s.w3of n c 1 % 2 ^ 32 != 0) = true := bne_iff_ne.2 ha
        simp only [CM.go_bind, hobj, CM.go_w3, State.w3of_issue, hne, ha, if_true, if_false, CM.go_modS, CM.go_pure]
    · refine exec_ends hn hrun rfl rfl hop ?_
      simp only [CM.go_bind, hobj, CM.go_w3, State.w3of_issue, CM.go_modS, CM.go_pure]
    · refine exec_ends hn hrun rfl rfl hop ?_
      simp only [CM.go_bind, hobj, CM.go_w3, State.w3of_issue, CM.go_getS, State.syncCount_issue _ _ _ hk, hth, if_true, CM.go_pure]
    · refine exec_leaves hn hrun (i := .swait n c) rfl rfl hop (f := 0) ?_
      simp only [CM.go_bind, hobj, CM.go_w3, State.w3of_issue, CM.go_getS, State.syncCount_issue _ _ _ hk, Nat.not_le.2 hth, if_false,
        CM.go_modS, CM.go_pure]
  · have hobj := go_objOf (c := c) ((s.holder_issue n c n).trans hp)
    rw [State.w3of_issue, State.objHeld_issue, if_neg (ne_true_of_eq_false hheld)] at hobj
    exact ⟨fun hop => exec_refused hn hrun rfl rfl hop (CM.go_bind_error hobj) (.inl (by decide)),
      fun hop => exec_refused hn hrun rfl rfl hop (CM.go_bind_error hobj) (.inl (by decide)),
      fun hop => exec_refused hn hrun rfl rfl hop (CM.go_bind_error hobj) (.inl (by decide))⟩
  · have hanswer : exec (.swaitRelease n) s = .next (swaitRelease n s) := if_pos (by simp [Instr.wf, hn])
    rw [hanswer]
    simp only [swaitRelease, hpilot, hblocked, hfrozen, Bool.false_eq_true, if_false]
  · have hreach' := (s.reachesObj_unlatch m m k).trans hreach
    have hset : Instr.wf (.syncObjectSet m k v) = true := by simp [Instr.wf, hm, hk]
    have hadd : Instr.wf (.syncObjectAdd m k v) = true := by simp [Instr.wf, hm, hk]
    refine ⟨(answerBy_met hset hw _).trans ?_, fun hv => (answerBy_met hadd hw _).trans ?_, fun hv => (answerBy_met hadd hw _).trans ?_⟩
    · simp only [syncObjectSet, hreach', if_true]
    · have hne : v.toNat ≠ 0 := fun h => hv (BitVec.eq_of_toNat_eq h)
      simp only [syncObjectAdd, hreach', if_true, hne, if_false]
    · simp only [syncObjectAdd, hreach', if_true, hv, BitVec.toNat_ofNat, Nat.zero_mod]
  · obtain ⟨i, j, hput⟩ := s.syncAdd_put k a
    rw [hput]
    refine (State.syncPut_ctl_other rfl _).trans ?_
    rw [State.saturated_ctl]
    have hor : ∀ b, b < 2 → b ||| getBits 4#32 2 2 = 1 := by decide
    rw [State.fld, hor _ (getBits_bit_lt ..)]
  · rw [State.syncSet, State.syncPut_count hk]
    exact BitVec.eq_of_toNat_eq (by simp only [BitVec.toNat_ofNat, Nat.mod_mod])
  · obtain ⟨mine, h⟩ := s.core_syncAdd k a n
    rw [h]
    exact Core.signalled_met hpilot hth mine
  · obtain ⟨mine, h⟩ := s.core_syncPut k (v % 2 ^ 32) n
    rw [State.syncSet, h]
    exact Core.signalled_met hpilot hth mine

end

/-! ### The threshold interrupt (R233, R436, R438) -/

section
variable {s : State} {p : Nat}

theorem State.requestVector_evq (s : State) (p v : Nat) : ((s.requestVector p v).part p).evq = (s.part p).evq := by
  simp only [State.requestVector]
  split
  · rw [State.part_setPart_same]
  · rw [State.sendMsix_part]
    split
    · rfl
    · rw [State.part_setPart_same]

theorem State.setCause_evq (s : State) (p cause : Nat) : ((s.setCause p cause).part p).evq = (s.part p).evq := by
  simp only [State.setCause]
  split
  · rfl
  · exact State.requestVector_evq ..

/-- An event with room is last in its partition's queue (R437). -/
theorem State.raise_evq (hroom : s.evqFull p = false) (cause unit tag value : Nat) :
    ((s.raise p cause unit tag value).part p).evq = (s.part p).evq ++ [⟨cause, unit, tag, value⟩] := by
  rw [State.raise, if_neg (ne_true_of_eq_false hroom), State.setCause_evq, State.part_onPart_same]

/-- A vector outside its holdoff and unmasked sends its message (R438). -/
theorem State.requestVector_out {v : Nat} (hhold : (s.part p).msixHold.contains v = false)
    (hopen : (s.msixRd (.vf p) (16 * v + 12)).getLsbD 0 = false) : (s.requestVector p v).out = s.out ++ [.msix (.vf p) v] := by
  simp only [State.requestVector, hhold, Bool.false_eq_true, if_false]
  split
  · exact State.sendMsix_unmasked hopen
  · exact State.sendMsix_unmasked hopen

theorem State.raise_out (hroom : s.evqFull p = false) {cause : Nat} (hmask : (s.rd .helmIrqMask 0 p).getLsbD cause = false)
    (hhold : (s.part p).msixHold.contains (causeVector cause) = false)
    (hopen : (s.msixRd (.vf p) (16 * causeVector cause + 12)).getLsbD 0 = false) (unit tag value : Nat) :
    (s.raise p cause unit tag value).out = s.out ++ [.msix (.vf p) (causeVector cause)] := by
  have hne : Reg.addr .helmIrqMask 0 p 0 ≠ Reg.addr .helmIrqStatus 0 p 0 := by
    simp only [Reg.addr, Reg.spec]
    omega
  have hmask' : (((s.onPart p (fun x => { x with evq := x.evq ++ [⟨cause, unit, tag, value⟩] })).orReg .helmIrqStatus 0 p 0 (2 ^ cause)).rd
      .helmIrqMask 0 p).getLsbD cause = false := by
    refine Eq.trans (congrArg (fun w : Word => w.getLsbD cause) ?_) hmask
    exact State.rd_wr_other _ _ _ _ _ _ _ _ _ _ hne
  rw [State.raise, if_neg (ne_true_of_eq_false hroom)]
  simp only [State.setCause, hmask', Bool.false_eq_true, if_false]
  refine State.requestVector_out ?_ hopen
  rw [State.part_orReg, State.part_onPart_same]
  exact hhold

variable {t : State} {k : Nat}

/-- What R233 asks of an update of object k that leads from s to t. -/
def State.tellsHost (k : Nat) (s t : State) : Prop :=
  let p := s.fld .helmSyncCtl 0 k 0 6 4
  let new := (t.rd .helmSyncCount 0 k).toNat
  (s.crosses k new →
    t.fld .helmSyncCtl 0 k 0 1 1 = 1 ∧ (t.rd .helmIrqStatus 0 p).getLsbD 3 = true ∧
    (s.evqFull p = false → (t.part p).evq = (s.part p).evq ++ [⟨3, k, 0, new⟩] ∧
      ((s.rd .helmIrqMask 0 p).getLsbD 3 = false → (s.part p).msixHold.contains 2 = false → (s.msixRd (.vf p) 44).getLsbD 0 = false →
        t.out = s.out ++ [.msix (.vf p) 2]))) ∧
  (¬ s.crosses k new → t.fld .helmSyncCtl 0 k 0 1 1 = s.fld .helmSyncCtl 0 k 0 1 1 ∧ t.parts = s.parts ∧ t.out = s.out)

theorem State.syncPut_tellsHost (hk : k < 16384) {v : Nat} (hv : v < 2 ^ 32) : State.tellsHost k s (s.syncPut k v) := by
  have hnew : ((s.syncPut k v).rd .helmSyncCount 0 k).toNat = v := by
    rw [State.syncPut_count hk, BitVec.toNat_ofNat, Nat.mod_eq_of_lt hv]
  obtain ⟨_, _, hevent⟩ := Reg.syncCtl_addr k
  obtain ⟨_, _, hmaskCtl, hmaskCount⟩ := hevent _ (s.part_lt_eight k)
  refine ⟨fun hcross => ?_, fun hstay => ?_⟩
  · rw [hnew] at hcross
    have hmask : ((s.counts k v).orReg .helmSyncCtl 0 k 0 2).rd .helmIrqMask 0 (s.fld .helmSyncCtl 0 k 0 6 4) =
        s.rd .helmIrqMask 0 (s.fld .helmSyncCtl 0 k 0 6 4) :=
      (State.rd_wr_other _ .helmSyncCtl _ 0 k 0 _ _ _ _ hmaskCtl).trans (State.counts_rd hmaskCount v)
    have hor : ∀ b, b < 2 → b ||| getBits 2#32 1 1 = 1 := by decide
    refine ⟨?_, ?_, fun hroom => ⟨?_, fun hunmasked hhold hopen => ?_⟩⟩
    · rw [State.syncPut_ctl_crosses hcross, State.fld, hor _ (getBits_bit_lt ..)]
    · rw [State.syncPut_crosses hcross]
      exact State.raise_irqStatus _ _ (by decide) _ _ _
    · rw [hnew, State.syncPut_crosses hcross]
      exact State.raise_evq (s := (s.counts k v).orReg .helmSyncCtl 0 k 0 2) hroom 3 k 0 v
    · rw [State.syncPut_crosses hcross]
      exact State.raise_out (s := (s.counts k v).orReg .helmSyncCtl 0 k 0 2) (cause := 3) hroom (by rw [hmask]; exact hunmasked) hhold hopen k 0 v
  · rw [hnew] at hstay
    exact ⟨State.syncPut_ctl_stays hstay 1 1, by rw [State.syncPut_stays hstay]; rfl, by rw [State.syncPut_stays hstay]; rfl⟩

theorem State.syncAdd_tellsHost (hk : k < 16384) (a : Nat) : State.tellsHost k s (s.syncAdd k a) := by
  obtain ⟨hcount, hirq, hevent⟩ := Reg.syncCtl_addr k
  obtain ⟨_, _, hmask, _⟩ := hevent _ (s.part_lt_eight k)
  obtain ⟨i, j, hput⟩ := s.syncAdd_put k a
  have htells := State.syncPut_tellsHost (s := s.saturated k ((s.rd .helmSyncCount 0 k).toNat + a)) hk
    (v := min ((s.rd .helmSyncCount 0 k).toNat + a) 0xFFFFFFFF) (by omega)
  have hctl : ∀ hi lo, getBits 4#32 hi lo = 0 → (s.saturated k ((s.rd .helmSyncCount 0 k).toNat + a)).fld .helmSyncCtl 0 k 0 hi lo =
      s.fld .helmSyncCtl 0 k 0 hi lo := fun hi lo h0 => by rw [State.saturated_ctl, h0, Nat.or_zero, ite_self]
  have hparts : ∀ sum, (s.saturated k sum).parts = s.parts ∧ (s.saturated k sum).out = s.out ∧ (s.saturated k sum).msixTab = s.msixTab := by
    intro sum
    rw [State.saturated]
    split <;> exact ⟨rfl, rfl, rfl⟩
  obtain ⟨hparts, hout, hmsix⟩ := hparts ((s.rd .helmSyncCount 0 k).toNat + a)
  rw [hput]
  simp only [State.tellsHost, State.crosses, hctl 0 0 rfl, hctl 1 1 rfl, hctl 6 4 rfl, State.saturated_rd hcount.symm, State.saturated_rd hirq,
    State.saturated_rd hmask, State.evqFull, State.part, hparts, hout, State.msixRd, hmsix] at htells ⊢
  exact htells

/-- Settles O12: a set and an add both put a value, and SAT is no part of what the host is told. -/
theorem thresholdInterrupt : Obligations.ThresholdInterrupt := by
  rintro s t k a hk (rfl | rfl)
  · exact State.syncPut_tellsHost hk (Nat.mod_lt _ (by decide))
  · exact State.syncAdd_tellsHost hk a

end

end Sys2Proof.Machine
end

/-! ## O10: exception entry and return (R221 to R225) -/

section
namespace Sys2Proof.Machine
open Sys2Proof

/-! ### The shadow frame (R221) -/

/-- A part of what was written reads back. -/
theorem cellsRead_write_part (m : List Host.Cell) (a : Nat) (pre mid post : List Byte) :
    cellsRead (cellsWrite m a (pre ++ mid ++ post)) (a + pre.length) mid.length = mid := by
  have hread := cellsRead_write m a (pre ++ mid ++ post)
  rw [List.length_append, List.length_append, cellsRead_add, cellsRead_add] at hread
  exact (List.append_inj (List.append_inj hread (by simp)).1 (by simp)).2

/-- The frame but for its registers. -/
def frameTail (f : Failure) (pend : Nat) : List Byte :=
  leBytes f.cp 8 ++ leBytes f.next 8 ++ leBytes f.cc 8 ++ leBytes (f.status + f.flags * 2 ^ 8 + pend * 2 ^ 24) 8 ++ cmdBytes f.cmd ++
    leBytes f.faddr 8 ++ leBytes 1 8

/-- The registers [i, i + m) as the frame holds them. -/
def regBytes (k : Core) (i m : Nat) : List Byte := (List.range' i m).flatMap (fun r => leBytes (k.xval r).toNat 8)

theorem regBytes_length (k : Core) (i m : Nat) : (regBytes k i m).length = 8 * m := by
  rw [regBytes, List.length_flatMap]
  simp [Nat.mul_comm]

theorem regBytes_add (k : Core) (i l m : Nat) : regBytes k i (l + m) = regBytes k i l ++ regBytes k (i + l) m := by
  rw [regBytes, ← List.range'_append_1, List.flatMap_append]
  rfl

theorem frameBytes_eq (k : Core) (f : Failure) (pend : Nat) : frameBytes k f pend = regBytes k 0 64 ++ frameTail f pend := by
  simp only [frameBytes, frameTail, regBytes, List.range_eq_range', List.append_assoc]

/-- Register i stands at 8 * i of the frame. -/
theorem cellsRead_frame_reg (m : List Host.Cell) (a : Nat) (k : Core) (f : Failure) (pend : Nat) {i : Nat} (hi : i < 64) :
    cellsRead (cellsWrite m a (frameBytes k f pend)) (a + 8 * i) 8 = leBytes (k.xval i).toNat 8 := by
  have hsplit : frameBytes k f pend = regBytes k 0 i ++ leBytes (k.xval i).toNat 8 ++ (regBytes k (i + 1) (63 - i) ++ frameTail f pend) := by
    have hone : regBytes k i 1 = leBytes (k.xval i).toNat 8 := List.append_nil _
    have hregs := regBytes_add k 0 i (1 + (63 - i))
    rw [Nat.zero_add, regBytes_add k i 1, hone, show i + (1 + (63 - i)) = 64 by omega] at hregs
    rw [frameBytes_eq, hregs]
    simp only [List.append_assoc]
  have hread := cellsRead_write_part m a (regBytes k 0 i) (leBytes (k.xval i).toNat 8) (regBytes k (i + 1) (63 - i) ++ frameTail f pend)
  rwa [← hsplit, regBytes_length, leBytes_length] at hread

/-- The CP of the next command stands at 0x208. -/
theorem cellsRead_frame_next (m : List Host.Cell) (a : Nat) (k : Core) (f : Failure) (pend : Nat) :
    cellsRead (cellsWrite m a (frameBytes k f pend)) (a + 0x208) 8 = leBytes f.next 8 := by
  have hsplit : frameBytes k f pend = (regBytes k 0 64 ++ leBytes f.cp 8) ++ leBytes f.next 8 ++ (leBytes f.cc 8 ++
      leBytes (f.status + f.flags * 2 ^ 8 + pend * 2 ^ 24) 8 ++ cmdBytes f.cmd ++ leBytes f.faddr 8 ++ leBytes 1 8) := by
    simp only [frameBytes_eq, frameTail, List.append_assoc]
  have hread := cellsRead_write_part m a (regBytes k 0 64 ++ leBytes f.cp 8) (leBytes f.next 8) (leBytes f.cc 8 ++
      leBytes (f.status + f.flags * 2 ^ 8 + pend * 2 ^ 24) 8 ++ cmdBytes f.cmd ++ leBytes f.faddr 8 ++ leBytes 1 8)
  rwa [← hsplit, List.length_append, regBytes_length, leBytes_length, leBytes_length] at hread

/-! ### Entry -/

/-- The core that takes a failure (R222). -/
def Core.entered (k : Core) (vec : Nat) (f : Failure) (rest : List Failure) : Core :=
  { (k.csWrite shadowBase (frameBytes k f rest.length) false) with occupied := true, cp := vec, failures := [], queued := rest }

theorem Core.entered_eq (k : Core) (vec : Nat) (f : Failure) (rest : List Failure) : ∃ poison, k.entered vec f rest =
    { k with
      cs := cellsWrite k.cs shadowBase (frameBytes k f rest.length)
      csPoison := poison
      occupied := true
      cp := vec
      failures := []
      queued := rest } := by
  have hwrite : ∀ (a : Nat) (d : List Byte), ∃ poison, k.csWrite a d false = { k with cs := cellsWrite k.cs a d, csPoison := poison } :=
    fun _ _ => ⟨_, rfl⟩
  obtain ⟨poison, h⟩ := hwrite shadowBase (frameBytes k f rest.length)
  exact ⟨poison, by rw [Core.entered, h]⟩

theorem Core.entered_cs (k : Core) (vec : Nat) (f : Failure) (rest : List Failure) :
    (k.entered vec f rest).cs = cellsWrite k.cs shadowBase (frameBytes k f rest.length) := by
  obtain ⟨_, h⟩ := k.entered_eq vec f rest
  rw [h]

theorem State.core_enterException (s : State) (n : Nat) (f : Failure) (rest : List Failure) :
    (s.enterException n f rest).core n = (s.core n).entered (s.rd64 .coreExcVecLo .coreExcVecHi n) f (rest.take 32) :=
  (State.core_wr ..).trans (State.core_setCore_same ..)

theorem State.core_enterException_other (s : State) {n m : Nat} (h : m ≠ n) (f : Failure) (rest : List Failure) :
    (s.enterException n f rest).core m = s.core m :=
  (State.core_wr ..).trans (State.core_setCore_other _ _ h)

theorem exec_exceptionEntry {n : Nat} {s : State} {f : Failure} {rest : List Failure} (hn : n < 192)
    (hdue : (s.core n).exceptionDue = true) (hsort : sortFailures (s.core n).failures = f :: rest) :
    exec (.exceptionEntry n) s = .next (if (s.core n).occupied then s.coreFatal n f else s.enterException n f rest) := by
  have hanswer : exec (.exceptionEntry n) s = .next (exceptionEntry n s) := if_pos (by simp [Instr.wf, hn])
  rw [hanswer]
  simp only [exceptionEntry, hdue, hsort, Bool.not_true, Bool.false_eq_true, if_false]

/-! ### A second failure (R225) -/

/-- The core that a failure in its frame halts. -/
def State.halts (s : State) (n : Nat) (f : Failure) : State :=
  (s.onCore n (fun k => { k with pilot := .halted, fatal := true, failures := [], blocked := none })).setFld .coreExc n 0 0 15 8 f.status

/-- What follows the halt is a record and an event: neither touches the core's own registers. -/
theorem State.coreFatal_spec (s : State) (n : Nat) (f : Failure) : (s.halts n f).byEvents (s.coreFatal n f) ∧
    (s.coreFatal n f).rd .coreExc n = (s.halts n f).rd .coreExc n := by
  have hlog := (s.halts n f).log_noted { LogRec.base 0x08 0 (((s.halts n f).holder n).getD 0xF) n with
    opcode := f.cmd.op, status := f.status, tag := f.cmd.tag, cc := f.cc }
  have hexc := hlog.rd .coreExc n 0 0 (Reg.core_addr rfl ..)
  change (s.halts n f).byEvents (match (s.halts n f).holder n with
    | some p => State.raise _ p 8 n f.cmd.tag f.cc
    | none => _) ∧ State.rd (match (s.halts n f).holder n with
    | some p => State.raise _ p 8 n f.cmd.tag f.cc
    | none => _) .coreExc n = _
  split
  · next p _ =>
    have hraise := State.raise_signalled ((s.halts n f).log { LogRec.base 0x08 0 (((s.halts n f).holder n).getD 0xF) n with
      opcode := f.cmd.op, status := f.status, tag := f.cmd.tag, cc := f.cc }) p 8 n f.cmd.tag f.cc
    have hirq : Reg.addr .coreExc n 0 0 ≠ Reg.addr .helmIrqStatus 0 p 0 := by
      simp only [Reg.addr, Reg.spec, Blk.base]
      omega
    have hevq : Reg.addr .coreExc n 0 0 ≠ Reg.addr .helmEvqStatus 0 p 0 := by
      simp only [Reg.addr, Reg.spec, Blk.base]
      omega
    exact ⟨hlog.events.trans hraise.events, (hraise.rd _ _ _ _ hirq hevq).trans hexc⟩
  · exact ⟨hlog.events, hexc⟩

/-! ### Return (R223) -/

/-- Registers 1 to m of a core after a load of each. -/
theorem Core.xval_load (v : Nat → DWord) (tag : Nat → Bool) (k : Core) (m q : Nat) :
    ((List.range m).foldl (fun (a : Core) i => a.setX (i + 1) (v i) (tag i)) k).xval q =
      if 1 ≤ q ∧ q ≤ m then v (q - 1) else k.xval q := by
  induction m with
  | zero => rw [if_neg (by omega)]; rfl
  | succ m ih =>
    rw [List.range_succ, List.foldl_append, List.foldl_cons, List.foldl_nil]
    by_cases hq : q = m + 1
    · subst hq
      rw [Core.xval_setX_same (by omega), if_pos (by omega), Nat.add_sub_cancel]
    · rw [Core.xval_setX_other hq, ih]
      refine if_congr ?_ rfl rfl
      omega

/-- A load of registers changes nothing else of the core. -/
theorem Core.load_eq (v : Nat → DWord) (tag : Nat → Bool) (k : Core) (m : Nat) : ∃ x tags,
    (List.range m).foldl (fun (a : Core) i => a.setX (i + 1) (v i) (tag i)) k = { k with x := x, tags := tags } :=
  foldl_keeps (P := fun a : Core => ∃ x tags, a = { k with x := x, tags := tags })
    (fun a i ⟨_, _, h⟩ => by
      subst h
      exact ⟨_, _, Core.setX_eq ..⟩) _ ⟨_, _, rfl⟩

/-- The registers from the frame in the core's store (R223). -/
def Core.restored (k : Core) : Core :=
  (List.range 63).foldl (fun (a : Core) i =>
    a.setX (i + 1) (BitVec.ofNat 64 (leNat (k.csRead (shadowBase + 8 * (i + 1)) 8).1)) (k.csRead (shadowBase + 8 * (i + 1)) 8).2) k

theorem Core.restored_eq (k : Core) : ∃ x tags, k.restored = { k with x := x, tags := tags } := Core.load_eq _ _ k 63

theorem Core.xval_restored (k : Core) (q : Nat) : k.restored.xval q =
    if 1 ≤ q ∧ q ≤ 63 then BitVec.ofNat 64 (leNat (k.csRead (shadowBase + 8 * (q - 1 + 1)) 8).1) else k.xval q := Core.xval_load _ _ k 63 q

/-- The core as it resumes at cp, and as it forgets what was queued. -/
def Core.resumed (r : Core) (cp : Nat) : Core := { r with cp := cp, occupied := false }

def Core.cleared (r : Core) (a : Nat) (d : List Byte) : Core := { r.csWrite a d false with queued := [] }

theorem Core.cleared_resumed (r : Core) (cp a : Nat) (d : List Byte) : (∀ q, ((r.resumed cp).cleared a d).xval q = r.xval q) ∧
    ((r.resumed cp).cleared a d).cp = cp ∧ ((r.resumed cp).cleared a d).occupied = false := ⟨fun _ => rfl, rfl, rfl⟩

/-- The core after the return. -/
def Core.returned (k : Core) : Core :=
  (k.restored.resumed (leNat (k.csRead (shadowBase + 0x208) 8).1 % 2 ^ 48)).cleared (shadowBase + 0x248) (leBytes 0 8)

theorem State.exceptionReturn_eq (s : State) (n : Nat) : s.exceptionReturn n =
    match ((s.core n).restored.resumed (leNat ((s.core n).csRead (shadowBase + 0x208) 8).1 % 2 ^ 48)).queued with
    | [] => s.setCore n (s.core n).returned
    | f :: rest => (s.setCore n (s.core n).returned).enterException n f rest := rfl

theorem State.exceptionReturn_alone {s : State} {n : Nat} (h : (s.core n).queued = []) :
    s.exceptionReturn n = s.setCore n (s.core n).returned := by
  obtain ⟨x, tags, hload⟩ := (s.core n).restored_eq
  have hqueued : ∀ cp, ((s.core n).restored.resumed cp).queued = [] := fun cp => by
    rw [hload]
    exact h
  rw [State.exceptionReturn_eq, hqueued]

theorem Core.csRead_fst (k : Core) (a len : Nat) : (k.csRead a len).1 = cellsRead k.cs a len := rfl

theorem Core.entered_reg (k : Core) (vec : Nat) (f : Failure) (rest : List Failure) {q : Nat} (hq : q < 64) :
    ((k.entered vec f rest).csRead (shadowBase + 8 * q) 8).1 = leBytes (k.xval q).toNat 8 := by
  rw [Core.csRead_fst, Core.entered_cs, cellsRead_frame_reg _ _ _ _ _ hq]

theorem Core.entered_next (k : Core) (vec : Nat) (f : Failure) (rest : List Failure) :
    ((k.entered vec f rest).csRead (shadowBase + 0x208) 8).1 = leBytes f.next 8 := by
  rw [Core.csRead_fst, Core.entered_cs, cellsRead_frame_next]

theorem Core.returned_pilot (k : Core) : (∀ q, k.returned.xval q = k.restored.xval q) ∧
    k.returned.cp = leNat (k.csRead (shadowBase + 0x208) 8).1 % 2 ^ 48 ∧ k.returned.occupied = false := by
  rw [Core.returned]
  exact k.restored.cleared_resumed _ _ _

/-- The return from a frame gives back the registers that it was written from. -/
theorem Core.returned_entered (k : Core) (vec : Nat) {f : Failure} (hnext : f.next < 2 ^ 48) (rest : List Failure) :
    (∀ q, q < 64 → (k.entered vec f rest).returned.xval q = k.xval q) ∧ (k.entered vec f rest).returned.cp = f.next ∧
      (k.entered vec f rest).returned.occupied = false := by
  obtain ⟨hx, hcp, hocc⟩ := (k.entered vec f rest).returned_pilot
  obtain ⟨_, hentered⟩ := k.entered_eq vec f rest
  refine ⟨fun q hq => ?_, ?_, hocc⟩
  · rw [hx, Core.xval_restored]
    split
    · next h =>
      rw [Nat.sub_add_cancel h.1, k.entered_reg vec f rest hq, leNat_leBytes, Nat.mod_eq_of_lt (show _ < 256 ^ 8 from (k.xval q).isLt),
        BitVec.ofNat_toNat, BitVec.setWidth_eq]
    · rw [hentered]
      rfl
  · rw [hcp, k.entered_next, leNat_leBytes, Nat.mod_eq_of_lt (hnext.trans (by decide)), Nat.mod_eq_of_lt hnext]

/-- Settles O10: entry writes the frame over one core, a second failure halts it, and the return reads the frame back. -/
theorem exceptionEntryAndReturn : Obligations.ExceptionEntryAndReturn := by
  intro n s f rest hn hdue hsort
  have hexec := exec_exceptionEntry hn hdue hsort
  refine ⟨fun hocc => ?_, fun hocc => ?_, fun _ _ hnext => ?_⟩
  · rw [hocc] at hexec
    have hcore := s.core_enterException n f rest
    obtain ⟨_, hentered⟩ := (s.core n).entered_eq (s.rd64 .coreExcVecLo .coreExcVecHi n) f (rest.take 32)
    refine ⟨s.enterException n f rest, hexec, ?_⟩
    have hread := cellsRead_write (s.core n).cs shadowBase (frameBytes (s.core n) f (rest.take 32).length)
    have hbelow : ∀ a, a < shadowBase → tabGet (cellsWrite (s.core n).cs shadowBase (frameBytes (s.core n) f (rest.take 32).length)) a 0#8 =
        tabGet (s.core n).cs a 0#8 := fun a ha => cellsWrite_outside _ _ _ _ (.inl ha)
    rw [← Core.entered_cs _ (s.rd64 .coreExcVecLo .coreExcVecHi n), ← hcore] at hread hbelow
    refine ⟨?_, ?_, ?_, ?_, ?_, hread, hbelow, rfl, fun m hm => s.core_enterException_other hm f rest⟩ <;> rw [hcore, hentered]
  · rw [hocc] at hexec
    obtain ⟨hevents, hexc⟩ := s.coreFatal_spec n f
    have hcore : (s.coreFatal n f).core n = { s.core n with pilot := .halted, fatal := true, failures := [], blocked := none } :=
      (hevents.core_eq n).trans ((State.core_wr ..).trans (State.core_onCore_same ..))
    refine ⟨s.coreFatal n f, hexec, ?_⟩
    rw [hcore]
    refine ⟨rfl, rfl, rfl, rfl, hevents.mem_eq, fun hstatus => ?_⟩
    rw [State.fld, hexc]
    exact (State.fld_setFld_same _ .coreExc n 0 0 (by decide) f.status).trans (Nat.mod_eq_of_lt hstatus)
  · have hcore := s.core_enterException n f []
    have hreturn := State.exceptionReturn_alone (s := s.enterException n f []) (n := n) (by rw [hcore]; rfl)
    dsimp only
    rw [hreturn, State.core_setCore_same, hcore]
    exact Core.returned_entered _ _ hnext _

end Sys2Proof.Machine
end

/-! ## O13: messages and mailboxes (R226 to R228) -/

section
namespace Sys2Proof.Machine
open Sys2Proof

/-! ### Taking a message -/

/-- A call back of a sender marks one of its sends and nothing else. -/
theorem State.core_callBack (s : State) (dst n : Nat) : ∃ sends, (s.callBack dst).core n = { s.core n with sends := sends } := by
  rw [State.callBack]
  split
  · exact ⟨_, rfl⟩
  · next src m _ _ =>
    by_cases h : n = src
    · subst h
      exact ⟨_, State.core_onCore_same ..⟩
    · exact ⟨_, State.core_onCore_other _ _ h⟩

/-- A core that has the message m in the destination of the MRECV c (R228). -/
def Core.receive (k : Core) (c : Cmd) (m : Msg) : Core :=
  (if Cmd.recvRegs c then
    (List.range (m.data.length / 8)).foldl (fun (k : Core) j => k.setX (j + 1) (BitVec.ofNat 64 (leAt m.data (8 * j) 8)) m.poison) k
  else k.csWrite (bits c.w1.toNat 21 0) m.data m.poison).setX (c.idx 0)
    (BitVec.ofNat 64 (m.data.length + m.tag * 2 ^ 16 + m.src * 2 ^ 24)) false

theorem State.core_takeMsg {s : State} {n i : Nat} {c : Cmd} {m : Msg} (h : (s.core n).mailbox[i]? = some m) :
    ∃ sends, (s.takeMsg n c i).core n =
      { ({ s.core n with mailbox := (s.core n).mailbox.eraseIdx i } : Core).receive c m with sends := sends } := by
  rw [State.takeMsg, h]
  dsimp only
  obtain ⟨sends, hcall⟩ := State.core_callBack ((s.onCore n (fun k => { k with mailbox := k.mailbox.eraseIdx i })).onCore n
    (fun k => k.receive c m)) n n
  refine ⟨sends, hcall.trans ?_⟩
  rw [State.core_onCore_same, State.core_onCore_same]

section
variable {k : Core} {c : Cmd} {m : Msg}

theorem Core.receive_regs (hregs : Cmd.recvRegs c = true) : (k.receive c m).mailbox = k.mailbox ∧ (k.receive c m).cs = k.cs ∧
    ∀ q, q ≠ c.idx 0 → (k.receive c m).xval q =
      if 1 ≤ q ∧ q ≤ m.data.length / 8 then BitVec.ofNat 64 (leAt m.data (8 * (q - 1)) 8) else k.xval q := by
  have hload := Core.xval_load (fun j => BitVec.ofNat 64 (leAt m.data (8 * j) 8)) (fun _ => m.poison) k (m.data.length / 8)
  obtain ⟨x, tags, hframe⟩ := Core.load_eq (fun j => BitVec.ofNat 64 (leAt m.data (8 * j) 8)) (fun _ => m.poison) k (m.data.length / 8)
  rw [Core.receive, if_pos hregs]
  refine ⟨?_, ?_, fun q hq => (Core.xval_setX_other hq _ _).trans (hload q)⟩ <;> rw [Core.setX_eq, hframe]

theorem Core.receive_store (hregs : Cmd.recvRegs c = false) : (k.receive c m).mailbox = k.mailbox ∧
    (k.receive c m).cs = cellsWrite k.cs (bits c.w1.toNat 21 0) m.data ∧ ∀ q, q ≠ c.idx 0 → (k.receive c m).xval q = k.xval q := by
  rw [Core.receive, if_neg (ne_true_of_eq_false hregs)]
  refine ⟨?_, ?_, fun q hq => Core.xval_setX_other hq _ _⟩
  · rw [Core.setX_eq]
    rfl
  · rw [Core.setX_eq]
    rfl

theorem Core.receive_mailbox : (k.receive c m).mailbox = k.mailbox := by
  cases hregs : Cmd.recvRegs c with
  | false => exact (Core.receive_store hregs).1
  | true => exact (Core.receive_regs hregs).1

/-- The descriptor word of the message. -/
theorem Core.receive_descriptor (h : c.idx 0 ≠ 0) :
    (k.receive c m).xval (c.idx 0) = BitVec.ofNat 64 (m.data.length + m.tag * 2 ^ 16 + m.src * 2 ^ 24) := Core.xval_setX_same h _ _

end

/-! ### MSEND and MRECV -/

/-- What MRECV runs (R228). -/
def mrecvBody (n : Nat) (c : Cmd) : CM Bool := do
  let off := bits c.w1.toNat 21 0
  let s ← getS
  need (Cmd.recvSrc c == 0x3FFF || decide (Cmd.recvSrc c < s.nCores)) 0x0C
  need (Cmd.recvSrc c != 0x3FFF || c.vary) 0x10
  need (Cmd.recvRegs c || decide (off + 8 ≤ shadowBase)) 0x11
  match s.pickMsg n c (Cmd.recvSrc c) (Cmd.recvTag c) (Cmd.recvAny c) with
  | some i =>
    need (s.msgFits n c i) 0x11
    flag (s.msgFlags n i)
    modS (fun s => s.takeMsg n c i)
    return true
  | none =>
    modS (fun s => s.onCore n (fun k =>
      { k with pilot := .waitMsg (Cmd.recvSrc c) (Cmd.recvTag c) (Cmd.recvAny c), blocked := some c }))
    return false

theorem exec_mrecv (n : Nat) (c : Cmd) (s : State) :
    exec (.mrecv n c []) s = answer (.mrecv n c []) (pilotRun n c (mrecvBody n c) s) := by
  have h : exec (.mrecv n c []) s = answer (.mrecv n c []) (pilotRun n c (mrecvBody n c) (s.sramErrors n [])) := rfl
  rw [h, State.sramErrors_nil]

/-- After its operands' checks MRECV looks for a message. -/
theorem go_mrecvBody {n : Nat} {c : Cmd} {u : State} (hsrc : Cmd.recvSrc c = 0x3FFF ∧ c.vary = true ∨ Cmd.recvSrc c < u.nCores)
    (hdst : Cmd.recvRegs c = true ∨ bits c.w1.toNat 21 0 + 8 ≤ shadowBase) : CM.go (mrecvBody n c) ⟨u, 0, none⟩ =
    match u.pickMsg n c (Cmd.recvSrc c) (Cmd.recvTag c) (Cmd.recvAny c) with
    | some i => if u.msgFits n c i then (.ok true, ⟨u.takeMsg n c i, u.msgFlags n i, none⟩) else (.error (.status 0x11 0), ⟨u, 0, none⟩)
    | none => (.ok false, ⟨u.onCore n (fun k => { k with
        pilot := .waitMsg (Cmd.recvSrc c) (Cmd.recvTag c) (Cmd.recvAny c), blocked := some c }), 0, none⟩) := by
  have hcores : u.nCores < 0x3FFF := by
    rw [State.nCores]
    cases u.grade <;> decide
  have h1 : (Cmd.recvSrc c == 0x3FFF || decide (Cmd.recvSrc c < u.nCores)) = true := by
    simpa using hsrc.imp And.left id
  have h2 : (Cmd.recvSrc c != 0x3FFF || c.vary) = true := by
    rcases hsrc with ⟨_, h⟩ | h
    · rw [h, Bool.or_true]
    · rw [bne_iff_ne.2 (by omega), Bool.true_or]
  have h3 : (Cmd.recvRegs c || decide (bits c.w1.toNat 21 0 + 8 ≤ shadowBase)) = true := by simpa using hdst
  simp only [mrecvBody, CM.go_bind, CM.go_getS, CM.go_need, h1, h2, h3, if_true]
  split
  · next i _ =>
    cases hfits : u.msgFits n c i with
    | true => simp only [CM.go_bind, CM.go_need, if_true, CM.go_flag, CM.go_modS, CM.go_pure, Nat.zero_or]
    | false => simp only [CM.go_bind, CM.go_need, Bool.false_eq_true, if_false]
  · simp only [CM.go_bind, CM.go_modS, CM.go_pure]

theorem State.mailbox_issue (s : State) (n : Nat) (c : Cmd) : ((s.issue n c).core n).mailbox = (s.core n).mailbox := by
  rw [s.core_issue]
  rfl

theorem State.pickMsg_plain {s : State} {n : Nat} (h : (s.core n).reckon = false) (c : Cmd) (src tag : Nat) (any : Bool) :
    s.pickMsg n c src tag any = (s.core n).mailbox.findIdx? (fun m => m.fits src tag any) := by
  simp only [State.pickMsg, h, Bool.false_and, Bool.not_false, if_true]

/-! ### Placement -/

/-- A completion leaves a core but for its mark of R234 and a wait on an object. -/
theorem State.complete_waits (s : State) (n : Nat) (c : Cmd) (cc flags m : Nat) :
    (∀ o tag any, (s.core m).pilot = .waitMsg o tag any → ((s.complete n c cc flags).core m).pilot = .waitMsg o tag any) := by
  intro o tag any h
  rw [(s.complete_byEvents n c cc flags).core_eq, State.completeQuiet]
  split
  · obtain ⟨mine, hcore⟩ := (s.orReg .coreFlags n 0 0 flags).core_syncAdd c.sigObj c.sigAdd m
    have hstir : (if mine then { s.core m with stirred := true } else s.core m).pilot = .waitMsg o tag any := by cases mine <;> exact h
    rw [hcore, Core.signalled]
    simp only [State.core_orReg, hstir]
  · exact h

section
variable {dst src : Nat} {m : Send} {s : State}

/-- The state in which a message has left its sender and stands in the mailbox (R227). -/
def State.msgPlaced (s : State) (dst src : Nat) (m : Send) : State :=
  (s.onCore src (fun k => { k with stirred := true, sends := k.sends.filter (fun x => x.cc != m.cc) })).onCore dst
    (fun k => { k with mailbox := k.mailbox ++ [m.msg] })

theorem State.msgPlaced_dst (h : dst ≠ src) :
    (s.msgPlaced dst src m).core dst = { s.core dst with mailbox := (s.core dst).mailbox ++ [m.msg] } := by
  rw [State.msgPlaced, State.core_onCore_same, State.core_onCore_other _ _ h]

theorem State.msgPlaced_src (h : dst ≠ src) : (s.msgPlaced dst src m).core src =
    { s.core src with stirred := true, sends := (s.core src).sends.filter (fun x => x.cc != m.cc) } := by
  rw [State.msgPlaced, State.core_onCore_other _ _ (Ne.symm h), State.core_onCore_same]

/-- The state after the placement, its MSEND complete. -/
def State.msgDelivered (s : State) (dst src : Nat) (m : Send) : State :=
  (s.msgPlaced dst src m).complete src m.cmd m.cc (if m.msg.poison then 0x200 else 0)

theorem messagePlacement_room (hfind : (s.core src).sends.find? (fun x => x.dst == dst) = some m) (hnew : m.retried = none)
    (hroom : (s.core dst).mailbox.length + s.calledCount dst < 64) : exec (.messagePlacement dst src) s = .next
    (match ((s.msgDelivered dst src m).core dst).pilot, ((s.msgDelivered dst src m).core dst).blocked with
      | .waitMsg a t any, some c => if ((s.msgDelivered dst src m).core dst).frozen then s.msgDelivered dst src m else
        match (s.msgDelivered dst src m).pickMsg dst c a t any with
        | none => s.msgDelivered dst src m
        | some i => (s.msgDelivered dst src m).endRecv dst c i
      | _, _ => s.msgDelivered dst src m) := by
  have hanswer : exec (.messagePlacement dst src) s = .next (messagePlacement dst src s) := rfl
  rw [hanswer]
  simp only [messagePlacement, hfind, hnew, hroom, Option.isSome_none, Bool.false_and, decide_true, Bool.or_true, Bool.not_true,
    Bool.false_eq_true, if_false]
  rfl

theorem messagePlacement_full (hfind : (s.core src).sends.find? (fun x => x.dst == dst) = some m) (hnew : m.retried = none)
    (hfull : 64 ≤ (s.core dst).mailbox.length + s.calledCount dst) (hcalled : m.called = false) :
    ∃ r, exec (.messagePlacement dst src) s = .next (s.onCore src (fun k => { k with
      sends := k.sends.map (fun x => if x.cc == m.cc then { x with retried := some r } else x) })) := by
  have hanswer : exec (.messagePlacement dst src) s = .next (messagePlacement dst src s) := rfl
  rw [hanswer]
  simp only [messagePlacement, hfind, hnew, hcalled, Nat.not_lt.2 hfull, Option.isSome_none, Bool.false_and, decide_false, Bool.or_false,
    Bool.not_false, Bool.false_eq_true, if_false, if_true]
  exact ⟨_, rfl⟩

end

/-- Settles O13: a message is placed, found and taken by three functions, each with what it changes. -/
theorem mailboxes : Obligations.Mailboxes := by
  refine ⟨fun n c s hn hrun => ⟨fun hop h8 hmax hmul hdst hholder hwith hoff hroom => ?_, fun hop hsrc hto => ?_⟩, fun n i c m s hm => ?_,
    fun dst src m s hfind hnew => ⟨fun hroom hblocked hne => ?_, fun c o tag any i hroom hne hpilot hblocked hfrozen => ?_,
      fun hfull hcalled => ?_⟩⟩
  · obtain ⟨p, hp⟩ := hrun.holder
    have hlen : (decide (8 ≤ bits c.w2.toNat 24 16) && decide (bits c.w2.toNat 24 16 ≤ 256) && bits c.w2.toNat 24 16 % 8 == 0) = true := by
      simp only [h8, hmax, hmul, decide_true, Bool.and_self, beq_self_eq_true]
    have hp' := CM.go_holderOf (r := ⟨s.issue n c, 0, none⟩) ((s.holder_issue n c n).trans hp)
    have hsends : ((s.issue n c).core n).sends = (s.core n).sends := by
      rw [s.core_issue]
      rfl
    refine exec_leaves hn hrun (i := .msend n c) rfl rfl hop (f := 0) ?_
    simp only [CM.go_bind, CM.go_need, hlen, if_true, CM.go_getS, State.nCores_issue, hdst, decide_true, State.holder_issue, hholder, hp,
      hp', beq_self_eq_true, State.withheld_issue, hwith, Bool.not_false, Bool.and_self, CM.go_rdCs hoff, State.csRead_issue, hsends,
      Nat.not_le.2 hroom, ge_iff_le, if_false, CM.go_modS, CM.go_pure, State.onCore, State.cc_issue]
  · have hmail := s.mailbox_issue n c
    have hgo := go_mrecvBody (n := n) (c := c) (u := s.issue n c) (by rwa [State.nCores_issue]) hto
    have hwf : Instr.wf (.mrecv n c []) = pilotWf 0x2C n c := Bool.and_true _
    refine ⟨fun hreckon => ?_, fun i m hpick hm => ⟨fun hfits => ?_, fun hstore hbig => ?_⟩, fun hpick => ?_⟩
    · rw [State.pickMsg_plain (by rwa [State.reckon_issue]), hmail]
    · have hfit : (s.issue n c).msgFits n c i = true := by
        simp only [State.msgFits, hmail, hm]
        simpa using hfits
      have hflags : (s.issue n c).msgFlags n i = if m.poison then 0x200 else 0 := by simp only [State.msgFlags, hmail, hm]
      rw [hpick] at hgo
      exact exec_ends hn hrun hwf (exec_mrecv n c s) hop (hgo.trans (by simp only [hfit, if_true, hflags]))
    · have hfit : (s.issue n c).msgFits n c i = false := by
        simp only [State.msgFits, hmail, hm, hstore, Nat.not_le.2 hbig, decide_false, Bool.or_self]
      rw [hpick] at hgo
      exact exec_refused hn hrun hwf (exec_mrecv n c s) hop
        (hgo.trans (by simp only [hfit, Bool.false_eq_true, if_false]; rfl)) (.inl (by decide))
    · rw [hpick] at hgo
      exact exec_leaves hn hrun hwf (exec_mrecv n c s) hop hgo
  · obtain ⟨sends, hcore⟩ := State.core_takeMsg (c := c) hm
    dsimp only
    rw [hcore]
    refine ⟨Core.receive_mailbox, fun h => Core.receive_descriptor h, fun hregs => ?_, fun hregs => ?_⟩
    · obtain ⟨_, hcs, hx⟩ := Core.receive_store (k := { s.core n with mailbox := (s.core n).mailbox.eraseIdx i }) (m := m) hregs
      refine ⟨?_, fun a ha => ?_, hx⟩
      · dsimp only
        rw [hcs, cellsRead_write]
      · rw [State.csByte, hcore]
        dsimp only
        rw [hcs]
        exact cellsWrite_outside _ _ _ _ ha
    · obtain ⟨_, hcs, hx⟩ := Core.receive_regs (k := { s.core n with mailbox := (s.core n).mailbox.eraseIdx i }) (m := m) hregs
      refine ⟨hcs, fun j hj hne => (hx _ hne).trans ?_, fun q hq hne => (hx _ hne).trans ?_⟩
      · rw [if_pos (by omega), Nat.add_sub_cancel]
      · rw [if_neg (by omega)]
        rfl
  · obtain ⟨b, w, hafter⟩ := (s.msgPlaced dst src m).core_complete src m.cmd m.cc (if m.msg.poison then 0x200 else 0) dst
    refine ⟨s.msgPlaced dst src m, ?_, ?_, ?_⟩
    · have hnone : ((s.msgDelivered dst src m).core dst).blocked = none := by
        rw [State.msgDelivered, hafter, State.msgPlaced_dst hne]
        exact hblocked
      rw [messagePlacement_room hfind hnew hroom, hnone]
      cases ((s.msgDelivered dst src m).core dst).pilot <;> rfl
    · rw [State.msgPlaced_dst hne]
    · rw [State.msgPlaced_src hne]
  · obtain ⟨b, w, hafter⟩ := (s.msgPlaced dst src m).core_complete src m.cmd m.cc (if m.msg.poison then 0x200 else 0) dst
    intro t hpick
    have hwait : ((s.msgDelivered dst src m).core dst).pilot = .waitMsg o tag any :=
      State.complete_waits _ _ _ _ _ _ _ _ _ (by rw [State.msgPlaced_dst hne]; exact hpilot)
    have hkeep : ((s.msgDelivered dst src m).core dst).blocked = some c ∧ ((s.msgDelivered dst src m).core dst).frozen = false := by
      rw [State.msgDelivered, hafter, State.msgPlaced_dst hne]
      exact ⟨hblocked, hfrozen⟩
    have hpick' : (s.msgDelivered dst src m).pickMsg dst c o tag any = some i := hpick
    rw [messagePlacement_room hfind hnew hroom]
    simp only [hwait, hkeep, Bool.false_eq_true, if_false, hpick']
    rfl
  · obtain ⟨r, hexec⟩ := messagePlacement_full hfind hnew hfull hcalled
    refine ⟨_, r, hexec, ?_, ?_, rfl⟩
    · by_cases h : dst = src
      · rw [h, State.core_onCore_same]
      · rw [State.core_onCore_other _ _ h]
    · rw [State.core_onCore_same]

end Sys2Proof.Machine
end

/-! ## O14: copies within core store (R213, R217, R218) -/

section
namespace Sys2Proof.Machine
open Sys2Proof

/-! ### A change of one core's store -/

/-- From s to t nothing of memory and of the cores changed but the store of core n, and of that no byte in `kept`; its generators may have drawn. -/
structure State.stowed (n : Nat) (kept : Nat → Prop) (s t : State) : Prop where
  mem : t.mem = s.mem
  other : ∀ q, q ≠ n → t.core q = s.core q
  bytes : ∀ a, kept a → t.csByte n a = s.csByte n a
  rest : t.core n = { s.core n with cs := (t.core n).cs, csPoison := (t.core n).csPoison, lanes := (t.core n).lanes }

section
variable {n : Nat} {kept : Nat → Prop} {s t u : State}

theorem State.stowed.refl (s : State) : s.stowed n kept s := ⟨rfl, fun _ _ => rfl, fun _ _ => rfl, rfl⟩

theorem State.stowed.trans (h : s.stowed n kept t) (g : t.stowed n kept u) : s.stowed n kept u where
  mem := g.mem.trans h.mem
  other q hq := (g.other q hq).trans (h.other q hq)
  bytes a ha := (g.bytes a ha).trans (h.bytes a ha)
  rest := by
    have hg := g.rest
    rw [h.rest] at hg
    exact hg

theorem State.csWrite_stowed (s : State) {a : Nat} {d : List Byte} (h : ∀ x, kept x → x < a ∨ a + d.length ≤ x) (p : Bool) :
    s.stowed n kept (s.onCore n (fun k => k.csWrite a d p)) where
  mem := s.onCore_mem ..
  other q hq := s.core_onCore_other _ hq
  bytes x hx := by rw [State.csByte, s.core_onCore_same, Core.csWrite_cs, cellsWrite_outside _ _ _ _ (h x hx), State.csByte]
  rest := by
    rw [s.core_onCore_same]
    rfl

theorem State.stowed.xval (h : s.stowed n kept t) (q k : Nat) : (t.core q).xval k = (s.core q).xval k := by
  by_cases hq : q = n
  · subst hq
    rw [h.rest]
    rfl
  · rw [h.other q hq]

theorem State.stowed.csByte_other (h : s.stowed n kept t) {q : Nat} (hq : q ≠ n) (a : Nat) : t.csByte q a = s.csByte q a := by
  rw [State.csByte, h.other q hq, State.csByte]

/-- Steps that each change the store of core n alone do so together. -/
theorem foldl_stowed {α : Type} {g : Run → α → Run} {l : List α} (h : ∀ x ∈ l, ∀ r : Run, r.s.stowed n kept (g r x).s) (r : Run) :
    r.s.stowed n kept (l.foldl g r).s :=
  List.foldlRecOn (motive := fun r' : Run => r.s.stowed n kept r'.s) l g (.refl r.s) (fun r' hr x hx => hr.trans (h x hx r'))

end

theorem State.csByte_issue (s : State) (n : Nat) (c : Cmd) (q a : Nat) : (s.issue n c).csByte q a = s.csByte q a := by
  rw [State.csByte, State.cs_issue, State.csByte]

/-! ### Writes piece by piece -/

/-- A byte of a range that was written. -/
theorem tabGet_cellsWrite (m : List Host.Cell) (a x : Nat) {d : List Byte} {v : Nat → Byte} (h : ∀ k (hk : k < d.length), d[k] = v (a + k)) :
    tabGet (cellsWrite m a d) x 0#8 = if a ≤ x ∧ x < a + d.length then v x else tabGet m x 0#8 := by
  split
  · next hx =>
    obtain ⟨k, rfl⟩ := Nat.exists_eq_add_of_le hx.1
    rw [cellsWrite_inside _ _ _ _ (by omega), h]
  · next hx => exact cellsWrite_outside _ _ _ _ (by omega)

/-- Steps that each give the bytes of their piece their values give every piece its values, while what they rest on holds. -/
theorem foldl_pieces {l : List (Nat × Nat)} {g : Run → Nat × Nat → Run} {byte : Run → Nat → Byte} {v : Nat → Byte} {ok : Run → Prop}
    (hok : ∀ x ∈ l, ∀ r, ok r → ok (g r x))
    (hstep : ∀ x ∈ l, ∀ r, ok r → ∀ a, byte (g r x) a = if x.1 ≤ a ∧ a < x.1 + x.2 then v a else byte r a) {r : Run} (hr : ok r) {a : Nat}
    (ha : byte r a = v a ∨ ∃ x ∈ l, x.1 ≤ a ∧ a < x.1 + x.2) : byte (l.foldl g r) a = v a := by
  induction l generalizing r with
  | nil => exact ha.resolve_right (by simp)
  | cons x t ih =>
    have hx := hstep x (List.mem_cons_self ..) r hr a
    refine ih (fun y hy => hok y (List.mem_cons_of_mem _ hy)) (fun y hy => hstep y (List.mem_cons_of_mem _ hy))
      (hok x (List.mem_cons_self ..) r hr) ?_
    by_cases hin : x.1 ≤ a ∧ a < x.1 + x.2
    · exact .inl (hx.trans (if_pos hin))
    · rcases ha with ha | ⟨y, hy, hya⟩
      · exact .inl ((hx.trans (if_neg hin)).trans ha)
      · rcases List.mem_cons.1 hy with rfl | hy
        · exact absurd hya hin
        · exact .inr ⟨y, hy, hya⟩

/-- A piece of a range read at a distance: byte k of it. -/
theorem csRead_getElem (k : Core) (a len i : Nat) (hi : i < (k.csRead a len).1.length) : (k.csRead a len).1[i] = tabGet k.cs (a + i) 0#8 := by
  have hread : (k.csRead a len).1 = (List.range' a len).map (fun x => tabGet k.cs x 0#8) := cellsRead_eq ..
  simp only [hread, List.getElem_map, List.getElem_range', Nat.one_mul]

theorem csRead_length (k : Core) (a len : Nat) : (k.csRead a len).1.length = len := cellsRead_length ..

/-- Bytes of core k's store, from `src` on, put at x.1 of core m's. -/
def Run.poured (m : Nat) (k : Core) (a : Nat) (x : Nat × Nat) (r : Run) : Run :=
  { r with
    s := r.s.onCore m (fun j => j.csWrite x.1 (k.csRead a x.2).1 (k.csRead a x.2).2)
    flags := if (k.csRead a x.2).2 then r.flags ||| 0x200 else r.flags }

theorem Run.poured_stowed {m : Nat} {k : Core} {a : Nat} {x : Nat × Nat} {kept : Nat → Prop} (h : ∀ b, kept b → b < x.1 ∨ x.1 + x.2 ≤ b)
    (r : Run) : r.s.stowed m kept (r.poured m k a x).s :=
  State.csWrite_stowed _ (fun b hb => by rw [csRead_length]; exact h b hb) _

theorem Run.poured_csByte {m : Nat} {k : Core} {a : Nat} {x : Nat × Nat} {v : Nat → Byte}
    (hv : ∀ i, i < x.2 → tabGet k.cs (a + i) 0#8 = v (x.1 + i)) (r : Run) (b : Nat) :
    (r.poured m k a x).s.csByte m b = if x.1 ≤ b ∧ b < x.1 + x.2 then v b else r.s.csByte m b := by
  have hput : (r.poured m k a x).s.core m = (r.s.core m).csWrite x.1 (k.csRead a x.2).1 (k.csRead a x.2).2 := State.core_onCore_same ..
  rw [State.csByte, hput, Core.csWrite_cs, tabGet_cellsWrite (v := v), csRead_length]
  · rfl
  · intro i hi
    rw [csRead_getElem]
    exact hv i (by rwa [csRead_length] at hi)

/-! ### CSCOPY -/

section
variable {n : Nat} {c : Cmd} {s : State}

/-- One piece of a CSCOPY: the source is the executing core as it stood. -/
def Run.cscopied (k : Core) (src dst m : Nat) (r : Run) (x : Nat × Nat) : Run := r.poured m k (src + (x.1 - dst)) x

theorem go_cscopyBody {p m : Nat} (hlen : s.w3of n c 0 % 32 = 0) (hmin : 32 ≤ s.w3of n c 0) (hm : bits c.w2.toNat 39 32 = m)
    (hcore : m < s.nCores) (hp : s.holder n = some p) (hholder : s.holder m = some p) (hwith : s.withheld m = false)
    (hsrc : bits c.w1.toNat 21 0 + s.w3of n c 0 ≤ shadowBase) (hdst : bits c.w2.toNat 21 0 + s.w3of n c 0 ≤ shadowBase) :
    CM.go (cscopyBody n c) ⟨s, 0, none⟩ = (.ok true, (linePieces (bits c.w2.toNat 21 0) (s.w3of n c 0)).foldl
      (Run.cscopied (s.core n) (bits c.w1.toNat 21 0) (bits c.w2.toNat 21 0) m) ⟨s, 0, none⟩) := by
  have hmax : s.w3of n c 0 ≤ 0x400000 := by
    simp only [shadowBase] at hdst
    omega
  have hcheck : (s.w3of n c 0 % 32 == 0 && decide (32 ≤ s.w3of n c 0) && decide (s.w3of n c 0 ≤ 0x400000)) = true := by
    simp only [hlen, hmin, hmax, beq_self_eq_true, decide_true, Bool.and_self]
  have hp' := CM.go_holderOf (r := ⟨s, 0, none⟩) hp
  have hloop := CM.go_forM (linePieces (bits c.w2.toNat 21 0) (s.w3of n c 0)) (fun x => do
    modS (fun t => t.onCore m (fun j => j.csWrite x.1 ((s.core n).csRead (bits c.w1.toNat 21 0 + (x.1 - bits c.w2.toNat 21 0)) x.2).1
      ((s.core n).csRead (bits c.w1.toNat 21 0 + (x.1 - bits c.w2.toNat 21 0)) x.2).2))
    flagIf ((s.core n).csRead (bits c.w1.toNat 21 0 + (x.1 - bits c.w2.toNat 21 0)) x.2).2 0x200)
    (Run.cscopied (s.core n) (bits c.w1.toNat 21 0) (bits c.w2.toNat 21 0) m) ⟨s, 0, none⟩
    (fun x _ r => by simp only [CM.go_bind, CM.go_modS, CM.go_flagIf]; rfl)
  simp only [cscopyBody, CM.go_bind, CM.go_w3, CM.go_need, hcheck, if_true, CM.go_getS, hm, hcore, hp', hholder, beq_self_eq_true, hwith,
    Bool.not_false, Bool.and_self, hsrc, hdst, decide_true, hloop, CM.go_pure]

theorem cscopied_bytes (k : Core) (src dst m len : Nat) (r : Run) {j : Nat} (hj : j < len) :
    ((linePieces dst len).foldl (Run.cscopied k src dst m) r).s.csByte m (dst + j) = tabGet k.cs (src + j) 0#8 := by
  refine (foldl_pieces (byte := fun r a => r.s.csByte m a) (v := fun a => tabGet k.cs (src + (a - dst)) 0#8) (ok := fun _ => True)
    (fun _ _ _ _ => trivial) (fun x hx r _ a => ?_) trivial (.inr (exists_linePiece (by omega) (by omega)))).trans ?_
  · obtain ⟨hlow, -, -⟩ := pieces_within (by decide) hx
    exact Run.poured_csByte (k := k) (v := fun a => tabGet k.cs (src + (a - dst)) 0#8)
      (fun i _ => by rw [show src + (x.1 - dst) + i = src + (x.1 + i - dst) by omega]) r a
  · rw [Nat.add_sub_cancel_left]

theorem cscopied_stowed (k : Core) (src dst m len : Nat) (r : Run) :
    r.s.stowed m (fun a => a < dst ∨ dst + len ≤ a) ((linePieces dst len).foldl (Run.cscopied k src dst m) r).s := by
  refine foldl_stowed (fun x hx r => Run.poured_stowed (fun a ha => ?_) r) r
  obtain ⟨hlow, hhigh, -⟩ := pieces_within (by decide) hx
  omega

end

/-! ### COPY of plain tensors -/

section
variable {n : Nat} {r : Run}

/-- One piece of a move within core store, from the store as it is. -/
def Run.moved (n sa da : Nat) (r : Run) (x : Nat × Nat) : Run := r.poured n (r.s.core n) (sa + (x.1 - da)) x

/-- A move of bytes within core store. -/
def Run.movedAll (n sa da len : Nat) (r : Run) : Run := (linePieces da len).foldl (Run.moved n sa da) r

theorem go_moveBytes {sa da len : Nat} (hs : sa + len ≤ shadowBase) (hd : da + len ≤ shadowBase) :
    CM.go (moveBytes n true sa true da len) r = (.ok (), r.movedAll n sa da len) := by
  refine CM.go_forM _ _ _ _ (fun x hx r => ?_)
  obtain ⟨hlow, hhigh, -⟩ := pieces_within (by decide) hx
  have hread := CM.go_rdAt_true (n := n) (a := sa + (x.1 - da)) (len := x.2) (r := r) (by omega)
  rw [CM.go_bind_ok hread, CM.go_wrAt_true (by rw [csRead_length]; omega)]
  rfl

theorem Run.movedAll_stowed (sa : Nat) {da len : Nat} {kept : Nat → Prop} (h : ∀ a, kept a → a < da ∨ da + len ≤ a) :
    r.s.stowed n kept (r.movedAll n sa da len).s := by
  refine foldl_stowed (fun x hx r => Run.poured_stowed (fun a ha => ?_) r) r
  obtain ⟨hlow, hhigh, -⟩ := pieces_within (by decide) hx
  have hout := h a ha
  omega

/-- A move between ranges that do not overlap gives the bytes of the source. -/
theorem Run.movedAll_bytes {sa da len : Nat} (hapart : sa + len ≤ da ∨ da + len ≤ sa) {j : Nat} (hj : j < len) :
    (r.movedAll n sa da len).s.csByte n (da + j) = r.s.csByte n (sa + j) := by
  refine (foldl_pieces (byte := fun t a => t.s.csByte n a) (v := fun a => r.s.csByte n (sa + (a - da)))
    (ok := fun t => ∀ a, sa ≤ a → a < sa + len → t.s.csByte n a = r.s.csByte n a) (fun x hx t ht a h1 h2 => ?_) (fun x hx t ht a => ?_)
    (fun a _ _ => rfl) (.inr (exists_linePiece (by omega) (by omega)))).trans ?_
  · obtain ⟨hlow, hhigh, -⟩ := pieces_within (by decide) hx
    exact ((Run.poured_stowed (kept := fun b => b < x.1 ∨ x.1 + x.2 ≤ b) (fun _ h => h) t).bytes a (by omega)).trans (ht a h1 h2)
  · obtain ⟨hlow, hhigh, -⟩ := pieces_within (by decide) hx
    refine Run.poured_csByte (k := t.s.core n) (v := fun a => r.s.csByte n (sa + (a - da))) (fun i hi => ?_) t a
    rw [show sa + (x.1 - da) + i = sa + (x.1 + i - da) by omega]
    exact ht _ (by omega) (by omega)
  · rw [Nat.add_sub_cancel_left]

variable {sd dd : Desc} {r0 k : Nat}

/-- One row of a COPY. -/
def Run.copiedRow (n : Nat) (sd dd : Desc) (r0 : Nat) (r : Run) (i : Nat) : Run :=
  r.movedAll n (sd.elemAddr (r0 + i) 0) (dd.elemAddr (r0 + i) 0) (min sd.cols dd.cols * sd.fmt.bytes)

theorem go_copyPlain (hs : sd.plainCore) (hd : dd.plainCore) (hfmt : sd.fmt = dd.fmt) (hsr : r0 + k ≤ sd.rows) (hdr : r0 + k ≤ dd.rows) :
    CM.go (copyPlain n sd dd r0 k) r = (.ok (), (List.range k).foldl (Run.copiedRow n sd dd r0) r) := by
  refine CM.go_forM _ _ _ _ (fun i hi r => ?_)
  have hi := List.mem_range.1 hi
  have hin := hs.elems_within (row := r0 + i) (col := 0) (k := min sd.cols dd.cols) (by omega) (by omega)
  have hout := hd.elems_within (row := r0 + i) (col := 0) (k := min sd.cols dd.cols) (by omega) (by omega)
  rw [← hfmt] at hout
  rw [hs.2.1, hd.2.1]
  exact go_moveBytes hin hout

theorem copiedRows_stowed (hfmt : sd.fmt = dd.fmt) (hdr : r0 + k ≤ dd.rows) :
    r.s.stowed n dd.outside ((List.range k).foldl (Run.copiedRow n sd dd r0) r).s := by
  refine foldl_stowed (fun i hi r => Run.movedAll_stowed _ (fun a ha => ?_)) r
  have hi := List.mem_range.1 hi
  rw [hfmt]
  exact ha.elems (by omega) (by omega)

theorem go_copyBody {c : Cmd} {s : State} (hsl : locOf c.w1 = true) (hdl : locOf c.w2 = true)
    (hsd : (s.core n).descAt (addrOf c.w1) = some sd) (hdd : (s.core n).descAt (addrOf c.w2) = some dd) (hs : sd.plainCore)
    (hd : dd.plainCore) (hfmt : sd.fmt = dd.fmt) (hk : (if s.w3of n c 1 = 0 then sd.rows - s.w3of n c 0 else s.w3of n c 1) = k)
    (hsr : s.w3of n c 0 + k ≤ sd.rows) (hdr : s.w3of n c 0 + k ≤ dd.rows) :
    CM.go (copyBody n c) ⟨s, 0, none⟩ = (.ok true, (List.range k).foldl (Run.copiedRow n sd dd (s.w3of n c 0)) ⟨s, 0, none⟩) := by
  have hdest : CM.go (needDest dd) ⟨s, 0, none⟩ = (.ok (), ⟨s, 0, none⟩) := by simp [needDest, hd.1]
  have hsame : (sd.fmt == dd.fmt) = true := by rw [hfmt, beq_self_eq_true]
  have hplain := go_copyPlain (n := n) (r := ⟨s, 0, none⟩) hs hd hfmt hsr hdr
  simp only [copyBody, hsl, hdl, CM.go_bind, go_useDesc (r := ⟨s, 0, none⟩) hsd hs.1, go_useDesc (r := ⟨s, 0, none⟩) hdd hd.1, hdest,
    CM.go_need, hsame, if_true, CM.go_w3, hk, hsr, hdr, decide_true, hs.1, Bool.not_false, Bool.false_and, Bool.true_or, Bool.and_self,
    Bool.false_eq_true, if_false, hplain, CM.go_pure]

end

/-- Settles O14: both commands write piece by piece, and every piece's bytes are the source's. -/
theorem coreStoreCopies : Obligations.CoreStoreCopies := by
  intro n c s hn hrun
  refine ⟨fun hop => ?_, fun hop hsl hdl sd dd hsd hdd hs hd hfmt => ?_⟩
  · intro len src dst m hlen hmin hcore hholder hwith hsrc hdst
    obtain ⟨p, hp⟩ := hrun.holder
    have hgo := go_cscopyBody (s := s.issue n c) (n := n) (c := c) (p := p) (m := m) (by rwa [s.w3of_issue]) (by rwa [s.w3of_issue]) rfl
      (by rwa [s.nCores_issue]) (by rwa [s.holder_issue]) (by rw [s.holder_issue]; exact hholder.trans hp) (by rwa [s.withheld_issue])
      (by rwa [s.w3of_issue]) (by rwa [s.w3of_issue])
    rw [s.w3of_issue] at hgo
    have hstow := cscopied_stowed ((s.issue n c).core n) src dst m len ⟨s.issue n c, 0, none⟩
    refine completes_of_go (exec_pilotRun hn (i := .cscopy n c) rfl rfl hop) hrun hgo ⟨fun j hj => ?_, fun a ha => ?_, fun q a hq => ?_, ?_,
      fun q k => ?_⟩
    · rw [cscopied_bytes _ _ _ _ _ _ hj, s.cs_issue]
      rfl
    · rw [hstow.bytes a ha, s.csByte_issue]
    · rw [hstow.csByte_other hq, s.csByte_issue]
    · exact hstow.mem.trans (s.issue_mem n c)
    · rw [hstow.xval, s.xval_issue]
  · intro r0 k len hsr hdr
    have hgo := go_copyBody (s := s.issue n c) (n := n) (c := c) hsl hdl (by rwa [s.descAt_issue]) (by rwa [s.descAt_issue]) hs hd hfmt
      (k := k) (by rw [s.w3of_issue, s.w3of_issue]) (by rwa [s.w3of_issue]) (by rwa [s.w3of_issue])
    rw [s.w3of_issue] at hgo
    have hstow := copiedRows_stowed (n := n) (r := ⟨s.issue n c, 0, none⟩) (sd := sd) (r0 := r0) (k := k) hfmt hdr
    refine completes_of_go (exec_pilotRun hn (i := .copy n c) rfl rfl hop) hrun hgo ⟨fun a ha => ?_, fun q hq => ?_, ?_, fun q => ?_,
      fun hk hapart j hj => ?_⟩
    · rw [hstow.bytes a ha, s.csByte_issue]
    · rw [hstow.other q hq, s.core_issue_other n c hq]
    · exact hstow.mem.trans (s.issue_mem n c)
    · rw [hstow.xval, s.xval_issue]
    · rw [hk]
      exact (Run.movedAll_bytes (r := ⟨s.issue n c, 0, none⟩) hapart hj).trans (s.csByte_issue n c n _)

end Sys2Proof.Machine
end

/-! ## O15: FILL, RFILL and SXSTEP (R213, R192, R128) -/

section
namespace Sys2Proof.Machine
open Sys2Proof

/-! ### Rows written one after another -/

section
variable {n : Nat} {d : Desc}

/-- One row of a plain tensor written with its bytes. -/
def Run.rowWritten (n : Nat) (d : Desc) (b : List Byte) (r : Run) (i : Nat) : Run :=
  { r with s := r.s.onCore n (fun k => k.csWrite (d.elemAddr i 0) b false) }

theorem Run.rowWritten_stowed {b : List Byte} (hb : b.length = d.cols * d.fmt.bytes) {i : Nat} (hi : i < d.rows) (r : Run) :
    r.s.stowed n d.outside (r.rowWritten n d b i).s := by
  refine State.csWrite_stowed _ (fun x hx => ?_) _
  rw [hb]
  exact hx i hi

theorem go_writeRow_plain (hp : d.plainCore) {b : List Byte} (hb : b.length = d.cols * d.fmt.bytes) {i : Nat} (hi : i < d.rows) (r : Run) :
    CM.go (wrAt n d.loc (d.elemAddr i 0) b false) r = (.ok (), r.rowWritten n d b i) := by
  have hin := hp.elems_within (row := i) (col := 0) (k := d.cols) hi (by omega)
  rw [← hb] at hin
  rw [hp.2.1, CM.go_wrAt_true hin]
  rfl

/-- The bytes of a row of a plain tensor in core n's store. -/
def State.rowOf (s : State) (n : Nat) (d : Desc) (i : Nat) : List Byte := cellsRead (s.core n).cs (d.elemAddr i 0) (d.cols * d.fmt.bytes)

theorem Run.rowOf_rowWritten {b : List Byte} (hb : b.length = d.cols * d.fmt.bytes) (r : Run) (i : Nat) :
    (r.rowWritten n d b i).s.rowOf n d i = b := by
  have hput : (r.rowWritten n d b i).s.core n = (r.s.core n).csWrite (d.elemAddr i 0) b false := State.core_onCore_same ..
  rw [State.rowOf, hput, Core.csWrite_cs, cellsRead_write_length _ _ hb]

theorem Run.rowOf_rowWritten_apart {b : List Byte} (hb : b.length = d.cols * d.fmt.bytes) (r : Run) {i j : Nat} (hij : i ≠ j)
    (hapart : d.cols * d.fmt.bytes ≤ d.pitch) : (r.rowWritten n d b i).s.rowOf n d j = r.s.rowOf n d j := by
  have hput : (r.rowWritten n d b i).s.core n = (r.s.core n).csWrite (d.elemAddr i 0) b false := State.core_onCore_same ..
  have hrows : ∀ x y, x < y → x * d.pitch + d.pitch ≤ y * d.pitch := fun x y h => by
    rw [← Nat.succ_mul]
    exact Nat.mul_le_mul_right _ h
  rw [State.rowOf, hput, Core.csWrite_cs, cellsRead_write_apart, State.rowOf]
  rw [hb, Desc.elemAddr, Desc.elemAddr]
  rcases Nat.lt_or_gt_of_ne hij with h | h
  · have := hrows _ _ h
    omega
  · have := hrows _ _ h
    omega

/-- Rows that do not overlap keep what they were written with. -/
theorem rowOf_rowsWritten {b : List Byte} (hb : b.length = d.cols * d.fmt.bytes) (hapart : d.cols * d.fmt.bytes ≤ d.pitch ∨ d.rows ≤ 1)
    {l : List Nat} (hl : ∀ i ∈ l, i < d.rows) (r : Run) {j : Nat} (hj : j < d.rows) (h : r.s.rowOf n d j = b ∨ j ∈ l) :
    (l.foldl (Run.rowWritten n d b) r).s.rowOf n d j = b := by
  induction l generalizing r with
  | nil => exact h.resolve_right (by simp)
  | cons i t ih =>
    refine ih (fun x hx => hl x (List.mem_cons_of_mem _ hx)) (r.rowWritten n d b i) ?_
    by_cases hij : i = j
    · subst hij
      exact .inl (Run.rowOf_rowWritten hb r i)
    · have hpitch : d.cols * d.fmt.bytes ≤ d.pitch := hapart.resolve_right (fun hone => hij (by have := hl i (List.mem_cons_self ..); omega))
      rcases h with h | h
      · exact .inl ((Run.rowOf_rowWritten_apart hb r hij hpitch).trans h)
      · exact .inr ((List.mem_cons.1 h).resolve_left (Ne.symm hij))

/-- Element e of a row that repeats the bytes of one element. -/
theorem elem_of_row {v e : Nat} {s : State} {i : Nat} (he : e < d.cols)
    (h : s.rowOf n d i = (List.range d.cols).flatMap (fun _ => leBytes v d.fmt.bytes)) :
    cellsRead (s.core n).cs (d.elemAddr i e) d.fmt.bytes = leBytes v d.fmt.bytes := by
  have hlen : ∀ l : List Nat, (l.flatMap (fun _ => leBytes v d.fmt.bytes)).length = l.length * d.fmt.bytes := fun l => by
    simp [List.length_flatMap]
  have hsplit : List.range d.cols = List.range e ++ ([e] ++ List.range' (e + 1) (d.cols - e - 1)) := by
    rw [List.range_eq_range', List.range_eq_range', show [e] = List.range' e 1 from rfl, List.range'_append_1,
      show d.cols = e + (1 + (d.cols - e - 1)) by omega, ← List.range'_append_1, Nat.zero_add]
    congr 2
    omega
  have hcols : d.cols * d.fmt.bytes = e * d.fmt.bytes + (d.fmt.bytes + (d.cols - e - 1) * d.fmt.bytes) := by
    rw [← Nat.one_mul d.fmt.bytes, ← Nat.mul_assoc, ← Nat.mul_assoc, ← Nat.mul_assoc, ← Nat.add_mul, ← Nat.add_mul]
    congr 1
    omega
  rw [State.rowOf, hcols, cellsRead_add, cellsRead_add, hsplit, List.flatMap_append, List.flatMap_append] at h
  have hrest := (List.append_inj h (by rw [cellsRead_length, hlen, List.length_range])).2
  have helem := (List.append_inj hrest (by rw [cellsRead_length, hlen, List.length_singleton, Nat.one_mul])).1
  have haddr : d.elemAddr i 0 + e * d.fmt.bytes = d.elemAddr i e := by simp only [Desc.elemAddr]; omega
  rwa [haddr, List.flatMap_singleton] at helem

/-! ### FILL -/

variable {c : Cmd} {s : State}

theorem go_fillBody (hloc : locOf c.w1 = true) (hd : (s.core n).descAt (addrOf c.w1) = some d) (hp : d.plainCore) :
    CM.go (fillBody n c) ⟨s, 0, none⟩ = (.ok true, (List.range d.rows).foldl
      (Run.rowWritten n d ((List.range d.cols).flatMap (fun _ => leBytes (s.w3of n c 0) d.fmt.bytes))) ⟨s, 0, none⟩) := by
  have hdest : CM.go (needDest d) ⟨s, 0, none⟩ = (.ok (), ⟨s, 0, none⟩) := by simp [needDest, hp.1]
  have hrange := go_needRange (r := ⟨s, 0, none⟩) hp (Core.descAt_plain hd hp.1)
  have hloop : CM.go (fillPlain n d (s.w3of n c 0)) ⟨s, 0, none⟩ = _ :=
    CM.go_forM (List.range d.rows) _ _ ⟨s, 0, none⟩ (fun i hi r => go_writeRow_plain hp
      (b := (List.range d.cols).flatMap (fun _ => leBytes (s.w3of n c 0) d.fmt.bytes)) (by simp [List.length_flatMap])
      (List.mem_range.1 hi) r)
  simp only [fillBody, hloc, CM.go_bind, go_useDesc (r := ⟨s, 0, none⟩) hd hp.1, hdest, hrange, CM.go_w3, hp.1, Bool.false_eq_true, if_false,
    hloop, CM.go_pure]

/-! ### SXSTEP -/

/-- A flags word with bit 0 set: the bit goes, and bit 1 comes (R128). -/
theorem promote_flags {v : Nat} (h : v % 2 = 1) : (v ||| 2) - 1 = v / 4 * 4 + 2 := by
  have hlow : v % 4 ||| 2 = 3 := by
    have hcases : v % 4 = 1 ∨ v % 4 = 3 := by omega
    rcases hcases with h | h <;> rw [h] <;> rfl
  have hor : v ||| 2 = 4 * (v / 4) + 3 := by
    have hsplit : ∀ b, b < 4 → 4 * (v / 4) + b = 4 * (v / 4) ||| b := fun b hb => Nat.two_pow_add_eq_or_of_lt (i := 2) hb (v / 4)
    calc v ||| 2 = (4 * (v / 4) + v % 4) ||| 2 := by rw [Nat.div_add_mod]
      _ = 4 * (v / 4) ||| (v % 4 ||| 2) := by rw [hsplit _ (Nat.mod_lt _ (by decide)), Nat.or_assoc]
      _ = 4 * (v / 4) + 3 := by rw [hlow, hsplit 3 (by decide)]
  omega

/-- The counts and events of a record at zero. -/
def State.countsCleared (s : State) (n a : Nat) : State := s.onCore n (fun k => k.csWrite a (leBytes 0 16) false)

theorem State.countsCleared_cs (s : State) (n a : Nat) : ((s.countsCleared n a).core n).cs = cellsWrite (s.core n).cs a (leBytes 0 16) := by
  rw [State.countsCleared, State.core_onCore_same, Core.csWrite_cs]

theorem State.countsCleared_reads (s : State) (n a : Nat) :
    cellsRead ((s.countsCleared n a).core n).cs a 16 = List.replicate 16 0#8 ∧
      cellsRead ((s.countsCleared n a).core n).cs (a + 16) 4 = cellsRead (s.core n).cs (a + 16) 4 := by
  rw [State.countsCleared_cs]
  exact ⟨cellsRead_write_length _ _ (leBytes_length ..), cellsRead_write_apart _ _ (.inr (by rw [leBytes_length]))⟩

theorem State.countsCleared_stowed (s : State) (n a : Nat) : s.stowed n (fun x => x < a ∨ a + 20 ≤ x) (s.countsCleared n a) :=
  s.csWrite_stowed (fun x hx => by rw [leBytes_length]; omega) false

/-- The record with its counts cleared and the flags word w. -/
def State.sextantPut (s : State) (n a w : Nat) (p : Bool) : State := (s.countsCleared n a).onCore n (fun k => k.csWrite (a + 16) (leBytes w 4) p)

theorem State.sextantPut_reads (s : State) (n a w : Nat) (p : Bool) :
    cellsRead ((s.sextantPut n a w p).core n).cs a 16 = List.replicate 16 0#8 ∧
      leNat (cellsRead ((s.sextantPut n a w p).core n).cs (a + 16) 4) = w % 2 ^ 32 := by
  rw [State.sextantPut, State.core_onCore_same, Core.csWrite_cs, cellsRead_write_apart _ _ (.inl (Nat.le_refl _)),
    cellsRead_write_length _ _ (leBytes_length ..), leNat_leBytes]
  exact ⟨(s.countsCleared_reads n a).1, rfl⟩

theorem State.sextantPut_stowed (s : State) (n a w : Nat) (p : Bool) :
    s.stowed n (fun x => x < a ∨ a + 20 ≤ x) (s.sextantPut n a w p) :=
  (s.countsCleared_stowed n a).trans (State.csWrite_stowed _ (fun x hx => by rw [leBytes_length]; omega) p)

theorem go_sxstepBody {a : Nat} (hloc : locOf c.w1 = true) (ha : addrOf c.w1 = a) (hal : a % 32 = 0) (hin : a + 20 ≤ shadowBase) :
    CM.go (sxstepBody n c) ⟨s, 0, none⟩ = (.ok true,
      if bit (leNat ((s.core n).csRead (a + 16) 4).1) 0 then
        ⟨s.sextantPut n a ((leNat ((s.core n).csRead (a + 16) 4).1 ||| 2) - 1) ((s.core n).csRead (a + 16) 4).2,
          if ((s.core n).csRead (a + 16) 4).2 then 0x200 else 0, none⟩
      else ⟨s.countsCleared n a, 0, none⟩) := by
  have haligned : aligned a 32 = true := by simp [aligned, hal]
  have hread := CM.go_rdAt_true (n := n) (a := a + 16) (len := 4) (r := ⟨s, 0, none⟩) (by omega)
  have hclear : CM.go (wrAt n true a (leBytes 0 16) false) ⟨s, 0, none⟩ = (.ok (), ⟨s.countsCleared n a, 0, none⟩) :=
    CM.go_wrAt_true (by rw [leBytes_length]; omega)
  have hflags := CM.go_wrAt_true (n := n) (a := a + 16) (d := leBytes ((leNat ((s.core n).csRead (a + 16) 4).1 ||| 2) - 1) 4)
    (p := ((s.core n).csRead (a + 16) 4).2) (r := ⟨s.countsCleared n a, 0, none⟩) (by rw [leBytes_length]; omega)
  rw [Nat.zero_or] at hflags
  simp only [sxstepBody, ha, hloc, CM.go_bind, CM.go_need, haligned, if_true, hread, hclear]
  split
  · simp only [CM.go_bind, hflags, CM.go_pure, State.sextantPut]
  · rfl

end

/-! ### RFILL -/

section
variable {n : Nat} {a b : Word}

/-- A program that ends well changes the store of core n alone, none of the bytes in `kept`, and answers what `Q` tells. -/
def CM.stows {α : Type} (n : Nat) (kept : Nat → Prop) (x : CM α) (Q : α → Prop) : Prop :=
  ∀ r : Run, ∃ y r', CM.go x r = (.ok y, r') ∧ r.s.stowed n kept r'.s ∧ Q y

theorem CM.stows.bind {α β : Type} {kept : Nat → Prop} {x : CM α} {f : α → CM β} {Q : α → Prop} {P : β → Prop} (hx : CM.stows n kept x Q)
    (hf : ∀ y, Q y → CM.stows n kept (f y) P) : CM.stows n kept (x >>= f) P := fun r => by
  obtain ⟨y, r1, hgo, hstow, hy⟩ := hx r
  obtain ⟨z, r2, hgo', hstow', hz⟩ := hf y hy r1
  exact ⟨z, r2, (CM.go_bind_ok hgo).trans hgo', hstow.trans hstow', hz⟩

theorem CM.stows.pure {α : Type} {kept : Nat → Prop} {Q : α → Prop} {y : α} (h : Q y) : CM.stows n kept (pure y) Q :=
  fun r => ⟨y, r, rfl, .refl _, h⟩

theorem CM.stows.imp {α : Type} {kept : Nat → Prop} {x : CM α} {Q P : α → Prop} (hx : CM.stows n kept x Q) (hP : ∀ y, Q y → P y) :
    CM.stows n kept x P := fun r => by
  obtain ⟨y, r', hgo, hstow, hy⟩ := hx r
  exact ⟨y, r', hgo, hstow, hP y hy⟩

theorem CM.stows_flag (kept : Nat → Prop) (f : Nat) : CM.stows n kept (flag f) (fun _ => True) := fun r => ⟨(), _, CM.go_flag f r, .refl _, trivial⟩

/-- Answers of measured size, one after another. -/
theorem CM.stows_mapM {α β : Type} {kept : Nat → Prop} {f : α → CM β} {size : β → Nat} {h : α → Nat} (l : List α)
    (hf : ∀ x ∈ l, CM.stows n kept (f x) (fun y => size y = h x)) : CM.stows n kept (l.mapM f) (fun ys => ys.map size = l.map h) := by
  induction l with
  | nil => exact fun r => ⟨[], r, rfl, .refl _, rfl⟩
  | cons x l ih =>
    rw [List.mapM_cons]
    refine (hf x (List.mem_cons_self ..)).bind (fun y hy => (ih (fun z hz => hf z (List.mem_cons_of_mem _ hz))).bind (fun ys hys => ?_))
    exact .pure (by rw [List.map_cons, List.map_cons, hy, hys])

theorem CM.stows_forM {α : Type} {kept : Nat → Prop} {f : α → CM Unit} (l : List α) (hf : ∀ x ∈ l, CM.stows n kept (f x) (fun _ => True)) :
    CM.stows n kept (l.forM f) (fun _ => True) := by
  induction l with
  | nil => exact fun r => ⟨(), r, rfl, .refl _, trivial⟩
  | cons x l ih =>
    change CM.stows n kept (f x >>= fun _ => l.forM f) _
    exact (hf x (List.mem_cons_self ..)).bind (fun _ _ => ih (fun z hz => hf z (List.mem_cons_of_mem _ hz)))

/-- A draw changes the generator alone (R187). -/
theorem stows_drawOf (kept : Nat → Prop) (l : Nat) : CM.stows n kept (drawOf n l) (fun _ => True) := fun r => by
  refine ⟨((r.s.core n).draw l).1, { r with s := r.s.setCore n ((r.s.core n).draw l).2 }, by simp only [drawOf, CM.go_bind, CM.go_getS, CM.go_setS, CM.go_pure],
    ⟨rfl, fun q hq => State.core_setCore_other _ _ hq, fun x _ => ?_, ?_⟩, trivial⟩
  · rw [State.csByte, State.core_setCore_same]
    rfl
  · rw [State.core_setCore_same]
    rfl

theorem length_flatMap_id (l : List (List Byte)) : (l.flatMap id).length = (l.map List.length).sum := List.length_flatMap

theorem sum_map_const (l : List Nat) (k : Nat) : (l.map (fun _ => k)).sum = l.length * k := by
  rw [List.map_const', List.sum_replicate, smul_eq_mul]

theorem stows_uniformRow (kept : Nat → Prop) (i len : Nat) :
    CM.stows n kept (fillRow n 0 a b i len) (fun l => l.length = len * 4) := by
  refine (CM.stows_mapM (size := List.length) (h := fun _ => 4) _ (fun e _ => (stows_drawOf kept _).bind (fun d _ =>
    (CM.stows_flag kept _).bind (fun _ _ => .pure (leBytes_length ..))))).bind (fun l hl => .pure ?_)
  rw [length_flatMap_id, hl, sum_map_const, List.length_range]

theorem stows_rawRow (kept : Nat → Prop) (i len : Nat) : CM.stows n kept (fillRow n 1 a b i len) (fun l => l.length = len * 4) := by
  refine (CM.stows_mapM (size := List.length) (h := fun _ => 4) _ (fun e _ => (stows_drawOf kept _).bind (fun d _ =>
    .pure (leBytes_length ..)))).bind (fun l hl => .pure ?_)
  rw [length_flatMap_id, hl, sum_map_const, List.length_range]

/-- Pairs of which the last may be half: their bytes. -/
theorem sum_pairs (len m : Nat) : ((List.range m).map (fun i => 4 + if 2 * i + 1 < len then 4 else 0)).sum =
    if 2 * m ≤ len then 8 * m else 4 * m + 4 * (len / 2) := by
  induction m with
  | zero => simp
  | succ m ih =>
    rw [List.range_succ, List.map_append, List.sum_append, ih, List.map_singleton, List.sum_singleton]
    split <;> split <;> split <;> omega

theorem stows_normalRow (kept : Nat → Prop) (i len : Nat) : CM.stows n kept (fillRow n 2 a b i len) (fun l => l.length = len * 4) := by
  refine (CM.stows_mapM (size := List.length) (h := fun e => 4 + if 2 * e + 1 < len then 4 else 0) _ (fun e _ =>
    (stows_drawOf kept _).bind (fun d1 _ => (stows_drawOf kept _).bind (fun d2 _ => .pure ?_)))).bind (fun l hl => .pure ?_)
  · rw [List.length_append, leBytes_length]
    split
    · rw [leBytes_length]
    · rfl
  · rw [length_flatMap_id, hl, sum_pairs]
    split <;> omega

theorem stows_signRow (kept : Nat → Prop) (i len : Nat) : CM.stows n kept (fillRow n 3 a b i len) (fun l => l.length = len / 8) := by
  refine (CM.stows_mapM (size := fun _ => 0) (h := fun _ => 0) _ (fun e _ =>
    (CM.stows_mapM (size := fun _ => 0) (h := fun _ => 0) _ (fun j _ => (stows_drawOf kept _).bind (fun d _ => .pure rfl))).bind
      (fun q _ => .pure rfl))).imp (fun l hl => ?_)
  have hlen := congrArg List.length hl
  rwa [List.length_map, List.length_map, List.length_range] at hlen

/-- The distributions that RFILL knows, each with the format and the row length that it has (R192). -/
def rfillFits (d : Desc) (dist : Nat) : Prop :=
  d.cols ≤ 65536 ∧ (dist = 0 ∧ d.fmt = .fp32 ∨ dist = 1 ∧ d.fmt = .int32 ∨ dist = 2 ∧ d.fmt = .fp32) ∨
    dist = 3 ∧ d.fmt = .int8 ∧ 8 * d.cols ≤ 65536

theorem stows_fillRow {d : Desc} {dist : Nat} (h : rfillFits d dist) (kept : Nat → Prop) (i : Nat) :
    CM.stows n kept (fillRow n dist a b i (if dist == 3 then 8 * d.cols else d.cols)) (fun l => l.length = d.cols * d.fmt.bytes) := by
  rcases h with ⟨-, ⟨rfl, hf⟩ | ⟨rfl, hf⟩ | ⟨rfl, hf⟩⟩ | ⟨rfl, hf, -⟩ <;> rw [hf]
  · exact stows_uniformRow kept i d.cols
  · exact stows_rawRow kept i d.cols
  · exact stows_normalRow kept i d.cols
  · refine (stows_signRow kept i (8 * d.cols)).imp (fun l hl => ?_)
    rw [hl, Nat.mul_div_cancel_left _ (by decide)]
    exact (Nat.mul_one _).symm

theorem stows_rfillBody {c : Cmd} {s : State} {d : Desc} (hloc : locOf c.w1 = true) (hd : (s.core n).descAt (addrOf c.w1) = some d)
    (hp : d.plainCore) (h1 : 1 ≤ d.cols) (hfits : rfillFits d (s.w3of n c 0)) :
    ∃ r, CM.go (rfillBody n c) ⟨s, 0, none⟩ = (.ok true, r) ∧ s.stowed n d.outside r.s := by
  have hrange := go_needRange (r := ⟨s, 0, none⟩) hp (Core.descAt_plain hd hp.1)
  obtain ⟨_, r, hloop, hstow, -⟩ := CM.stows_forM (n := n) (kept := d.outside) (List.range d.rows) (f := fun i => do
      let l ← fillRow n (s.w3of n c 0) (w32 (s.w3of n c 1)) (w32 (s.w3of n c 2)) i (if s.w3of n c 0 == 3 then 8 * d.cols else d.cols)
      wrAt n d.loc (d.elemAddr i 0) l false) (fun i hi => (stows_fillRow hfits _ i).bind (fun l hl r =>
        ⟨(), _, go_writeRow_plain hp hl (List.mem_range.1 hi) r, Run.rowWritten_stowed hl (List.mem_range.1 hi) r, trivial⟩)) ⟨s, 0, none⟩
  refine ⟨r, ?_, hstow⟩
  simp only [rfillBody, hloc, CM.go_bind, go_readDesc (r := ⟨s, 0, none⟩) hd, CM.go_w3]
  rw [CM.go_needAll]
  · simp only [hrange, hloop, CM.go_pure]
  · rcases hfits with ⟨hmax, ⟨h, hf⟩ | ⟨h, hf⟩ | ⟨h, hf⟩⟩ | ⟨h, hf, hmax⟩ <;> rw [h, hf] <;> simp <;> omega

end

/-- Settles O15: FILL and RFILL write row by row, SXSTEP twice. -/
theorem fillAndSextantStep : Obligations.FillAndSextantStep := by
  intro n c s hn hrun hloc
  refine ⟨fun d hop hd hp => ?_, fun hop hal hin => ?_, fun d hop hd hp h1 hfits => ?_⟩
  · have hgo := go_fillBody (s := s.issue n c) (n := n) hloc (by rwa [s.descAt_issue]) hp
    rw [s.w3of_issue] at hgo
    have hlen : ((List.range d.cols).flatMap (fun _ => leBytes (s.w3of n c 0) d.fmt.bytes)).length = d.cols * d.fmt.bytes := by
      simp [List.length_flatMap]
    have hstow := foldl_stowed (n := n) (kept := d.outside) (l := List.range d.rows)
      (fun i hi r => Run.rowWritten_stowed hlen (List.mem_range.1 hi) r) ⟨s.issue n c, 0, none⟩
    refine completes_of_go (exec_pilotRun hn (i := .fill n c) rfl rfl hop) hrun hgo ⟨fun hapart i e hi he => ?_, fun a ha => ?_,
      fun q hq => ?_, hstow.mem.trans (s.issue_mem n c)⟩
    · exact elem_of_row he (rowOf_rowsWritten hlen hapart (fun x hx => List.mem_range.1 hx) _ hi (.inr (List.mem_range.2 hi)))
    · rw [hstow.bytes a ha, s.csByte_issue]
    · rw [hstow.other q hq, s.core_issue_other n c hq]
  · intro a v
    have hgo := go_sxstepBody (s := s.issue n c) (n := n) hloc rfl hal hin
    have hread : leNat (((s.issue n c).core n).csRead (a + 16) 4).1 = v := by rw [s.csRead_issue]; rfl
    rw [hread] at hgo
    refine completes_of_go (exec_pilotRun hn (i := .sxstep n c) rfl rfl hop) hrun hgo ?_
    have frame {t : State} (h : (s.issue n c).stowed n (fun x => x < a ∨ a + 20 ≤ x) t) :
        (∀ x, x < a ∨ a + 20 ≤ x → t.csByte n x = s.csByte n x) ∧ (∀ q, q ≠ n → t.core q = s.core q) ∧ t.mem = s.mem :=
      ⟨fun x hx => (h.bytes x hx).trans (s.csByte_issue n c n x), fun q hq => (h.other q hq).trans (s.core_issue_other n c hq),
        h.mem.trans (s.issue_mem n c)⟩
    cases hbit : bit v 0 with
    | true =>
      have hodd : v % 2 = 1 := by simpa using hbit
      have hmax : v < 2 ^ 32 := (leNat_lt _).trans_eq (by rw [cellsRead_length]; rfl)
      rw [if_pos rfl, if_pos hodd]
      obtain ⟨hcounts, hflags⟩ := (s.issue n c).sextantPut_reads n a ((v ||| 2) - 1) (((s.issue n c).core n).csRead (a + 16) 4).2
      refine ⟨hcounts, hflags.trans ?_, frame (State.sextantPut_stowed ..)⟩
      rw [promote_flags hodd]
      exact Nat.mod_eq_of_lt (by omega)
    | false =>
      have heven : ¬ v % 2 = 1 := by simpa using hbit
      obtain ⟨hcounts, hflags⟩ := (s.issue n c).countsCleared_reads n a
      rw [if_neg Bool.false_ne_true, if_neg heven]
      exact ⟨hcounts, by rw [hflags, s.cs_issue], frame (State.countsCleared_stowed ..)⟩
  · have hfit : rfillFits d ((s.issue n c).w3of n c 0) := by
      rw [s.w3of_issue]
      exact hfits
    obtain ⟨r, hgo, hstow⟩ := stows_rfillBody (s := s.issue n c) hloc (by rwa [s.descAt_issue]) hp h1 hfit
    refine completes_of_go (exec_pilotRun hn (i := .rfill n c) rfl rfl hop) hrun hgo ⟨fun a ha => ?_, fun q hq => ?_,
      hstow.mem.trans (s.issue_mem n c), hstow.rest⟩
    · rw [hstow.bytes a ha, s.csByte_issue]
    · rw [hstow.other q hq, s.core_issue_other n c hq]

end Sys2Proof.Machine
end

/-! ## O33: requests for objects, groups, link shares and work queues (R229, R281 to R298, R349) -/

section
namespace Sys2Proof.Machine
open Sys2Proof

/-! ### What the end of a request leaves of registers and groups -/

/-- Where the registers lie that the end of a request may write: Helm's answers, the events' and the dies' clocks. -/
def endBlock (a : Nat) : Prop := 0x20000 ≤ a ∧ a < 0x20800 ∨ 0xA0000 ≤ a ∧ a < 0xA0200 ∨ 0xC0000 ≤ a ∧ a < 0xC0008

/-- Registers outside that block, and the groups, are as they were. -/
structure State.ending (s t : State) : Prop where
  rd : ∀ r b i j, ¬ endBlock (Reg.addr r b i j) → t.rd r b i j = s.rd r b i j
  fabric : t.fabric = s.fabric

section
variable {p : Nat} {s t u : State}

theorem State.ending.refl (s : State) : s.ending s := ⟨fun _ _ _ _ _ => rfl, rfl⟩

theorem State.ending.trans (h : s.ending t) (g : t.ending u) : s.ending u :=
  ⟨fun r b i j ha => (g.rd r b i j ha).trans (h.rd r b i j ha), g.fabric.trans h.fabric⟩

theorem State.wr_ending (s : State) {r : Reg} {b i j : Nat} (h : endBlock (r.addr b i j)) (v : Word) : s.ending (s.wr r b i j v) :=
  ⟨fun _ _ _ _ ha => State.rd_wr_other _ _ _ _ _ _ _ _ _ _ (fun he => ha (he ▸ h)), rfl⟩

theorem State.onPower_ending (s : State) (f : Power → Power) : s.ending (s.onPower f) := ⟨fun _ _ _ _ _ => rfl, rfl⟩

theorem State.clk_ending (s : State) {d : Nat} (hd : d < 2) (hi lo v : Nat) : s.ending (s.setFld .clkCore 0 d 0 hi lo v) := by
  refine State.wr_ending s ?_ _
  simp only [endBlock, Reg.addr, Reg.spec, Blk.base]
  omega

theorem State.aim_ending (s : State) {d : Nat} (hd : d < 2) : s.ending (s.aim d) := by
  have hthree : s.ending (((s.setFld .clkCore 0 d 0 14 8 (s.dieTarget d)).setFld .clkCore 0 d 0 19 16 (s.holdCause d)).setFld .clkCore 0 d 0 21 21
      (b2n (s.linked && s.freq 0 == s.freq 1))) :=
    ((s.clk_ending hd ..).trans (State.clk_ending _ hd ..)).trans (State.clk_ending _ hd ..)
  simp only [State.aim]
  split
  · exact .refl s
  · split
    · exact hthree.trans (State.clk_ending _ hd ..)
    · split
      · exact hthree.trans (State.clk_ending _ hd ..)
      · exact hthree

theorem State.beginStep_ending (s : State) {d : Nat} (hd : d < 2) : s.ending (s.beginStep d) := by
  simp only [State.beginStep]
  split
  · exact .refl s
  · split
    · exact (s.clk_ending hd ..).trans (State.onPower_ending ..)
    · split
      · exact (s.clk_ending hd ..).trans (State.onPower_ending ..)
      · exact .refl s

theorem State.retarget_ending (s : State) : s.ending s.retarget := by
  have haim : s.ending ((s.aim 0).aim 1) := (s.aim_ending (by decide)).trans (State.aim_ending _ (by decide))
  simp only [State.retarget]
  split
  · exact haim
  · exact (haim.trans (State.beginStep_ending _ (by decide))).trans (State.beginStep_ending _ (by decide))

theorem State.unjoin_ending (s : State) (p : Nat) : s.ending (s.unjoin p) := by
  simp only [State.unjoin]
  split
  · exact (s.onPower_ending _).trans (State.retarget_ending _)
  · exact .refl s

theorem Reg.ending_addr (hp : p < 8) : endBlock (Reg.addr .helmIrqStatus 0 p 0) ∧ endBlock (Reg.addr .helmEvqStatus 0 p 0) ∧
    endBlock (Reg.addr .helmReqStatus 0 p 0) ∧ endBlock (Reg.addr .helmReqRes 0 p 0) := by
  simp only [endBlock, Reg.addr, Reg.spec, Blk.base]
  omega

theorem State.signalled.ending (h : State.signalled p s t) (hp : p < 8) : s.ending t := by
  obtain ⟨hirq, hevq, -, -⟩ := Reg.ending_addr hp
  exact ⟨fun r b i j ha => h.rd r b i j (fun he => ha (he ▸ hirq)) (fun he => ha (he ▸ hevq)), h.events.fabric_eq⟩

/-- The results of a request with at most one. -/
def resultOf : Option Nat → List Nat
  | some o => [o]
  | none => []

theorem State.endRequest_ending (s : State) (hp : p < 8) (code : Nat) (irq : Bool) (res : Option Nat) :
    s.ending (s.endRequest p code irq 0 (resultOf res)) := by
  obtain ⟨-, -, hstatus, hres⟩ := Reg.ending_addr hp
  have hquiet : s.ending (s.endQuiet p code 0 (resultOf res)) := by
    have hstart : s.ending ((s.unjoin p).onPart p (fun x => { x with request := none })) :=
      (s.unjoin_ending p).trans ⟨fun _ _ _ _ _ => rfl, rfl⟩
    cases res with
    | none => exact hstart.trans (State.wr_ending _ hstatus _)
    | some o => exact (hstart.trans (State.wr_ending _ hres _)).trans (State.wr_ending _ hstatus _)
  exact hquiet.trans ((s.endRequest_signalled p code irq 0 (resultOf res)).ending hp)

/-- The result of a request stands in its register when it has ended. -/
theorem State.endRequest_result (s : State) (hp : p < 8) (code : Nat) (irq : Bool) (o : Nat) :
    (s.endRequest p code irq 0 [o]).rd .helmReqRes 0 p 0 = w32 o := by
  have hsig := s.endRequest_signalled p code irq 0 [o]
  obtain ⟨-, ⟨h1, h2⟩, h3⟩ := Reg.answer_addr (k := 0) hp (by omega)
  rw [hsig.rd _ _ _ _ h1 h2]
  simp only [State.endQuiet, if_true, List.zipIdx_cons, List.zipIdx_nil, List.foldl_cons, List.foldl_nil,
    State.rd_wr_other _ _ _ _ _ _ _ _ _ _ h3]
  exact State.rd_wr_same ..

/-- What the end of a granted request leaves of the state that its service left. -/
structure State.granted (p : Nat) (res : Option Nat) (t u : State) : Prop where
  ending : t.ending u
  part : ∃ evq hold pend, u.part p = { t.part p with request := none, evq := evq, msixHold := hold, msixPend := pend }
  result : ∀ o, res = some o → u.rd .helmReqRes 0 p 0 = w32 o

/-- A request that is granted ends in the state that its service left, with its answer. -/
theorem request_granted {i : Instr} {code : Nat} {irq : Bool} {a : List Nat} {f : State → List Nat → Served} (res : Option Nat) {P : State → Prop}
    (hp : p < 8) (hc : code < 256) (hexec : exec i s = .next (serve p code f s)) (hs : s.partState p = 1) (hn : s.nextRequest = some p)
    (hr : (s.part p).request = some (code, irq, a)) (hf : f (s.passTurn p) a = .ok t (resultOf res)) (hturn : t.reqTurn = (p + 1) % 8)
    (hP : ∀ u, State.granted p res t u → P u) : ∃ u : State, exec i s = .next u ∧ u.answered p code 0 ∧ P u := by
  have hended := t.endRequest_ended hp hc (show 0 < 256 by decide) irq (resultOf res)
  refine ⟨_, by rw [hexec, serve_ok hs hn hr hf], hended.answered hturn, hP _ ⟨t.endRequest_ending hp code irq res, hended.part, ?_⟩⟩
  rintro o rfl
  exact t.endRequest_result hp code irq o

/-- A property that one step of a fold gives, and none takes away. -/
theorem foldl_sets {α β : Type} {P : α → Prop} {f : α → β → α} {l : List β} {x : β} (hx : x ∈ l) (hset : ∀ a, P (f a x))
    (hkeep : ∀ a y, P a → P (f a y)) (a : α) : P (l.foldl f a) := by
  induction l generalizing a with
  | nil => cases hx
  | cons y l ih =>
    rcases List.mem_cons.1 hx with rfl | hx
    · exact foldl_keeps hkeep l (hset a)
    · exact ih hx (f a y)

end

/-! ### Objects (R229, R283) -/

/-- The lowest run lies where the search looked, and nobody holds any of it. -/
theorem freeRun_spec {held : Nat → Bool} {n fuel k start o : Nat} (hstart : start ≤ k)
    (hfree : ∀ j, start ≤ j → j < k → held j = false) (h : freeRun held n fuel k start = some o) :
    o + n ≤ k + fuel ∧ ∀ j, o ≤ j → j < o + n → held j = false := by
  induction fuel generalizing k start with
  | zero => cases h
  | succ fuel ih =>
    rw [freeRun] at h
    split at h
    · obtain ⟨hin, hall⟩ := ih (Nat.le_refl _) (fun j h1 h2 => by omega) h
      exact ⟨by omega, hall⟩
    · next hk =>
      have hfree' : ∀ j, start ≤ j → j < k + 1 → held j = false := fun j h1 h2 => by
        rcases Nat.lt_succ_iff_lt_or_eq.1 h2 with h2 | rfl
        · exact hfree j h1 h2
        · simpa using hk
      split at h
      · cases h
        exact ⟨by omega, fun j h1 h2 => hfree' j h1 (by omega)⟩
      · obtain ⟨hin, hall⟩ := ih (by omega) hfree' h
        exact ⟨by omega, hall⟩

/-- The three registers of an object. -/
def State.objRegs (s : State) (k : Nat) (count irq ctl : Word) : Prop :=
  s.rd .helmSyncCount 0 k = count ∧ s.rd .helmSyncIrq 0 k = irq ∧ s.rd .helmSyncCtl 0 k = ctl

/-- Object o's registers written. -/
def State.putObject (s : State) (o : Nat) (count irq ctl : Word) : State :=
  ((s.wr .helmSyncCount 0 o 0 count).wr .helmSyncIrq 0 o 0 irq).wr .helmSyncCtl 0 o 0 ctl

theorem Reg.object_addr {k o : Nat} :
    (k ≠ o → Reg.addr .helmSyncCount 0 k 0 ≠ Reg.addr .helmSyncCount 0 o 0 ∧ Reg.addr .helmSyncIrq 0 k 0 ≠ Reg.addr .helmSyncIrq 0 o 0 ∧
      Reg.addr .helmSyncCtl 0 k 0 ≠ Reg.addr .helmSyncCtl 0 o 0) ∧
    Reg.addr .helmSyncCount 0 k 0 ≠ Reg.addr .helmSyncIrq 0 o 0 ∧ Reg.addr .helmSyncCount 0 k 0 ≠ Reg.addr .helmSyncCtl 0 o 0 ∧
    Reg.addr .helmSyncIrq 0 k 0 ≠ Reg.addr .helmSyncCount 0 o 0 ∧ Reg.addr .helmSyncIrq 0 k 0 ≠ Reg.addr .helmSyncCtl 0 o 0 ∧
    Reg.addr .helmSyncCtl 0 k 0 ≠ Reg.addr .helmSyncCount 0 o 0 ∧ Reg.addr .helmSyncCtl 0 k 0 ≠ Reg.addr .helmSyncIrq 0 o 0 := by
  simp only [Reg.addr, Reg.spec, Blk.base]
  refine ⟨fun h => by omega, by omega, by omega, by omega, by omega, by omega, by omega⟩

theorem State.objRegs_put (s : State) (k : Nat) (count irq ctl : Word) : (s.putObject k count irq ctl).objRegs k count irq ctl := by
  obtain ⟨-, h1, h2, -, h3, -, -⟩ := Reg.object_addr (k := k) (o := k)
  exact ⟨(State.rd_wr_other _ _ _ _ _ _ _ _ _ _ h2).trans ((State.rd_wr_other _ _ _ _ _ _ _ _ _ _ h1).trans (State.rd_wr_same ..)),
    (State.rd_wr_other _ _ _ _ _ _ _ _ _ _ h3).trans (State.rd_wr_same ..), State.rd_wr_same ..⟩

/-- An object keeps its registers when one, the same or another, is given the same ones. -/
theorem State.objRegs.put {s : State} {k : Nat} {count irq ctl : Word} (h : s.objRegs k count irq ctl) (o : Nat) :
    (s.putObject o count irq ctl).objRegs k count irq ctl := by
  by_cases hk : k = o
  · subst hk
    exact s.objRegs_put k count irq ctl
  · obtain ⟨hother, h1, h2, h3, h4, h5, h6⟩ := Reg.object_addr (k := k) (o := o)
    obtain ⟨hcount, hirq, hctl⟩ := hother hk
    obtain ⟨e1, e2, e3⟩ := h
    simp only [State.putObject, State.objRegs, State.rd_wr_other _ _ _ _ _ _ _ _ _ _ hcount, State.rd_wr_other _ _ _ _ _ _ _ _ _ _ hirq,
      State.rd_wr_other _ _ _ _ _ _ _ _ _ _ hctl, State.rd_wr_other _ _ _ _ _ _ _ _ _ _ h1, State.rd_wr_other _ _ _ _ _ _ _ _ _ _ h2,
      State.rd_wr_other _ _ _ _ _ _ _ _ _ _ h3, State.rd_wr_other _ _ _ _ _ _ _ _ _ _ h4, State.rd_wr_other _ _ _ _ _ _ _ _ _ _ h5,
      State.rd_wr_other _ _ _ _ _ _ _ _ _ _ h6]
    exact ⟨e1, e2, e3⟩

theorem State.ending.objRegs {s t : State} (h : s.ending t) {k : Nat} (hk : k < 16384) {count irq ctl : Word} (ho : s.objRegs k count irq ctl) :
    t.objRegs k count irq ctl := by
  have haddr : ¬ endBlock (Reg.addr .helmSyncCount 0 k 0) ∧ ¬ endBlock (Reg.addr .helmSyncIrq 0 k 0) ∧ ¬ endBlock (Reg.addr .helmSyncCtl 0 k 0) := by
    simp only [endBlock, Reg.addr, Reg.spec, Blk.base]
    omega
  obtain ⟨h1, h2, h3⟩ := haddr
  obtain ⟨e1, e2, e3⟩ := ho
  exact ⟨(h.rd _ _ _ _ h1).trans e1, (h.rd _ _ _ _ h2).trans e2, (h.rd _ _ _ _ h3).trans e3⟩

/-- A run of objects that passes to partition p. -/
def State.takeObjects (s : State) (p o n : Nat) : State :=
  ((List.range n).foldl (fun s i => s.freshObject p (o + i)) s).onPart p
    (fun x => { x with objects := sortOn id (x.objects ++ (List.range n).map (· + o)) })

/-- A run of objects that partition p gives back. -/
def State.dropObjects (s : State) (p o n : Nat) : State := ((List.range n).map (· + o)).foldl (fun s k => s.dropObject p k) s

section
variable {p o n k : Nat} {s : State} (h1 : o ≤ k) (h2 : k < o + n)
include h1 h2

theorem State.takeObjects_regs : (s.takeObjects p o n).objRegs k 0#32 0#32 (w32 (p * 16 + 8)) := by
  have hregs := foldl_sets (P := fun t : State => t.objRegs k 0#32 0#32 (w32 (p * 16 + 8))) (f := fun s i => s.freshObject p (o + i))
    (List.mem_range.2 (show k - o < n by omega)) (fun t => by
      rw [Nat.add_sub_cancel' h1]
      exact t.objRegs_put k 0#32 0#32 (w32 (p * 16 + 8))) (fun t i h => h.put (o + i)) s
  exact hregs

theorem State.mem_takeObjects : k ∈ ((s.takeObjects p o n).part p).objects := by
  rw [State.takeObjects, State.part_onPart_same]
  exact (sortOn_perm id _).mem_iff.2 (List.mem_append_right _ (List.mem_map.2 ⟨k - o, List.mem_range.2 (by omega), Nat.sub_add_cancel h1⟩))

end

theorem State.takeObjects_turn (s : State) (p o n : Nat) : (s.takeObjects p o n).reqTurn = s.reqTurn :=
  foldl_keeps (P := fun t : State => t.reqTurn = s.reqTurn) (f := fun s i => s.freshObject p (o + i)) (fun _ _ h => h) _ rfl

theorem State.dropObject_objects (t : State) (p o : Nat) : ((t.dropObject p o).part p).objects = setDel (t.part p).objects o := by
  rw [State.dropObject, State.part_onPart_same]
  rfl

/-- What an object is after it was given back. -/
def State.given (p k : Nat) (t : State) : Prop := t.objRegs k 0#32 0#32 0#32 ∧ k ∉ (t.part p).objects

theorem State.dropObject_given (t : State) (p k : Nat) : State.given p k (t.dropObject p k) :=
  ⟨t.objRegs_put k 0#32 0#32 0#32, by simp [State.dropObject_objects, mem_setDel]⟩

theorem State.given.drop {t : State} {p k : Nat} (h : State.given p k t) (o : Nat) : State.given p k (t.dropObject p o) :=
  ⟨h.1.put o, fun hmem => h.2 ((mem_setDel _ _ _).1 (t.dropObject_objects p o ▸ hmem)).1⟩

theorem State.dropObjects_given {s : State} {p o n k : Nat} (h1 : o ≤ k) (h2 : k < o + n) : State.given p k (s.dropObjects p o n) := by
  have hmem : k ∈ (List.range n).map (· + o) := List.mem_map.2 ⟨k - o, List.mem_range.2 (by omega), Nat.sub_add_cancel h1⟩
  exact foldl_sets (P := State.given p k) hmem (fun t => t.dropObject_given p k) (fun _ o h => h.drop o) s

theorem State.dropObjects_turn (s : State) (p o n : Nat) : (s.dropObjects p o n).reqTurn = s.reqTurn :=
  foldl_keeps (P := fun t : State => t.reqTurn = s.reqTurn) (f := fun s k => s.dropObject p k) (fun _ _ h => h) _ rfl

section
variable {p : Nat} {s : State} {irq : Bool} {a : List Nat} (hp : p < 8) (hs : s.partState p = 1) (hn : s.nextRequest = some p)
include hp hs hn

theorem syncAlloc_granted (hr : (s.part p).request = some (0x06, irq, a)) {o : Nat} (h1 : 1 ≤ arg a 0) (hmax : arg a 0 ≤ 1024)
    (hquota : (s.part p).objects.length + arg a 0 ≤ s.quota p PlanPart.objects)
    (hrun : freeRun (s.parts.flatMap (fun y => y.2.objects)).contains (arg a 0) 16384 0 0 = some o) :
    ∃ t : State, exec (.syncAlloc p) s = .next t ∧ t.answered p 0x06 0 ∧ (t.rd .helmReqRes 0 p 0 = w32 o ∧ o + arg a 0 ≤ 16384 ∧
      ∀ k, o ≤ k → k < o + arg a 0 → t.objHeld p k = true ∧ k ∈ (t.part p).objects ∧ (∀ y ∈ s.parts, k ∉ y.2.objects) ∧
        t.rd .helmSyncCount 0 k = 0#32 ∧ t.rd .helmSyncIrq 0 k = 0#32) := by
  obtain ⟨hin, hfree⟩ := freeRun_spec (Nat.le_refl 0) (fun j _ h => absurd h (Nat.not_lt_zero j)) hrun
  have hserved : servedSyncAlloc p (s.passTurn p) a = .ok ((s.passTurn p).takeObjects p o (arg a 0)) (resultOf (some o)) := by
    have hbad : ¬ (arg a 0 < 1 || arg a 0 > 1024) = true := by simp; omega
    have hover : ¬ (((s.passTurn p).part p).objects.length + arg a 0 > (s.passTurn p).quota p PlanPart.objects) := Nat.not_lt.2 hquota
    have hrun' : freeRun ((s.passTurn p).parts.flatMap (fun x => x.2.objects)).contains (arg a 0) 16384 0 0 = some o := hrun
    simp only [servedSyncAlloc, hbad, hover, if_false, hrun', Bool.false_eq_true]
    rfl
  refine request_granted (some o) hp (by decide) (if_pos (decide_eq_true hp)) hs hn hr hserved (State.takeObjects_turn ..)
    (fun u hu => ⟨hu.result o rfl, by omega, fun k h2 h3 => ?_⟩)
  obtain ⟨hcount, hirq, hctl⟩ := hu.ending.objRegs (by omega) (State.takeObjects_regs h2 h3)
  obtain ⟨_, _, _, hpart⟩ := hu.part
  refine ⟨State.objHeld_iff.2 ⟨by omega, ?_, ?_⟩, ?_, fun y hy hmem => ?_, hcount, hirq⟩
  · rw [State.fld, hctl]
    exact (by decide : ∀ p < 8, getBits (w32 (p * 16 + 8)) 3 3 = 1) p hp
  · rw [State.fld, hctl]
    exact (by decide : ∀ p < 8, getBits (w32 (p * 16 + 8)) 6 4 = p) p hp
  · rw [hpart]
    exact State.mem_takeObjects h2 h3
  · have hheld := hfree k h2 h3
    rw [List.contains_eq_mem, decide_eq_false_iff_not] at hheld
    exact hheld (List.mem_flatMap.2 ⟨y, hy, hmem⟩)

theorem syncFree_granted (hr : (s.part p).request = some (0x07, irq, a)) (h1 : 1 ≤ arg a 1) (hin : arg a 0 + arg a 1 ≤ 16384)
    (hall : ∀ k, arg a 0 ≤ k → k < arg a 0 + arg a 1 → k ∈ (s.part p).objects ∧ s.objectBusy p k = false) :
    ∃ t : State, exec (.syncFree p) s = .next t ∧ t.answered p 0x07 0 ∧ ∀ k, arg a 0 ≤ k → k < arg a 0 + arg a 1 →
      k ∉ (t.part p).objects ∧ (∀ q, t.objHeld q k = false) ∧ t.rd .helmSyncCount 0 k = 0#32 := by
  have hserved : servedSyncFree p (s.passTurn p) a = .ok ((s.passTurn p).dropObjects p (arg a 0) (arg a 1)) (resultOf none) := by
    have hbad : ¬ (arg a 1 < 1 || arg a 0 + arg a 1 > 16384) = true := by simp; omega
    have hheld : ((List.range (arg a 1)).map (· + arg a 0)).all (((s.passTurn p).part p).objects.contains) = true := by
      simp only [List.all_map, List.all_eq_true, List.mem_range, Function.comp_apply, List.contains_iff_mem]
      exact fun i hi => (hall (i + arg a 0) (by omega) (by omega)).1
    have hidle : ((List.range (arg a 1)).map (· + arg a 0)).any ((s.passTurn p).objectBusy p) = false := by
      simp only [List.any_map, List.any_eq_false, List.mem_range, Function.comp_apply]
      exact fun i hi => ne_true_of_eq_false (hall (i + arg a 0) (by omega) (by omega)).2
    simp only [servedSyncFree, hbad, hheld, hidle, Bool.not_true, Bool.false_eq_true, if_false]
    rfl
  refine request_granted none hp (by decide) (if_pos (decide_eq_true hp)) hs hn hr hserved (State.dropObjects_turn ..)
    (fun u hu k h2 h3 => ?_)
  obtain ⟨hregs, hout⟩ := State.dropObjects_given (s := s.passTurn p) (p := p) h2 h3
  obtain ⟨hcount, -, hctl⟩ := hu.ending.objRegs (by omega) hregs
  obtain ⟨_, _, _, hpart⟩ := hu.part
  refine ⟨by rw [hpart]; exact hout, fun q => Bool.eq_false_iff.2 (fun h => ?_), hcount⟩
  have hused := (State.objHeld_iff.1 h).2.1
  rw [State.fld, hctl] at hused
  exact absurd hused (by decide)

end

/-! ### Groups (R283, R349) -/

theorem State.ending.gState {s t : State} (h : s.ending t) (g : Nat) : t.gState g = s.gState g := by
  have haddr : ¬ endBlock (Reg.addr .collGroup 0 g 0) := by
    simp only [endBlock, Reg.addr, Reg.spec, Blk.base]
    omega
  rw [State.gState, State.fld, h.rd _ _ _ _ haddr]
  rfl

theorem State.gState_setGState (s : State) (g reason : Nat) {st : Nat} (h : st < 8) : (s.setGState g st reason).gState g = st := by
  simp only [State.gState, State.setGState, State.fld, State.setFld, State.rd_wr_same]
  rw [getBits_setBits_other _ (by omega), getBits_setBits _ (by omega)]
  exact Nat.mod_eq_of_lt h

theorem tabFind_filter_out {α : Type} (t : Tab α) (P : Nat → Bool) {i : Nat} (h : P i = false) : tabFind (t.filter (fun x => P x.1)) i = none := by
  induction t with
  | nil => rfl
  | cons x t ih =>
    cases hx : P x.1 with
    | true =>
      have hne : x.1 ≠ i := fun he => by
        rw [he, h] at hx
        cases hx
      rw [List.filter_cons_of_pos (p := fun x : Nat × α => P x.1) hx]
      simpa [tabFind, hne] using ih
    | false => rw [List.filter_cons_of_neg (p := fun x : Nat × α => P x.1) (by simp [hx]), ih]

theorem State.gState_dropGroup (s : State) (p g : Nat) : (s.dropGroup p g).gState g = 0 := by
  have haddr : Reg.addr .collGroup 0 g 0 = 0x04000000 + g * 0x40 := by
    simp only [Reg.addr, Reg.spec, Blk.base]
    omega
  have hgone := tabFind_filter_out s.regs (fun a => a < 0x04000000 + g * 0x40 || a ≥ 0x04000000 + g * 0x40 + 0x40)
    (i := Reg.addr .collGroup 0 g 0) (by rw [haddr]; simp)
  have hrd : (s.dropGroup p g).rd .collGroup 0 g = Reg.resetAt .collGroup 0 := by
    simp only [State.rd, State.dropGroup, State.onPart_regs, State.onFabric_regs, tabGet, hgone]
    rfl
  rw [State.gState, State.fld, hrd]
  rfl

theorem State.group_dropGroup (s : State) (p g : Nat) : (s.dropGroup p g).group g = Group.init := by
  simp only [State.group, State.dropGroup, State.onPart_fabric, State.onFabric, tabGet, tabFind_put_same]
  rfl

theorem State.ending.group_eq {s t : State} (h : s.ending t) (g : Nat) : t.group g = s.group g := by rw [State.group, h.fabric, State.group]

/-- A group that passes to partition p. -/
def State.takeGroup (s : State) (p g slots : Nat) : State :=
  ((s.setGState g 1 0).onGroup g (fun _ => { Group.init with part := p, slots := slots })).onPart p
    (fun x => { x with groups := setAdd x.groups g })

theorem State.gState_takeGroup (s : State) (p g slots : Nat) : (s.takeGroup p g slots).gState g = 1 := by
  rw [State.takeGroup, State.gState, State.fld_onPart, State.fld_onGroup]
  exact s.gState_setGState g 0 (by decide)

theorem State.group_takeGroup (s : State) (p g slots : Nat) :
    (s.takeGroup p g slots).group g = { Group.init with part := p, slots := slots } := by
  rw [State.takeGroup, State.group_onPart, State.group, State.onGroup, State.onFabric]
  exact tabGet_set_same ..

section
variable {p : Nat} {s : State} {irq : Bool} {a : List Nat} (hp : p < 8) (hs : s.partState p = 1) (hn : s.nextRequest = some p)
include hp hs hn

theorem groupAlloc_granted (hr : (s.part p).request = some (0x08, irq, a)) {g : Nat} (hmax : arg a 0 ≤ 128)
    (hgroups : (s.part p).groups.length + 1 ≤ s.quota p PlanPart.groups) (hslots : s.slotsHeld p + arg a 0 ≤ s.quota p PlanPart.slots)
    (hfree : (List.range 256).find? (fun g => s.gState g == 0) = some g) :
    ∃ t : State, exec (.groupAlloc p) s = .next t ∧ t.answered p 0x08 0 ∧ (t.rd .helmReqRes 0 p 0 = w32 g ∧ t.gState g = 1 ∧
      g ∈ (t.part p).groups ∧ t.group g = { Group.init with part := p, slots := arg a 0 }) := by
  have hserved : servedGroupAlloc p (s.passTurn p) a = .ok ((s.passTurn p).takeGroup p g (arg a 0)) (resultOf (some g)) := by
    have hfull : ¬ (((s.passTurn p).part p).groups.length + 1 > (s.passTurn p).quota p PlanPart.groups ||
        (s.passTurn p).slotsHeld p + arg a 0 > (s.passTurn p).quota p PlanPart.slots) = true := by
      have h1 : ¬ ((s.passTurn p).part p).groups.length + 1 > (s.passTurn p).quota p PlanPart.groups := Nat.not_lt.2 hgroups
      have h2 : ¬ (s.passTurn p).slotsHeld p + arg a 0 > (s.passTurn p).quota p PlanPart.slots := Nat.not_lt.2 hslots
      simp only [h1, h2, decide_false, Bool.or_self, Bool.false_eq_true, not_false_eq_true]
    have hfree' : (List.range 256).find? (fun g => (s.passTurn p).gState g == 0) = some g := hfree
    rw [servedGroupAlloc]
    dsimp only
    rw [if_neg (Nat.not_lt.2 hmax), if_neg hfull, hfree']
    rfl
  refine request_granted (some g) hp (by decide) (if_pos (decide_eq_true hp)) hs hn hr hserved rfl (fun u hu => ⟨hu.result g rfl, ?_, ?_, ?_⟩)
  · exact (hu.ending.gState g).trans (State.gState_takeGroup ..)
  · obtain ⟨_, _, _, hpart⟩ := hu.part
    rw [hpart, State.takeGroup, State.part_onPart_same]
    exact (mem_setAdd _ _ _).2 (.inl rfl)
  · exact (hu.ending.group_eq g).trans (State.group_takeGroup ..)

theorem groupFree_granted (hr : (s.part p).request = some (0x09, irq, a)) (hmax : arg a 0 ≤ 255)
    (hheld : (s.part p).groups.contains (arg a 0) = true) (hforming : s.gState (arg a 0) ≠ 2) (hready : s.gState (arg a 0) ≠ 3)
    (hempty : (s.group (arg a 0)).queue = []) :
    ∃ t : State, exec (.groupFree p) s = .next t ∧ t.answered p 0x09 0 ∧ (t.gState (arg a 0) = 0 ∧ arg a 0 ∉ (t.part p).groups ∧
      t.group (arg a 0) = Group.init) := by
  have hserved : servedGroupFree p (s.passTurn p) a = .ok ((s.passTurn p).dropGroup p (arg a 0)) (resultOf none) := by
    have hheld' : ((s.passTurn p).part p).groups.contains (arg a 0) = true := hheld
    have hidle : ((s.passTurn p).gState (arg a 0) == 2 || (s.passTurn p).gState (arg a 0) == 3 ||
        !((s.passTurn p).group (arg a 0)).queue.isEmpty) = false := by
      have h2 : ((s.passTurn p).gState (arg a 0) == 2) = false := beq_eq_false_iff_ne.2 hforming
      have h3 : ((s.passTurn p).gState (arg a 0) == 3) = false := beq_eq_false_iff_ne.2 hready
      have hq : ((s.passTurn p).group (arg a 0)).queue = [] := hempty
      simp only [h2, h3, hq, List.isEmpty_nil, Bool.not_true, Bool.or_self]
    simp only [servedGroupFree, Nat.not_lt.2 hmax, if_false, hheld', hidle, Bool.not_true, Bool.false_eq_true]
    rfl
  refine request_granted none hp (by decide) (if_pos (decide_eq_true hp)) hs hn hr hserved rfl (fun u hu => ⟨?_, ?_, ?_⟩)
  · exact (hu.ending.gState _).trans (State.gState_dropGroup ..)
  · obtain ⟨_, _, _, hpart⟩ := hu.part
    rw [hpart, State.dropGroup, State.part_onPart_same]
    exact fun h => ((mem_setDel _ _ _).1 h).2 rfl
  · exact (hu.ending.group_eq _).trans (State.group_dropGroup ..)

/-! ### Link shares (R298) -/

omit hp hs hn in
/-- A table with one value put at every listed place. -/
theorem tabGet_foldl_setAll {α : Type} [DecidableEq α] (l : List Nat) (t : Tab α) (d v : α) (i : Nat) :
    tabGet (l.foldl (fun t l => tabSet t l d v) t) i d = if i ∈ l then v else tabGet t i d := by
  induction l generalizing t with
  | nil => simp
  | cons x l ih =>
    rw [List.foldl_cons, ih]
    by_cases hx : i = x
    · subst hx
      simp
    · simp [hx, tabGet_set_other _ _ _ _ hx]

theorem linkShare_granted (hr : (s.part p).request = some (0x0A, irq, a)) {ls : List Nat}
    (hls : (if arg a 0 == 0xFF then List.range 32 else [arg a 0]) = ls) (hlink : arg a 0 ≤ 31 ∨ arg a 0 = 0xFF)
    (hout : arg a 1 ≤ s.quota p PlanPart.linkShare) (hin : arg a 2 ≤ s.quota p PlanPart.linkShare)
    (hfit : ls.all (fun l => s.shareFits p l (arg a 1) (arg a 2)) = true) :
    ∃ t : State, exec (.linkShare p) s = .next t ∧ t.answered p 0x0A 0 ∧ ∀ l, tabGet (t.part p).shares l (0, 0) =
      if l ∈ ls then (arg a 1, arg a 2) else tabGet (s.part p).shares l (0, 0) := by
  have hserved : servedShare p (s.passTurn p) a = .ok ((s.passTurn p).onPart p (fun x => { x with
      shares := ls.foldl (fun t l => tabSet t l (0, 0) (arg a 1, arg a 2)) x.shares })) (resultOf none) := by
    have hknown : ¬ (decide (arg a 0 > 31) && arg a 0 != 0xFF) = true := by
      simp only [Bool.and_eq_true, decide_eq_true_eq, bne_iff_ne]
      omega
    have hquota : ¬ (decide (arg a 1 > (s.passTurn p).quota p PlanPart.linkShare) ||
        decide (arg a 2 > (s.passTurn p).quota p PlanPart.linkShare)) = true := by
      have h1 : ¬ arg a 1 > (s.passTurn p).quota p PlanPart.linkShare := Nat.not_lt.2 hout
      have h2 : ¬ arg a 2 > (s.passTurn p).quota p PlanPart.linkShare := Nat.not_lt.2 hin
      simp only [h1, h2, decide_false, Bool.or_self, Bool.false_eq_true, not_false_eq_true]
    have hfit' : ls.all (fun l => (s.passTurn p).shareFits p l (arg a 1) (arg a 2)) = true := hfit
    rw [servedShare, if_neg hknown, if_neg hquota]
    dsimp only
    rw [hls, hfit']
    rfl
  refine request_granted none hp (by decide) (if_pos (decide_eq_true hp)) hs hn hr hserved rfl (fun u hu l => ?_)
  obtain ⟨_, _, _, hpart⟩ := hu.part
  rw [hpart, State.part_onPart_same]
  exact tabGet_foldl_setAll ls _ _ _ l

/-! ### Work queues (R291, R294) -/

omit hp hs hn in
theorem find?_insertOn {α : Type} {key : α → Nat} {y : α} {l : List α} {f : α → Bool} (hy : f y = true) (hl : ∀ z ∈ l, f z = false) :
    (insertOn key y l).find? f = some y := by
  induction l with
  | nil => exact List.find?_cons_of_pos hy
  | cons x l ih =>
    rw [insertOn]
    split
    · exact List.find?_cons_of_pos hy
    · rw [List.find?_cons_of_neg (by simp [hl x (List.mem_cons_self ..)])]
      exact ih (fun z hz => hl z (List.mem_cons_of_mem _ hz))

omit hp hs hn in
/-- Queue q of partition p with HEAD and TAIL at 0. -/
def State.resetQueue (s : State) (p q : Nat) : State := (s.wr .helmWqTail 0 p q 0#32).wr .helmWqHead 0 p q 0#32

omit hs hn in
theorem State.granted.queue_at_zero {res : Option Nat} {t u : State} {q : Nat} (hu : State.granted p res t u) (hq : q < 64)
    (ht : t.regs = (s.resetQueue p q).regs) : u.wqHead p q = 0 ∧ u.wqTail p q = 0 := by
  have haddr : ¬ endBlock (Reg.addr .helmWqHead 0 p q) ∧ ¬ endBlock (Reg.addr .helmWqTail 0 p q) ∧
      Reg.addr .helmWqTail 0 p q ≠ Reg.addr .helmWqHead 0 p q := by
    simp only [endBlock, Reg.addr, Reg.spec, Blk.base]
    omega
  obtain ⟨hhead, htail, hne⟩ := haddr
  have h1 : u.rd .helmWqHead 0 p q = 0#32 := (hu.ending.rd _ _ _ _ hhead).trans ((State.rd_congr ht ..).trans (State.rd_wr_same ..))
  have h2 : u.rd .helmWqTail 0 p q = 0#32 :=
    (hu.ending.rd _ _ _ _ htail).trans ((State.rd_congr ht ..).trans ((State.rd_wr_other _ _ _ _ _ _ _ _ _ _ hne).trans (State.rd_wr_same ..)))
  exact ⟨by rw [State.wqHead, State.fld, h1]; rfl, by rw [State.wqTail, State.fld, h2]; rfl⟩

theorem wqCreate_granted (hr : (s.part p).request = some (0x0B, irq, a)) {q : Nat} (hbase : arg64 a 0 % 64 = 0)
    (hin : arg64 a 0 + 64 * arg a 2 ≤ 2 ^ 48) (hsize : ∃ k, 4 ≤ k ∧ k ≤ 16 ∧ arg a 2 = 2 ^ k) (hrsv : bits (arg a 3) 15 3 = 0)
    (hprio : bits (arg a 3) 2 0 ≤ s.quota p PlanPart.ceiling) (hpin : (s.part p).pinned (arg64 a 0) (64 * arg a 2) = true)
    (hquota : (s.part p).queues.length + 1 ≤ s.quota p PlanPart.queues)
    (hfree : (List.range 64).find? (fun q => !(s.part p).queues.any (fun y => y.q == q)) = some q) :
    ∃ t : State, exec (.wqCreate p) s = .next t ∧ t.answered p 0x0B 0 ∧ (t.rd .helmReqRes 0 p 0 = w32 q ∧ t.wqHead p q = 0 ∧ t.wqTail p q = 0 ∧
      (t.part p).queue? q = some ⟨q, arg64 a 0, arg a 2, bits (arg a 3) 2 0, bits (arg a 3) 31 16, none⟩) := by
  obtain ⟨k, hk4, hk16, hk⟩ := hsize
  have hlow : 16 ≤ arg a 2 := by
    rw [hk]
    exact Nat.pow_le_pow_right (n := 2) (i := 4) (by decide) hk4
  have hhigh : arg a 2 ≤ 65536 := by
    rw [hk]
    exact Nat.pow_le_pow_right (n := 2) (i := k) (by decide) hk16
  have hlog : 2 ^ Nat.log2 (arg a 2) = arg a 2 := by rw [hk, Nat.log2_two_pow]
  have hserved : servedWqCreate p (s.passTurn p) a = .ok (((s.passTurn p).resetQueue p q).setPart p { s.part p with
      queues := insertOn Queue.q ⟨q, arg64 a 0, arg a 2, bits (arg a 3) 2 0, bits (arg a 3) 31 16, none⟩ (s.part p).queues })
      (resultOf (some q)) := by
    have hlegal : ¬ (arg64 a 0 % 64 != 0 || decide (arg64 a 0 + 64 * arg a 2 > 2 ^ 48) || decide (arg a 2 < 16) || decide (arg a 2 > 65536) ||
        2 ^ Nat.log2 (arg a 2) != arg a 2 || bits (arg a 3) 15 3 != 0 || decide (bits (arg a 3) 2 0 > (s.passTurn p).quota p PlanPart.ceiling) ||
        !((s.passTurn p).part p).pinned (arg64 a 0) (64 * arg a 2)) = true := by
      have h1 : ¬ bits (arg a 3) 2 0 > (s.passTurn p).quota p PlanPart.ceiling := Nat.not_lt.2 hprio
      have h2 : ((s.passTurn p).part p).pinned (arg64 a 0) (64 * arg a 2) = true := hpin
      simp only [hbase, Nat.not_lt.2 hin, gt_iff_lt, Nat.not_lt.2 hlow, Nat.not_lt.2 hhigh, hlog, hrsv, Nat.not_lt.2 (Nat.not_lt.1 h1), h2,
        bne_self_eq_false, decide_false, Bool.not_true, Bool.or_self, Bool.false_eq_true, not_false_eq_true]
    have hroom : ¬ ((s.passTurn p).part p).queues.length + 1 > (s.passTurn p).quota p PlanPart.queues := Nat.not_lt.2 hquota
    have hfree' : (List.range 64).find? (fun q => !((s.passTurn p).part p).queues.any (fun y => y.q == q)) = some q := hfree
    rw [servedWqCreate]
    dsimp only
    rw [if_neg hlegal, if_neg hroom, hfree']
    rfl
  have hnew : ∀ z ∈ (s.part p).queues, (z.q == q) = false := by
    have h := List.find?_some hfree
    simpa using h
  refine request_granted (some q) hp (by decide) (if_pos (decide_eq_true hp)) hs hn hr hserved rfl (fun u hu => ⟨hu.result q rfl, ?_⟩)
  obtain ⟨hhead, htail⟩ := State.granted.queue_at_zero (s := s.passTurn p) hp hu (List.mem_range.1 (List.mem_of_find?_eq_some hfree)) rfl
  refine ⟨hhead, htail, ?_⟩
  obtain ⟨_, _, _, hpart⟩ := hu.part
  rw [hpart, State.part_setPart_same]
  exact find?_insertOn (beq_self_eq_true q) hnew

theorem wqDestroy_granted (hr : (s.part p).request = some (0x0C, irq, a)) {y : Queue} (hy : (s.part p).queue? (arg a 0) = some y)
    (hidle : ∀ j, y.head = some j → j.st = .waiting) :
    ∃ t : State, exec (.wqDestroy p) s = .next t ∧ t.answered p 0x0C 0 ∧ ((t.part p).queue? (arg a 0) = none ∧
      ∀ z ∈ (s.part p).queues, z.q ≠ arg a 0 → z ∈ (t.part p).queues) := by
  have hq : y.q = arg a 0 := by simpa [Part.queue?] using List.find?_some hy
  have hserved : servedWqDestroy p (s.passTurn p) a = .ok (((s.passTurn p).resetQueue p y.q).onPart p (fun x => { x with
      queues := x.queues.filter (fun z => z.q != y.q) })) (resultOf none) := by
    have hy' : ((s.passTurn p).part p).queue? (arg a 0) = some y := hy
    rw [servedWqDestroy, hy']
    cases hhead : y.head with
    | none => simp only [hhead, Bool.false_eq_true, if_false, resultOf, State.resetQueue]
    | some j => simp only [hhead, hidle j hhead, bne_self_eq_false, Bool.false_eq_true, if_false, resultOf, State.resetQueue]
  refine request_granted none hp (by decide) (if_pos (decide_eq_true hp)) hs hn hr hserved rfl (fun u hu => ?_)
  obtain ⟨_, _, _, hpart⟩ := hu.part
  rw [hpart, State.part_onPart_same]
  refine ⟨List.find?_eq_none.2 (fun z hz => ?_), fun z hz hne => List.mem_filter.2 ⟨hz, by rw [hq]; exact bne_iff_ne.2 hne⟩⟩
  obtain ⟨-, hne⟩ := List.mem_filter.1 hz
  rw [hq, bne_iff_ne] at hne
  simpa using hne

end

/-- Settles O33, request by request. -/
theorem helmObjectsGroupsQueues : Obligations.HelmObjectsGroupsQueues := by
  intro p irq a s hp hs hn
  exact ⟨fun hr o h1 hmax hquota hrun => syncAlloc_granted hp hs hn hr h1 hmax hquota hrun,
    fun hr h1 hin hall => syncFree_granted hp hs hn hr h1 hin hall,
    fun hr g hmax hgroups hslots hfree => groupAlloc_granted hp hs hn hr hmax hgroups hslots hfree,
    fun hr hmax hheld hforming hready hempty => groupFree_granted hp hs hn hr hmax hheld hforming hready hempty,
    fun hr hlink hout hin hfit => linkShare_granted hp hs hn hr rfl hlink hout hin hfit,
    fun hr q hbase hin hsize hrsv hprio hpin hquota hfree => wqCreate_granted hp hs hn hr hbase hin hsize hrsv hprio hpin hquota hfree,
    fun hr y hy hidle => wqDestroy_granted hp hs hn hr hy hidle⟩

end Sys2Proof.Machine
end

/-! ## O24: COLLPOST (R236, R354, R355) -/

section
namespace Sys2Proof.Machine
open Sys2Proof

/-! ### A whole line of memory (R250, R262) -/

theorem linePieces_line {a : Nat} (h : a % 64 = 0) : linePieces a 64 = [(a, 64)] := by
  simp [linePieces, pieces, h]

theorem linesOf_line {a : Nat} (h : a % 64 = 0) : linesOf a 64 = [a / 64] := by
  have hone : (a + 64 - 1) / 64 - a / 64 + 1 = 1 := by omega
  simp only [linesOf, hone]
  simp

/-- A list that has an entry for each offset of a line has at least 64 entries. -/
theorem length_of_tabFind_line {α : Type} {l : Tab α} (h : ∀ q, q < 64 → tabFind l q ≠ none) : 64 ≤ l.length := by
  have mem_of_find : ∀ {t : Tab α} {q : Nat}, tabFind t q ≠ none → q ∈ t.map (·.1) := by
    intro t q hq
    induction t with
    | nil => exact absurd rfl hq
    | cons x t ih =>
      by_cases hx : x.1 = q
      · exact List.mem_cons.2 (.inl hx.symm)
      · exact List.mem_cons_of_mem _ (ih (by simpa [tabFind, hx] using hq))
  have hsub : List.range 64 ⊆ l.map (·.1) := fun q hq => mem_of_find (h q (List.mem_range.1 hq))
  simpa using (List.subperm_of_subset List.nodup_range hsub).length_le

theorem wcMerge_line (b : List Host.Cell) {d : List Byte} (hd : d.length = 64) : 64 ≤ (wcMerge b 0 d).length := by
  refine length_of_tabFind_line (fun q hq => ?_)
  rw [tabFind_wcMerge, if_pos (by omega), Nat.sub_zero, List.getElem?_eq_getElem (by omega)]
  exact Option.some_ne_none _

/-- A whole line without poison clears the mark of its line, from the buffer or straight away. -/
theorem Mem.poisonAt_write_line {m : Mem} (gr : Grade) {pa : Nat} {d : List Byte} (ha : pa % 64 = 0) (hd : d.length = 64) :
    (m.write gr pa d false).poisonAt pa = false := by
  have hpiece : m.write gr pa d false = m.writePiece gr pa d false := by
    simp [Mem.write, hd, linePieces_line ha, List.take_of_length_le (Nat.le_of_eq hd)]
  rw [hpiece, Mem.writePiece]
  split
  · next o ho =>
    have hfull : (wcMerge o.bytes (pa % 64) d).length ≥ 64 := by
      rw [ha]
      exact wcMerge_line o.bytes hd
    rw [if_pos hfull, Mem.poisonAt_after_leave]
    have hline : pa / 64 = o.line := (find_line ho).2.symm
    simp [hline, hd, Nat.not_lt.2 hfull]
  · next ho =>
    rw [if_pos (Nat.le_of_eq hd.symm)]
    have hnone : (m.plain (pa / 64) d false).entry? (pa / 64) = none := ho
    rw [Mem.poisonAt_of_none hnone]
    exact (contains_setTo m.poison (pa / 64) (pa / 64) false).trans (if_pos rfl)

/-- A line reads back as it was written, without poison. -/
theorem Mem.look_write_line {m : Mem} (h : m.wf) (gr : Grade) {pa : Nat} {d : List Byte} (ha : pa % 64 = 0) (hd : d.length = 64) :
    ((m.write gr pa d false).settle pa 64).look pa 64 = (d, false) := by
  refine Prod.ext ?_ ?_
  · rw [Mem.look_settle (Mem.write_wf gr pa d false h)]
    refine List.ext_getElem (by simp [hd]) (fun i hi hi' => ?_)
    simp only [List.getElem_map, List.getElem_range', Nat.one_mul]
    rw [Mem.byteOf_write gr pa d false h, Nat.add_sub_cancel_left, if_pos ⟨Nat.le_add_right .., Nat.add_lt_add_left hi' pa⟩,
      List.getD_eq_getElem _ _ hi']
  · have hone : linesOf pa 1 = [pa / 64] := by simp [linesOf]
    have hclean := Mem.poisonAt_write_line (m := m) gr ha hd
    rw [← Mem.look_poison] at hclean
    simpa only [Mem.look, Mem.settle, linesOf_line ha, hone] using hclean

theorem Mem.look_length (m : Mem) (pa len : Nat) : (m.look pa len).1.length = len := by simp [Mem.look, cellsRead_eq]

/-! ### A line of a partition, as a core reads it and as the hub writes it -/

theorem go_rdVa_line {n p va pa : Nat} {h : Bool} {r : Run} (hp : r.s.holder n = some p) (ha : va % 64 = 0)
    (hx : (r.s.part p).xlate va false = .here pa h) :
    ∃ t, CM.go (rdVa n va 64) r = (.ok ((r.s.mem.settle pa 64).look pa 64), { r with s := t }) ∧ State.accessed p r.s t ∧
      t.mem = r.s.mem.settle pa 64 ∧ t.holder n = some p := by
  obtain ⟨t, hgo, hacc, hmem, hholder⟩ := go_rdPiece_here hp hx 64
  refine ⟨t, ?_, hacc, hmem, hholder⟩
  simp [rdVa, linePieces_line ha, hgo, joinReads]

theorem State.hub_hubWr_line {s : State} {w : Who} {p va pa : Nat} {h : Bool} {d : List Byte} (hf : s.filling = false) (ha : va % 64 = 0)
    (hd : d.length = 64) (hx : (s.part p).xlate va true = .here pa h) :
    ∃ t, s.hub (hubWr w p va d) = (.ok (), t) ∧ State.accessed p s t ∧ t.mem = s.mem.write s.grade pa d false := by
  refine ⟨_, ?_, s.touch_accessed p va { w with va := some va } (fun m => m.write s.grade pa d false), ?_⟩
  · simp [hubWr, hd, linePieces_line ha, List.forM_cons, hubWrPiece, hf, hx, List.take_of_length_le (Nat.le_of_eq hd)]
  · rw [State.memDo_mem, State.touchPage_mem]

theorem go_liftH_ok {α : Type} {x : HM α} {r : Run} {a : α} {t : State} (h : r.s.hub x = (.ok a, t)) :
    CM.go (liftH x) r = (.ok a, { r with s := t }) := by
  simp [liftH, h]

/-! ### The registers of a group (R380) -/

theorem Reg.collGroup_addr {g : Nat} (hg : g < 256) : Reg.collGroup.addr 0 g 0 < countersFrom ∧ Reg.collGroupCfg.addr 0 g 0 < countersFrom ∧
    Reg.collGroupQLo.addr 0 g 0 < countersFrom ∧ Reg.collGroupQHi.addr 0 g 0 < countersFrom := by
  simp only [Reg.addr, Reg.spec, Blk.base, countersFrom]
  omega

/-- Two states whose group g is the same, in its registers as in what the engine holds. -/
structure State.sameGroup (g : Nat) (s t : State) : Prop where
  group : t.group g = s.group g
  gState : t.gState g = s.gState g
  gSize : t.gSize g = s.gSize g
  gReckon : t.gReckon g = s.gReckon g
  queue : t.rd64 .collGroupQLo .collGroupQHi 0 g = s.rd64 .collGroupQLo .collGroupQHi 0 g

theorem State.sameGroup_of {g : Nat} {s t : State} (hg : g < 256) (hfab : t.fabric = s.fabric)
    (hrd : ∀ r b i j, Reg.addr r b i j < countersFrom → t.rd r b i j = s.rd r b i j) : State.sameGroup g s t := by
  obtain ⟨hst, hcfg, hlo, hhi⟩ := Reg.collGroup_addr hg
  exact ⟨by rw [State.group, hfab, State.group], by rw [State.gState, State.fld, hrd _ _ _ _ hst]; rfl,
    by rw [State.gSize, State.fld, hrd _ _ _ _ hcfg]; rfl, by rw [State.gReckon, State.fld, hrd _ _ _ _ hcfg]; rfl,
    by rw [State.rd64, hrd _ _ _ _ hlo, hrd _ _ _ _ hhi]; rfl⟩

theorem State.sameGroup.collChecks {g : Nat} {s t : State} (h : State.sameGroup g s t) (d : List Byte) :
    collChecks t g d = collChecks s g d := by simp only [Machine.collChecks, h.gSize, h.group]

/-- The group's state stands in a register that the queue's own does not share. -/
theorem State.gState_noteQueue (s : State) (g : Nat) : (s.noteQueue g).gState g = s.gState g := by
  have hne : Reg.collGroup.addr 0 g 0 ≠ Reg.collGroupQstat.addr 0 g 0 := by
    simp only [Reg.addr, Reg.spec]
    omega
  simp only [State.noteQueue, State.gState, State.fld, State.setFld, State.rd_wr_other _ _ _ _ _ _ _ _ _ _ hne]

theorem State.group_noteQueue (s : State) (g k : Nat) : (s.noteQueue g).group k = s.group k := rfl

section enqueue
variable (s : State) (g : Nat) (y : Posted)

theorem State.group_enqueue : (s.enqueue g y).group g = { s.group g with
    queue := (s.group g).queue ++ [{ y with dseq := (s.group g).nextDseq }], nextDseq := ((s.group g).nextDseq + 1) % 65536 } := by
  rw [State.enqueue, State.group_noteQueue, State.group_onGroup_same]

theorem State.gState_enqueue : (s.enqueue g y).gState g = s.gState g := by
  rw [State.enqueue, State.gState_noteQueue]
  rfl

theorem State.enqueue_frame : (s.enqueue g y).cores = s.cores ∧ (s.enqueue g y).mem = s.mem ∧
    (s.enqueue g y).fabric.lost = s.fabric.lost := ⟨rfl, rfl, rfl⟩

end enqueue

/-! ### The engine at rest -/

/-- The queue of a group that is neither READY nor BROKEN rests (R354). -/
theorem State.hub_kick_idle {s : State} {g : Nat} (h3 : s.gState g ≠ 3) (h4 : s.gState g ≠ 4) (fuel : Nat) :
    s.hub (kick g fuel) = (.ok (), s) := by
  cases fuel with
  | zero => rfl
  | succ k => simp [kick, h3, h4]

theorem State.settled_of_lost {s : State} (h : s.fabric.lost = []) : s.settled = s := by
  simp only [State.settled, State.drain, h]

/-! ### How the command runs -/

/-- The descriptor that COLLPOST of core n posts to group g: ARRIVAL is cleared in Reckoning mode. -/
def State.posting (s : State) (n g : Nat) (c : Cmd) (d : List Byte) : Posted :=
  ⟨n, (s.core n).cc, addrOf c.w1, (s.group g).nextDseq, if (s.core n).reckon then listSet d 1 ((d.getD 1 0#8) &&& 0xFE#8) else d,
    false, [], [], [], [], [], 0, []⟩

/-- The core with the command in flight, under the DSEQ of its descriptor. -/
def Core.posts (k : Core) (c : Cmd) (g dseq : Nat) : Core :=
  { k with flights := k.flights ++ [⟨c, (k.cp + 2 ^ 48 - 32) % 2 ^ 48, k.cc, [], g, dseq⟩] }

/-- What takes a descriptor: the queue with a free entry, once the hub has written the entry; otherwise the unit, where it waits (R236). -/
def State.takesPost (t : State) (n g p : Nat) (c : Cmd) (d : List Byte) (v : State) : Prop :=
  (1024 ≤ (t.group g).queue.length ∧ v = t.onGroup g (fun z => { z with stalled := z.stalled ++ [(t.posting n g c d, d)] })) ∨
  ((t.group g).queue.length < 1024 ∧ ∃ w, t.hub (hubWr (whoColl g p) p
    (t.rd64 .collGroupQLo .collGroupQHi 0 g + 64 * ((t.group g).nextDseq % 1024)) d) = (.ok (), w) ∧ v = w.enqueue g (t.posting n g c d))

theorem go_groupArg {n g p : Nat} {c : Cmd} {s : State} (hg : s.w3of n c 0 = g) (hlt : g < 256) (hp : s.holder n = some p)
    (hheld : (s.part p).groups.contains g = true) : CM.go (groupArg n c 0) ⟨s, 0, none⟩ = (.ok g, ⟨s, 0, none⟩) := by
  have hholder : CM.go (holderOf n) ⟨s, 0, none⟩ = (.ok p, ⟨s, 0, none⟩) := CM.go_holderOf hp
  simp only [groupArg, CM.go_bind, CM.go_w3, hg, hholder, CM.go_getS, CM.go_need, hlt, hheld, decide_true, Bool.and_self, if_true, CM.go_pure]

/-- The end of the command: its core has changed, the group's engine rests, and nothing was lost. -/
theorem go_postEnd {g : Nat} {v : State} (hidle : v.gState g = 1 ∨ v.gState g = 2) (hlost : v.fabric.lost = []) (n : Nat) (f : Core → Core) :
    CM.go (do
      modS (fun s => s.onCore n f)
      liftH (kick g 2100)
      modS State.settled
      return false) ⟨v, 0, none⟩ = (.ok false, ⟨v.onCore n f, 0, none⟩) := by
  generalize hu : v.onCore n f = u
  have hstate : u.gState g = v.gState g := by rw [← hu]; rfl
  rw [← hstate] at hidle
  have hkick : CM.go (liftH (kick g 2100)) ⟨u, 0, none⟩ = (.ok (), ⟨u, 0, none⟩) :=
    go_liftH_ok (State.hub_kick_idle (s := u) (by omega) (by omega) 2100)
  have hsettled : u.settled = u := State.settled_of_lost (by rw [← hu]; exact hlost)
  simp only [CM.go_bind, CM.go_modS, hu, hkick, hsettled, CM.go_pure]

section post
variable {n g p : Nat} {c : Cmd} {u t v : State} {x : List Byte × Bool} (harg : CM.go (groupArg n c 0) ⟨u, 0, none⟩ = (.ok g, ⟨u, 0, none⟩))
  (haligned : addrOf c.w1 % 64 = 0) (hread : CM.go (rdVa n (addrOf c.w1) 64) ⟨u, 0, none⟩ = (.ok x, ⟨t, 0, none⟩))
  (hp : t.holder n = some p) (hchecks : (collChecks t g x.1).all (·.1) = true)
  (hzcopy : cReducing x.1 = true → cZcopy x.1 = true → cArrival x.1 = true ∧ (t.core n).reckon = false)
  (hreckon : (t.core n).reckon = true → t.gReckon g = true) (hvary : cArrival x.1 = true → c.vary = true)
include harg haligned hread hp hchecks hzcopy hreckon hvary

theorem go_collpostBody (htake : t.takesPost n g p c x.1 v) (hidle : v.gState g = 1 ∨ v.gState g = 2) (hlost : v.fabric.lost = []) :
    CM.go (collpostBody n c) ⟨u, 0, none⟩ =
      (.ok false, ⟨v.onCore n (fun k => k.posts c g (t.group g).nextDseq), 0, none⟩) := by
  have hholder : CM.go (holderOf n) ⟨t, 0, none⟩ = (.ok p, ⟨t, 0, none⟩) := CM.go_holderOf hp
  have hall : CM.go (needAll (collChecks t g x.1)) ⟨t, 0, none⟩ = (.ok (), ⟨t, 0, none⟩) :=
    CM.go_needAll (by simpa using hchecks) _
  have hz : (!(cReducing x.1 && cZcopy x.1 && (t.core n).reckon)) = true := by grind
  have hr : (!(t.core n).reckon || t.gReckon g) = true := by grind
  have hza : (!(cReducing x.1 && cZcopy x.1) || cArrival x.1) = true := by grind
  have hv : (!cArrival x.1 || c.vary) = true := by grind
  have hend := go_postEnd hidle hlost n (fun k => k.posts c g (t.group g).nextDseq)
  have need_ok (ok : Bool) (h : ok = true) (code : Nat) (r : Run) : CM.go (need ok code) r = (.ok (), r) := by rw [CM.go_need, h, if_pos rfl]
  have ha : aligned (addrOf c.w1) 64 = true := beq_iff_eq.2 haligned
  rw [collpostBody, CM.go_bind_ok harg, CM.go_bind_ok (need_ok _ ha _ _), CM.go_bind_ok hread]
  dsimp only
  rw [CM.go_bind_ok (CM.go_getS _)]
  dsimp only
  rw [CM.go_bind_ok hall, CM.go_bind_ok (need_ok _ hz _ _), CM.go_bind_ok (need_ok _ hr _ _), CM.go_bind_ok (need_ok _ hza _ _),
    CM.go_bind_ok (need_ok _ hv _ _), CM.go_bind_ok hholder]
  rcases htake with ⟨hfull, rfl⟩ | ⟨hroom, w, hwrite, rfl⟩
  · rw [if_pos hfull, CM.go_bind_ok (CM.go_modS _ _)]
    exact hend
  · rw [if_neg (Nat.not_le.2 hroom), CM.go_bind_ok (go_liftH_ok hwrite), CM.go_bind_ok (CM.go_modS _ _)]
    exact hend

end post

/-- The command in flight on its core, which is otherwise as issued in its registers and stores, and every other core. -/
theorem State.core_posts {n g dseq : Nat} {c : Cmd} {s v : State} (hcore : ∀ m, v.core m = (s.issue n c).core m) :
    ((v.onCore n (fun k => k.posts c g dseq)).core n).flights = (s.core n).flights ++
        [⟨c, (((s.core n).cp + 32) % 2 ^ 48 + 2 ^ 48 - 32) % 2 ^ 48, s.ccNext n, [], g, dseq⟩] ∧
      ((v.onCore n (fun k => k.posts c g dseq)).core n).x = (s.core n).x ∧
      ((v.onCore n (fun k => k.posts c g dseq)).core n).cs = (s.core n).cs ∧
      ((v.onCore n (fun k => k.posts c g dseq)).core n).acc = (s.core n).acc ∧
      ∀ m, m ≠ n → (v.onCore n (fun k => k.posts c g dseq)).core m = s.core m := by
  have hflights : ((s.issue n c).core n).flights = (s.core n).flights := by rw [s.core_issue]; rfl
  have hx : ((s.issue n c).core n).x = (s.core n).x := by rw [s.core_issue]; rfl
  have hacc : ((s.issue n c).core n).acc = (s.core n).acc := by rw [s.core_issue]; rfl
  rw [State.core_onCore_same, hcore]
  refine ⟨?_, hx, s.cs_issue n c n, hacc, fun m hm => ?_⟩
  · simp only [Core.posts, hflights, State.cp_issue, State.cc_issue]
  · rw [State.core_onCore_other _ _ hm, hcore, s.core_issue_other n c hm]

/-- Settles O24: the command reads its descriptor, and the queue or, where that is full, its unit takes it. -/
theorem collectivePosting : Obligations.CollectivePosting := by
  intro n g p pd pa c s hn hrun hop hwf hfill hlost hg hlt hp hp8 hheld hstate haligned hx hpd d k q hchecks hzcopy hreckon hvary posted inFlight
  obtain ⟨hH, hx⟩ := hx
  obtain ⟨t, hread, hacc, hmem, hholder⟩ := go_rdVa_line (r := ⟨s.issue n c, 0, none⟩) (n := n) (by simpa using hp) haligned
    (by rwa [State.part_issue])
  simp only [State.issue_mem] at hread hmem
  have hrd : ∀ r b i j, Reg.addr r b i j < countersFrom → t.rd r b i j = s.rd r b i j :=
    fun r b i j ha => (hacc.rd r b i j ha).trans (s.rd_issue n c ha)
  have hfab : t.fabric = s.fabric := hacc.fabric_eq.trans (s.issue_fabric n c)
  have hsame : State.sameGroup g s t := State.sameGroup_of hlt hfab hrd
  have hposting : t.posting n g c d = posted := by
    simp only [State.posting, hacc.core_eq, State.cc_issue, State.reckon_issue, hsame.group]
    rfl
  have harg := go_groupArg (s := s.issue n c) (n := n) (c := c) (by simpa using hg) hlt (by simpa using hp) (by rwa [State.part_issue])
  have hcoreT : ∀ m, t.core m = (s.issue n c).core m := hacc.core_eq
  have hreckonT : (t.core n).reckon = k.reckon := by rw [hcoreT, State.reckon_issue]
  have hbody := fun v => go_collpostBody (v := v) harg haligned hread hholder (by rwa [hsame.collChecks])
    (by rwa [hreckonT]) (by rwa [hreckonT, hsame.gReckon]) hvary
  have hlostT : t.fabric.lost = [] := by rw [hfab, hlost]
  have hidleT : t.gState g = 1 ∨ t.gState g = 2 := by rwa [hsame.gState]
  have hwfT : t.mem.wf := by
    rw [hmem]
    exact Mem.settle_wf pd 64 hwf
  have hbytes : ∀ a, t.mem.byteOf a = s.mem.byteOf a := fun a => by rw [hmem, Mem.byteOf_settle hwf]
  have hbyteAt : ∀ {v : State} (a : Nat), v.mem.wf → v.mem.byteOf a = t.mem.byteOf a → v.byteAt a = s.byteAt a := fun a hv he => by
    rw [State.byteAt_eq hv, State.byteAt_eq hwf, he, hbytes]
  refine ⟨fun hroom hq hxq hpa => ?_, fun hfull => ?_⟩
  · obtain ⟨hW, hxq⟩ := hxq
    have hd : d.length = 64 := Mem.look_length ..
    have hfillT : t.filling = false := by
      rw [State.filling, State.fld, hrd _ _ _ _ (by decide)]
      exact hfill
    have hqT : t.rd64 .collGroupQLo .collGroupQHi 0 g + 64 * ((t.group g).nextDseq % 1024) = q := by rw [hsame.queue, hsame.group]
    obtain ⟨w, hwrite, hw, hwmem⟩ := State.hub_hubWr_line (s := t) (w := whoColl g p) (d := d) hfillT hq hd
      (by rw [hacc.xlate, State.part_issue]; exact hxq)
    have hgroup : (w.enqueue g posted).group g = { s.group g with
        queue := (s.group g).queue ++ [posted], nextDseq := ((s.group g).nextDseq + 1) % 65536 } := by
      rw [State.group_enqueue, State.group, hw.fabric_eq, ← State.group, hsame.group]
    have hmemW : (w.enqueue g posted).mem = t.mem.write t.grade pa d false := hwmem
    have hbody := hbody (w.enqueue g posted) (.inr ⟨by rwa [hsame.group], w, by rw [hqT]; exact hwrite, by rw [hposting]⟩)
      (by rw [State.gState_enqueue, (State.sameGroup_of hlt hw.fabric_eq hw.rd).gState]; exact hidleT)
      (by rw [(w.enqueue_frame g posted).2.2, hw.fabric_eq]; exact hlostT)
    refine ⟨_, exec_leaves hn hrun rfl rfl hop hbody, ?_, by rw [State.group_onCore, hgroup],
      by rw [State.group_onCore, hgroup], ?_, fun a ha => hbyteAt a ?_ ?_⟩
    · rw [hsame.group]
      exact State.core_posts (fun m => (hw.core_eq m).trans (hcoreT m))
    · exact hmemW ▸ Mem.look_write_line hwfT t.grade hpa hd
    · exact hmemW ▸ Mem.write_wf t.grade pa d false hwfT
    · refine hmemW ▸ ?_
      rw [Mem.byteOf_write t.grade pa d false hwfT, if_neg (by omega)]
  · generalize hv : t.onGroup g (fun z => { z with stalled := z.stalled ++ [(posted, d)] }) = v
    have hcoreV : ∀ m, v.core m = (s.issue n c).core m := fun m => by rw [← hv]; exact hcoreT m
    have hgroup : v.group g = { s.group g with stalled := (s.group g).stalled ++ [(posted, d)] } := by
      rw [← hv, State.group_onGroup_same, hsame.group]
    have hmemV : v.mem = t.mem := by rw [← hv]; rfl
    have hbody := hbody v (.inl ⟨by rwa [hsame.group], by rw [hposting, hv]⟩) (by rw [← hv]; exact hidleT) (by rw [← hv]; exact hlostT)
    rw [hsame.group] at hbody
    refine ⟨_, exec_leaves hn hrun rfl rfl hop hbody, State.core_posts hcoreV, by rw [State.group_onCore, hgroup],
      by rw [State.group_onCore, hgroup], fun a => hbyteAt a ?_ ?_⟩
    · exact hmemV ▸ hwfT
    · exact congrArg (Mem.byteOf · a) hmemV

end Sys2Proof.Machine
end

/-! ## O16: ATOMIC, SCATADD and GATHER (R252 to R256, R213) -/

section
namespace Sys2Proof.Machine
open Sys2Proof

/-! ### Memory-side adds by a core (R254, R262) -/

/-- The memory-side add of one element at a virtual address, where that translates. -/
def Mem.addElem (x : Part) (ty : AddTy) (va amount : Nat) (poison : Bool) (m : Mem) : Mem :=
  match x.xlate va true with
  | .here pa _ => (m.addAt ty pa amount poison).1
  | _ => m

theorem Mem.addElem_here {x : Part} {va pa : Nat} {h : Bool} (hx : x.xlate va true = .here pa h) (ty : AddTy) (amount : Nat) (poison : Bool)
    (m : Mem) : m.addElem x ty va amount poison = (m.addAt ty pa amount poison).1 := by
  simp only [Mem.addElem, hx]

/-- The adds of a stretch of a row: its elements by rising address (R256). -/
def Mem.addElems (x : Part) (ty : AddTy) (dst : Nat) (data : List Byte) (poison : Bool) (m : Mem) : Mem :=
  (List.range (data.length / ty.bytes)).foldl
    (fun m e => m.addElem x ty (dst + e * ty.bytes) (leAt data (e * ty.bytes) ty.bytes) poison) m

/-- The adds of one line of a row's source, which stands at `src` in core k's store. -/
def Mem.addPiece (x : Part) (k : Core) (ty : AddTy) (dst src : Nat) (poison : Bool) (m : Mem) (y : Nat × Nat) : Mem :=
  m.addElems x ty (dst + (y.1 - src)) (k.csRead y.1 y.2).1 ((k.csRead y.1 y.2).2 || poison)

theorem Mem.addRow_eq (m : Mem) (x : Part) (k : Core) (ty : AddTy) (dst src len : Nat) (poison : Bool) :
    m.addRow x k ty dst src len poison = (linePieces src len).foldl (Mem.addPiece x k ty dst src poison) m := rfl

theorem State.accessed.refl (p : Nat) (s : State) : State.accessed p s s := ⟨rfl, fun _ _ _ _ _ => rfl, fun _ _ => rfl⟩

/-- A computation of core n, of partition p, that ends well with a after accesses to device memory, which leave memory as m. -/
def CM.serves {α : Type} (n p : Nat) (x : CM α) (r : Run) (a : α) (m : Mem) : Prop :=
  ∃ t f, CM.go x r = (.ok a, ⟨t, f, r.vals⟩) ∧ State.accessed p r.s t ∧ t.holder n = some p ∧ t.mem = m

section
variable {n p : Nat} {r : Run} (hp : r.s.holder n = some p)
include hp

/-- An element that is added carries what poison it may, as its page has no H (R409). -/
theorem serves_addVa {va pa : Nat} (hx : (r.s.part p).xlate va true = .here pa false) (ty : AddTy) (amount : Nat) (poison : Bool) :
    CM.serves n p (addVa n va ty amount poison) r (r.s.mem.addAt ty pa amount poison).2 (r.s.mem.addAt ty pa amount poison).1 := by
  have hcount := (((r.s.touchPage p va).memDo (r.s.whoCore n va) (fun _ => (r.s.mem.addAt ty pa amount poison).1)).hubEvent_same 0x46 1
    (r.s.whoCore n va)).trans (State.coreEvent_same _ n 0x0B 1 (some va))
  refine ⟨_, if (r.s.mem.addAt ty pa amount poison).2.2 then r.flags ||| 0x200 else r.flags, ?_,
    (r.s.touch_accessed p va (r.s.whoCore n va) _).trans (hcount.accessed p),
    (hcount.holder_eq n).trans (State.holder_access hp (Part.pages_ne_nil hx) va _ _), ?_⟩
  · simp only [addVa, CM.go_bind, CM.go_holderOf hp, CM.go_getS, hx, CM.go_setS, CM.go_flagIf, Bool.and_false, Bool.false_eq_true, if_false,
      CM.go_pure]
  · rw [hcount.mem_eq, State.memDo_mem]

theorem serves_pure {α : Type} (a : α) : CM.serves n p (pure a) r a r.s.mem :=
  ⟨r.s, r.flags, rfl, .refl p r.s, hp, rfl⟩

end

theorem CM.serves.bind {α β : Type} {n p : Nat} {x : CM α} {y : α → CM β} {r : Run} {a : α} {b : β} {m k : Mem} (hx : CM.serves n p x r a m)
    (hy : ∀ r', State.accessed p r.s r'.s → r'.s.holder n = some p → r'.s.mem = m → CM.serves n p (y a) r' b k) :
    CM.serves n p (x >>= y) r b k := by
  obtain ⟨t, f, hgo, hacc, hhold, hmem⟩ := hx
  obtain ⟨u, g, hgo', hacc', hhold', hmem'⟩ := hy ⟨t, f, r.vals⟩ hacc hhold hmem
  exact ⟨u, g, (CM.go_bind_ok hgo).trans hgo', hacc.trans hacc', hhold', hmem'⟩

/-- A loop whose every step makes accesses makes them one after another. -/
theorem serves_forM {α : Type} {n p : Nat} {s : State} {f : α → CM Unit} {g : Mem → α → Mem} {l : List α}
    (h : ∀ x ∈ l, ∀ r, State.accessed p s r.s → r.s.holder n = some p → CM.serves n p (f x) r () (g r.s.mem x)) {r : Run}
    (ha : State.accessed p s r.s) (hp : r.s.holder n = some p) : CM.serves n p (l.forM f) r () (l.foldl g r.s.mem) := by
  induction l generalizing r with
  | nil => exact serves_pure hp ()
  | cons x t ih =>
    have hstep := h x (List.mem_cons_self ..) r ha hp
    refine hstep.bind (fun r' hacc hhold hmem => ?_)
    rw [List.foldl_cons, ← hmem]
    exact ih (fun y hy => h y (List.mem_cons_of_mem _ hy)) (ha.trans hacc) hhold

/-! ### SCATADD -/

section
variable {n p : Nat} {x : Part} {s : State} {r : Run} (hs : ∀ va w, (s.part p).xlate va w = x.xlate va w) (ha : State.accessed p s r.s)
  (hp : r.s.holder n = some p) {ty : AddTy}
include hs ha hp

theorem serves_scatRow {dst : Nat} {data : List Byte} (hmap : x.maps dst data.length true) (poison : Bool) :
    CM.serves n p (scatRow n ty dst data poison) r () (r.s.mem.addElems x ty dst data poison) := by
  refine serves_forM (s := s) (fun e he r hacc hhold => ?_) ha hp
  have he := List.mem_range.1 he
  have hlt : e * ty.bytes < data.length := by
    have hfull := Nat.mul_le_mul_right ty.bytes (Nat.succ_le_of_lt he)
    have hdiv := Nat.div_mul_le_self data.length ty.bytes
    have hpos : 0 < ty.bytes := by cases ty <;> decide
    rw [Nat.succ_mul] at hfull
    omega
  obtain ⟨pa, hpa⟩ := hmap (dst + e * ty.bytes) (Nat.le_add_right ..) (Nat.add_lt_add_left hlt dst)
  rw [Mem.addElem_here hpa]
  exact (serves_addVa hhold (by rw [hacc.xlate, hs, hpa]) ty _ poison).bind (fun r' _ hhold' hmem => hmem ▸ serves_pure hhold' ())

variable {t d : Desc} {k : Core} (hk : ∀ a len, (s.core n).csRead a len = k.csRead a len) (hloc : d.loc = true)
include hk hloc

/-- One index of the list: a row of the table takes its adds, an index beyond it none (R256). -/
theorem serves_scatOne {idxAt row len : Nat} (hidx : idxAt + 4 ≤ shadowBase) (hrow : d.base + row * d.pitch + len ≤ shadowBase)
    (hmap : leNat (k.csRead idxAt 4).1 < t.rows → x.maps (t.base + leNat (k.csRead idxAt 4).1 * t.pitch) len true) :
    CM.serves n p (scatOne n t d ty idxAt row len) r () (if leNat (k.csRead idxAt 4).1 < t.rows then
      r.s.mem.addRow x k ty (t.base + leNat (k.csRead idxAt 4).1 * t.pitch) (d.base + row * d.pitch) len (k.csRead idxAt 4).2 else r.s.mem) := by
  have hcs : ∀ a len, (r.s.core n).csRead a len = k.csRead a len := fun a len => by rw [ha.core_eq, hk]
  have hread : CM.go (rdCs n idxAt 4) r = (.ok (k.csRead idxAt 4), r) := by rw [CM.go_rdCs hidx, hcs]
  by_cases hin : leNat (k.csRead idxAt 4).1 < t.rows
  · rw [if_pos hin, Mem.addRow_eq]
    have hpieces : CM.go ((linePieces (d.base + row * d.pitch) len).mapM (fun y => do
        let q ← rdAt n d.loc y.1 y.2
        return (y, q))) r = (.ok ((linePieces (d.base + row * d.pitch) len).map (fun y => (y, k.csRead y.1 y.2))), r) := by
      refine CM.go_mapM (fun y hy => ?_)
      obtain ⟨-, hhigh, -⟩ := pieces_within (by decide) hy
      rw [hloc, CM.go_bind_ok (CM.go_rdAt_true (by omega)), hcs]
      rfl
    have hloop := serves_forM (s := s) (r := r) (l := linePieces (d.base + row * d.pitch) len)
      (f := fun y => scatRow n ty (t.base + leNat (k.csRead idxAt 4).1 * t.pitch + (y.1 - (d.base + row * d.pitch))) (k.csRead y.1 y.2).1
        ((k.csRead y.1 y.2).2 || (k.csRead idxAt 4).2))
      (g := Mem.addPiece x k ty (t.base + leNat (k.csRead idxAt 4).1 * t.pitch) (d.base + row * d.pitch) (k.csRead idxAt 4).2)
      (fun y hy r' hacc hhold => by
        obtain ⟨hlow, hhigh, -⟩ := pieces_within (by decide) hy
        exact serves_scatRow hs hacc hhold (fun a h1 h2 => hmap hin a (by omega) (by rw [csRead_length] at h2; omega)) _) ha hp
    obtain ⟨u, f, hgo, hrest⟩ := hloop
    refine ⟨u, f, ?_, hrest⟩
    rw [scatOne, CM.go_bind_ok hread, if_pos hin, CM.go_bind_ok hpieces, List.forM_eq_forM, List.forM_map]
    exact hgo
  · rw [if_neg hin]
    exact ⟨r.s, r.flags ||| 1, by rw [scatOne, CM.go_bind_ok hread, if_neg hin, CM.go_flag], .refl p r.s, hp, rfl⟩

end

theorem serves_scataddBody {n p : Nat} {c : Cmd} {s : State} {t d : Desc} {ty : AddTy} {list cnt len : Nat} (hp : s.holder n = some p)
    (hty : AddTy.ofCode (s.w3of n c 3) = ty) (hlist : s.w3of n c 0 = list) (hcnt : s.w3of n c 1 = cnt) (hlen : s.w3of n c 2 = len)
    (hl1 : locOf c.w1 = true) (hl2 : locOf c.w2 = true) (ht : (s.core n).descAt (addrOf c.w1) = some t)
    (hd : (s.core n).descAt (addrOf c.w2) = some d)
    (haligned : t.base % ty.bytes = 0 ∧ t.pitch % ty.bytes = 0 ∧ d.base % ty.bytes = 0 ∧ d.pitch % ty.bytes = 0)
    (hrange : 1 ≤ len ∧ len ≤ 4096 ∧ len % ty.bytes = 0 ∧ s.w3of n c 3 ≤ 3 ∧ cnt ≤ d.rows) (htloc : t.loc = false) (hloc : d.loc = true)
    (hin : list + 4 * cnt ≤ shadowBase) (hrows : d.base + (cnt - 1) * d.pitch + len ≤ shadowBase)
    (hmap : ∀ j, j < cnt → leNat ((s.core n).csRead (list + 4 * j) 4).1 < t.rows →
      (s.part p).maps (t.base + leNat ((s.core n).csRead (list + 4 * j) 4).1 * t.pitch) len true) :
    CM.serves n p (scataddBody n c) ⟨s, 0, none⟩ true ((List.range cnt).foldl (fun m j =>
      if leNat ((s.core n).csRead (list + 4 * j) 4).1 < t.rows then
        m.addRow (s.part p) (s.core n) ty (t.base + leNat ((s.core n).csRead (list + 4 * j) 4).1 * t.pitch) (d.base + j * d.pitch) len
          ((s.core n).csRead (list + 4 * j) 4).2
      else m) s.mem) := by
  obtain ⟨h1, h2, h3, h4⟩ := haligned
  obtain ⟨h5, h6, h7, h8, h9⟩ := hrange
  have hchecks := CM.go_needAll (l := [(t.base % ty.bytes == 0 && t.pitch % ty.bytes == 0 && d.base % ty.bytes == 0 && d.pitch % ty.bytes == 0, 0x05),
    (decide (1 ≤ len) && decide (len ≤ 4096) && len % ty.bytes == 0 && decide (s.w3of n c 3 ≤ 3) && decide (cnt ≤ d.rows), 0x06), (!t.loc, 0x11),
    (decide (list + 4 * cnt ≤ shadowBase) && (!d.loc || decide (d.base + (cnt - 1) * d.pitch + len ≤ shadowBase)), 0x11)])
    (by simp [h1, h2, h3, h4, h5, h6, h7, h8, h9, htloc, hin, hrows]) ⟨s, 0, none⟩
  have hstart : CM.go (scataddBody n c) ⟨s, 0, none⟩ = CM.go (do
      (List.range cnt).forM (fun j => scatOne n t d ty (list + 4 * j) j len)
      return true) ⟨s, 0, none⟩ := by
    rw [scataddBody, hl1, hl2, CM.go_bind_ok (go_readDesc (r := ⟨s, 0, none⟩) ht), CM.go_bind_ok (go_readDesc (r := ⟨s, 0, none⟩) hd),
      CM.go_bind_ok (CM.go_w3 ..), CM.go_bind_ok (CM.go_w3 ..), CM.go_bind_ok (CM.go_w3 ..), CM.go_bind_ok (CM.go_w3 ..), hlist, hcnt, hlen, hty]
    exact CM.go_bind_ok hchecks
  rw [CM.serves, hstart]
  refine (serves_forM (s := s) (fun j hj r hacc hhold => ?_) (.refl p s) hp).bind (fun r _ hhold hmem => hmem ▸ serves_pure hhold true)
  have hj := List.mem_range.1 hj
  have hpitch : j * d.pitch ≤ (cnt - 1) * d.pitch := Nat.mul_le_mul_right _ (by omega)
  exact serves_scatOne (fun _ _ => rfl) hacc hhold (fun _ _ => rfl) hloc (by omega) (by omega) (hmap j hj)

/-! ### ATOMIC -/

theorem go_atomicBody {n p pa : Nat} {c : Cmd} {s : State} {ty : AddTy} (hp : s.holder n = some p) (hloc : locOf c.w1 = false)
    (hty : AddTy.ofCode (bits c.w1.toNat 50 49) = ty) (ha : addrOf c.w1 % ty.bytes = 0)
    (hx : (s.part p).xlate (addrOf c.w1) true = .here pa false) :
    ∃ t f, CM.go (atomicBody n c) ⟨s, 0, none⟩ = (.ok true, ⟨t.onCore n (fun k => k.setX (c.idx 0)
        (BitVec.ofNat 64 (s.mem.addAt ty pa (s.w3of n c 1 % 2 ^ (8 * ty.bytes)) false).2.1)
        (s.mem.addAt ty pa (s.w3of n c 1 % 2 ^ (8 * ty.bytes)) false).2.2), f, none⟩) ∧
      State.accessed p s t ∧ t.mem = (s.mem.addAt ty pa (s.w3of n c 1 % 2 ^ (8 * ty.bytes)) false).1 := by
  obtain ⟨t, f, hgo, hacc, -, hmem⟩ := serves_addVa (r := ⟨s, 0, none⟩) hp hx ty (s.w3of n c 1 % 2 ^ (8 * ty.bytes)) false
  have hchecks := CM.go_needAll (l := [(addrOf c.w1 % ty.bytes == 0, 0x05), (!locOf c.w1, 0x11)]) (by simp [ha, hloc]) ⟨s, 0, none⟩
  refine ⟨t, f, ?_, hacc, hmem⟩
  simp only [atomicBody, hty, CM.go_bind, hchecks, CM.go_w3, hgo, CM.go_setXTo, CM.go_pure]

/-! ### GATHER (R252, R253) -/

/-- A range of one page lies in one piece of physical memory. -/
theorem Part.onePage.physical {x : Part} {va len : Nat} {w : Bool} (h : x.onePage va len w) :
    ∃ pa, ∀ a, va ≤ a → a < va + len → x.xlate a w = .here (pa + (a - va)) false := by
  obtain ⟨g, f, hf, hh, hw, hpage⟩ := h
  refine ⟨f + (va - g.va), fun a h1 h2 => ?_⟩
  have hlow := (Part.page?_bounds (hpage va (Nat.le_refl _) (by omega))).1
  rw [Part.xlate_here (hpage a h1 h2) hf hw, hh, Page.phys]
  congr 1
  omega

section
variable {n p : Nat}

/-- A core reads pieces one by one: memory keeps its bytes, and the bytes are those of the pieces. -/
theorem go_mapM_rdPiece {phys : Nat → Nat} (xs : List (Nat × Nat)) : ∀ {r : Run}, r.s.holder n = some p → r.s.mem.wf →
    (∀ x ∈ xs, (r.s.part p).xlate x.1 false = .here (phys x.1) false) →
    ∃ l t, CM.go (xs.mapM (fun x => rdPiece n x.1 x.2)) r = (.ok l, { r with s := t }) ∧ State.accessed p r.s t ∧ t.holder n = some p ∧
      t.mem.wf ∧ (∀ a, t.mem.byteOf a = r.s.mem.byteOf a) ∧
      l.flatMap (·.1) = xs.flatMap (fun x => (List.range' (phys x.1) x.2).map r.s.mem.byteOf) := by
  induction xs with
  | nil => exact fun {r} hp hwf _ => ⟨[], r.s, by simp, .refl p r.s, hp, hwf, fun _ => rfl, rfl⟩
  | cons x xs ih =>
    intro r hp hwf hx
    obtain ⟨t, ht, hacc, hmem, hhold⟩ := go_rdPiece_here hp (hx x (List.mem_cons_self ..)) x.2
    have hbytes : ∀ a, t.mem.byteOf a = r.s.mem.byteOf a := fun a => by rw [hmem, Mem.byteOf_settle hwf]
    obtain ⟨l, u, hu, hacc', hhold', hwf', hbytes', hl⟩ := ih (r := { r with s := t }) hhold (hmem ▸ Mem.settle_wf _ _ hwf)
      (fun y hy => by rw [hacc.xlate]; exact hx y (List.mem_cons_of_mem _ hy))
    refine ⟨(r.s.mem.settle (phys x.1) x.2).look (phys x.1) x.2 :: l, u, ?_, hacc.trans hacc', hhold', hwf',
      fun a => (hbytes' a).trans (hbytes a), ?_⟩
    · rw [List.mapM_cons, CM.go_bind_ok ht, CM.go_bind_ok hu]
      rfl
    · rw [List.flatMap_cons, List.flatMap_cons, Mem.look_settle hwf, hl]
      simp only [funext hbytes]

/-- A read of a range that lies in one piece of physical memory gives the bytes there. -/
theorem go_rdVa_physical {va pa len : Nat} {r : Run} (hp : r.s.holder n = some p) (hwf : r.s.mem.wf)
    (hx : ∀ a, va ≤ a → a < va + len → (r.s.part p).xlate a false = .here (pa + (a - va)) false) :
    ∃ b t, CM.go (rdVa n va len) r = (.ok ((List.range' pa len).map r.s.mem.byteOf, b), { r with s := t }) ∧ State.accessed p r.s t ∧
      t.holder n = some p ∧ t.mem.wf ∧ ∀ a, t.mem.byteOf a = r.s.mem.byteOf a := by
  obtain ⟨l, t, hgo, hacc, hhold, hwf', hbytes, hl⟩ := go_mapM_rdPiece (phys := fun a => pa + (a - va)) (linePieces va len) hp hwf
    (fun x hx' => by
      obtain ⟨h1, h2, -⟩ := pieces_within (by decide) hx'
      have h3 := pieces_pos (by decide) hx'
      exact hx x.1 h1 (by omega))
  have hpiece : ∀ x ∈ linePieces va len, (List.range' (pa + (x.1 - va)) x.2).map r.s.mem.byteOf =
      (List.range' x.1 x.2).map (fun a => r.s.mem.byteOf (pa + (a - va))) := fun x hx' => by
    obtain ⟨h1, -⟩ := pieces_within (by decide) hx'
    simp only [List.range'_eq_map_range, List.map_map]
    refine List.map_congr_left (fun i _ => ?_)
    simp only [Function.comp_apply]
    congr 1
    omega
  have hall : l.flatMap (·.1) = (List.range' pa len).map r.s.mem.byteOf := by
    rw [hl, List.flatMap_congr hpiece, ← List.map_flatMap, linePieces_flatMap]
    simp only [List.range'_eq_map_range, List.map_map]
    refine List.map_congr_left (fun i _ => ?_)
    simp
  refine ⟨l.any (·.2), t, ?_, hacc, hhold, hwf', hbytes⟩
  rw [rdVa, CM.go_bind_ok hgo, CM.go_pure, joinReads, hall]

/-- From s to t a gather of core n, of partition p, has changed no byte of memory, no other core, and of core n's store no byte in `kept`. -/
structure State.gathers (n p : Nat) (kept : Nat → Prop) (s t : State) : Prop where
  holder : t.holder n = some p
  xlate : ∀ va w, (t.part p).xlate va w = (s.part p).xlate va w
  wf : t.mem.wf
  memory : ∀ a, t.mem.byteOf a = s.mem.byteOf a
  other : ∀ m, m ≠ n → t.core m = s.core m
  bytes : ∀ a, kept a → t.csByte n a = s.csByte n a

theorem State.gathers.trans {kept kept' : Nat → Prop} {s t u : State} (h : s.gathers n p kept t) (g : t.gathers n p kept' u) :
    s.gathers n p (fun a => kept a ∧ kept' a) u where
  holder := g.holder
  xlate va w := (g.xlate va w).trans (h.xlate va w)
  wf := g.wf
  memory a := (g.memory a).trans (h.memory a)
  other m hm := (g.other m hm).trans (h.other m hm)
  bytes a ha := (g.bytes a ha.2).trans (h.bytes a ha.1)

theorem State.gathers.mono {kept kept' : Nat → Prop} {s t : State} (h : s.gathers n p kept t) (hk : ∀ a, kept' a → kept a) :
    s.gathers n p kept' t := { h with bytes := fun a ha => h.bytes a (hk a ha) }

theorem State.accessed.gathers {s t : State} (h : State.accessed p s t) (hp : t.holder n = some p) (hwf : t.mem.wf)
    (hbytes : ∀ a, t.mem.byteOf a = s.mem.byteOf a) (kept : Nat → Prop) : s.gathers n p kept t where
  holder := hp
  xlate := h.xlate
  wf := hwf
  memory := hbytes
  other m _ := h.core_eq m
  bytes a _ := by rw [State.csByte, h.core_eq, State.csByte]

theorem State.csWrite_gathers {s : State} (hp : s.holder n = some p) (hwf : s.mem.wf) (a : Nat) (d : List Byte) (q : Bool) :
    s.gathers n p (fun x => x < a ∨ a + d.length ≤ x) (s.onCore n (fun k => k.csWrite a d q)) where
  holder := hp
  xlate _ _ := rfl
  wf := hwf
  memory _ := rfl
  other := (s.csWrite_stowed (n := n) (fun _ h => h) q).other
  bytes := (s.csWrite_stowed (n := n) (fun _ h => h) q).bytes

/-- Bytes that an entry of index i takes from the table: those of its row, or zeros beyond the table (R253). -/
def State.tableRow (s : State) (p : Nat) (t : Desc) (size i : Nat) (d : List Byte) : Prop :=
  d.length = size ∧ (t.rows ≤ i → d = List.replicate size 0#8) ∧
  (i < t.rows → ∀ b, b < size → ∃ pa, (s.part p).xlate (t.base + i * t.pitch + b) false = .here pa false ∧ d.getD b 0#8 = s.mem.byteOf pa)

theorem State.gathers.tableRow {kept : Nat → Prop} {s u : State} (h : s.gathers n p kept u) {t : Desc} {size i : Nat} {d : List Byte}
    (hd : u.tableRow p t size i d) : s.tableRow p t size i d := by
  obtain ⟨hlen, hout, hin⟩ := hd
  refine ⟨hlen, hout, fun hi b hb => ?_⟩
  obtain ⟨pa, hx, hv⟩ := hin hi b hb
  exact ⟨pa, by rwa [← h.xlate], by rwa [← h.memory]⟩

section one
variable {t : Desc} {size : Nat}

theorem go_gatherOne {r : Run} (hp : r.s.holder n = some p) (hwf : r.s.mem.wf) {idxAt dst : Nat} (hidx : idxAt + 4 ≤ shadowBase)
    (hdst : dst + size ≤ shadowBase) (hpage : ∀ i, i < t.rows → ∃ pa, ∀ a, t.base + i * t.pitch ≤ a → a < t.base + i * t.pitch + size →
      (r.s.part p).xlate a false = .here (pa + (a - (t.base + i * t.pitch))) false) :
    ∃ r', CM.go (gatherOne n t idxAt dst size) r = (.ok (), r') ∧ r.s.gathers n p (fun x => x < dst ∨ dst + size ≤ x) r'.s ∧
      r.s.tableRow p t size (leNat ((r.s.core n).csRead idxAt 4).1) (cellsRead (r'.s.core n).cs dst size) := by
  have hread := CM.go_rdCs (n := n) (r := r) hidx
  generalize ((r.s.core n).csRead idxAt 4) = x at hread
  -- what is written at dst is what the entry reads as
  have hput : ∀ (u : State) (d : List Byte) (q : Bool), d.length = size →
      cellsRead ((u.onCore n (fun k => k.csWrite dst d q)).core n).cs dst size = d := fun u d q hd => by
    rw [State.core_onCore_same, Core.csWrite_cs, cellsRead_write_length _ _ hd]
  by_cases hin : leNat x.1 < t.rows
  · obtain ⟨pa, hx⟩ := hpage _ hin
    obtain ⟨b, u, hgo, hacc, hhold, hwf', hbytes⟩ := go_rdVa_physical hp hwf hx
    have hlen : ((List.range' pa size).map r.s.mem.byteOf).length = size := by simp
    have hcount := u.hubEvent_same 0x45 (granules (t.base + leNat x.1 * t.pitch) size) (u.whoCore n (t.base + leNat x.1 * t.pitch))
    generalize hv : u.hubEvent 0x45 (granules (t.base + leNat x.1 * t.pitch) size) (u.whoCore n (t.base + leNat x.1 * t.pitch)) = v at hcount
    have hwrite := CM.go_wrCs (n := n) (off := dst) (d := (List.range' pa size).map r.s.mem.byteOf) (p := b || x.2)
      (r := { r with s := v }) (by rw [hlen]; exact hdst)
    have hgather : r.s.gathers n p (fun _ => True) v := (hacc.trans (hcount.accessed p)).gathers (by rw [hcount.holder_eq, hhold])
      (by rw [hcount.mem_eq]; exact hwf') (fun a => by rw [hcount.mem_eq, hbytes]) _
    refine ⟨{ r with
        s := v.onCore n (fun k => k.csWrite dst ((List.range' pa size).map r.s.mem.byteOf) (b || x.2))
        flags := if b || x.2 then r.flags ||| 0x200 else r.flags },
      ?_, (hgather.trans (State.csWrite_gathers hgather.holder hgather.wf dst _ (b || x.2))).mono
      (fun a ha => ⟨trivial, by rwa [hlen]⟩), ?_⟩
    · rw [gatherOne, CM.go_bind_ok hread, if_pos hin, CM.go_bind_ok hgo, CM.go_bind_ok (CM.go_modS _ _)]
      dsimp only
      rw [hv, hwrite]
    · rw [hput v _ _ hlen]
      refine ⟨hlen, fun hout => absurd hin (Nat.not_lt.2 hout), fun _ k hk => ⟨pa + k, ?_, ?_⟩⟩
      · rw [hx _ (Nat.le_add_right ..) (by omega), Nat.add_sub_cancel_left]
      · rw [List.getD_eq_getElem _ _ (by rwa [hlen])]
        simp
  · have hlen : (List.replicate size 0#8).length = size := List.length_replicate ..
    have hwrite := CM.go_wrCs (n := n) (off := dst) (d := List.replicate size 0#8) (p := x.2) (r := { r with flags := r.flags ||| 1 })
      (by rw [hlen]; exact hdst)
    refine ⟨{ r with
        s := r.s.onCore n (fun k => k.csWrite dst (List.replicate size 0#8) x.2)
        flags := if x.2 then r.flags ||| 1 ||| 0x200 else r.flags ||| 1 },
      ?_, (State.csWrite_gathers hp hwf dst (List.replicate size 0#8) x.2).mono (fun a ha => by rwa [hlen]), ?_⟩
    · rw [gatherOne, CM.go_bind_ok hread, if_neg hin, CM.go_bind_ok (CM.go_flag 1 r), hwrite]
    · rw [hput r.s _ _ hlen]
      exact ⟨hlen, fun _ => rfl, fun h => absurd h hin⟩

/-- A loop over the numbers below `cnt` whose every step leads from its invariant to the next. -/
theorem CM.go_forM_range {I : Nat → Run → Prop} {f : Nat → CM Unit} {cnt : Nat}
    (h : ∀ j, j < cnt → ∀ r, I j r → ∃ r', CM.go (f j) r = (.ok (), r') ∧ I (j + 1) r') {r : Run} (h0 : I 0 r) :
    ∃ r', CM.go ((List.range cnt).forM f) r = (.ok (), r') ∧ I cnt r' := by
  induction cnt with
  | zero => exact ⟨r, rfl, h0⟩
  | succ k ih =>
    obtain ⟨r1, hgo1, hI1⟩ := ih (fun j hj => h j (Nat.lt_succ_of_lt hj))
    obtain ⟨r2, hgo2, hI2⟩ := h k (Nat.lt_succ_self k) r1 hI1
    refine ⟨r2, ?_, hI2⟩
    have hlast : CM.go ([k].forM f) r1 = (.ok (), r2) := by rw [CM.go_forM_single, hgo2]
    rw [List.range_succ, List.forM_eq_forM, List.forM_append]
    exact (CM.go_bind_ok hgo1).trans hlast

variable {s : State} {dst list cnt : Nat} (hsize : list + 4 * cnt ≤ shadowBase) (hdst : dst + cnt * size ≤ shadowBase) (hwf : s.mem.wf)
  (hp : s.holder n = some p) (hpage : ∀ i, i < t.rows → (s.part p).onePage (t.base + i * t.pitch) size false)
include hsize hdst hwf hp hpage

/-- The entries one after another; each finds its index as the list held it where the list lies apart from the entries before. -/
theorem go_gatherAll (f : Nat) :
    ∃ r, CM.go ((List.range cnt).forM (fun j => gatherOne n t (list + 4 * j) (dst + j * size) size)) ⟨s, f, none⟩ = (.ok (), r) ∧
      s.gathers n p (fun a => a < dst ∨ dst + cnt * size ≤ a) r.s ∧
      (cnt ≤ 1 ∨ list + 4 * cnt ≤ dst ∨ dst + cnt * size ≤ list → ∀ j, j < cnt →
        s.tableRow p t size (leNat (cellsRead (s.core n).cs (list + 4 * j) 4)) (cellsRead (r.s.core n).cs (dst + j * size) size)) := by
  refine CM.go_forM_range (I := fun j r => s.gathers n p (fun a => a < dst ∨ dst + j * size ≤ a) r.s ∧
    (cnt ≤ 1 ∨ list + 4 * cnt ≤ dst ∨ dst + cnt * size ≤ list → ∀ i, i < j →
      s.tableRow p t size (leNat (cellsRead (s.core n).cs (list + 4 * i) 4)) (cellsRead (r.s.core n).cs (dst + i * size) size)))
    (fun j hj r hr => ?_) ⟨⟨hp, fun _ _ => rfl, hwf, fun _ => rfl, fun _ _ => rfl, fun _ _ => rfl⟩, fun _ i hi => absurd hi (Nat.not_lt_zero i)⟩
  obtain ⟨hgather, hrows⟩ := hr
  have hnext : (j + 1) * size ≤ cnt * size := Nat.mul_le_mul_right _ hj
  rw [Nat.succ_mul] at hnext
  obtain ⟨r', hgo, hone, hrow⟩ := go_gatherOne (t := t) (size := size) (r := r) (dst := dst + j * size) (idxAt := list + 4 * j)
    hgather.holder hgather.wf (by omega) (by omega) (fun i hi => by
      obtain ⟨pa, hx⟩ := (hpage i hi).physical
      exact ⟨pa, fun a h1 h2 => by rw [hgather.xlate, hx a h1 h2]⟩)
  refine ⟨r', hgo, (hgather.trans hone).mono (fun a ha => ?_), fun hapart i hi => ?_⟩
  · rw [Nat.succ_mul] at ha
    omega
  · by_cases hij : i = j
    · subst hij
      have hidx : cellsRead (r.s.core n).cs (list + 4 * i) 4 = cellsRead (s.core n).cs (list + 4 * i) 4 := by
        refine tabGet_cellsRead_congr (fun a h1 h2 => hgather.bytes a ?_)
        rcases hapart with hone | h | h
        · have hzero : i = 0 := by omega
          subst hzero
          omega
        · omega
        · omega
      rw [← hidx]
      exact hgather.tableRow hrow
    · have hbelow : (i + 1) * size ≤ j * size := Nat.mul_le_mul_right _ (by omega)
      rw [Nat.succ_mul] at hbelow
      have hkeep : cellsRead (r'.s.core n).cs (dst + i * size) size = cellsRead (r.s.core n).cs (dst + i * size) size :=
        tabGet_cellsRead_congr (fun a h1 h2 => hone.bytes a (by omega))
      rw [hkeep]
      exact hrows hapart i (by omega)

end one

end

theorem go_gatherBody {n : Nat} {c : Cmd} {s : State} {t : Desc} {dst list cnt size : Nat} (hloc : locOf c.w1 = true)
    (ht : (s.core n).descAt (addrOf c.w1) = some t) (hlist : s.w3of n c 0 = list) (hcnt : s.w3of n c 1 = cnt) (hsize : s.w3of n c 2 = size)
    (hdst : bits c.w2.toNat 21 0 = dst) (ha : t.base % 8 = 0) (hb : t.pitch % 8 = 0) (htloc : t.loc = false) (hs : size ∈ [8, 16, 24, 32])
    (hin : dst + cnt * size ≤ shadowBase) (hlin : list + 4 * cnt ≤ shadowBase) {r : Run}
    (hgo : CM.go ((List.range cnt).forM (fun j => gatherOne n t (list + 4 * j) (dst + j * size) size)) ⟨s, 0, none⟩ = (.ok (), r)) :
    CM.go (gatherBody n c) ⟨s, 0, none⟩ = (.ok true, r) := by
  have hchecks := CM.go_needAll (l := [(t.base % 8 == 0 && t.pitch % 8 == 0, 0x05), ([8, 16, 24, 32].contains size, 0x06), (!t.loc, 0x11),
    (decide (dst + cnt * size ≤ shadowBase) && decide (list + 4 * cnt ≤ shadowBase), 0x11)])
    (by simp [ha, hb, htloc, hin, hlin, show size = 8 ∨ size = 16 ∨ size = 24 ∨ size = 32 by simpa using hs]) ⟨s, 0, none⟩
  rw [gatherBody, hloc, CM.go_bind_ok (go_readDesc (r := ⟨s, 0, none⟩) ht), CM.go_bind_ok (CM.go_w3 ..), CM.go_bind_ok (CM.go_w3 ..),
    CM.go_bind_ok (CM.go_w3 ..), hlist, hcnt, hsize, hdst, CM.go_bind_ok hchecks, CM.go_bind_ok hgo]
  rfl

theorem cellsRead_getD (m : List Host.Cell) (a : Nat) {len b : Nat} (hb : b < len) : (cellsRead m a len).getD b 0#8 = tabGet m (a + b) 0#8 := by
  rw [List.getD_eq_getElem _ _ (by rwa [cellsRead_length])]
  simp [cellsRead_eq]

/-- Settles O16: ATOMIC and SCATADD make their adds one after another, each at its own translated address; GATHER's entries are rows of the
table, which stay as they are. -/
theorem memorySideAdds : Obligations.MemorySideAdds := by
  intro n p c s hn hrun hp
  have hpI : (s.issue n c).holder n = some p := by rwa [s.holder_issue]
  refine ⟨fun pa hop hloc => ?_, fun t d hop hl1 hl2 ht hd => ?_, fun t hop hloc ht => ?_⟩
  · intro ty ha hx r
    obtain ⟨t, f, hgo, hacc, hmem⟩ := go_atomicBody (s := s.issue n c) hpI hloc rfl ha (by rwa [s.part_issue])
    simp only [s.w3of_issue, s.issue_mem] at hgo hmem
    have hcore : ∀ m, t.core m = (s.issue n c).core m := hacc.core_eq
    refine completes_of_go (exec_pilotRun hn (i := .atomic n c) rfl rfl hop) hrun hgo ⟨hmem, fun h0 => ?_, fun q hq => ?_, fun m => ?_⟩
    · rw [State.core_onCore_same, Core.xval_setX_same h0]
    · rw [State.core_onCore_same, Core.xval_setX_other hq, hcore, s.xval_issue]
    · by_cases hm : m = n
      · subst hm
        rw [State.core_onCore_same, Core.setX_eq, hcore, s.cs_issue]
      · rw [State.core_onCore_other _ _ hm, hcore, s.cs_issue]
  · intro ty list cnt len h1 h2 h3 h4 h5 h6 h7 h8 h9 htloc hloc hin hrows index hmap
    obtain ⟨t', f, hgo, hacc, -, hmem⟩ := serves_scataddBody (s := s.issue n c) (n := n) (c := c) (p := p) (ty := ty) (list := list)
      (cnt := cnt) (len := len) hpI (congrArg AddTy.ofCode (s.w3of_issue n c 3)) (s.w3of_issue n c 0) (s.w3of_issue n c 1)
      (s.w3of_issue n c 2) hl1 hl2 (by rwa [s.descAt_issue]) (by rwa [s.descAt_issue]) ⟨h1, h2, h3, h4⟩ ⟨h5, h6, h7, by rwa [s.w3of_issue], h9⟩ htloc hloc hin hrows
      (fun j hj => by rw [s.csRead_issue, s.part_issue]; exact hmap j hj)
    refine completes_of_go (exec_pilotRun hn (i := .scatadd n c) rfl rfl hop) hrun hgo
      ⟨hacc.core_eq, hacc.fabric_eq.trans (s.issue_fabric n c), ?_⟩
    have hrow : ∀ (m : Mem) (dst src : Nat) (q : Bool), m.addRow (s.part p) ((s.issue n c).core n) ty dst src len q =
        m.addRow (s.part p) (s.core n) ty dst src len q := fun m dst src q => by
      have hpiece : Mem.addPiece (s.part p) ((s.issue n c).core n) ty dst src q = Mem.addPiece (s.part p) (s.core n) ty dst src q := by
        funext m y
        simp only [Mem.addPiece, s.csRead_issue]
      rw [Mem.addRow_eq, Mem.addRow_eq, hpiece]
    simpa only [s.part_issue, s.csRead_issue, s.issue_mem, hrow] using hmem
  · intro list cnt size dst ha hb htloc hs hin hlin hwf hpage
    obtain ⟨r, hgo, hgather, hrows⟩ := go_gatherAll (s := s.issue n c) (n := n) (t := t) hlin hin (by rwa [s.issue_mem]) hpI
      (fun i hi => by rw [s.part_issue]; exact hpage i hi) 0
    have hbody := go_gatherBody (s := s.issue n c) (n := n) (c := c) hloc (by rwa [s.descAt_issue]) (s.w3of_issue n c 0) (s.w3of_issue n c 1)
      (s.w3of_issue n c 2) rfl ha hb htloc hs hin hlin hgo
    refine completes_of_go (exec_pilotRun hn (i := .gather n c) rfl rfl hop) hrun hbody ⟨fun m hm => ?_, fun a => ?_, fun a hout => ?_,
      fun hapart j b hj hlt => ?_⟩
    · rw [hgather.other m hm, s.core_issue_other n c hm]
    · rw [State.byteAt_eq hgather.wf, State.byteAt_eq hwf, hgather.memory, s.issue_mem]
    · rw [hgather.bytes a hout, s.csByte_issue]
    · obtain ⟨-, hbeyond, hrow⟩ := hrows hapart j hj
      rw [s.cs_issue] at hbeyond hrow
      have hbyte := cellsRead_getD (r.s.core n).cs (dst + j * size) hlt
      refine ⟨fun hi => ?_, fun hi => ?_⟩
      · rw [State.csByte, ← hbyte, hbeyond hi]
        simp
      · obtain ⟨pa, hx, hv⟩ := hrow hi b hlt
        rw [s.part_issue] at hx
        refine ⟨pa, hx, ?_⟩
        rw [State.byteAt_eq hwf, State.csByte, ← hbyte, hv, s.issue_mem]

end Sys2Proof.Machine
end

/-! ## O47: requests to a line, their errors, age-out, patrol scrub and refresh (R245 to R265, R406) -/

section
namespace Sys2Proof.Machine
open Sys2Proof

/-! ### A line once its buffer entry has left (R249 to R251) -/

theorem linesOf_within {line off n : Nat} (hn : 1 ≤ n) (h : off + n ≤ 64) : linesOf (line * 64 + off) n = [line] := by
  have hone : (line * 64 + off + n - 1) / 64 - (line * 64 + off) / 64 + 1 = 1 := by omega
  have hline : (line * 64 + off) / 64 = line := by omega
  rw [linesOf, if_neg (by omega), hone, hline]
  simp

theorem Mem.settle_within (m : Mem) {line off n : Nat} (hn : 1 ≤ n) (h : off + n ≤ 64) : m.settle (line * 64 + off) n = m.forceOut line := by
  rw [Mem.settle, linesOf_within hn h, List.foldl_cons, List.foldl_nil]

theorem Mem.settle_line (m : Mem) (line : Nat) : m.settle (line * 64) 64 = m.forceOut line :=
  by simpa using m.settle_within (line := line) (off := 0) (n := 64) (by decide) (by decide)

theorem Mem.look_line (m : Mem) (line : Nat) : m.look (line * 64) 64 = (cellsRead m.bytes (line * 64) 64, m.poison.contains line) := by
  have hone : linesOf (line * 64) 64 = [line] := by
    simpa using linesOf_within (line := line) (off := 0) (n := 64) (by decide) (by decide)
  simp [Mem.look, hone]

theorem Mem.forceOut_forceOut (m : Mem) (line : Nat) : (m.forceOut line).forceOut line = m.forceOut line :=
  Mem.forceOut_of_none (by rw [Mem.entry?_forceOut, if_pos rfl])

theorem Mem.forceOut_control (m : Mem) (line : Nat) : (m.forceOut line).control = m.control := by
  simp only [Mem.forceOut]
  split <;> rfl

theorem Mem.forceOut_wc (m : Mem) (line : Nat) : ∀ x ∈ (m.forceOut line).wc, x.line ≠ line := by
  intro x hx hline
  have hnone : (m.forceOut line).entry? line = none := by rw [Mem.entry?_forceOut, if_pos rfl]
  simpa [hline] using List.find?_eq_none.1 hnone x hx

/-- Bytes written into a line whose entry has left are what a read there finds. -/
theorem Mem.byteOf_cellsWrite {m k : Mem} {line pa : Nat} {d : List Byte} (hnone : m.entry? line = none) (hwc : k.wc = m.wc)
    (hbytes : k.bytes = cellsWrite m.bytes pa d) (h1 : line * 64 ≤ pa) (h2 : pa + d.length ≤ line * 64 + 64) (a : Nat) :
    k.byteOf a = if pa ≤ a ∧ a < pa + d.length then d.getD (a - pa) 0#8 else m.byteOf a := by
  have hent : k.entry? = m.entry? := by
    funext q
    rw [Mem.entry?, hwc, Mem.entry?]
  by_cases hin : pa ≤ a ∧ a < pa + d.length
  · have hline : a / 64 = line := by omega
    obtain ⟨j, rfl⟩ := Nat.exists_eq_add_of_le hin.1
    rw [if_pos hin, Mem.byteOf, hent, hline, hnone, hbytes, Nat.add_sub_cancel_left]
    simp only
    rw [cellsWrite_inside _ _ _ _ (by omega), List.getD_eq_getElem _ _ (by omega)]
  · rw [if_neg hin, Mem.byteOf, hent, hbytes, cellsWrite_outside _ _ _ _ (by omega), Mem.byteOf]

theorem Mem.byteOf_putLine {m : Mem} {line : Nat} (hnone : m.entry? line = none) {data : List Byte} (hd : data.length = 64) {j : Nat} {c : Byte}
    (hc : data[j]? = some c) : (m.putLine line data).byteOf (line * 64 + j) = c := by
  obtain ⟨hj, -⟩ := List.getElem?_eq_some_iff.1 hc
  rw [Mem.byteOf_cellsWrite hnone (k := m.putLine line data) rfl (by rw [Mem.putLine, List.take_of_length_le (Nat.le_of_eq hd)]) (Nat.le_refl _)
    (by omega), if_pos (by omega), Nat.add_sub_cancel_left, List.getD_eq_getElem?_getD, hc, Option.getD_some]

theorem Mem.putLine_wf {m : Mem} (line : Nat) (data : List Byte) (h : m.wf) : (m.putLine line data).wf := ⟨cellsWrite_wf _ _ h.1, h.2⟩

theorem Mem.look_putLine (m : Mem) (line : Nat) {data : List Byte} (hd : data.length = 64) :
    (m.putLine line data).look (line * 64) 64 = (data, m.poison.contains line) := by
  refine (Mem.look_line _ line).trans (Prod.ext ?_ rfl)
  refine List.ext_getElem (by simp [cellsRead_eq, hd]) (fun j hj hj' => ?_)
  simp only [cellsRead_eq, List.getElem_map, List.getElem_range', Nat.one_mul, Mem.putLine, List.take_of_length_le (Nat.le_of_eq hd)]
  exact cellsWrite_inside _ _ _ _ hj'

/-! ### The record of an error of a line (R259, R260, R273) -/

theorem State.capture_rd (s : State) (st pa info : Nat) {r : Reg} (hr : r = .memCeCount ∨ r = .memUeCount) (b : Nat) :
    (s.capture st pa info).rd r b = s.rd r b := by
  have hne : ∀ q : Reg, q = .memErrInfo ∨ q = .memErrAddrLo ∨ q = .memErrAddrHi → r.addr b 0 0 ≠ q.addr st 0 0 := by
    rintro q (rfl | rfl | rfl) <;> rcases hr with rfl | rfl <;> simp only [Reg.addr, Reg.spec] <;> omega
  simp only [State.capture]
  split
  · rw [State.rd_wr_other _ _ _ _ _ _ _ _ _ _ (hne _ (.inr (.inr rfl))), State.rd_wr_other _ _ _ _ _ _ _ _ _ _ (hne _ (.inr (.inl rfl))),
      State.rd_wr_other _ _ _ _ _ _ _ _ _ _ (hne _ (.inl rfl))]
  · exact State.rd_wr_other _ _ _ _ _ _ _ _ _ _ (hne _ (.inl rfl))

theorem State.byRegs.byEvents {s t : State} (h : s.byRegs t) : s.byEvents t := by
  unfold State.byRegs at h
  rw [h]
  rfl

theorem State.capture_byRegs (s : State) (st pa info : Nat) : s.byRegs (s.capture st pa info) := by
  simp only [State.capture]
  split
  · exact ((s.wr_byRegs ..).trans (State.wr_byRegs ..)).trans (State.wr_byRegs ..)
  · exact s.wr_byRegs ..

/-- An uncorrectable error of a line, counted and captured (R260, R273). -/
def State.ueCounted (s : State) (src : MemSource) (line syn : Nat) : State :=
  (s.countFld .memUeCount (stackOf s.grade (line * 64)) 0 0 31 0 1).capture (stackOf s.grade (line * 64)) (line * 64)
    (errInfo s.grade src (line * 64) true 0xF syn)

theorem State.ueCounted_byRegs (s : State) (src : MemSource) (line syn : Nat) : s.byRegs (s.ueCounted src line syn) :=
  (s.wr_byRegs ..).trans (State.capture_byRegs ..)

theorem State.memNote_byHistory (s : State) (cls pa syn : Nat) : s.byHistory (s.memNote cls pa syn).1 := s.note_byHistory ..

theorem State.log_rd (s : State) (rec : LogRec) {r : Reg} (hr : r.spec.blk = .stack) (b : Nat) : (s.log rec).rd r b = s.rd r b := by
  refine (s.log_noted rec).rd r b 0 0 ?_
  simp only [Reg.addr, hr, Blk.base]
  omega

/-- What counting and capturing an error in the register of a stack leave: the memory and the cores, and the count is one more (R259, R273). -/
theorem State.counted_fld (s : State) {r : Reg} (hr : r = .memCeCount ∨ r = .memUeCount) (st pa info : Nat) :
    ((s.countFld r st 0 0 31 0 1).capture st pa info).fld r st 0 0 31 0 = min (s.fld r st 0 0 31 0 + 1) 0xFFFFFFFF := by
  have hcount := s.fld_countFld_same r st 0 0 (hi := 31) (lo := 0) (by decide) 1
  rw [State.fld, State.capture_rd _ _ _ _ hr]
  simpa only [State.fld, show (2 : Nat) ^ (31 + 1 - 0) - 1 = 0xFFFFFFFF from by decide] using hcount

theorem State.byHistory.rd_eq {s t : State} (h : s.byHistory t) (r : Reg) (b i j : Nat) : t.rd r b i j = s.rd r b i j := by
  rw [State.rd, h]
  rfl

theorem State.corrected_byEvents (s : State) (src : MemSource) (pa symbols syn : Nat) : s.byEvents (s.corrected src pa symbols syn) :=
  (((s.countFld_byEvents ..).trans (State.capture_byRegs ..).byEvents).trans (State.memNote_byHistory ..).byEvents).trans (State.log_byEvents ..)

theorem State.corrected_count (s : State) (src : MemSource) (pa symbols syn : Nat) :
    (s.corrected src pa symbols syn).fld .memCeCount (stackOf s.grade pa) 0 0 31 0 =
      min (s.fld .memCeCount (stackOf s.grade pa) 0 0 31 0 + 1) 0xFFFFFFFF := by
  rw [State.corrected, State.fld, State.log_rd _ _ rfl, (State.memNote_byHistory ..).rd_eq]
  exact s.counted_fld (.inl rfl) _ _ _

/-! ### The control map and the error reset (R261, R411) -/

theorem State.controlMap_congr {s t : State} (hm : t.mem.control = s.mem.control) (hp : t.parts = s.parts) (hc : t.cores = s.cores) :
    t.controlMap = s.controlMap := by
  simp only [State.controlMap, hm, hp, State.core, hc]

theorem State.ueCounted_controlLine (s : State) (src : MemSource) (line syn : Nat) :
    (s.ueCounted src line syn).controlLine line = s.controlLine line := by
  have h := s.ueCounted_byRegs src line syn
  rw [State.controlLine, State.controlLine,
    State.controlMap_congr (s := s) (congrArg Mem.control h.byEvents.mem_eq) (by rw [h]) h.cores_eq]

theorem State.restart_phase (s : State) (cause : Nat) : (s.restart cause).phase = 2 ∧ (s.restart cause).fld .lcStatus 0 0 0 3 0 = cause % 16 := by
  have hne : Reg.lcStatus.addr 0 0 0 ≠ Reg.pwrStatus.addr 0 0 0 := by decide
  have hlast : ∀ (t : State) (v : Nat), ((((t.setPhase 2).setFld .lcStatus 0 0 0 3 0 cause).setFld .pwrStatus 0 0 0 4 4 v).phase = 2) ∧
      (((t.setPhase 2).setFld .lcStatus 0 0 0 3 0 cause).setFld .pwrStatus 0 0 0 4 4 v).fld .lcStatus 0 0 0 3 0 = cause % 16 := by
    intro t v
    constructor
    · rw [State.phase, State.fld, State.setFld, State.rd_wr_other _ _ _ _ _ _ _ _ _ _ hne]
      exact (State.fld_setFld_other _ _ _ _ _ (.inl (by decide)) _).trans (t.fld_setFld_same _ _ _ _ (by decide) 2)
    · rw [State.fld, State.setFld, State.rd_wr_other _ _ _ _ _ _ _ _ _ _ hne]
      exact State.fld_setFld_same _ _ _ _ _ (by decide) cause
  exact hlast _ _

theorem State.errorReset_phase (s : State) (r : LogRec) (owed : Option (Nat × Nat × Nat × Nat × Nat × Nat)) :
    (s.errorReset r owed).phase = 2 ∧ (s.errorReset r owed).fld .lcStatus 0 0 0 3 0 = 4 := (s.logFatalRec r).restart_phase 4

/-- The state that an uncorrectable error outside the control map leaves: the line holds the data as read, and is poisoned (R260). -/
def State.poisoned (s : State) (src : MemSource) (line syn : Nat) (data : List Byte) : State :=
  let r := (s.ueCounted src line syn).memNote 0x02 (line * 64) syn
  let m := r.1.mem.putLine line data
  ({ r.1 with mem := { m with poison := setAdd m.poison line } }).log r.2

theorem State.lineError_ue (s : State) (src : MemSource) {line : Nat} (data : List Byte) (syn : Nat) (h : s.controlLine line = false) :
    s.lineError src line (.ue syn data) = (s.poisoned src line syn data, true) :=
  if_neg (by rw [← s.ueCounted_controlLine src line syn, State.ueCounted] at h; simp only [h]; decide)

theorem State.lineError_ue_control (s : State) (src : MemSource) {line : Nat} (data : List Byte) (syn : Nat) (h : s.controlLine line = true) :
    ∃ t r owed, s.lineError src line (.ue syn data) = (State.errorReset t r owed, false) :=
  ⟨_, _, _, if_pos (by rw [← s.ueCounted_controlLine src line syn, State.ueCounted] at h; exact h)⟩

theorem State.poisoned_spec (s : State) (src : MemSource) (line syn : Nat) (data : List Byte) :
    (s.poisoned src line syn data).mem = { s.mem.putLine line data with poison := setAdd s.mem.poison line } ∧
    (s.poisoned src line syn data).fld .memUeCount (stackOf s.grade (line * 64)) 0 0 31 0 =
      min (s.fld .memUeCount (stackOf s.grade (line * 64)) 0 0 31 0 + 1) 0xFFFFFFFF := by
  have hnote := (s.ueCounted src line syn).memNote_byHistory 0x02 (line * 64) syn
  have hmem := hnote.byEvents.mem_eq.trans (s.ueCounted_byRegs src line syn).byEvents.mem_eq
  constructor
  · rw [State.poisoned, (State.log_byEvents ..).mem_eq, hmem]
    rfl
  · rw [State.poisoned, State.fld, State.log_rd _ _ rfl]
    exact (congrArg (getBits · 31 0) (hnote.rd_eq .memUeCount _ 0 0)).trans (s.counted_fld (.inr rfl) _ _ _)

/-! ### A line as a read meets it (R249) -/

/-- The state in which a read that is no scrub meets its line: the line's entry has left the buffer, and the read is counted. -/
def State.opened (s : State) (src : MemSource) (line : Nat) : State :=
  let t := (s.memDo (srcWho src) (fun m => m.forceOut line)).hubEvent 0x42 1 (srcWho src)
  if src == .narrow then t.hubEvent 0x45 1 (srcWho src) else t

theorem State.opened_same (s : State) (src : MemSource) (line : Nat) :
    ({ s with mem := s.mem.forceOut line } : State).sameButCounters (s.opened src line) := by
  have h := (s.memDo_same (srcWho src) (fun m => m.forceOut line)).trans (State.hubEvent_same _ 0x42 1 (srcWho src))
  simp only [State.opened]
  split
  · exact h.trans (State.hubEvent_same ..)
  · exact h

theorem State.readLine_eq (s : State) {src : MemSource} (hsrc : src ≠ .scrub) (line : Nat) (e : Ecc) :
    s.readLine src line e = (let r := (s.opened src line).lineError src line e
      if r.2 then r.1.emit (.memData line (r.1.mem.look (line * 64) 64).1 (r.1.mem.look (line * 64) 64).2) else r.1) := by
  have hscrub : (src == .scrub) = false := by simpa using hsrc
  have hopened : s.readLine src line e = (let r := (s.opened src line).lineError src line e
      if !r.2 then r.1 else r.1.emit (.memData line (r.1.mem.look (line * 64) 64).1 (r.1.mem.look (line * 64) 64).2)) := by
    simp only [State.readLine, hscrub, Bool.or_false, Bool.false_eq_true, if_false]
    rfl
  rw [hopened]
  cases h : ((s.opened src line).lineError src line e).2 <;> simp [h]

theorem stackOf_lt (g : Grade) (pa : Nat) : stackOf g pa < 12 :=
  Nat.lt_of_lt_of_le (Nat.mod_lt _ (by cases g <;> decide)) (by cases g <;> decide)

theorem Reg.stack_addr {r : Reg} (hr : r = .memCeCount ∨ r = .memUeCount) {st : Nat} (h : st < 12) : r.addr st 0 0 < countersFrom := by
  rcases hr with rfl | rfl <;> simp only [Reg.addr, Reg.spec, Blk.base, countersFrom] <;> omega

section
variable (s : State) (src : MemSource) (line : Nat)

theorem State.opened_mem : (s.opened src line).mem = s.mem.forceOut line := (s.opened_same src line).mem_eq
theorem State.opened_grade : (s.opened src line).grade = s.grade := by rw [(s.opened_same src line).1]
theorem State.opened_out : (s.opened src line).out = s.out := by rw [(s.opened_same src line).1]

theorem State.opened_controlLine : (s.opened src line).controlLine line = s.controlLine line := by
  have h := s.opened_same src line
  have hcontrol : (s.opened src line).mem.control = s.mem.control := by rw [s.opened_mem, Mem.forceOut_control]
  rw [State.controlLine, State.controlLine, State.controlMap_congr hcontrol h.parts_eq h.cores_eq]

theorem State.opened_fld {r : Reg} (hr : r = .memCeCount ∨ r = .memUeCount) (pa : Nat) :
    (s.opened src line).fld r (stackOf s.grade pa) 0 0 31 0 = s.fld r (stackOf s.grade pa) 0 0 31 0 :=
  congrArg (getBits · 31 0) ((s.opened_same src line).2 r _ 0 0 (Reg.stack_addr hr (stackOf_lt s.grade pa)))

theorem State.opened_corrected_count (symbols syn : Nat) :
    ((s.opened src line).corrected src (line * 64) symbols syn).fld .memCeCount (stackOf s.grade (line * 64)) 0 0 31 0 =
      min (s.fld .memCeCount (stackOf s.grade (line * 64)) 0 0 31 0 + 1) 0xFFFFFFFF := by
  have h := (s.opened src line).corrected_count src (line * 64) symbols syn
  rwa [s.opened_grade, s.opened_fld src line (.inl rfl)] at h

end

/-! ### What a read answers, by what its line shows (R249, R258 to R261) -/

theorem Ecc.ce_wf {symbols syn : Nat} (h1 : 1 ≤ symbols) (h3 : symbols ≤ 3) (h : syn < 2 ^ 64) : (Ecc.ce symbols syn).wf = true := by
  simp only [Ecc.wf, h1, h3, h, decide_true, Bool.and_self]

theorem Ecc.wrong_wf {symbols syn : Nat} {data : List Byte} (h1 : 1 ≤ symbols) (h3 : symbols ≤ 3) (h : syn < 2 ^ 64) (hd : data.length = 64) :
    (Ecc.wrong symbols syn data).wf = true := by
  simp only [Ecc.wf, h1, h3, h, hd, decide_true, beq_self_eq_true, Bool.and_self]

theorem Ecc.ue_wf {syn : Nat} {data : List Byte} (h : syn < 2 ^ 64) (hd : data.length = 64) : (Ecc.ue syn data).wf = true := by
  simp only [Ecc.wf, h, hd, decide_true, beq_self_eq_true, Bool.and_self]

theorem exec_memoryRequest (q : MemReq) {e : Ecc} (he : e.wf = true) (s : State) :
    exec (.memoryRequest q e []) s = .next (memoryRequest q e [] s) := if_pos (by simp [Instr.wf, he])

section
variable {s : State} (hon : s.memoryOn = true) {line : Nat} (hline : line * 64 < s.grade.capacity)

theorem Grade.physRange_memory {g : Grade} {pa : Nat} (h : pa < g.capacity) : (g.physRange pa == .memory) = true := by
  simp [Grade.physRange, h]

include hon hline

theorem exec_read {src : MemSource} (hsrc : src ≠ .scrub) {e : Ecc} (he : e.wf = true) :
    exec (.memoryRequest (.read src line) e []) s = .next (let r := (s.opened src line).lineError src line e
      if r.2 then r.1.emit (.memData line (r.1.mem.look (line * 64) 64).1 (r.1.mem.look (line * 64) 64).2) else r.1) := by
  have hrun : memoryRequest (.read src line) e [] s = s.readLine src line e := by
    simp [memoryRequest, hon, Grade.physRange_memory hline]
  rw [exec_memoryRequest _ he, hrun, s.readLine_eq hsrc]

theorem exec_read_clean {src : MemSource} (hsrc : src ≠ .scrub) :
    exec (.memoryRequest (.read src line) .clean []) s =
      .next ((s.opened src line).emit (.memData line ((s.mem.forceOut line).look (line * 64) 64).1 ((s.mem.forceOut line).look (line * 64) 64).2)) := by
  rw [exec_read hon hline hsrc (e := .clean) rfl, ← s.opened_mem src line]
  rfl

/-- A corrected read answers with the line and counts (R259). -/
theorem exec_read_ce {src : MemSource} (hsrc : src ≠ .scrub) {symbols syn : Nat} (he : (Ecc.ce symbols syn).wf = true) :
    exec (.memoryRequest (.read src line) (.ce symbols syn) []) s =
      .next (((s.opened src line).corrected src (line * 64) symbols syn).emit
        (.memData line ((s.mem.forceOut line).look (line * 64) 64).1 ((s.mem.forceOut line).look (line * 64) 64).2)) := by
  have hmem := ((s.opened src line).corrected_byEvents src (line * 64) symbols syn).mem_eq.trans (s.opened_mem src line)
  rw [exec_read hon hline hsrc he, ← hmem]
  rfl

/-- A miscorrected read delivers and writes back what the code took for right (R260). -/
theorem exec_read_wrong {src : MemSource} (hsrc : src ≠ .scrub) {symbols syn : Nat} {data : List Byte}
    (he : (Ecc.wrong symbols syn data).wf = true) (hd : data.length = 64) :
    ∃ t : State, exec (.memoryRequest (.read src line) (.wrong symbols syn data) []) s = .next t ∧
      t.out.getLast? = some (.memData line data ((s.mem.forceOut line).look (line * 64) 64).2) ∧ t.mem = (s.mem.forceOut line).putLine line data ∧
      t.fld .memCeCount (stackOf s.grade (line * 64)) 0 0 31 0 =
        min (s.fld .memCeCount (stackOf s.grade (line * 64)) 0 0 31 0 + 1) 0xFFFFFFFF := by
  have hmem := ((s.opened src line).corrected_byEvents src (line * 64) symbols syn).mem_eq.trans (s.opened_mem src line)
  refine ⟨_, exec_read hon hline hsrc he, ?_, ?_, s.opened_corrected_count src line symbols syn⟩
  · simp [State.lineError, State.emit, hmem, Mem.look_putLine _ line hd, Mem.look_line]
  · simp [State.lineError, State.emit, hmem]

/-- An uncorrectable error outside Helm's tables poisons the line and leaves the data as read in it (R260). -/
theorem exec_read_ue {src : MemSource} (hsrc : src ≠ .scrub) {syn : Nat} {data : List Byte}
    (he : (Ecc.ue syn data).wf = true) (hd : data.length = 64) (hctl : s.controlLine line = false) :
    ∃ t : State, exec (.memoryRequest (.read src line) (.ue syn data) []) s = .next t ∧
      t.out.getLast? = some (.memData line data true) ∧
      t.mem = { (s.mem.forceOut line).putLine line data with poison := setAdd (s.mem.forceOut line).poison line } ∧
      t.fld .memUeCount (stackOf s.grade (line * 64)) 0 0 31 0 =
        min (s.fld .memUeCount (stackOf s.grade (line * 64)) 0 0 31 0 + 1) 0xFFFFFFFF := by
  obtain ⟨hmem, hcount⟩ := (s.opened src line).poisoned_spec src line syn data
  rw [s.opened_mem] at hmem
  rw [s.opened_grade, s.opened_fld src line (.inr rfl)] at hcount
  have herr := (s.opened src line).lineError_ue src data syn ((s.opened_controlLine src line).trans hctl)
  refine ⟨((s.opened src line).poisoned src line syn data).emit (.memData line data true), ?_, by simp [State.emit], hmem, hcount⟩
  have hlook : ((s.opened src line).poisoned src line syn data).mem.look (line * 64) 64 = (data, true) := by
    have hput := Mem.look_putLine (s.mem.forceOut line) line hd
    rw [Mem.look_line] at hput
    rw [hmem, Mem.look_line]
    exact Prod.ext (Prod.mk.inj hput).1 (List.contains_iff_mem.2 ((mem_setAdd ..).2 (.inl rfl)))
  rw [exec_read hon hline hsrc he, herr]
  simp only [if_true, hlook]

/-- Within Helm's tables it starts an error reset (R261). -/
theorem exec_read_ue_control {src : MemSource} (hsrc : src ≠ .scrub) {syn : Nat} {data : List Byte}
    (he : (Ecc.ue syn data).wf = true) (hctl : s.controlLine line = true) :
    ∃ t : State, exec (.memoryRequest (.read src line) (.ue syn data) []) s = .next t ∧ t.phase = 2 ∧ t.fld .lcStatus 0 0 0 3 0 = 4 := by
  obtain ⟨t, r, owed, herr⟩ := (s.opened src line).lineError_ue_control src data syn ((s.opened_controlLine src line).trans hctl)
  refine ⟨_, exec_read hon hline hsrc he, ?_⟩
  rw [herr]
  exact State.errorReset_phase ..

end

/-! ### Writes, adds and what leaves by age (R249, R251, R254, R262) -/

theorem State.sameButCounters.emit {s t : State} (h : s.sameButCounters t) (o : Out) : (s.emit o).sameButCounters (t.emit o) := by
  obtain ⟨hsame, hrd⟩ := h
  exact ⟨by rw [hsame]; rfl, hrd⟩

theorem State.sameButCounters.withMem {s t : State} (h : s.sameButCounters t) (m : Mem) :
    ({ s with mem := m } : State).sameButCounters { t with mem := m } := by
  obtain ⟨hsame, hrd⟩ := h
  exact ⟨by rw [hsame], hrd⟩

section
variable {s : State} (hon : s.memoryOn = true) {line : Nat} (hline : line * 64 < s.grade.capacity)
include hon hline

theorem exec_write {off : Nat} {data : List Byte} (poison : Bool) {e : Ecc} (he : e.wf = true) (hfit : off + data.length ≤ 64) :
    exec (.memoryRequest (.write line off data poison) e []) s =
      .next (s.memDo ⟨0, 0, none, none⟩ (fun m => m.write s.grade (line * 64 + off) data poison)) := by
  have hrun : memoryRequest (.write line off data poison) e [] s =
      s.memDo ⟨0, 0, none, none⟩ (fun m => m.write s.grade (line * 64 + off) data poison) := by
    simp [memoryRequest, hon, Grade.physRange_memory hline, hfit]
  rw [exec_memoryRequest _ he, hrun]

/-- An add answers with the old value and leaves the memory of one memory-side add, made where the line's entry has left (R254). -/
theorem exec_add {off ty n : Nat} (hn : (AddTy.ofCode (ty % 4)).bytes = n) (amount : Nat) (poison : Bool) (ha : off % n = 0) (hfit : off + n ≤ 64) :
    let x := (s.mem.forceOut line).addAt (AddTy.ofCode (ty % 4)) (line * 64 + off) amount poison
    ∃ t : State, exec (.memoryRequest (.add line off ty amount poison) .clean []) s = .next t ∧
      ({ s with mem := x.1, out := s.out ++ [.memData line (leBytes x.2.1 n) x.2.2] } : State).sameButCounters t := by
  intro x
  have hrun : memoryRequest (.add line off ty amount poison) .clean [] s = s.addLine line off ty amount poison .clean := by
    simp [memoryRequest, hon, Grade.physRange_memory hline]
  have hadd : s.addLine line off ty amount poison .clean =
      (((s.memDo (srcWho .adder) (fun m => m.forceOut line)).memDo (srcWho .adder) (fun _ => x.1)).hubEvent 0x46 1 (srcWho .adder)).emit
        (.memData line (leBytes x.2.1 n) x.2.2) := by
    simp [State.addLine, State.lineError, hn, ha, Nat.not_lt.2 hfit, x]
  have hsame := ((State.sameButCounters.withMem (s.memDo_same (srcWho .adder) (fun m => m.forceOut line)) x.1).trans
    (State.memDo_same _ (srcWho .adder) (fun _ => x.1))).trans (State.hubEvent_same _ 0x46 1 (srcWho .adder))
  refine ⟨_, exec_memoryRequest _ rfl s, ?_⟩
  rw [hrun, hadd]
  exact hsame.emit _

end

/-- What an add within a line leaves where the line's entry has left: the sum, or the mark of poison (R254, R262). -/
theorem Mem.addAt_settled {m : Mem} {line off n : Nat} {ty : AddTy} (hn : ty.bytes = n) (hfit : off + n ≤ 64) (amount : Nat) (poison : Bool) :
    let x := (m.forceOut line).addAt ty (line * 64 + off) amount poison
    let old := leNat ((m.settle (line * 64 + off) n).look (line * 64 + off) n).1
    let bad := poison || (m.forceOut line).poison.contains line
    x.2 = (old, bad) ∧
    (bad = true → line ∈ x.1.poison ∧ ∀ a, x.1.byteOf a = (m.forceOut line).byteOf a) ∧
    (bad = false → ∀ a, x.1.byteOf a = if line * 64 + off ≤ a ∧ a < line * 64 + off + n then
      (leBytes (memAdd ty old amount) n).getD (a - (line * 64 + off)) 0#8 else (m.forceOut line).byteOf a) := by
  intro x old bad
  have hpos : 1 ≤ n := by
    rw [← hn]
    cases ty <;> decide
  have hline : (line * 64 + off) / 64 = line := by omega
  have hold : leNat ((m.forceOut line).look (line * 64 + off) n).1 = old := by rw [← m.settle_within hpos hfit]
  have hx : x = if bad then
      ({ m.forceOut line with wrote := (m.forceOut line).wrote + 1, poison := setAdd (m.forceOut line).poison line }, old, true)
    else ({ m.forceOut line with wrote := (m.forceOut line).wrote + 1
                                 bytes := cellsWrite (m.forceOut line).bytes (line * 64 + off) (leBytes (memAdd ty old amount) n) }, old, false) := by
    simp only [x, Mem.addAt, hn, Mem.settle_within _ hpos hfit, Mem.forceOut_forceOut, hline, hold, bad]
  rw [hx]
  cases hbad : bad
  · refine ⟨rfl, nofun, fun _ a => ?_⟩
    have hbyte := Mem.byteOf_cellsWrite (m := m.forceOut line) (line := line) (pa := line * 64 + off) (d := leBytes (memAdd ty old amount) n)
      (k := { m.forceOut line with
        wrote := (m.forceOut line).wrote + 1
        bytes := cellsWrite (m.forceOut line).bytes (line * 64 + off) (leBytes (memAdd ty old amount) n) })
      (by rw [Mem.entry?_forceOut, if_pos rfl]) rfl rfl (Nat.le_add_right ..) (by rw [leBytes_length]; omega) a
    rwa [leBytes_length] at hbyte
  · exact ⟨rfl, fun _ => ⟨(mem_setAdd ..).2 (.inl rfl), fun _ => rfl⟩, nofun⟩

/-! ### Age-out, patrol scrub, and errors of the hub's control state (R251, R263, R406) -/

/-- What leaves the buffer by age changes no byte: the buffer has no entry of the line, or the entry leaves it (R251). -/
theorem exec_writeCombiningAgeOut_clean {s : State} (hon : s.memoryOn = true) (line : Nat) :
    ∃ t : State, exec (.writeCombiningAgeOut line .clean) s = .next t ∧ ({ s with mem := s.mem.forceOut line } : State).sameButCounters t := by
  have hexec : exec (.writeCombiningAgeOut line .clean) s = answer (.writeCombiningAgeOut line .clean) (writeCombiningAgeOut line .clean s) := rfl
  refine ⟨writeCombiningAgeOut line .clean s, hexec.trans (if_pos rfl), ?_⟩
  simp only [writeCombiningAgeOut, hon, Bool.not_true, Bool.false_eq_true, if_false]
  split
  · next hnone =>
    rw [Mem.forceOut_of_none hnone]
    exact .refl s
  · exact s.memDo_same _ (fun m => m.forceOut line)

/-- A patrol scrub step whose reads find no error is a write of its stack's position, and counts (R263). -/
theorem patrolScrubRead_clean {s : State} (hon : s.memoryOn = true) {st : Nat} (hst : st < s.nStacks) (hen : s.fld .memScrubCtl st 0 0 8 8 = 1) :
    let next := s.fld .memScrubPos st 0 0 23 0 + 1
    let t := s.setFld .memScrubPos st 0 0 23 0 (if 12582912 ≤ next then 0 else next)
    patrolScrubRead st [] s =
      (if 12582912 ≤ next then t.setFld .memScrubPos st 0 0 31 24 (t.fld .memScrubPos st 0 0 31 24 + 1) else t).hubEvent 0x42 64 (srcWho .scrub) := by
  intro next t
  have hgo : (!s.memoryOn || decide (st ≥ s.nStacks) || s.fld .memScrubCtl st 0 0 8 8 == 0) = false := by
    simp [hon, hen, Nat.not_le.2 hst]
  have hnone : ∀ f : (Nat × Ecc) → Nat, sortOn f [] = [] := fun _ => rfl
  simp only [patrolScrubRead, hgo, List.filter_nil, hnone, List.foldl_nil, Bool.false_eq_true, if_false, decide_eq_true_eq]
  rfl

theorem exec_patrolScrubRead_clean {s : State} (hon : s.memoryOn = true) {st : Nat} (hst : st < s.nStacks) (hen : s.fld .memScrubCtl st 0 0 8 8 = 1) :
    let next := s.fld .memScrubPos st 0 0 23 0 + 1
    ∃ t : State, exec (.patrolScrubRead st []) s = .next t ∧ s.byRegs t ∧
      t.fld .memScrubPos st 0 0 23 0 = (if next < 12582912 then next else 0) ∧
      (12582912 ≤ next → t.fld .memScrubPos st 0 0 31 24 = (s.fld .memScrubPos st 0 0 31 24 + 1) % 256) := by
  intro next
  have hst12 : st < 12 := Nat.lt_of_lt_of_le hst (by rw [State.nStacks]; cases s.grade <;> decide)
  have hexec : exec (.patrolScrubRead st []) s = answer (.patrolScrubRead st []) (patrolScrubRead st [] s) := rfl
  have haddr : Reg.memScrubPos.addr st 0 0 < countersFrom := by
    simp only [Reg.addr, Reg.spec, Blk.base, countersFrom]
    omega
  have hclean := patrolScrubRead_clean hon hst hen
  simp only at hclean
  refine ⟨patrolScrubRead st [] s, hexec.trans (if_pos (by simp [Instr.wf, hst12])), ?_⟩
  -- the state that is counted: the position alone is written
  have hcounted : ∀ u : State, s.byRegs u → let t := u.hubEvent 0x42 64 (srcWho .scrub)
      s.byRegs t ∧ ∀ hi lo, t.fld .memScrubPos st 0 0 hi lo = u.fld .memScrubPos st 0 0 hi lo := by
    intro u hu
    have hsame := u.hubEvent_same 0x42 64 (srcWho .scrub)
    exact ⟨hu.trans hsame.1, fun hi lo => congrArg (getBits · hi lo) (hsame.2 _ _ _ _ haddr)⟩
  rw [hclean]
  by_cases hlast : 12582912 ≤ next
  · rw [if_pos hlast, if_pos hlast, if_neg (Nat.not_lt.2 hlast)]
    obtain ⟨hby, hfld⟩ := hcounted _ ((s.wr_byRegs .memScrubPos st 0 0 _).trans (State.wr_byRegs _ .memScrubPos st 0 0 _))
    refine ⟨hby, (hfld 23 0).trans ?_, fun _ => (hfld 31 24).trans ?_⟩
    · exact (State.fld_setFld_other _ _ _ _ _ (.inr (by decide)) _).trans (s.fld_setFld_same _ _ _ _ (by decide) 0)
    · refine (State.fld_setFld_same _ _ _ _ _ (by decide) _).trans ?_
      rw [State.fld_setFld_other _ _ _ _ _ (.inl (by decide))]
      rfl
  · rw [if_neg hlast, if_neg hlast, if_pos (Nat.not_le.1 hlast)]
    obtain ⟨hby, hfld⟩ := hcounted _ (s.wr_byRegs .memScrubPos st 0 0 _)
    refine ⟨hby, (hfld 23 0).trans ((s.fld_setFld_same _ _ _ _ (by decide) _).trans (Nat.mod_eq_of_lt ?_)), fun h => absurd h hlast⟩
    omega

theorem State.hubError_ue (s : State) {x : HubErr} (h : x.ue = true) : (s.hubError x).phase = 2 ∧ (s.hubError x).fld .lcStatus 0 0 0 3 0 = 4 := by
  simp only [State.hubError, h, if_true]
  exact State.errorReset_phase ..

theorem State.hubErrors_off {s : State} (h : s.memoryOn = false) (errs : List HubErr) : s.hubErrors errs = s := by
  induction errs with
  | nil => rfl
  | cons x errs ih =>
    rw [State.hubErrors, List.foldl_cons, h]
    exact ih

theorem State.hubErrors_one {s : State} (h : s.memoryOn = true) (x : HubErr) : s.hubErrors [x] = s.hubError x := by
  simp [State.hubErrors, h]

theorem byteAt_forceOut {s t : State} (hwf : s.mem.wf) {line : Nat} (hmem : t.mem = s.mem.forceOut line) (a : Nat) : t.byteAt a = s.byteAt a := by
  rw [State.byteAt_eq (hmem ▸ Mem.forceOut_wf line hwf), State.byteAt_eq hwf, hmem, Mem.byteOf_forceOut hwf]

theorem byteAt_putLine {t : State} {m : Mem} {line : Nat} {data : List Byte} (hwf : t.mem.wf) (hbytes : t.mem.byteOf = (m.putLine line data).byteOf)
    (hnone : m.entry? line = none) (hd : data.length = 64) (j : Nat) (c : Byte) (hc : data[j]? = some c) : t.byteAt (line * 64 + j) = [c] := by
  rw [State.byteAt_eq hwf, hbytes, Mem.byteOf_putLine hnone hd hc]

/-- Settles O47: each request leaves the memory of its operation on the line, once the line's entry has left the buffer. -/
theorem memoryPath : Obligations.MemoryPath := by
  intro s hwf _
  refine ⟨fun hoff q e errs he herrs => ?_, fun q e errs he herrs => ?_, fun hon x _ => ⟨fun hue => ?_, fun hce => ?_⟩, fun st hst => ?_,
    fun hon line hline => ?_⟩
  · have hrun : memoryRequest q e errs s = s := by simp [memoryRequest, s.hubErrors_off hoff, hoff]
    exact (if_pos (by simp [Instr.wf, he, herrs])).trans (congrArg _ hrun)
  · exact (if_pos (by simp [Instr.wf, he, herrs])).trans (exec_memoryRequest q he (s.hubErrors errs)).symm
  · rw [State.hubErrors_one hon]
    exact s.hubError_ue hue
  · have hnote : s.hubErrors [x] = s.sramNote 0x04 x.kind 0xF x.unit 0xFFFF x.word := by
      rw [State.hubErrors_one hon, State.hubError, if_neg (by simp [hce])]
    have hby := s.sramNote_byEvents 0x04 x.kind 0xF x.unit 0xFFFF x.word
    obtain ⟨r, hr, hcls, hkind, -⟩ := s.sramNote_newest 0x04 x.kind 0xF x.unit 0xFFFF x.word
    rw [hnote]
    exact ⟨hby.mem_eq, hby.cores_eq, r, hr, hcls, hkind⟩
  · exact if_pos (by simp [Instr.wf, hst])
  · have hnone : (s.mem.forceOut line).entry? line = none := by rw [Mem.entry?_forceOut, if_pos rfl]
    have hwfF := Mem.forceOut_wf line hwf
    intro st d rest
    have hd : d = (s.mem.forceOut line).look (line * 64) 64 := by rw [← Mem.settle_line]
    have hd2 : d.2 = (s.mem.forceOut line).poison.contains line := by rw [hd, Mem.look_line]
    refine ⟨fun src hsrc => ⟨?_, fun symbols syn h1 h3 hsyn => ?_, fun symbols syn data h1 h3 hsyn hlen => ?_, fun syn data hsyn hlen hctl => ?_,
      fun syn data hsyn hlen hctl => ?_⟩, fun off data poison e he hfit => ?_, fun off ty amount poison => ?_, ?_, fun hen => ?_⟩
    · have hopen := s.opened_same src line
      refine ⟨_, exec_read_clean hon hline hsrc, ?_, ⟨hopen.cores_eq, hopen.parts_eq, hopen.fabric_eq⟩, byteAt_forceOut hwf (s.opened_mem src line)⟩
      rw [hd, State.emit, s.opened_out]
    · refine ⟨_, exec_read_ce hon hline hsrc (Ecc.ce_wf h1 h3 hsyn), ?_, s.opened_corrected_count src line symbols syn⟩
      simp [hd, State.emit]
    · obtain ⟨t, ht, hout, hmem, hcount⟩ := exec_read_wrong hon hline hsrc (Ecc.wrong_wf h1 h3 hsyn hlen) hlen
      exact ⟨t, ht, hd ▸ hout, byteAt_putLine (hmem ▸ Mem.putLine_wf line data hwfF) (by rw [hmem]) hnone hlen, hcount⟩
    · obtain ⟨t, ht, hout, hmem, hcount⟩ := exec_read_ue hon hline hsrc (Ecc.ue_wf hsyn hlen) hlen hctl
      refine ⟨t, ht, hout, ?_, byteAt_putLine ?_ (by rw [hmem]; rfl) hnone hlen, hcount⟩
      · rw [hmem]
        exact (mem_setAdd ..).2 (.inl rfl)
      · rw [hmem]
        exact Mem.putLine_wf line data hwfF
    · exact exec_read_ue_control hon hline hsrc (Ecc.ue_wf hsyn hlen) hctl
    · have hsame := s.memDo_same ⟨0, 0, none, none⟩ (fun m => m.write s.grade (line * 64 + off) data poison)
      refine ⟨_, exec_write hon hline poison he hfit, ⟨hsame.cores_eq, hsame.parts_eq, hsame.fabric_eq⟩, by rw [hsame.1], fun j c hc => ?_,
        fun a ha => ?_⟩
      · obtain ⟨hj, -⟩ := List.getElem?_eq_some_iff.1 hc
        rw [State.byteAt_eq (by rw [State.memDo_mem]; exact Mem.write_wf _ _ _ _ hwf), State.memDo_mem, Mem.byteOf_write _ _ _ _ hwf,
          if_pos (by omega), Nat.add_sub_cancel_left, List.getD_eq_getElem?_getD, hc, Option.getD_some]
      · rw [State.byteAt_eq (by rw [State.memDo_mem]; exact Mem.write_wf _ _ _ _ hwf), State.memDo_mem, Mem.byteOf_write _ _ _ _ hwf,
          if_neg (by omega), State.byteAt_eq hwf]
    · intro n pa old bad ha hfit
      obtain ⟨t, ht, hsame⟩ := exec_add hon hline (rfl : _ = n) amount poison ha hfit
      obtain ⟨hx, hbad, hgood⟩ := Mem.addAt_settled (m := s.mem) (line := line) (rfl : _ = n) hfit amount poison
      rw [← hd2] at hx hbad hgood
      have hwfT : t.mem.wf := hsame.mem_eq ▸ Mem.addAt_wf _ _ _ _ hwfF
      refine ⟨t, ht, ⟨hsame.cores_eq, hsame.parts_eq, hsame.fabric_eq⟩, ?_, fun hb => ?_, fun hb => ?_⟩
      · rw [hsame.1]
        simp only [hx]
        rfl
      · obtain ⟨hpoison, hbytes⟩ := hbad hb
        refine ⟨hsame.mem_eq ▸ hpoison, fun a => ?_⟩
        rw [State.byteAt_eq hwfT, State.byteAt_eq hwf, hsame.mem_eq, hbytes, Mem.byteOf_forceOut hwf]
      · have hbyte := hgood hb
        refine ⟨fun j hj => ?_, fun a ha => ?_⟩
        · rw [State.byteAt_eq hwfT, hsame.mem_eq, hbyte, if_pos (by omega), Nat.add_sub_cancel_left,
            List.drop_eq_getElem_cons (by rwa [leBytes_length]), List.getD_eq_getElem _ _ (by rwa [leBytes_length])]
          rfl
        · rw [State.byteAt_eq hwfT, hsame.mem_eq, hbyte, if_neg (by omega), Mem.byteOf_forceOut hwf, State.byteAt_eq hwf]
    · obtain ⟨t, ht, hsame⟩ := exec_writeCombiningAgeOut_clean hon line
      have hmem : t.mem = s.mem.forceOut line := hsame.mem_eq
      exact ⟨t, ht, ⟨hsame.cores_eq, hsame.parts_eq, hsame.fabric_eq⟩, by rw [hsame.1], hmem ▸ s.mem.forceOut_wc line, byteAt_forceOut hwf hmem⟩
    · obtain ⟨t, ht, hby, hpos, hpass⟩ := exec_patrolScrubRead_clean hon (Nat.mod_lt _ (by cases s.grade <;> decide) : st < s.nStacks) hen
      exact ⟨t, ht, ⟨by rw [hby], by rw [hby], by rw [hby]⟩, by rw [hby], by rw [hby], hpos, hpass⟩

end Sys2Proof.Machine
end

/-! ## O48: margining, temperature, the move of a frame, and the census (R267 to R275, R299 to R302, R422) -/

section
namespace Sys2Proof.Machine
open Sys2Proof

/-! ### Margining (R267 to R269, R275) -/

theorem getBits_w32 (x : Nat) {hi lo : Nat} (h : hi < 32) : getBits (w32 x) hi lo = x / 2 ^ lo % 2 ^ (hi + 1 - lo) := by
  refine Nat.eq_of_testBit_eq (fun i => ?_)
  simp only [getBits, bits, w32, BitVec.toNat_ofNat, Nat.testBit_mod_two_pow, Nat.testBit_shiftRight, Nat.testBit_div_two_pow]
  by_cases hi' : i < hi + 1 - lo
  · have h32 : lo + i < 32 := by omega
    simp [hi', h32, Nat.add_comm i lo]
  · simp [hi']

theorem State.nStacks_le (s : State) : s.nStacks ≤ 12 := by
  rw [State.nStacks]
  cases s.grade <;> decide

theorem Reg.margin_addr (st : Nat) : Reg.memMarginCtl.addr st 0 0 ≠ Reg.memMarginResult.addr st 0 0 ∧
    Reg.memMarginCtl.addr st 0 0 ≠ Reg.memStatus.addr st 0 0 ∧ Reg.memStatus.addr st 0 0 ≠ Reg.memMarginResult.addr st 0 0 := by
  simp only [Reg.addr, Reg.spec]
  omega

/-- Whether an address lies in a pseudo-channel is a matter of its line (R248). -/
theorem line_channel (g : Grade) (a : Nat) :
    stackOf g (a / 64 * 64) = stackOf g a ∧ chanOf g (a / 64 * 64) = chanOf g a ∧ pcOf (a / 64 * 64) = pcOf a := by
  have h : ∀ k, 6 ≤ k → a / 64 * 64 / 2 ^ k = a / 2 ^ k := by
    intro k hk
    obtain ⟨j, rfl⟩ := Nat.exists_eq_add_of_le hk
    rw [Nat.pow_add, ← Nat.div_div_eq_div_mul, ← Nat.div_div_eq_div_mul]
    simp
  simp only [stackOf, chanOf, pcOf, Nat.shiftRight_eq_div_pow, h 12 (by decide), h 8 (by decide), h 6 (by decide), and_self]

theorem tabFind_filter_line (l : List Host.Cell) (keep : Nat → Bool) (a : Nat) :
    tabFind (l.filter (fun c => keep (c.1 / 64))) a = if keep (a / 64) then tabFind l a else none := by
  induction l with
  | nil => simp [tabFind]
  | cons c t ih =>
    obtain ⟨k, v⟩ := c
    by_cases hka : k = a
    · subst hka
      cases hk : keep (k / 64) <;> simp [tabFind, hk, ih]
    · cases hk : keep (k / 64) <;> simp [tabFind, hka, hk, ih]

theorem find_filter_keep (l : List WcEntry) (keep : Nat → Bool) (k : Nat) :
    (l.filter (fun e => keep e.line)).find? (fun e => e.line == k) = if keep k then l.find? (fun e => e.line == k) else none := by
  induction l with
  | nil => simp
  | cons e t ih =>
    by_cases he : e.line = k
    · subst he
      cases hk : keep e.line <;> simp_all
    · cases hk : keep e.line <;> simp_all

/-- What a refill of a pseudo-channel leaves at an address: zero and no poison where the address lies in it, everything else as it was (R269). -/
theorem Mem.refill_spec (m : Mem) (g : Grade) (st chan pc a : Nat) :
    let mine := stackOf g a = st ∧ chanOf g a = chan ∧ pcOf a = pc
    (mine → (m.refill g st chan pc).byteOf a = 0#8 ∧ a / 64 ∉ (m.refill g st chan pc).poison) ∧
    (¬ mine → (m.refill g st chan pc).byteOf a = m.byteOf a) := by
  intro mine
  obtain ⟨hs, hc, hp⟩ := line_channel g a
  have hkeep : (!(stackOf g (a / 64 * 64) == st && chanOf g (a / 64 * 64) == chan && pcOf (a / 64 * 64) == pc)) = true ↔ ¬ mine := by
    simp only [hs, hc, hp, mine, Bool.not_eq_true', ← Bool.not_eq_true, Bool.and_eq_true, beq_iff_eq, and_assoc]
  have hent : (m.refill g st chan pc).entry? (a / 64) = if ¬ mine then m.entry? (a / 64) else none := by
    simp only [← hkeep]
    exact find_filter_keep m.wc (fun l => !(stackOf g (l * 64) == st && chanOf g (l * 64) == chan && pcOf (l * 64) == pc)) (a / 64)
  have hbyte : tabFind (m.refill g st chan pc).bytes a = if ¬ mine then tabFind m.bytes a else none := by
    simp only [← hkeep]
    exact tabFind_filter_line m.bytes (fun l => !(stackOf g (l * 64) == st && chanOf g (l * 64) == chan && pcOf (l * 64) == pc)) a
  refine ⟨fun hm => ⟨?_, fun hpoison => ?_⟩, fun hm => ?_⟩
  · rw [if_neg (not_not.2 hm)] at hent hbyte
    rw [Mem.byteOf, hent, tabGet, hbyte]
    rfl
  · exact hkeep.1 (List.mem_filter.1 hpoison).2 hm
  · rw [if_pos hm] at hent hbyte
    rw [Mem.byteOf, hent, tabGet, hbyte]
    rfl

theorem State.unlatch_rd (s : State) (m : Master) (r : Reg) (b i j : Nat) : (s.unlatch m).rd r b i j = s.rd r b i j := rfl

/-- A write of MEM_MARGIN_CTL by a master that reaches the stacks (R267, R275). -/
theorem exec_marginStart {s : State} {m : Master} {st : Nat} (v : Word) (hm : m.wf = true) (hst : st < s.nStacks) (hreach : s.holdMgmt m = true)
    (hheld : s.bar2Waits m = false) : exec (.marginStart m st v) s = .next (
      let t := s.unlatch m
      let u := t.wr .memMarginCtl st 0 0 (Reg.memMarginCtl.spec.write (s.rd .memMarginCtl st) v)
      if v.getLsbD 31 then
        if s.phase ≠ 8 then t.setFld .memMarginResult st 0 0 30 30 1
        else (u.setFld .memMarginResult st 0 0 31 30 0).setFld .memStatus st 0 0 3 3 1
      else u) := by
  have h12 : st < 12 := Nat.lt_of_lt_of_le hst s.nStacks_le
  have hgo : (!(s.unlatch m).holdMgmt m || decide (st ≥ (s.unlatch m).nStacks)) = false := by
    have hreach' : (s.unlatch m).holdMgmt m = true := hreach
    have hst' : st < (s.unlatch m).nStacks := hst
    simp [hreach', Nat.not_le.2 hst']
  have hphase : (s.unlatch m).phase = s.phase := rfl
  have hexec : exec (.marginStart m st v) s = answer (.marginStart m st v) (if s.bar2Waits m then s else marginStart m st v s) := rfl
  have hwf : (Instr.marginStart m st v).wf = true := by simp [Instr.wf, hm, h12]
  rw [hexec, hheld, if_neg (by decide), answer, if_pos hwf]
  simp only [marginStart, hgo, Bool.false_eq_true, if_false, bne_iff_ne, State.unlatch_rd, hphase]

/-- MEM_MARGIN_RESULT at the end of a run (R268, R275). -/
def marginShown (r : MarginResult) : Word :=
  w32 (2 ^ 31 + b2n r.fail0 * 2 ^ 29 + (if r.fail0 then 0 else marginByte r.high) * 2 ^ 8 + (if r.fail0 then 0 else marginByte r.low))

theorem State.rd_withMem (s : State) (m : Mem) (r : Reg) (b i j : Nat) : ({ s with mem := m } : State).rd r b i j = s.rd r b i j := rfl

theorem marginShown_eq (r : MarginResult) : w32 (2 ^ 31 + b2n r.fail0 * 2 ^ 29 + (if r.fail0 then 0 else marginByte r.high) * 2 ^ 8 +
    (if r.fail0 then 0 else marginByte r.low)) = marginShown r := rfl

/-- The end of a run shows its result and refills the pseudo-channel (R268, R269). -/
theorem exec_marginRunDone {s : State} {st : Nat} {r : MarginResult} (hst : st < 12) (hr : r.wf = true) (hclk : s.clockHalt = false)
    (hrun : s.fld .memStatus st 0 0 3 3 = 1) :
    ∃ t : State, exec (.marginRunDone st r) s = .next t ∧ t.fld .memStatus st 0 0 3 3 = 0 ∧ t.rd .memMarginResult st = marginShown r ∧
      t.mem = s.mem.refill s.grade st (s.fld .memMarginCtl st 0 0 25 21) (s.fld .memMarginCtl st 0 0 20 20) := by
  obtain ⟨hcr, hcs, hsr⟩ := Reg.margin_addr st
  have hexec : exec (.marginRunDone st r) s = answer (.marginRunDone st r) (marginRunDone st r s) := rfl
  have hgo : (s.clockHalt || s.fld .memStatus st 0 0 3 3 == 0) = false := by simp [hclk, hrun]
  refine ⟨marginRunDone st r s, hexec.trans (if_pos (by simp [Instr.wf, hst, hr])), ?_⟩
  obtain ⟨u, hu⟩ : ∃ u, u = (s.wr .memMarginResult st 0 0 (marginShown r)).setFld .memStatus st 0 0 3 3 0 := ⟨_, rfl⟩
  have hend : marginRunDone st r s = { u with
      mem := u.mem.refill u.grade st (u.fld .memMarginCtl st 0 0 25 21) (u.fld .memMarginCtl st 0 0 20 20) } := by
    simp only [marginRunDone, hgo, Bool.false_eq_true, if_false, marginShown_eq, hu]
  have hby : s.byRegs u := hu ▸ (s.wr_byRegs ..).trans (State.wr_byRegs ..)
  have hstatus : u.fld .memStatus st 0 0 3 3 = 0 := by
    rw [hu]
    exact State.fld_setFld_same _ _ _ _ _ (by decide) 0
  have hresult : u.rd .memMarginResult st = marginShown r := by
    rw [hu]
    exact (State.rd_wr_other _ _ _ _ _ _ _ _ _ _ hsr.symm).trans (State.rd_wr_same ..)
  have hctl : u.rd .memMarginCtl st = s.rd .memMarginCtl st := by
    rw [hu]
    exact (State.rd_wr_other _ _ _ _ _ _ _ _ _ _ hcs).trans (State.rd_wr_other _ _ _ _ _ _ _ _ _ _ hcr)
  rw [hend]
  refine ⟨hstatus, hresult, ?_⟩
  simp only [State.fld, hctl, hby.byEvents.mem_eq, hby.byEvents.grade_eq]

/-! ### A clock halt and a stack's temperature (R267, R464, R485) -/

/-- Only registers and the fabric differ, and the status of the stacks does not. -/
structure State.keepsStacks (s t : State) : Prop where
  same : t = { s with regs := t.regs, fabric := t.fabric }
  status : ∀ st, st < 12 → t.rd .memStatus st = s.rd .memStatus st

theorem State.keepsStacks.refl (s : State) : s.keepsStacks s := ⟨rfl, fun _ _ => rfl⟩

theorem State.keepsStacks.trans {s t u : State} (h : s.keepsStacks t) (k : t.keepsStacks u) : s.keepsStacks u := by
  refine ⟨?_, fun st hst => (k.status st hst).trans (h.status st hst)⟩
  have hs := h.same
  have ks := k.same
  rw [hs] at ks
  exact ks

theorem State.keepsStacks.mem_eq {s t : State} (h : s.keepsStacks t) : t.mem = s.mem := by rw [h.same]
theorem State.keepsStacks.cores_eq {s t : State} (h : s.keepsStacks t) : t.cores = s.cores := by rw [h.same]
theorem State.keepsStacks.pins_eq {s t : State} (h : s.keepsStacks t) : t.pins = s.pins := by rw [h.same]

theorem Reg.memStatus_addr (st : Nat) : Reg.memStatus.addr st 0 0 = 0x03000000 + st * 0x10000 := by
  simp only [Reg.addr, Reg.spec, Blk.base]
  omega

/-- The registers outside the stacks' blocks that a halt of the clocks writes: those of the 32 links and of the Meridian. -/
theorem State.wr_keepsStacks (s : State) {r : Reg} {b : Nat} (h : r.spec.blk = .link ∧ b < 32 ∨ r.spec.blk = .coll) {i j : Nat}
    (hoff : r.spec.off + i * r.spec.s1 + j * r.spec.s2 < 0x10000) (v : Word) : s.keepsStacks (s.wr r b i j v) := by
  refine ⟨rfl, fun st hst => State.rd_wr_other _ _ _ _ _ _ _ _ _ _ ?_⟩
  rw [Reg.memStatus_addr, Reg.addr]
  rcases h with ⟨hblk, hb⟩ | hblk
  · simp only [hblk, Blk.base]
    omega
  · simp only [hblk, Blk.base]
    omega

theorem State.onFabric_keepsStacks (s : State) (f : Fabric → Fabric) : s.keepsStacks (s.onFabric f) := ⟨rfl, fun _ _ => rfl⟩

theorem foldl_keepsStacks {α : Type} (l : List α) (f : State → α → State) (h : ∀ (s : State) x, x ∈ l → s.keepsStacks (f s x))
    (s : State) : s.keepsStacks (l.foldl f s) := by
  induction l generalizing s with
  | nil => exact .refl s
  | cons x l ih => exact (h s x (List.mem_cons_self ..)).trans (ih (fun s y hy => h s y (List.mem_cons_of_mem _ hy)) _)

theorem State.merChoose_keepsStacks (s : State) : s.keepsStacks s.merChoose := by
  have hmer : ∀ (t : State) (hi lo v : Nat), t.keepsStacks (t.setFld .collMerStatus 0 0 0 hi lo v) :=
    fun t hi lo v => t.wr_keepsStacks (.inr rfl) (by decide) _
  have hfab := s.onFabric_keepsStacks (fun f => { f with merPrio := s.merChoice.1.1, merDev := s.merChoice.1.2 })
  simp only [State.merChoose]
  split
  · exact (((hfab.trans (hmer ..)).trans (hmer ..)).trans (hmer ..)).trans (State.onFabric_keepsStacks ..)
  · next l d _ =>
    have hkeep := ((hfab.trans (hmer _ 29 29 0)).trans (hmer _ 28 24 l)).trans (hmer _ 23 17 d)
    split
    · exact hkeep
    · exact (hkeep.trans (hmer ..)).trans (State.onFabric_keepsStacks ..)

theorem State.linkOff_keepsStacks (s : State) {l : Nat} (hl : l < 32) : s.keepsStacks (s.linkOff l) := by
  have hstate : s.keepsStacks (s.setLinkState l 0) :=
    (s.wr_keepsStacks (.inl ⟨rfl, hl⟩) (by decide) _).trans (State.wr_keepsStacks _ (.inl ⟨rfl, hl⟩) (by decide) _)
  have hcredit : ∀ t : State, t.keepsStacks ((List.range 8).foldl (fun s k => s.wr .lnkCredit l k 0 0#32) t) := fun t =>
    foldl_keepsStacks _ _ (fun u k hk => u.wr_keepsStacks (.inl ⟨rfl, hl⟩) (by
      have := List.mem_range.1 hk
      simp only [Reg.spec]
      omega) _) t
  exact (((hstate.trans (State.wr_keepsStacks _ (.inl ⟨rfl, hl⟩) (by decide) _)).trans (hcredit _)).trans
    (State.onFabric_keepsStacks ..)).trans (State.merChoose_keepsStacks _)

/-- What a halt of the clocks leaves: the clocks stand, and memory, cores, the stacks' status and THERM_TRIP_N are as they were (R464). -/
structure State.halted (s t : State) : Prop where
  clockHalt : t.clockHalt = true
  mem : t.mem = s.mem
  cores : t.cores = s.cores
  thermTrip : t.pins.thermTripN = s.pins.thermTripN
  status : ∀ st, st < 12 → t.rd .memStatus st = s.rd .memStatus st

theorem State.logFatalRec_events (s : State) (r : LogRec) : s.byEvents (s.logFatalRec r) ∧
    ∀ st, (s.logFatalRec r).rd .memStatus st = s.rd .memStatus st := by
  have hlog := s.log_byEvents { r with flags := r.flags ||| 2 }
  have hrd := fun st => s.log_rd { r with flags := r.flags ||| 2 } (r := .memStatus) rfl st
  simp only [State.logFatalRec]
  split
  · exact ⟨hlog, hrd⟩
  · refine ⟨(hlog.trans (State.onRel_byEvents ..)).trans (State.setFld_byEvents ..),
      fun st => (State.rd_wr_other _ _ _ _ _ _ _ _ _ _ ?_).trans (hrd st)⟩
    simp only [Reg.addr, Reg.spec, Blk.base]
    omega

theorem State.haltClocks_halted {s : State} (h : s.clockHalt = false) : s.halted s.haltClocks := by
  have hoff := foldl_keepsStacks (List.range 32) (fun s l => s.linkOff l) (fun t l hl => t.linkOff_keepsStacks (List.mem_range.1 hl)) s
  obtain ⟨u, hu⟩ : ∃ u, u = (List.range 32).foldl (fun s l => s.linkOff l) s := ⟨_, rfl⟩
  have hrun : s.haltClocks = State.logFatalRec { u with clockHalt := true, pins := { u.pins with fabReadyN := true, muxRstN := true } }
      (LogRec.base 0x11 8 0xF 0) := by
    rw [State.haltClocks, h, if_neg Bool.false_ne_true, hu]
  rw [← hu] at hoff
  obtain ⟨hby, hrd⟩ := State.logFatalRec_events { u with clockHalt := true, pins := { u.pins with fabReadyN := true, muxRstN := true } }
    (LogRec.base 0x11 8 0xF 0)
  rw [hrun]
  exact ⟨hby.clockHalt_eq, hby.mem_eq.trans hoff.mem_eq, hby.cores_eq.trans hoff.cores_eq,
    (congrArg Pins.thermTripN hby.pins_eq).trans (congrArg Pins.thermTripN hoff.pins_eq :),
    fun st hst => (hrd st).trans (hoff.status st hst)⟩

theorem State.trip_halted {s : State} (h : s.clockHalt = false) :
    State.halted { s with pins := { s.pins with thermTripN := false } } (s.trip false) := by
  have hhalt := State.haltClocks_halted (s := { s with pins := { s.pins with thermTripN := false } }) h
  have hrun : s.trip false = (State.haltClocks { s with pins := { s.pins with thermTripN := false } }).setFld .pwrTherm 0 0 0 31 31 1 := by
    rw [State.trip, if_neg Bool.false_ne_true]
  rw [hrun]
  generalize State.haltClocks _ = u at hhalt ⊢
  refine ⟨hhalt.clockHalt, hhalt.mem, hhalt.cores, hhalt.thermTrip,
    fun st hst => (State.rd_wr_other _ _ _ _ _ _ _ _ _ _ ?_).trans (hhalt.status st hst)⟩
  simp only [Reg.addr, Reg.spec, Blk.base]
  omega

theorem State.noteHeat_events (s : State) (u : Nat) (temp : Int) : ∃ f : Power → Power, (s.onPower f).byEvents (s.noteHeat u temp) ∧
    ∀ st, (s.noteHeat u temp).rd .memStatus st = s.rd .memStatus st := by
  simp only [State.noteHeat]
  split
  · split
    · exact ⟨id, rfl, fun _ => rfl⟩
    · exact ⟨_, State.log_byEvents .., fun st => State.log_rd _ _ rfl st⟩
  · split
    · exact ⟨fun p => { p with hotUnits := setDel p.hotUnits u }, rfl, fun _ => rfl⟩
    · exact ⟨id, rfl, fun _ => rfl⟩

/-- A readout shows the temperature with double refresh above 85 °C, and at 105 °C halts the clocks (R245, R267). -/
theorem exec_hbmTemperatureReadout {s : State} {st : Nat} (hst : st < s.nStacks) (hclk : s.clockHalt = false) (temp : Nat) :
    ∃ t : State, exec (.hbmTemperatureReadout st temp) s = .next t ∧
      t.fld .memStatus st 0 0 23 16 = temp % 256 ∧ t.fld .memStatus st 0 0 4 4 = (if 85 < temp then 1 else 0) ∧
      t.clockHalt = decide (105 ≤ temp) ∧ (105 ≤ temp → t.pins.thermTripN = false) ∧ t.mem = s.mem ∧ t.cores = s.cores := by
  have h12 : st < 12 := Nat.lt_of_lt_of_le hst s.nStacks_le
  have hexec : exec (.hbmTemperatureReadout st temp) s = answer (.hbmTemperatureReadout st temp) (hbmTemperatureReadout st temp s) := rfl
  have hwf : (Instr.hbmTemperatureReadout st temp).wf = true := by simp [Instr.wf, h12]
  have hgo : (decide (st ≥ s.nStacks) || s.clockHalt) = false := by simp [hclk, Nat.not_le.2 hst]
  obtain ⟨u, hu⟩ : ∃ u, u = (s.setFld .memStatus st 0 0 23 16 temp).setFld .memStatus st 0 0 4 4 (b2n (decide (temp > 85))) := ⟨_, rfl⟩
  have hby : s.byRegs u := hu ▸ (s.wr_byRegs ..).trans (State.wr_byRegs ..)
  have htemp : u.fld .memStatus st 0 0 23 16 = temp % 256 := by
    rw [hu, State.fld_setFld_other _ _ _ _ _ (.inl (by decide)), State.fld_setFld_same _ _ _ _ _ (by decide)]
    rfl
  have hdouble : u.fld .memStatus st 0 0 4 4 = if 85 < temp then 1 else 0 := by
    rw [hu, State.fld_setFld_same _ _ _ _ _ (by decide)]
    by_cases h : 85 < temp <;> simp [h, b2n]
  obtain ⟨f, hheat, hrd⟩ := u.noteHeat_events (3 + st) ((8 * temp : Nat) : Int)
  have hrun : hbmTemperatureReadout st temp s =
      if temp ≥ 105 then (u.noteHeat (3 + st) ((8 * temp : Nat) : Int)).trip false else u.noteHeat (3 + st) ((8 * temp : Nat) : Int) := by
    simp only [hbmTemperatureReadout, hgo, Bool.false_eq_true, if_false, hu]
  rw [answer, if_pos hwf, hrun] at hexec
  obtain ⟨v, hv⟩ : ∃ v, v = u.noteHeat (3 + st) ((8 * temp : Nat) : Int) := ⟨_, rfl⟩
  rw [← hv] at hexec hheat hrd
  have hmem : v.mem = s.mem := hheat.mem_eq.trans hby.byEvents.mem_eq
  have hcores : v.cores = s.cores := hheat.cores_eq.trans hby.byEvents.cores_eq
  have hrunning : v.clockHalt = false := (hheat.clockHalt_eq.trans hby.byEvents.clockHalt_eq).trans hclk
  have hfld : ∀ hi lo, v.fld .memStatus st 0 0 hi lo = u.fld .memStatus st 0 0 hi lo := fun hi lo => congrArg (getBits · hi lo) (hrd st)
  by_cases hhot : temp ≥ 105
  · have hhalt := State.trip_halted hrunning
    have hshown : ∀ hi lo, (v.trip false).fld .memStatus st 0 0 hi lo = u.fld .memStatus st 0 0 hi lo :=
      fun hi lo => (congrArg (getBits · hi lo) (hhalt.status st h12)).trans (hfld hi lo)
    rw [if_pos hhot] at hexec
    exact ⟨_, hexec, (hshown ..).trans htemp, (hshown ..).trans hdouble, by rw [hhalt.clockHalt, decide_eq_true hhot], fun _ => hhalt.thermTrip,
      hhalt.mem.trans hmem, hhalt.cores.trans hcores⟩
  · rw [if_neg hhot] at hexec
    exact ⟨v, hexec, (hfld ..).trans htemp, (hfld ..).trans hdouble, by rw [hrunning, decide_eq_false hhot], fun h => absurd h hhot, hmem, hcores⟩

/-! ### Records leave the frames of command lists, and what is retired stays so (R261, R413, R421) -/

/-- A frame of command lists was one before, and a retired frame stays retired. -/
structure State.keepsFrames (s t : State) : Prop where
  lists : ∀ cp f, (∃ x ∈ t.parts, f ∈ x.2.listFrames cp) → ∃ x ∈ s.parts, f ∈ x.2.listFrames cp
  retired : ∀ f ∈ s.rel.retired, f ∈ t.rel.retired

theorem State.keepsFrames.refl (s : State) : s.keepsFrames s := ⟨fun _ _ h => h, fun _ h => h⟩

theorem State.keepsFrames.trans {s t u : State} (h : s.keepsFrames t) (k : t.keepsFrames u) : s.keepsFrames u :=
  ⟨fun cp f hf => h.lists cp f (k.lists cp f hf), fun f hf => k.retired f (h.retired f hf)⟩

theorem State.keepsFrames.of {s t : State} (hp : t.parts = s.parts) (hr : ∀ f ∈ s.rel.retired, f ∈ t.rel.retired) : s.keepsFrames t :=
  ⟨fun _ _ h => hp ▸ h, hr⟩

theorem State.wr_keepsFrames (s : State) (r : Reg) (b i j : Nat) (v : Word) : s.keepsFrames (s.wr r b i j v) := .of rfl (fun _ h => h)

theorem mem_of_tabFind {α : Type} {t : Tab α} {k : Nat} {x : α} (h : tabFind t k = some x) : (k, x) ∈ t := by
  induction t with
  | nil => cases h
  | cons y t ih =>
    obtain ⟨j, a⟩ := y
    by_cases hj : j = k
    · subst hj
      simp only [tabFind, if_true, Option.some.injEq] at h
      subst h
      exact List.mem_cons_self ..
    · rw [tabFind, if_neg hj] at h
      exact List.mem_cons_of_mem _ (ih h)

theorem mem_tabSet {α : Type} [DecidableEq α] {t : Tab α} {k : Nat} {d v : α} {x : Nat × α} (h : x ∈ tabSet t k d v) :
    x = (k, v) ∨ x ∈ t := by
  rw [tabSet] at h
  split at h
  · exact .inr (List.mem_filter.1 h).1
  · exact mem_tabInsert h

/-- A partition whose jobs and pages are as they were has no list in another frame. -/
theorem State.setPart_keepsFrames (s : State) (p : Nat) {x : Part} (hx : ∀ cp, x.listFrames cp = (s.part p).listFrames cp) :
    s.keepsFrames (s.setPart p x) := by
  refine ⟨fun cp f hf => ?_, fun _ h => h⟩
  obtain ⟨y, hy, hfy⟩ := hf
  rcases mem_tabSet hy with rfl | hy
  · rw [hx cp] at hfy
    cases hfind : tabFind s.parts p with
    | none =>
      rw [State.part, tabGet, hfind] at hfy
      exact absurd hfy (by simp [Part.listFrames, Part.init])
    | some z =>
      rw [State.part, tabGet, hfind] at hfy
      exact ⟨(p, z), mem_of_tabFind hfind, hfy⟩
  · exact ⟨y, hy, hfy⟩

theorem State.setEvents_keepsFrames (s : State) (p : Nat) (evq : List Event) (hold pend : List Nat) :
    s.keepsFrames (s.setPart p { s.part p with evq := evq, msixHold := hold, msixPend := pend }) := s.setPart_keepsFrames p (fun _ => rfl)

theorem State.sendMsix_keepsFrames (s : State) (fn : Master) (v : Nat) : s.keepsFrames (s.sendMsix fn v) := by
  simp only [State.sendMsix]
  split <;> exact .of rfl (fun _ h => h)

theorem State.requestVector_keepsFrames (s : State) (p v : Nat) : s.keepsFrames (s.requestVector p v) := by
  simp only [State.requestVector]
  split
  · exact s.setEvents_keepsFrames ..
  · split
    · exact s.sendMsix_keepsFrames ..
    · exact (s.setEvents_keepsFrames ..).trans (State.sendMsix_keepsFrames ..)

theorem State.setCause_keepsFrames (s : State) (p cause : Nat) : s.keepsFrames (s.setCause p cause) := by
  simp only [State.setCause]
  split
  · exact s.wr_keepsFrames ..
  · exact (s.wr_keepsFrames ..).trans (State.requestVector_keepsFrames ..)

theorem State.raise_keepsFrames (s : State) (p cause unit tag value : Nat) : s.keepsFrames (s.raise p cause unit tag value) := by
  have hfull : s.keepsFrames ((s.setCause p cause).countFld .helmEvqStatus 0 p 0 31 16 1) :=
    (s.setCause_keepsFrames p cause).trans (State.wr_keepsFrames ..)
  simp only [State.raise]
  split
  · split
    · exact hfull.trans (State.setCause_keepsFrames ..)
    · exact hfull
  · exact (s.setEvents_keepsFrames ..).trans (State.setCause_keepsFrames ..)

theorem State.offerBmc_keepsFrames (s : State) (r : LogRec) : s.keepsFrames (s.offerBmc r) := by
  simp only [State.offerBmc]
  split <;> exact .of rfl (fun _ h => h)

theorem State.log_keepsFrames (s : State) (r : LogRec) : s.keepsFrames (s.log r) := by
  have fresh : ∀ r : LogRec, s.keepsFrames (let t := (s.onRel (fun x =>
      { x with ring := tabPut x.ring (x.seq % 4096) (some r), seq := x.seq + 1 })).offerBmc r
    if r.part < 8 then (t.orReg .logRd 0 r.part 0 0x80000000).raise r.part 11 0 r.tag r.seq else t) := by
    intro r
    have h := State.offerBmc_keepsFrames (s.onRel (fun x => { x with ring := tabPut x.ring (x.seq % 4096) (some r), seq := x.seq + 1 })) r
    have hs : s.keepsFrames (s.onRel (fun x => { x with ring := tabPut x.ring (x.seq % 4096) (some r), seq := x.seq + 1 })) := .of rfl (fun _ h => h)
    simp only
    split
    · exact ((hs.trans h).trans (State.wr_keepsFrames _ ..)).trans (State.raise_keepsFrames ..)
    · exact hs.trans h
  simp only [State.log]
  split
  · split
    · exact .of rfl (fun _ h => h)
    · exact fresh { r with mtime := s.now, seq := s.rel.seq % 2 ^ 32, temp := s.unitTemp r.kind r.unit, mv := s.unitMv r.kind r.unit }
  · exact fresh { r with mtime := s.now, seq := s.rel.seq % 2 ^ 32, temp := s.unitTemp r.kind r.unit, mv := s.unitMv r.kind r.unit }

theorem State.retire_keepsFrames {s t : State} {f : Nat} (h : s.retire f = some t) : s.keepsFrames t := by
  simp only [State.retire] at h
  split at h
  · cases h
    exact .refl s
  · split at h
    · cases h
    · cases h
      exact .of rfl (fun g hg => (mem_setAdd ..).2 (.inr hg))

theorem State.byHistory.keepsFrames {s t : State} (h : s.byHistory t) (hr : ∀ f ∈ s.rel.retired, f ∈ t.rel.retired) : s.keepsFrames t :=
  .of (by rw [h]) hr

theorem State.onRel_keepsFrames (s : State) {f : Reliab → Reliab} (h : (f s.rel).retired = s.rel.retired) : s.keepsFrames (s.onRel f) :=
  .of rfl (fun g hg => by rw [State.onRel, h]; exact hg)

theorem State.retireLocation_keepsFrames (s : State) (k u b l : Nat) : s.keepsFrames (s.retireLocation k u b l) := by
  simp only [State.retireLocation]
  split
  · exact .refl s
  · split
    · split
      · exact State.retire_keepsFrames ‹_›
      · exact (s.onRel_keepsFrames rfl).trans (State.onRel_keepsFrames _ rfl)
    · exact s.onRel_keepsFrames rfl

theorem State.becamePermanent_keepsFrames (s : State) (k u b l : Nat) : s.keepsFrames (s.becamePermanent k u b l) := by
  unfold State.becamePermanent
  split
  · exact s.onRel_keepsFrames rfl
  · exact s.retireLocation_keepsFrames ..
  · exact .refl s

theorem State.note_keepsFrames (s : State) (k c u b l p : Nat) : s.keepsFrames (s.note k c u b l p).1 := by
  simp only [State.note]
  split
  · have h : ∀ t : State, s.keepsFrames t → s.keepsFrames (if c == 6 then t.setService else t) := by
      intro t h
      split
      · exact h.trans (t.onRel_keepsFrames rfl)
      · exact h
    split
    · exact (h _ (s.onRel_keepsFrames rfl)).trans (State.becamePermanent_keepsFrames ..)
    · exact h _ (s.onRel_keepsFrames rfl)
  · have hadd : ∀ l : List AlmEntry, s.keepsFrames (s.onRel (fun r => { r with entries := l, dirty := true })) := fun _ => s.onRel_keepsFrames rfl
    split
    · exact s.onRel_keepsFrames (f := fun r => { r with service := true }) rfl
    · simp only
      split
      · exact (hadd _).trans (State.becamePermanent_keepsFrames ..)
      · exact hadd _

theorem State.byRegs.keepsFrames {s t : State} (h : s.byRegs t) : s.keepsFrames t :=
  .of (by rw [h]) (fun f hf => by rw [h]; exact hf)

theorem State.keepsFrames.withMem {s t : State} (h : s.keepsFrames t) (m : Mem) : s.keepsFrames { t with mem := m } := ⟨h.lists, h.retired⟩

theorem State.memNote_keepsFrames (s : State) (cls pa syn : Nat) : s.keepsFrames (s.memNote cls pa syn).1 := s.note_keepsFrames ..

theorem State.corrected_keepsFrames (s : State) (src : MemSource) (pa symbols syn : Nat) : s.keepsFrames (s.corrected src pa symbols syn) :=
  (((s.wr_byRegs .memCeCount _ 0 0 _).trans (State.capture_byRegs ..)).keepsFrames.trans (State.memNote_keepsFrames ..)).trans
    (State.log_keepsFrames ..)

theorem State.poisoned_keepsFrames (s : State) (src : MemSource) (line syn : Nat) (data : List Byte) :
    s.keepsFrames (s.poisoned src line syn data) :=
  (((s.ueCounted_byRegs src line syn).keepsFrames.trans (State.memNote_keepsFrames ..)).withMem _).trans (State.log_keepsFrames ..)

/-- What an error of a line outside the control map leaves: the frames' books and the cores, and where its data is right all of memory. -/
structure State.read (s t : State) (faithful : Prop) : Prop where
  frames : s.keepsFrames t
  cores : t.cores = s.cores
  control : t.mem.control = s.mem.control
  grade : t.grade = s.grade
  mem : faithful → t.mem = s.mem

theorem State.read.refl (s : State) : s.read s True := ⟨.refl s, rfl, rfl, rfl, fun _ => rfl⟩

theorem State.lineError_read (s : State) (src : MemSource) {line : Nat} (e : Ecc) (h : s.controlLine line = false) :
    s.read (s.lineError src line e).1 (e.faithful = true) := by
  cases e with
  | clean => exact ⟨.refl s, rfl, rfl, rfl, fun _ => rfl⟩
  | ce symbols syn =>
    have hby := s.corrected_byEvents src (line * 64) symbols syn
    exact ⟨s.corrected_keepsFrames .., hby.cores_eq, congrArg Mem.control hby.mem_eq, hby.grade_eq, fun _ => hby.mem_eq⟩
  | wrong symbols syn data =>
    have hby := s.corrected_byEvents src (line * 64) symbols syn
    have hframes := s.corrected_keepsFrames src (line * 64) symbols syn
    exact ⟨hframes.withMem _, hby.cores_eq, (congrArg Mem.control hby.mem_eq :), hby.grade_eq, nofun⟩
  | ue syn data =>
    rw [s.lineError_ue src data syn h]
    have hnote := ((s.ueCounted_byRegs src line syn).byEvents.trans (State.memNote_byHistory _ 0x02 (line * 64) syn).byEvents)
    exact ⟨s.poisoned_keepsFrames .., ((State.log_byEvents ..).cores_eq).trans hnote.cores_eq,
      (congrArg Mem.control (s.poisoned_spec src line syn data).1 :), ((State.log_byEvents ..).grade_eq).trans hnote.grade_eq, nofun⟩

/-- A frame that no control map marks is marked by none after the errors of its lines. -/
theorem State.read.controlMap {s t : State} {faithful : Prop} (h : s.read t faithful) {f : Nat} (hf : f ∉ s.controlMap) : f ∉ t.controlMap := by
  simp only [State.controlMap, List.mem_append, List.mem_flatMap, not_or] at hf ⊢
  refine ⟨h.control ▸ hf.1, fun hlist => hf.2 ?_⟩
  have hcp : (fun n => (t.core n).cp) = fun n => (s.core n).cp := by
    funext n
    rw [State.core, State.core, h.cores]
  rw [hcp] at hlist
  exact h.frames.lists _ f hlist

theorem State.lineErrors_read (s : State) (src : MemSource) {f : Nat} (hf : f ∉ s.controlMap) (lines : List (Nat × Ecc)) :
    s.read (s.lineErrors src (fun l => l * 64 / frameSize == f) lines) (∀ x ∈ lines, x.2.faithful = true) := by
  induction lines generalizing s with
  | nil => exact ⟨.refl s, rfl, rfl, rfl, fun _ => rfl⟩
  | cons x lines ih =>
    by_cases hx : x.1 * 64 / frameSize = f
    · have hstep : s.lineErrors src (fun l => l * 64 / frameSize == f) (x :: lines) =
          (if s.memoryOn then (s.lineError src x.1 x.2).1 else s).lineErrors src (fun l => l * 64 / frameSize == f) lines := by
        simp [State.lineErrors, hx]
      have hone : s.read (if s.memoryOn then (s.lineError src x.1 x.2).1 else s) (x.2.faithful = true) := by
        split
        · exact s.lineError_read src x.2 (by simp [State.controlLine, hx, hf])
        · exact ⟨.refl s, rfl, rfl, rfl, fun _ => rfl⟩
      have hrest := ih _ (hone.controlMap hf)
      rw [hstep]
      exact ⟨hone.frames.trans hrest.frames, hrest.cores.trans hone.cores, hrest.control.trans hone.control, hrest.grade.trans hone.grade,
        fun h => (hrest.mem (fun y hy => h y (List.mem_cons_of_mem _ hy))).trans (hone.mem (h x (List.mem_cons_self ..)))⟩
    · have hstep : s.lineErrors src (fun l => l * 64 / frameSize == f) (x :: lines) = s.lineErrors src (fun l => l * 64 / frameSize == f) lines := by
        simp [State.lineErrors, hx]
      have hrest := ih s hf
      rw [hstep]
      exact ⟨hrest.frames, hrest.cores, hrest.control, hrest.grade, fun h => hrest.mem (fun y hy => h y (List.mem_cons_of_mem _ hy))⟩

/-! ### The bytes of a frame that moves (R422) -/

/-- Buffer entries that leave one after another change no byte, and are gone from the buffer. -/
theorem Mem.foldl_leave (l : List WcEntry) {m : Mem} (h : m.wf) (hl : ∀ e ∈ l, m.entry? e.line = some e)
    (hd : l.Pairwise (fun x y => x.line ≠ y.line)) :
    (∀ a, (l.foldl (fun m e => m.leave e) m).byteOf a = m.byteOf a) ∧
    ∀ k, (l.foldl (fun m e => m.leave e) m).entry? k = if ∃ e ∈ l, e.line = k then none else m.entry? k := by
  induction l generalizing m with
  | nil => simp
  | cons e t ih =>
    obtain ⟨hne, ht⟩ := List.pairwise_cons.1 hd
    obtain ⟨hbyte, hent⟩ := ih (m.leave_wf e h) (fun x hx => by
      rw [Mem.entry?_leave, if_neg (hne x hx).symm]
      exact hl x (List.mem_cons_of_mem _ hx)) ht
    refine ⟨fun a => (hbyte a).trans (Mem.byteOf_leave h (hl e (List.mem_cons_self ..)) a), fun k => ?_⟩
    rw [List.foldl_cons, hent, Mem.entry?_leave]
    by_cases hk : k = e.line
    · simp [hk]
    · simp [hk, Ne.symm hk]

/-- The entries of a range of lines leave the buffer; no byte changes. -/
theorem Mem.forceRange_spec {m : Mem} (h : m.wf) (line n : Nat) : (∀ a, (m.forceRange line n).byteOf a = m.byteOf a) ∧
    ∀ k, line ≤ k → k < line + n → (m.forceRange line n).entry? k = none := by
  have hmem : ∀ e ∈ m.wc.filter (fun e => decide (line ≤ e.line) && decide (e.line < line + n)), m.entry? e.line = some e :=
    fun e he => h.entry?_of_mem (List.mem_filter.1 he).1
  obtain ⟨hbyte, hent⟩ := Mem.foldl_leave _ h hmem (h.2.1.filter _)
  refine ⟨hbyte, fun k h1 h2 => ?_⟩
  rw [Mem.forceRange, hent]
  split
  · rfl
  · next hno =>
    cases hk : m.entry? k with
    | none => rfl
    | some e =>
      obtain ⟨he, hline⟩ := find_line hk
      exact absurd ⟨e, List.mem_filter.2 ⟨he, by simp [hline, h1, h2]⟩, hline⟩ hno

/-- A fill changes nothing outside its lines. -/
theorem Mem.byteOf_fill_other (m : Mem) {pa len a : Nat} (h1 : pa % 64 = 0) (h2 : len % 64 = 0) (ha : a < pa ∨ pa + len ≤ a) :
    (m.fill pa len).byteOf a = m.byteOf a := by
  have hent : (m.fill pa len).entry? (a / 64) = m.entry? (a / 64) := by
    refine (find_filter_keep m.wc (fun l => decide (l * 64 < pa) || decide (l * 64 ≥ pa + len)) (a / 64)).trans (if_pos ?_)
    simp only [Bool.or_eq_true, decide_eq_true_eq]
    omega
  have hbyte : tabFind (m.fill pa len).bytes a = tabFind m.bytes a := (tabFind_cellsZero m.bytes pa len a).trans (if_neg (by omega))
  rw [Mem.byteOf, hent, tabGet, hbyte]
  rfl

/-- The cells of a range, numbered from its start. -/
def cellsFrom (l : List Host.Cell) (a len : Nat) : List Host.Cell :=
  (l.filter (fun c => decide (a ≤ c.1) && decide (c.1 < a + len))).map (fun c => (c.1 - a, c.2))

theorem tabFind_cellsFrom (l : List Host.Cell) (a len j : Nat) (hj : j < len) : tabFind (cellsFrom l a len) j = tabFind l (a + j) := by
  induction l with
  | nil => rfl
  | cons c t ih =>
    obtain ⟨k, v⟩ := c
    by_cases hk : k = a + j
    · subst hk
      simp [cellsFrom, tabFind, hj]
    · by_cases hin : a ≤ k ∧ k < a + len
      · have hne : k - a ≠ j := by omega
        simpa [cellsFrom, tabFind, hk, hin.1, hin.2, hne] using ih
      · have hout : (decide (a ≤ k) && decide (k < a + len)) = false := by simpa using hin
        simpa [cellsFrom, tabFind, hk, hout] using ih

theorem cellsFrom_sorted {l : List Host.Cell} (h : l.Pairwise (fun x y => x.1 < y.1)) (a len : Nat) :
    (cellsFrom l a len).Pairwise (fun x y => x.1 < y.1) := by
  refine List.pairwise_map.2 ((h.filter _).imp_of_mem (fun {x y} hx _ hxy => ?_))
  have hx' := (List.mem_filter.1 hx).2
  simp only [Bool.and_eq_true, decide_eq_true_eq] at hx'
  simp only
  omega

theorem tabFind_cellsFrom_beyond (l : List Host.Cell) (a len q : Nat) (hq : len ≤ q) : tabFind (cellsFrom l a len) q = none := by
  cases hfind : tabFind (cellsFrom l a len) q with
  | none => rfl
  | some v =>
    obtain ⟨c, hc, hcq⟩ := List.mem_map.1 (mem_of_tabFind hfind)
    have hc' := (List.mem_filter.1 hc).2
    simp only [Bool.and_eq_true, decide_eq_true_eq, Prod.mk.injEq] at hc' hcq
    omega

/-- A copied frame holds the bytes of its source, and no other byte changes. -/
theorem Mem.byteOf_copyFrame {m : Mem} (h : m.wf) (f g : Nat) :
    (∀ j, j < frameSize → (m.copyFrame f g).byteOf (g * frameSize + j) = m.byteOf (f * frameSize + j)) ∧
    ∀ a, a / frameSize ≠ g → (m.copyFrame f g).byteOf a = m.byteOf a := by
  obtain ⟨hbyte, hent⟩ := Mem.forceRange_spec h (f * frameSize / 64) (frameSize / 64)
  obtain ⟨k, hk⟩ : ∃ k, k = m.forceRange (f * frameSize / 64) (frameSize / 64) := ⟨_, rfl⟩
  have hkwf : k.wf := hk ▸ Mem.forceRange_wf _ _ h
  rw [← hk] at hbyte hent
  have hbytes : ∀ a, tabGet (m.copyFrame f g).bytes a 0#8 = if g * frameSize ≤ a then
      (tabFind (cellsFrom k.bytes (f * frameSize) frameSize) (a - g * frameSize)).getD (tabGet (k.fill (g * frameSize) frameSize).bytes a 0#8)
      else tabGet (k.fill (g * frameSize) frameSize).bytes a 0#8 := by
    intro a
    rw [← tabGet_foldl_set _ (g * frameSize) _ (cellsFrom_sorted hkwf.1.1 _ _) a, cellsFrom, List.foldl_map]
    simp only [Mem.copyFrame, ← hk]
  have hentry : ∀ l, (m.copyFrame f g).entry? l = (k.fill (g * frameSize) frameSize).entry? l := by
    intro l
    simp only [Mem.copyFrame, ← hk]
    rfl
  have hzero : ∀ j, j < frameSize → (k.fill (g * frameSize) frameSize).zeroAt (g * frameSize + j) := fun j hj =>
    k.zeroAt_fill (by simp only [frameSize]; omega) (Nat.le_add_right ..) (by omega)
  refine ⟨fun j hj => ?_, fun a ha => ?_⟩
  · obtain ⟨hnone, hstored⟩ := hzero j hj
    have hline : (f * frameSize + j) / 64 < f * frameSize / 64 + frameSize / 64 := by
      simp only [frameSize] at hj ⊢
      omega
    rw [← hbyte, Mem.byteOf, hentry, hnone, Mem.byteOf, hent _ (Nat.div_le_div_right (Nat.le_add_right ..)) hline]
    simp only
    rw [hbytes, if_pos (Nat.le_add_right ..), Nat.add_sub_cancel_left, hstored, tabFind_cellsFrom k.bytes _ _ j hj, tabGet]
  · have hout : a < g * frameSize ∨ g * frameSize + frameSize ≤ a := by
      simp only [frameSize] at ha ⊢
      omega
    have hstored : tabGet (m.copyFrame f g).bytes a 0#8 = tabGet (k.fill (g * frameSize) frameSize).bytes a 0#8 := by
      rw [hbytes]
      split
      · rw [tabFind_cellsFrom_beyond _ _ _ _ (by omega), Option.getD_none]
      · rfl
    have hsame : (m.copyFrame f g).byteOf a = (k.fill (g * frameSize) frameSize).byteOf a := by
      rw [Mem.byteOf, Mem.byteOf, hentry, hstored]
    rw [hsame, k.byteOf_fill_other (by simp only [frameSize]; omega) (by decide) hout, hbyte]

/-! ### The move of a frame (R422) -/

theorem State.retire_some {s : State} {f : Nat} (h : f ∈ s.rel.retired ∨ s.rel.retired.length < 256) :
    ∃ t, s.retire f = some t ∧ s.byHistory t ∧ f ∈ t.rel.retired := by
  by_cases hf : f ∈ s.rel.retired
  · exact ⟨s, if_pos (by simpa using hf), .refl s, hf⟩
  · have hlen : ¬ s.rel.retired.length ≥ 256 := by
      rcases h with h | h
      · exact absurd h hf
      · omega
    refine ⟨s.onRel (fun r => { r with retired := setAdd r.retired f, dirty := true }), ?_, s.onRel_byHistory _, (mem_setAdd ..).2 (.inl rfl)⟩
    rw [State.retire, if_neg (by simpa using hf), if_neg hlen]

/-- The state after the copy of a frame whose reads met errors of lines (R422). -/
def State.frameMoved (s : State) (p f g : Nat) (lines : List (Nat × Ecc)) : State :=
  let t := s.lineErrors .migration (fun l => l * 64 / frameSize == f) lines
  let t := (t.memDo (whoHelm p) (fun m => m.copyFrame f g)).hubEvent 0x42 (frameSize / 64) (whoHelm p)
  (t.onPart p (fun x => x.moveFrame f g)).settleEntries f

/-- A frame moves where Helm finds it held, out of use, and unmarked, and another one free. -/
theorem exec_frameMigration {s t : State} {pa p g : Nat} {lines : List (Nat × Ecc)} (hlines : ∀ x ∈ lines, x.2.wf = true)
    (hpending : ∃ e ∈ s.rel.entries, e.kind = 1 ∧ e.st = 3 ∧ e.location / frameSize = pa / frameSize) (hclk : s.clockHalt = false)
    (hheld : s.frameHolder (pa / frameSize) = some p)
    (hpins : ∀ y ∈ (s.part p).pages, (∃ a, y.frame = some a ∧ a / frameSize = pa / frameSize) → y.p = false)
    (hused : s.pagesUsed p ((s.part p).pages.filter (fun y => y.frame.any (fun a => a / frameSize == pa / frameSize))) = false)
    (hctl : pa / frameSize ∉ s.controlMap) (hfree : s.freeFrom s.grade.frames 0 = some g) (hretire : s.retire (pa / frameSize) = some t) :
    exec (.frameMigration pa lines) s = .next (t.frameMoved p (pa / frameSize) g lines) := by
  have hexec : exec (.frameMigration pa lines) s = answer (.frameMigration pa lines) (frameMigration pa lines s) := rfl
  have hwf : (Instr.frameMigration pa lines).wf = true := List.all_eq_true.2 hlines
  have hgo : (!s.rel.entries.any (fun e => e.kind == 1 && e.st == 3 && e.location / frameSize == pa / frameSize) || s.clockHalt) = false := by
    obtain ⟨e, he, h1, h2, h3⟩ := hpending
    have hany : s.rel.entries.any (fun e => e.kind == 1 && e.st == 3 && e.location / frameSize == pa / frameSize) = true :=
      List.any_eq_true.2 ⟨e, he, by simp [h1, h2, h3]⟩
    rw [hany, hclk]
    rfl
  have hpinned : (s.part p).pages.any (fun g => g.p && g.frame.any (fun a => a / frameSize == pa / frameSize)) = false := by
    refine List.any_eq_false.2 (fun y hy hpin => ?_)
    simp only [Bool.and_eq_true, Option.any_eq_true, beq_iff_eq] at hpin
    obtain ⟨hp, a, ha, haf⟩ := hpin
    simp [hpins y hy ⟨a, ha, haf⟩] at hp
  rw [hexec, answer, if_pos hwf, frameMigration]
  simp only [hgo, hheld, hpinned, hused, List.contains_eq_mem, hctl, hfree, hretire, Bool.false_eq_true, Bool.or_self, decide_false, if_false]
  rfl

/-- What the move leaves: the partition's books, the retired frame, no pending entry of it, and where its data was right its bytes (R422). -/
theorem State.frameMoved_spec {s : State} {f : Nat} (hf : f ∉ s.controlMap) (p g : Nat) (lines : List (Nat × Ecc)) :
    (lines = [] → (s.frameMoved p f g lines).part p = (s.part p).moveFrame f g) ∧
    (f ∈ s.rel.retired → f ∈ (s.frameMoved p f g lines).rel.retired) ∧
    (∀ e ∈ (s.frameMoved p f g lines).rel.entries, e.kind = 1 → e.location / frameSize = f → e.st ≠ 3) ∧
    (s.frameMoved p f g lines).cores = s.cores ∧
    ((∀ x ∈ lines, x.2.faithful = true) → (s.frameMoved p f g lines).mem = s.mem.copyFrame f g) := by
  have hread := s.lineErrors_read .migration hf lines
  obtain ⟨t, ht⟩ : ∃ t, t = s.lineErrors .migration (fun l => l * 64 / frameSize == f) lines := ⟨_, rfl⟩
  rw [← ht] at hread
  obtain ⟨u, hu⟩ : ∃ u, u = (t.memDo (whoHelm p) (fun m => m.copyFrame f g)).hubEvent 0x42 (frameSize / 64) (whoHelm p) := ⟨_, rfl⟩
  have hcopy : ({ t with mem := t.mem.copyFrame f g } : State).sameButCounters u :=
    hu ▸ (t.memDo_same (whoHelm p) (fun m => m.copyFrame f g)).trans (State.hubEvent_same ..)
  have hmoved : s.frameMoved p f g lines = (u.onPart p (fun x => x.moveFrame f g)).settleEntries f := by
    rw [State.frameMoved, hu, ht]
  have hrel : u.rel = t.rel := by rw [hcopy.1]
  rw [hmoved]
  refine ⟨fun hnil => ?_, fun hret => ?_, fun e he hkind hloc => ?_, hcopy.cores_eq.trans hread.cores, fun h => ?_⟩
  · have hsame : t = s := by rw [ht, hnil, State.lineErrors_nil]
    have hpart : u.part p = s.part p := by
      rw [hcopy.part_eq, hsame]
      rfl
    exact (u.part_setPart_same p _).trans (by rw [hpart])
  · have hkept := hread.frames.retired f hret
    rw [← hrel] at hkept
    exact hkept
  · obtain ⟨x, -, rfl⟩ := List.mem_map.1 he
    intro hst
    by_cases hx : x.kind == 1 && x.st == 3 && x.location / frameSize == f
    · simp [hx] at hst
    · simp only [hx, Bool.false_eq_true, if_false] at hkind hloc hst
      simp [hkind, hloc, hst] at hx
  · exact hcopy.mem_eq.trans (by rw [hread.mem h])

/-! ### The census (R299 to R302, R411) -/

/-- A census whose equations hold counts itself; one that does not starts an error reset and shows the pool of a false equation. -/
theorem census_cases {s : State} (hphase : s.phase = 10) (hclk : s.clockHalt = false) :
    ((∀ e ∈ s.censusEqs, e.terms.sum = e.total) → census s = s.setFld .helmCensus 0 0 0 30 0 (s.fld .helmCensus 0 0 0 30 0 + 1)) ∧
    ((∃ e ∈ s.censusEqs, e.terms.sum ≠ e.total) → ∃ e ∈ s.censusEqs, e.terms.sum ≠ e.total ∧ census s =
      ((s.errorReset e.record).setFld .helmCensus 0 0 0 31 31 1).wr .helmCensusPool 0 0 0 (w32 (e.pool * 2 ^ 28 + e.idx % 2 ^ 18))) := by
  have hgo : (s.phase != 10 || s.clockHalt) = false := by simp [hphase, hclk]
  constructor
  · intro h
    have hnone : s.censusEqs.find? (fun e => !e.holds) = none := List.find?_eq_none.2 (fun e he => by simp [CensusEq.holds, h e he])
    rw [census, hgo, if_neg Bool.false_ne_true, hnone]
  · intro h
    obtain ⟨e, he, hne⟩ := h
    cases hfind : s.censusEqs.find? (fun e => !e.holds) with
    | none => exact absurd (List.find?_eq_none.1 hfind e he) (by simp [CensusEq.holds, hne])
    | some x =>
      have hx : x.terms.sum ≠ x.total := by simpa [CensusEq.holds] using List.find?_some hfind
      refine ⟨x, List.mem_of_find?_eq_some hfind, hx, ?_⟩
      rw [census, hgo, if_neg Bool.false_ne_true, hfind]

theorem exec_census (s : State) : exec .census s = .next (census s) := rfl

theorem marginShown_fields (r : MarginResult) : getBits (marginShown r) 31 30 = 2 ∧ getBits (marginShown r) 29 29 = (if r.fail0 then 1 else 0) ∧
    getBits (marginShown r) 15 8 = (if r.fail0 then 0 else marginByte r.high) ∧
    getBits (marginShown r) 7 0 = (if r.fail0 then 0 else marginByte r.low) := by
  have hbyte : ∀ x, marginByte x < 256 := fun x => (BitVec.ofInt 8 x).isLt
  have hhi := hbyte r.high
  have hlo := hbyte r.low
  simp only [marginShown, getBits_w32 _ (show 31 < 32 by decide), getBits_w32 _ (show 29 < 32 by decide), getBits_w32 _ (show 15 < 32 by decide),
    getBits_w32 _ (show 7 < 32 by decide)]
  cases r.fail0
  · simp only [b2n, Bool.false_eq_true, if_false]
    omega
  · simp [b2n]

/-- Settles O48: margining, the temperature readout, the move of a frame and the census, each by what its command leaves. -/
theorem marginingMigrationCensus : Obligations.MarginingMigrationCensus := by
  intro s hwf _
  refine ⟨fun m st v hm hst hreach hheld => ?_, fun st r hst hr hclk hrun => ?_, fun st temp hst hclk => exec_hbmTemperatureReadout hst hclk temp,
    ?_, ⟨fun hoff => ?_, fun hphase hclk => ⟨fun h => ?_, fun h => ?_⟩⟩⟩
  · obtain ⟨hcr, hcs, hsr⟩ := Reg.margin_addr st
    have hexec := exec_marginStart v hm hst hreach hheld
    by_cases hstart : v.getLsbD 31 = true
    · by_cases hphase : s.phase = 8
      · simp only [hstart, hphase, if_true, ne_eq, not_true_eq_false, if_false] at hexec
        refine ⟨_, hexec, rfl, rfl, rfl, fun _ h => absurd hphase h, fun _ _ => ⟨State.fld_setFld_same _ _ _ _ _ (by decide) 1, ?_, ?_⟩⟩
        · rw [State.fld, State.setFld, State.rd_wr_other _ _ _ _ _ _ _ _ _ _ hsr.symm]
          exact State.fld_setFld_same _ _ _ _ _ (by decide) 0
        · rw [State.setFld, State.rd_wr_other _ _ _ _ _ _ _ _ _ _ hcs, State.setFld, State.rd_wr_other _ _ _ _ _ _ _ _ _ _ hcr, State.rd_wr_same]
      · simp only [hstart, hphase, if_true, ne_eq, not_false_eq_true] at hexec
        refine ⟨_, hexec, rfl, rfl, rfl, fun _ _ => ⟨State.fld_setFld_same _ _ _ _ _ (by decide) 1, ?_, ?_⟩, fun _ h => absurd h hphase⟩
        · exact (State.rd_wr_other _ _ _ _ _ _ _ _ _ _ hcr).trans (s.unlatch_rd m ..)
        · exact (State.rd_wr_other _ _ _ _ _ _ _ _ _ _ hsr).trans (s.unlatch_rd m ..)
    · simp only [hstart, Bool.false_eq_true, if_false] at hexec
      exact ⟨_, hexec, rfl, rfl, rfl, fun h => absurd h hstart, fun h => absurd h hstart⟩
  · intro mine
    obtain ⟨t, ht, hstatus, hresult, hmem⟩ := exec_marginRunDone hst hr hclk hrun
    obtain ⟨h1, h2, h3, h4⟩ := marginShown_fields r
    have hwfT : t.mem.wf := hmem ▸ Mem.refill_wf _ _ _ _ hwf
    refine ⟨t, ht, hstatus, ?_, ?_, ?_, ?_, fun a => ?_⟩
    · rw [State.fld, hresult, h1]
    · rw [State.fld, hresult, h2]
    · rw [State.fld, hresult, h3]
      rfl
    · rw [State.fld, hresult, h4]
      rfl
    · obtain ⟨hin, hout⟩ := s.mem.refill_spec s.grade st (s.fld .memMarginCtl st 0 0 25 21) (s.fld .memMarginCtl st 0 0 20 20) a
      rw [← hmem] at hin hout
      refine ⟨fun ha => ?_, fun ha => ?_⟩
      · obtain ⟨hzero, hclean⟩ := hin ha
        exact ⟨by rw [State.byteAt_eq hwfT, hzero], hclean⟩
      · rw [State.byteAt_eq hwfT, hout ha, State.byteAt_eq hwf]
  · intro pa p g f hpending hclk hheld hpins hused hctl hfree hroom lines hlines
    obtain ⟨t, hretire, hby, hret⟩ := State.retire_some hroom
    have hmem : t.mem = s.mem := hby.byEvents.mem_eq
    have hctl' : f ∉ t.controlMap := by
      rwa [State.controlMap_congr (s := s) (congrArg Mem.control hmem) (by rw [hby]) hby.byEvents.cores_eq]
    obtain ⟨hpart, hkept, hsettled, hcores, hcopy⟩ := t.frameMoved_spec hctl' p g lines
    refine ⟨t.frameMoved p f g lines, exec_frameMigration hlines hpending hclk hheld hpins hused hctl hfree hretire, fun h => (hpart h).trans ?_,
      hkept hret, hsettled, hcores.trans hby.byEvents.cores_eq, fun h => ?_⟩
    · rw [State.part, hby]
      rfl
    · have hmemT := (hcopy h).trans (by rw [hmem])
      have hwfT : (t.frameMoved p f g lines).mem.wf := hmemT ▸ Mem.copyFrame_wf f g hwf
      obtain ⟨hin, hout⟩ := Mem.byteOf_copyFrame hwf f g
      refine ⟨fun j hj => ?_, fun a ha => ?_⟩
      · rw [State.byteAt_eq hwfT, hmemT, hin j hj, State.byteAt_eq hwf]
      · rw [State.byteAt_eq hwfT, hmemT, hout a ha, State.byteAt_eq hwf]
  · have hgo : (s.phase != 10 || s.clockHalt) = true := by simpa using hoff
    rw [exec_census, census, hgo, if_pos rfl]
  · refine ⟨census s, exec_census s, ?_⟩
    rw [(census_cases hphase hclk).1 h]
    refine ⟨s.wr_byRegs .., s.fld_setFld_same _ _ _ _ (by decide) _, ?_⟩
    rw [State.fld_setFld_other _ _ _ _ _ (.inl (by decide))]
  · obtain ⟨e, he, hne, hrun⟩ := (census_cases hphase hclk).2 h
    obtain ⟨hphaseT, hcause⟩ := s.errorReset_phase e.record none
    have hpool : Reg.helmCensus.addr 0 0 0 ≠ Reg.helmCensusPool.addr 0 0 0 := by decide
    have hlc : Reg.lcStatus.addr 0 0 0 ≠ Reg.helmCensusPool.addr 0 0 0 ∧ Reg.lcStatus.addr 0 0 0 ≠ Reg.helmCensus.addr 0 0 0 :=
      ⟨by decide, by decide⟩
    refine ⟨census s, exec_census s, ?_⟩
    rw [hrun]
    generalize s.errorReset e.record = u at hphaseT hcause ⊢
    have hkeep : ∀ v w, ((u.setFld .helmCensus 0 0 0 31 31 v).wr .helmCensusPool 0 0 0 w).rd .lcStatus = u.rd .lcStatus := fun v w =>
      (State.rd_wr_other _ _ _ _ _ _ _ _ _ _ hlc.1).trans (State.rd_wr_other _ _ _ _ _ _ _ _ _ _ hlc.2)
    refine ⟨?_, ?_, ?_, e, he, hne, ?_, ?_⟩
    · rw [State.fld, State.rd_wr_other _ _ _ _ _ _ _ _ _ _ hpool]
      exact State.fld_setFld_same _ _ _ _ _ (by decide) 1
    · rw [State.phase, State.fld, hkeep]
      exact hphaseT
    · rw [State.fld, hkeep]
      exact hcause
    · rw [State.fld, State.rd_wr_same, getBits_w32 _ (by decide)]
      omega
    · rw [State.fld, State.rd_wr_same, getBits_w32 _ (by decide)]
      omega

end Sys2Proof.Machine
end

/-! ## O42: requests at addresses, objects and slots (R254, R319, R330, R332, R361, R364, R374, R377) -/

section
namespace Sys2Proof.Machine
open Sys2Proof

/-! ### What a packet that leaves touches (R317 to R326) -/

/-- Sending touches the links, what has gone out, and registers of links and counters alone: none below the links' blocks but the count of
packets without a route. -/
structure State.sent (s t : State) : Prop where
  same : t = { s with regs := t.regs, fabric := { s.fabric with links := t.fabric.links }, out := t.out }
  rd : ∀ r b i j, Reg.addr r b i j < Blk.link.base → Reg.addr r b i j ≠ Reg.lnkGcnt.addr 0 1 0 → t.rd r b i j = s.rd r b i j

theorem State.sent.refl (s : State) : s.sent s := ⟨rfl, fun _ _ _ _ _ _ => rfl⟩

theorem State.sent.trans {s t u : State} (h : s.sent t) (k : t.sent u) : s.sent u := by
  refine ⟨?_, fun r b i j hlow hne => (k.rd r b i j hlow hne).trans (h.rd r b i j hlow hne)⟩
  have hs := h.same
  have ks := k.same
  rw [hs] at ks
  exact ks

section
variable {s t : State} (h : s.sent t)
include h

theorem State.sent.mem_eq : t.mem = s.mem := by rw [h.same]
theorem State.sent.cores_eq : t.cores = s.cores := by rw [h.same]
theorem State.sent.parts_eq : t.parts = s.parts := by rw [h.same]
theorem State.sent.srcs_eq : t.fabric.srcs = s.fabric.srcs := by rw [h.same]
theorem State.sent.lost_eq : t.fabric.lost = s.fabric.lost := by rw [h.same]

end

theorem State.onLink_sent (s : State) (l : Nat) (f : Link → Link) : s.sent (s.onLink l f) := ⟨rfl, fun _ _ _ _ _ _ => rfl⟩
theorem State.emit_sent (s : State) (o : Out) : s.sent (s.emit o) := ⟨rfl, fun _ _ _ _ _ _ => rfl⟩

theorem State.wr_sent (s : State) {r : Reg} {b i j : Nat} (h : Blk.link.base ≤ r.addr b i j) (v : Word) : s.sent (s.wr r b i j v) :=
  ⟨rfl, fun _ _ _ _ hlow _ => State.rd_wr_other _ _ _ _ _ _ _ _ _ _ (by omega)⟩

theorem Reg.link_addr {r : Reg} (h : r.spec.blk = .link) (b i j : Nat) : Blk.link.base ≤ r.addr b i j := by
  simp only [Reg.addr, h]
  omega

theorem State.gcnt_sent (s : State) : s.sent (s.gcnt 1) := ⟨rfl, fun _ _ _ _ _ hne => State.rd_wr_other _ _ _ _ _ _ _ _ _ _ hne⟩

theorem State.sameButCounters.sent {s t : State} (h : s.sameButCounters t) : s.sent t := by
  refine ⟨?_, fun r b i j hlow _ => h.2 r b i j (Nat.lt_trans hlow (by decide))⟩
  have hsame := h.1
  have hfab := h.fabric_eq
  have hout : t.out = s.out := by rw [hsame]
  rw [hfab, hout]
  exact hsame

theorem State.sendFlits_sent (s : State) (l : Nat) (fs : List Flit) : s.sent (s.sendFlits l fs) := (s.onLink_sent ..).trans (State.emit_sent ..)

theorem State.wire_sent (s : State) (l : Nat) (q : Queued) (bad : Bool) : s.sent (s.wire l q bad) := by
  simp only [State.wire]
  generalize (⟨2, l, if q.pkt.src == s.devId then some q.pkt.part else none, none⟩ : Who) = w
  have hcount := (s.hubEvent_same 0x47 q.pkt.flits w).sent
  have hcredit : ∀ (f : Link → Link) (i hi lo v : Nat), s.sent (((s.hubEvent 0x47 q.pkt.flits w).onLink l f).setFld .lnkCredit l i 0 hi lo v) :=
    fun f i hi lo v => (hcount.trans (State.onLink_sent _ l f)).trans (State.wr_sent _ (Reg.link_addr (r := .lnkCredit) rfl ..) _)
  split
  · exact hcount.trans (State.emit_sent ..)
  · refine (State.sent.trans ?_ (State.sendFlits_sent ..))
    split
    · exact (hcredit ..).trans (State.onLink_sent ..)
    · split
      · exact (hcredit ..).trans (State.onLink_sent ..)
      · exact hcredit ..

theorem State.inject_sent (s : State) (l : Nat) (k : Packet) : s.sent (s.inject l k).2 := by
  simp only [State.inject]
  split
  · exact .refl s
  · split
    · dsimp only
      exact (s.onLink_sent l _).trans (State.wr_sent _ (Reg.link_addr (r := .lnkFiStat) rfl ..) _)
    · dsimp only
      exact s.onLink_sent l _

theorem State.releaseHeld_sent (l fuel : Nat) : ∀ s : State, s.sent (s.releaseHeld l fuel) := by
  induction fuel with
  | zero => exact fun s => .refl s
  | succ n ih =>
    intro s
    simp only [State.releaseHeld]
    split
    · exact .refl s
    · exact (((s.onLink_sent l _).trans (State.wire_sent ..)).trans (State.onLink_sent _ l _)).trans (ih _)

theorem State.leave_sent (s : State) (l : Nat) (q : Queued) (bad : Bool) : s.sent (s.leave l q bad) :=
  ((s.wire_sent l q bad).trans (State.onLink_sent _ l _)).trans (State.releaseHeld_sent ..)

theorem State.leaveLink_sent (s : State) (l : Nat) (q : Queued) : s.sent (s.leaveLink l q) := by
  have hinject := s.inject_sent l q.pkt
  simp only [State.leaveLink]
  split
  · exact hinject.trans (State.leave_sent ..)
  · split
    · exact hinject
    · exact hinject.trans (State.leave_sent ..)
    · exact hinject.trans (State.onLink_sent ..)
    · exact ((hinject.trans (State.leave_sent ..)).trans (State.onLink_sent _ l _)).trans (State.releaseHeld_sent ..)

theorem State.pump_sent (l fuel : Nat) : ∀ s : State, s.sent (s.pump l fuel) := by
  induction fuel with
  | zero => exact fun s => .refl s
  | succ n ih =>
    intro s
    simp only [State.pump]
    split
    · split
      · exact ((s.onLink_sent l _).trans (State.leaveLink_sent ..)).trans (ih _)
      · exact .refl s
    · split
      · exact .refl s
      · exact ((s.onLink_sent l _).trans (State.leaveLink_sent ..)).trans (ih _)

theorem State.toLink_sent (s : State) (l : Nat) (q : Queued) : s.sent (s.toLink l q) :=
  ((s.onLink_sent l _).trans (State.releaseHeld_sent ..)).trans (State.pump_sent ..)

theorem State.launch_sent (s : State) (k : Packet) : s.sent (s.launch k).1 := by
  rw [State.launch]
  split
  · exact s.emit_sent (.toSelf k)
  · split
    · next l w _ => exact s.toLink_sent l ⟨s.classOfHop none l k, w⟩
    · exact s.gcnt_sent

theorem State.plainPacket_sent (s : State) (typ vc dest part group sseq target : Nat) (payload : List Byte) :
    s.sent (s.plainPacket typ vc dest part group sseq target payload) := s.launch_sent _

theorem State.acknowledge_sent (s : State) (k : Packet) : s.sent (s.acknowledge k) := s.launch_sent _

theorem State.answerOld_sent (s : State) (k : Packet) (old : Nat × Bool) : s.sent (s.answerOld k old) := s.launch_sent _

/-! ### Accesses of the hub for a packet (R254, R286) -/

section
variable {s : State} {w : Who} {p va : Nat} (hf : s.filling = false)

theorem State.accessed.filling_eq {s t : State} (h : State.accessed p s t) : t.filling = s.filling := by
  have haddr : Reg.lcStatus.addr 0 0 0 < countersFrom := by decide
  simp only [State.filling, h.fld_eq haddr]

include hf

theorem hub_hubWrPiece_clean {pa : Nat} {h : Bool} (hx : (s.part p).xlate va true = .here pa h) (d : List Byte) :
    ∃ t, s.hub (hubWrPiece w p va d false) = (.ok (), t) ∧ State.accessed p s t ∧ t.mem = s.mem.write s.grade pa d false := by
  refine ⟨_, ?_, s.touch_accessed p va { w with va := some va } (fun m => m.write s.grade pa d false), ?_⟩
  · simp [hubWrPiece, hf, hx]
  · rw [State.memDo_mem, State.touchPage_mem]

omit hf in
theorem hub_forM_hubWrPiece_clean {g : Page} {f : Nat} (d : Nat × Nat → List Byte) (xs : List (Nat × Nat)) :
    ∀ {s : State}, s.filling = false → (∀ x ∈ xs, (s.part p).xlate x.1 true = .here (g.phys f x.1) g.h) →
    ∃ t, s.hub (xs.forM (fun x => hubWrPiece w p x.1 (d x) false)) = (.ok (), t) ∧ State.accessed p s t ∧
      t.mem = xs.foldl (fun m x => m.write s.grade (g.phys f x.1) (d x) false) s.mem := by
  induction xs with
  | nil => exact fun {s} _ _ => ⟨s, by simp, .refl p s, rfl⟩
  | cons x xs ih =>
    intro s hf hx
    obtain ⟨t, ht, htr, htm⟩ := hub_hubWrPiece_clean (w := w) hf (hx x (List.mem_cons_self ..)) (d x)
    obtain ⟨u, hu, hur, hum⟩ := ih (s := t) (by rw [htr.filling_eq, hf]) (fun y hy => by rw [htr.xlate]; exact hx y (List.mem_cons_of_mem _ hy))
    refine ⟨u, ?_, htr.trans hur, ?_⟩
    · simpa [List.forM_cons, ht] using hu
    · rw [hum, htm, htr.grade_eq, List.foldl_cons]

/-- Bytes that the hub writes into one page are there afterwards. -/
theorem hub_hubWr_onePage {d : List Byte} (hwf : s.mem.wf) (hpage : (s.part p).onePage va d.length true) :
    ∃ t, s.hub (hubWr w p va d) = (.ok (), t) ∧ State.accessed p s t ∧ t.mem.wf ∧
      ∀ j c, d[j]? = some c → ∃ pa, (s.part p).xlate (va + j) true = .here pa false ∧ t.mem.byteOf pa = c := by
  obtain ⟨g, f, hg, hh, hw, hin⟩ := hpage
  obtain ⟨t, ht, hacc, hmem⟩ := hub_forM_hubWrPiece_clean (w := w) (g := g) (f := f) (fun x => (d.drop (x.1 - va)).take x.2)
    (linePieces va d.length) hf (fun x hx => Part.xlate_here (page?_of_linePiece hin hx) hg hw)
  have hmem' : t.mem = s.mem.writePage s.grade g f va d false := hmem
  refine ⟨t, ht, hacc, hmem' ▸ Mem.writePage_wf hwf _ _ _ _ _ _, fun j c hc => ?_⟩
  obtain ⟨hj, -⟩ := List.getElem?_eq_some_iff.1 hc
  have hva := Page.va_le_of_within (by omega) hin
  refine ⟨g.phys f (va + j), by rw [Part.xlate_here (hin _ (by omega) (by omega)) hg hw, hh], ?_⟩
  rw [hmem', Mem.byteOf_writePage hwf _ hva (Nat.le_add_right ..) (by omega), Nat.add_sub_cancel_left, List.getD_eq_getElem?_getD, hc,
    Option.getD_some]

theorem hub_hubAdd_here {pa : Nat} {h : Bool} (hx : (s.part p).xlate va true = .here pa h) (ty : AddTy) (amount : Nat) :
    ∃ t, s.hub (hubAdd w p va ty amount) = (.ok (s.mem.addAt ty pa amount false).2, t) ∧ State.accessed p s t ∧
      t.mem = (s.mem.addAt ty pa amount false).1 := by
  refine ⟨_, ?_, (s.touch_accessed p va { w with va := some va } (fun _ => (s.mem.addAt ty pa amount false).1)).trans
    ((State.hubEvent_same _ 0x46 1 { w with va := some va }).accessed p), ?_⟩
  · simp [hubAdd, hf, hx]
  · rw [(State.hubEvent_same _ _ _ _).mem_eq, State.memDo_mem]

end

/-! ### The duplicate window at arrival (R330) -/

/-- A request that the window refuses leaves the window, and no incarnation is new. -/
theorem Src.accept_refused {x : Src} {i q : Nat} (hq : q < 2 ^ 32) (h : (x.accept i q).1 = false) : (x.accept i q).2 = (x, false) := by
  by_cases hold : x.older i = true
  · simp [Src.accept, hold]
  · by_cases hfresh : (!x.seen || serialAfter 16 i x.inc) = true
    · -- a new incarnation puts the window just behind the request
      have hnext : serialAfter 32 q ((q + 2 ^ 32 - 1) % 2 ^ 32) = true := by
        have hone : (q % 2 ^ 32 + 2 ^ 32 - (q + 2 ^ 32 - 1) % 2 ^ 32 % 2 ^ 32) % 2 ^ 32 = 1 := by omega
        simp only [serialAfter, hone]
        decide
      simp only [Src.accept, hold, hfresh, hnext, Bool.false_eq_true, if_false, if_true] at h
      cases h
    · by_cases hlater : serialAfter 32 q x.high = true
      · simp [Src.accept, hold, hfresh, hlater] at h
      · by_cases hin : (decide ((x.high + 2 ^ 32 - q) % 2 ^ 32 ≤ 1023) && !x.marks.contains q) = true
        · simp only [Src.accept, hold, hfresh, hlater, hin, Bool.false_eq_true, if_false, if_true] at h
          cases h
        · simp only [Src.accept, hold, hfresh, hlater, hin, Bool.false_eq_true, if_false, Bool.false_and]

/-- The state in which the hub meets a packet for this device: its flits are freed, and its source's window is x. -/
def State.metBy (s : State) (l : Nat) (k : Packet) (x : Src) : State := (s.freeFlits l k).setSrc k.src x

section
variable (s : State) (l : Nat) (k : Packet)

theorem State.freeFlits_same : s.freeFlits l k = { s with fabric := { s.fabric with links := (s.freeFlits l k).fabric.links } } := by
  simp only [State.freeFlits]
  split <;> rfl

theorem State.freeFlits_src (d : Nat) : (s.freeFlits l k).src d = s.src d := by
  rw [State.src, s.freeFlits_same l k, State.src]

theorem State.metBy_same (x : Src) : s.metBy l k x = { s with fabric := { s.fabric with
    links := (s.metBy l k x).fabric.links, srcs := (s.metBy l k x).fabric.srcs } } := by
  rw [State.metBy, s.freeFlits_same l k]
  rfl

theorem State.src_setSrc (t : State) (d : Nat) (x : Src) : (t.setSrc d x).src d = x := by
  simp [State.src, State.setSrc, State.onFabric]

theorem State.metBy_src (x : Src) : (s.metBy l k x).src k.src = x := State.src_setSrc ..

theorem State.metBy_rd (x : Src) (r : Reg) (b i j : Nat) : (s.metBy l k x).rd r b i j = s.rd r b i j := by
  rw [s.metBy_same l k x]
  rfl

theorem State.metBy_mem (x : Src) : (s.metBy l k x).mem = s.mem := by rw [s.metBy_same l k x]
theorem State.metBy_cores (x : Src) : (s.metBy l k x).cores = s.cores := by rw [s.metBy_same l k x]
theorem State.metBy_lost (x : Src) : (s.metBy l k x).fabric.lost = s.fabric.lost := by rw [s.metBy_same l k x]

theorem State.metBy_part (x : Src) (p : Nat) : (s.metBy l k x).part p = s.part p := by
  rw [s.metBy_same l k x]
  rfl

theorem State.metBy_filling (x : Src) : (s.metBy l k x).filling = s.filling := by
  simp only [State.filling, State.fld, s.metBy_rd]

theorem State.metBy_gState (x : Src) (g : Nat) : (s.metBy l k x).gState g = s.gState g := by
  simp only [State.gState, State.fld, s.metBy_rd]

theorem State.metBy_slotPlace (x : Src) (i : Nat) : (s.metBy l k x).slotPlace i = s.slotPlace i := by
  rw [s.metBy_same l k x]
  rfl

end

section
variable {s : State} {l : Nat} {k : Packet}

/-- The window takes a request of an incarnation that is not new. -/
theorem acceptRequest_taken (hok : ((s.src k.src).accept k.incarn k.sseq).1 = true) (hnew : ((s.src k.src).accept k.incarn k.sseq).2.2 = false) :
    (s.freeFlits l k).acceptRequest k = (true, s.metBy l k ((s.src k.src).accept k.incarn k.sseq).2.1) := by
  simp only [State.acceptRequest, s.freeFlits_src l k, hok, hnew, Bool.false_eq_true, if_false, if_true]
  rfl

/-- A refused request is counted, unless it is of an older incarnation. -/
theorem acceptRequest_refused (hq : k.sseq < 2 ^ 32) (hno : ((s.src k.src).accept k.incarn k.sseq).1 = false) :
    (s.freeFlits l k).acceptRequest k = (false,
      if (s.src k.src).older k.incarn then s.metBy l k (s.src k.src) else (s.metBy l k (s.src k.src)).gcnt 0) := by
  have hsame := Src.accept_refused hq hno
  have hmet : (s.freeFlits l k).setSrc k.src (s.src k.src) = s.metBy l k (s.src k.src) := rfl
  simp only [State.acceptRequest, s.freeFlits_src l k, hno, hsame, Bool.false_eq_true, if_false, hmet, s.metBy_src]

theorem packetIn_here (hdest : k.dest = s.devId) (f : State → Option State) : packetIn l k f s = (f (s.freeFlits l k)).getD s := by
  have hhere : (k.dest == s.devId) = true := by simp [hdest]
  simp only [packetIn, packetTry, hhere, if_true]

/-- A duplicate changes no register below the links' blocks but a count, and neither memory nor cores (R330, R331). -/
theorem packetIn_refused (hdest : k.dest = s.devId) (hlost : s.fabric.lost = []) (hq : k.sseq < 2 ^ 32)
    (hno : ((s.src k.src).accept k.incarn k.sseq).1 = false) (f : State → Option State) :
    ∃ t, packetIn l k (fun s => s.onceOnly k f) s = t ∧ t.mem = s.mem ∧
      ∀ r b i j, Reg.addr r b i j < Blk.link.base → Reg.addr r b i j ≠ Reg.lnkGcnt.addr 0 1 0 → t.rd r b i j =
        (if (s.src k.src).older k.incarn then s else s.gcnt 0).rd r b i j := by
  rw [packetIn_here hdest]
  simp only [State.onceOnly, acceptRequest_refused hq hno, s.freeFlits_src l k, Bool.false_eq_true, if_false, Option.getD_some]
  by_cases hold : (s.src k.src).older k.incarn = true
  · have hsettled : (s.metBy l k (s.src k.src)).settled = s.metBy l k (s.src k.src) := State.settled_of_lost ((s.metBy_lost ..).trans hlost)
    simp only [hold, if_true, hsettled]
    exact ⟨_, rfl, s.metBy_mem .., fun r b i j _ _ => s.metBy_rd ..⟩
  · simp only [hold, Bool.false_eq_true, if_false]
    have hsent := ((s.metBy l k (s.src k.src)).gcnt 0).acknowledge_sent k
    have hsettled := State.settled_of_lost (hsent.lost_eq.trans ((s.metBy_lost l k _).trans hlost))
    refine ⟨_, rfl, ?_, fun r b i j hlow hne => ?_⟩
    · rw [hsettled, hsent.mem_eq]
      exact s.metBy_mem l k (s.src k.src)
    · rw [hsettled, hsent.rd r b i j hlow hne]
      rw [s.metBy_same]
      rfl

section
variable (hdest : k.dest = s.devId) (hlost : s.fabric.lost = []) (hok : ((s.src k.src).accept k.incarn k.sseq).1 = true)
  (hnew : ((s.src k.src).accept k.incarn k.sseq).2.2 = false)

/-- The state in which an accepted request is performed. -/
def State.performs (s : State) (l : Nat) (k : Packet) : State := s.metBy l k ((s.src k.src).accept k.incarn k.sseq).2.1

include hdest hok hnew

/-- A request that is performed is acknowledged. -/
theorem packetIn_onceOnly {f : State → Option State} {v : State} (hf : f (s.performs l k) = some v) (hv : v.fabric.lost = []) :
    packetIn l k (fun s => s.onceOnly k f) s = v.acknowledge k := by
  have hsettled := State.settled_of_lost ((v.acknowledge_sent k).lost_eq.trans hv)
  rw [State.performs] at hf
  rw [packetIn_here hdest, State.onceOnly, acceptRequest_taken hok hnew]
  simp only [if_true, hf, hsettled, Option.getD_some]

include hlost

/-- The end of a request whose work is one access of the hub: the access, with the window's mark and the acknowledgement. -/
theorem packetIn_accessed {f : State → Option State} {v : State} {p : Nat} (hacc : State.accessed p (s.performs l k) v)
    (hf : f (s.performs l k) = some v) : ∃ t, packetIn l k (fun s => s.onceOnly k f) s = t ∧
      t.src k.src = ((s.src k.src).accept k.incarn k.sseq).2.1 ∧ t.cores = s.cores ∧ t.mem = v.mem := by
  have hlostV : v.fabric.lost = [] := by rw [hacc.fabric_eq, State.performs, s.metBy_lost, hlost]
  have hsent := v.acknowledge_sent k
  refine ⟨_, packetIn_onceOnly hdest hok hnew hf hlostV, ?_, ?_, hsent.mem_eq⟩
  · rw [State.src, hsent.srcs_eq, hacc.fabric_eq]
    exact s.metBy_src l k _
  · rw [hsent.cores_eq, hacc.cores_eq]
    exact s.metBy_cores l k _

end

end

/-! ### What each request does when it is performed -/

/-- The access of a packet to an address (R256, R364). -/
def addressWork (l : Nat) (k : Packet) : HM Unit :=
  let a := bits k.target 47 0
  let b := k.payload.take (k.payload.length - bits k.target 62 60)
  let ty := AddTy.ofCode (bits k.target 50 49)
  if k.typ == 0x06 then (List.range (b.length / ty.bytes)).forM (fun i => do
    let _ ← hubAdd (whoLink l k.part) k.part (a + i * ty.bytes) ty (leAt b (i * ty.bytes) ty.bytes))
  else hubWr (whoLink l k.part) k.part a b

/-- A packet to an address does its access once, where it belongs to no READY group. -/
theorem addressIn_once (l : Nat) (k : Packet) : ∃ f, addressIn l k = (fun s => s.onceOnly k f) ∧
    ∀ t v, t.gState k.group ≠ 3 → t.hub (addressWork l k) = (.ok (), v) → f t = some v := by
  refine ⟨_, rfl, fun t v hg hv => ?_⟩
  have hdirect : t.directFrom k = none := by simp [State.directFrom, hg]
  have hplain : ((none : Option (Option (Nat × Posted))) == some none) = false := rfl
  simp only [addressWork] at hv
  simp only [hdirect, hplain, Option.getD_none, Option.isSome_none, Bool.false_eq_true, if_false, hv]

theorem slotWriteIn_once (l : Nat) (k : Packet) : ∃ f, slotWriteIn l k = (fun s => s.onceOnly k f) ∧
    ∀ t v x, t.slotPlace (Packet.slot k) = some x → t.hub (hubWr (whoLink l x.part) x.part
      (x.inBase + 64 + Packet.slotRow k * x.pitch + Packet.slotOff k) k.payload) = (.ok (), v) → f t = some v :=
  ⟨_, rfl, fun t v x hx hv => by simp only [hx, State.tryHub, hv]⟩

theorem syncAddIn_once (k : Packet) : ∃ f, syncAddIn k = (fun s => s.onceOnly k f) ∧
    ∀ t, t.objHeld k.part (bits k.target 13 0) = true → f t = some (if leAt k.payload 0 4 ≠ 0 then
      t.syncAdd (bits k.target 13 0) (leAt k.payload 0 4) else t) :=
  ⟨_, rfl, fun t ht => by simp [ht]⟩

/-- A performed ATOMIC leaves its add's memory and keeps the old value for duplicates (R332). -/
theorem atomicIn_performed {s : State} {l : Nat} {k : Packet} (hlost : s.fabric.lost = []) (hok : ((s.src k.src).accept k.incarn k.sseq).1 = true)
    (hnew : ((s.src k.src).accept k.incarn k.sseq).2.2 = false) {old : Nat × Bool} {v : State} {p : Nat}
    (hacc : State.accessed p (s.performs l k) v) (hv : (s.performs l k).hub (atomicAdd l k (s.performs l k)) = (.ok (some old), v)) :
    ∃ t, atomicIn l k (s.freeFlits l k) = some t ∧ t.mem = v.mem ∧ (k.sseq, old) ∈ (t.src k.src).atomics := by
  have hlostV : v.fabric.lost = [] := by rw [hacc.fabric_eq, State.performs, s.metBy_lost, hlost]
  obtain ⟨u, hu⟩ : ∃ u, u = v.setSrc k.src
      { v.src k.src with atomics := ((k.sseq, old.1, old.2) :: (v.src k.src).atomics).take 64 } := ⟨_, rfl⟩
  have hsent := u.answerOld_sent k old
  have hmem : u.mem = v.mem := by rw [hu]; rfl
  have hlostU : u.fabric.lost = [] := by rw [hu]; exact hlostV
  have hanswer : (v.atomicAnswer k old).settled = u.answerOld k old := by
    rw [State.atomicAnswer, ← hu]
    exact State.settled_of_lost (hsent.lost_eq.trans hlostU)
  refine ⟨u.answerOld k old, ?_, hsent.mem_eq.trans hmem, ?_⟩
  · rw [State.performs] at hv
    simp only [atomicIn, acceptRequest_taken hok hnew, hv, hanswer, Bool.not_true, Bool.false_eq_true, if_false]
  · rw [State.src, hsent.srcs_eq, hu]
    refine (congrArg (fun x : Src => (k.sseq, old) ∈ x.atomics) (State.src_setSrc ..)).mpr ?_
    simp

/-! ### Reads (R319, R409) -/

/-- A read by the hub moves buffer entries alone. -/
structure State.readThrough (s t : State) : Prop where
  wf : t.mem.wf
  bytes : ∀ a, t.mem.byteOf a = s.mem.byteOf a
  lost : t.fabric.lost = s.fabric.lost

theorem hub_hubRdPiece_readThrough {s : State} (hwf : s.mem.wf) (w : Who) (p va len : Nat) : s.readThrough (s.hub (hubRdPiece w p va len)).2 := by
  have hsame : s.readThrough s := ⟨hwf, fun _ => rfl, rfl⟩
  by_cases hf : s.filling = true
  · simpa [hubRdPiece, hf] using hsame
  · have hf' : s.filling = false := by simpa using hf
    cases hx : (s.part p).xlate va false with
    | fault => simpa [hubRdPiece, hf', hx] using hsame
    | away b => simpa [hubRdPiece, hf', hx] using hsame
    | here pa h =>
      have hacc := (s.touch_accessed p va { w with va := some va } (fun m => m.settle pa len)).trans
        ((State.hubEvent_same _ 0x42 1 { w with va := some va }).accessed p)
      obtain ⟨t, ht⟩ : ∃ t, t = ((s.touchPage p va).memDo { w with va := some va } (fun m => m.settle pa len)).hubEvent 0x42 1
          { w with va := some va } :=
        ⟨_, rfl⟩
      rw [← ht] at hacc
      have hmem : t.mem = s.mem.settle pa len := by rw [ht, (State.hubEvent_same _ _ _ _).mem_eq, State.memDo_mem, State.touchPage_mem]
      have hrun : s.hub (hubRdPiece w p va len) = (.ok (t.mem.look pa len), t) := by simp [hubRdPiece, hf', hx, ht]
      rw [hrun]
      exact ⟨hmem ▸ Mem.settle_wf _ _ hwf, fun a => by rw [hmem, Mem.byteOf_settle hwf], by rw [hacc.fabric_eq]⟩

theorem hub_mapM_readThrough (w : Who) (p : Nat) (xs : List (Nat × Nat)) :
    ∀ {s : State}, s.mem.wf → s.readThrough (s.hub (xs.mapM (fun x => hubRdPiece w p x.1 x.2))).2 := by
  induction xs with
  | nil => exact fun {s} hwf => by simpa using (⟨hwf, fun _ => rfl, rfl⟩ : s.readThrough s)
  | cons x xs ih =>
    intro s hwf
    have hone := hub_hubRdPiece_readThrough hwf w p x.1 x.2
    rw [List.mapM_cons, State.hub_bind]
    generalize s.hub (hubRdPiece w p x.1 x.2) = r at hone
    obtain ⟨e | b, t⟩ := r
    · exact hone
    · have hrest := ih (s := t) hone.wf
      dsimp only
      rw [State.hub_bind]
      generalize t.hub (xs.mapM (fun x => hubRdPiece w p x.1 x.2)) = q at hrest
      obtain ⟨e | c, u⟩ := q <;>
        exact ⟨hrest.wf, fun a => (hrest.bytes a).trans (hone.bytes a), hrest.lost.trans hone.lost⟩

theorem hub_hubRd_readThrough {s : State} (hwf : s.mem.wf) (w : Who) (p va len : Nat) : s.readThrough (s.hub (hubRd w p va len)).2 := by
  have h := hub_mapM_readThrough w p (linePieces va len) hwf
  rw [hubRd, State.hub_bind]
  generalize s.hub ((linePieces va len).mapM (fun x => hubRdPiece w p x.1 x.2)) = q at h
  obtain ⟨e | c, u⟩ := q <;> exact h

/-- A READ, taken or waiting, changes no byte. -/
theorem readIn_bytes {s : State} (hwf : s.mem.wf) (hlost : s.fabric.lost = []) (l : Nat) (k : Packet) (a : Nat) :
    ((readIn l k (s.freeFlits l k)).getD s).byteAt a = s.byteAt a := by
  have hmem : (s.freeFlits l k).mem = s.mem := by rw [s.freeFlits_same l k]
  have hlost' : (s.freeFlits l k).fabric.lost = [] := by rw [s.freeFlits_same l k]; exact hlost
  have hbyte : ∀ t : State, s.readThrough t → t.byteAt a = s.byteAt a := fun t ht => by
    rw [State.byteAt_eq ht.wf, ht.bytes, State.byteAt_eq hwf]
  have hfree : s.readThrough (s.freeFlits l k) := ⟨hmem ▸ hwf, fun a => by rw [hmem], by rw [hlost', hlost]⟩
  simp only [readIn]
  split
  · exact hbyte _ hfree
  · next p va _ =>
    have hread := hub_hubRd_readThrough hfree.wf (whoLink l p) p va (Nat.min (leAt k.payload 0 8) 256)
    have hall : s.readThrough (((s.freeFlits l k).hub (hubRd (whoLink l p) p va (Nat.min (leAt k.payload 0 8) 256))).2) :=
      ⟨hread.wf, fun a => (hread.bytes a).trans (hfree.bytes a), hread.lost.trans hfree.lost⟩
    generalize (s.freeFlits l k).hub (hubRd (whoLink l p) p va (Nat.min (leAt k.payload 0 8) 256)) = r at hall ⊢
    split
    · rfl
    · next b t =>
      have hsent := t.plainPacket_sent 0x03 k.vc k.src k.part 0 k.sseq k.target (padded b)
      rw [Option.getD_some, State.settled_of_lost (hsent.lost_eq.trans (hall.lost.trans hlost))]
      exact hbyte _ ⟨hsent.mem_eq ▸ hall.wf, fun a => by rw [hsent.mem_eq]; exact hall.bytes a, hsent.lost_eq.trans hall.lost⟩
    · exact hbyte _ hall

/-- A READ of this device for itself, of eight bytes of a clean line, is answered with them (R326). -/
theorem readIn_self {s : State} {l : Nat} {k : Packet} {pa : Nat} {h : Bool} (hlost : s.fabric.lost = []) (hf : s.filling = false)
    (hkind : k.kind = none) (hsrc : k.src = s.devId) (hlen : leAt k.payload 0 8 = 8) (ha : bits k.target 47 0 % 8 = 0)
    (hx : (s.part k.part).xlate (bits k.target 47 0) false = .here pa h) (hpoison : s.mem.poison.contains (pa / 64) = false)
    (hwc : s.mem.wc.find? (fun e => e.line == pa / 64) = none) (hpa : pa % 8 = 0) :
    ∃ t, readIn l k (s.freeFlits l k) = some t ∧ t.out = s.out ++ [.toSelf
      ⟨0, k.vc, 0x03, k.src, s.devId, k.part, 31, 0, 0, s.incarn, k.sseq, k.target, cellsRead s.mem.bytes pa 8, false⟩] := by
  obtain ⟨u, hu⟩ : ∃ u, u = s.freeFlits l k := ⟨_, rfl⟩
  have hsame := s.freeFlits_same l k
  rw [← hu] at hsame ⊢
  have hmem : u.mem = s.mem := by rw [hsame]
  have hrd : ∀ r b i j, u.rd r b i j = s.rd r b i j := fun r b i j => by rw [hsame]; rfl
  have hfu : u.filling = false := by rw [← hf]; simp only [State.filling, State.fld, hrd]
  have hxu : (u.part k.part).xlate (bits k.target 47 0) false = .here pa h := by rw [hsame]; exact hx
  have hpieces : linePieces (bits k.target 47 0) 8 = [(bits k.target 47 0, 8)] := by
    generalize bits k.target 47 0 = a at ha
    have hfits : 8 ≤ 64 - a % 64 := by omega
    simp [linePieces, pieces, hfits]
  have hlines : linesOf pa 8 = [pa / 64] := by
    have hwithin := linesOf_within (line := pa / 64) (off := pa % 64) (n := 8) (by decide) (by omega)
    rwa [Nat.div_add_mod'] at hwithin
  have hsettle : u.mem.settle pa 8 = s.mem := by
    rw [hmem, Mem.settle, hlines, List.foldl_cons, List.foldl_nil, Mem.forceOut_of_none hwc]
  have hacc := (u.touch_accessed k.part (bits k.target 47 0) ⟨2, l, some k.part, some (bits k.target 47 0)⟩ (fun m => m.settle pa 8)).trans
    ((State.hubEvent_same _ 0x42 1 ⟨2, l, some k.part, some (bits k.target 47 0)⟩).accessed k.part)
  obtain ⟨t, ht⟩ : ∃ t, t = ((u.touchPage k.part (bits k.target 47 0)).memDo ⟨2, l, some k.part, some (bits k.target 47 0)⟩
    (fun m => m.settle pa 8)).hubEvent 0x42 1 ⟨2, l, some k.part, some (bits k.target 47 0)⟩ := ⟨_, rfl⟩
  rw [← ht] at hacc
  have htmem : t.mem = s.mem := by rw [ht, (State.hubEvent_same _ _ _ _).mem_eq, State.memDo_mem, State.touchPage_mem, hsettle]
  have hlook : s.mem.look pa 8 = (cellsRead s.mem.bytes pa 8, false) := by
    simp only [Mem.look, hlines, List.any_cons, List.any_nil, hpoison, Bool.or_self]
  have hread : u.hub (hubRd (whoLink l k.part) k.part (bits k.target 47 0) 8) = (.ok (cellsRead s.mem.bytes pa 8, false), t) := by
    have hpiece : u.hub (hubRdPiece (whoLink l k.part) k.part (bits k.target 47 0) 8) = (.ok (t.mem.look pa 8), t) := by
      simp [hubRdPiece, hfu, hxu, ht, whoLink]
    rw [hubRd, hpieces]
    simp [List.mapM_cons, hpiece, htmem, hlook, joinReads]
  have hdev : t.devId = s.devId ∧ t.incarn = s.incarn := by
    have haddr : Reg.lnkDevid.addr 0 0 0 < countersFrom := by decide
    have hid : ∀ hi lo, t.fld .lnkDevid 0 0 0 hi lo = s.fld .lnkDevid 0 0 0 hi lo := fun hi lo => by
      rw [hacc.fld_eq haddr, State.fld, hrd, State.fld]
    exact ⟨hid 11 0, hid 27 12⟩
  have hout : t.out = s.out := by
    rw [hacc.rest]
    show u.out = s.out
    rw [hsame]
  have hpadded : padded (cellsRead s.mem.bytes pa 8) = cellsRead s.mem.bytes pa 8 := by
    have hlength : (cellsRead s.mem.bytes pa 8).length = 8 := by simp [cellsRead_eq]
    simp [padded, hlength]
  have hlaunch : t.plainPacket 0x03 k.vc k.src k.part 0 k.sseq k.target (padded (cellsRead s.mem.bytes pa 8)) = t.emit (.toSelf
      ⟨0, k.vc, 0x03, k.src, s.devId, k.part, 31, 0, 0, s.incarn, k.sseq, k.target, cellsRead s.mem.bytes pa 8, false⟩) := by
    simp [State.plainPacket, State.launch, hdev, hsrc, hpadded]
  have hlostT : t.fabric.lost = [] := by
    rw [hacc.fabric_eq, hsame]
    exact hlost
  have hmin : Nat.min (leAt k.payload 0 8) 256 = 8 := by rw [hlen]; rfl
  refine ⟨t.emit (.toSelf ⟨0, k.vc, 0x03, k.src, s.devId, k.part, 31, 0, 0, s.incarn, k.sseq, k.target, cellsRead s.mem.bytes pa 8, false⟩), ?_,
    by rw [State.emit, hout]⟩
  have hnot : ((none : Option Nat) == some 6) = false := rfl
  simp only [readIn, hkind, hnot, Option.isSome_none, Bool.false_eq_true, if_false, hmin, hread, hlaunch]
  exact congrArg some (State.settled_of_lost hlostT)

/-! ### The instructions of the packets -/

section
variable {s : State} {l : Nat} {k : Packet} (hk : packetWf l k = true)
include hk

theorem exec_writePacket (ht : k.typ = 0x01) : exec (.writePacket l k) s = .next (packetIn l k (writeIn l k) s) :=
  if_pos (show (Instr.writePacket l k).wf = true by simp [Instr.wf, hk, ht])

theorem exec_reducePacket (ht : k.typ = 0x06) (hkind : k.kind = none) :
    exec (.reducePacket l k) s = .next (packetIn l k (addressIn l k) s) := by
  have hwf : (Instr.reducePacket l k).wf = true := by simp [Instr.wf, hk, ht]
  have hexec : exec (.reducePacket l k) s = answer (.reducePacket l k) (packetIn l k (if k.kind == some 0 then chunkDataIn k else
    addressIn l k) s) := rfl
  have hnot : ((none : Option Nat) == some 0) = false := rfl
  rw [hexec, answer, if_pos hwf, hkind, hnot, if_neg Bool.false_ne_true]

theorem exec_atomicPacket (ht : k.typ = 0x04) : exec (.atomicPacket l k) s = .next (packetIn l k (atomicIn l k) s) :=
  if_pos (show (Instr.atomicPacket l k).wf = true by simp [Instr.wf, hk, ht])

theorem exec_syncAddPacket (ht : k.typ = 0x07) : exec (.syncAddPacket l k) s = .next (packetIn l k (syncAddIn k) s) :=
  if_pos (show (Instr.syncAddPacket l k).wf = true by simp [Instr.wf, hk, ht])

theorem exec_slotClaim (ht : k.typ = 0x04) (hkind : k.kind = some 5) : exec (.slotClaim l k) s = .next (packetIn l k (atomicIn l k) s) :=
  if_pos (show (Instr.slotClaim l k).wf = true by simp [Instr.wf, hk, ht, hkind])

theorem exec_slotRow (ht : k.typ = 0x01 ∨ k.typ = 0x02) (hkind : k.kind = some 6) :
    exec (.slotRow l k) s = .next (packetIn l k (if k.typ == 0x02 then readIn l k else slotWriteIn l k) s) :=
  if_pos (show (Instr.slotRow l k).wf = true by simp [Instr.wf, hk, hkind, ht])

theorem exec_readPacket (ht : k.typ = 0x02) : exec (.readPacket l k) s = .next (packetIn l k (readIn l k) s) :=
  if_pos (show (Instr.readPacket l k).wf = true by simp [Instr.wf, hk, ht])

end

theorem Packet.fits {l : Nat} {k : Packet} (hk : packetWf l k = true) : k.part < 8 ∧ k.sseq < 2 ^ 32 := by
  simp only [packetWf, Packet.wf, Bool.and_eq_true, decide_eq_true_eq] at hk
  tauto

theorem writeIn_address {l : Nat} {k : Packet} (hkind : k.kind = none) : writeIn l k = addressIn l k := by
  funext s
  simp only [writeIn, hkind]

theorem atomicAdd_address {l : Nat} {k : Packet} (t : State) (hkind : k.kind = none)
    (hal : bits k.target 47 0 % (AddTy.ofCode (bits k.target 50 49)).bytes = 0) : atomicAdd l k t =
      (do return some (← hubAdd (whoLink l k.part) k.part (bits k.target 47 0) (AddTy.ofCode (bits k.target 50 49)) (leAt k.payload 0 8))) := by
  have hnot : ((none : Option Nat) == some 5) = false := rfl
  simp only [atomicAdd, hkind, hnot, hal, Option.isSome_none, Bool.false_eq_true, if_false, bne_self_eq_false]

theorem atomicAdd_slot {l : Nat} {k : Packet} {t : State} {e : SlotPlace} (hkind : k.kind = some 5)
    (he : t.slotPlace (Packet.slot k) = some e) : atomicAdd l k t =
      (do return some (← hubAdd (whoLink l e.part) e.part e.inBase .int64 1)) := by
  simp only [atomicAdd, hkind, beq_self_eq_true, if_true, he]

/-! ### What a request that is performed leaves -/

section
variable {s : State} {l : Nat} {k : Packet} (hdest : k.dest = s.devId) (hlost : s.fabric.lost = []) (hf : s.filling = false)
  (hok : ((s.src k.src).accept k.incarn k.sseq).1 = true) (hnew : ((s.src k.src).accept k.incarn k.sseq).2.2 = false)

include hf in
theorem State.performs_filling : (s.performs l k).filling = false := (s.metBy_filling ..).trans hf

theorem State.performs_xlate (p va : Nat) (w : Bool) : ((s.performs l k).part p).xlate va w = (s.part p).xlate va w :=
  congrArg (fun x : Part => x.xlate va w) (s.metBy_part l k _ p)

theorem State.performs_onePage {p a len : Nat} {w : Bool} (h : (s.part p).onePage a len w) : ((s.performs l k).part p).onePage a len w := by
  rwa [State.performs, s.metBy_part]

include hdest hlost hf hok hnew

/-- A WRITE at an address leaves its bytes (R319, R364). -/
theorem addressIn_written (hwf : s.mem.wf) (hg : s.gState k.group ≠ 3) (ht : k.typ = 0x01) {b : List Byte}
    (hb : b = k.payload.take (k.payload.length - bits k.target 62 60)) (hpage : (s.part k.part).onePage (bits k.target 47 0) b.length true) :
    ∃ t, packetIn l k (addressIn l k) s = t ∧ t.src k.src = ((s.src k.src).accept k.incarn k.sseq).2.1 ∧ t.cores = s.cores ∧
      ∀ j c, b[j]? = some c → ∃ pa, (s.part k.part).xlate (bits k.target 47 0 + j) true = .here pa false ∧ t.byteAt pa = [c] := by
  obtain ⟨f, honce, hrun⟩ := addressIn_once l k
  have hwf' : (s.performs l k).mem.wf := (s.metBy_mem l k _).symm ▸ hwf
  obtain ⟨v, hv, hacc, hvwf, hbytes⟩ := hub_hubWr_onePage (w := whoLink l k.part) (State.performs_filling hf) hwf' (State.performs_onePage hpage)
  have hwork : (s.performs l k).hub (addressWork l k) = (.ok (), v) := by
    have hnot : ((0x01 : Nat) == 0x06) = false := rfl
    simpa only [addressWork, ht, hnot, Bool.false_eq_true, if_false, ← hb] using hv
  have hgroup : (s.performs l k).gState k.group ≠ 3 := (s.metBy_gState ..).symm ▸ hg
  rw [honce]
  obtain ⟨t, hexec, hwindow, hcores, hmem⟩ := packetIn_accessed hdest hlost hok hnew hacc (hrun _ _ hgroup hwork)
  refine ⟨t, hexec, hwindow, hcores, fun j c hc => ?_⟩
  obtain ⟨pa, hpa, hbyte⟩ := hbytes j c hc
  refine ⟨pa, (State.performs_xlate ..).symm.trans hpa, ?_⟩
  rw [State.byteAt_eq (hmem ▸ hvwf), hmem, hbyte]

/-- A REDUCE of one element is one memory-side add (R254, R319). -/
theorem addressIn_reduced (hg : s.gState k.group ≠ 3) (ht : k.typ = 0x06) {b : List Byte} {ty : AddTy}
    (hty : ty = AddTy.ofCode (bits k.target 50 49)) (hb : b = k.payload.take (k.payload.length - bits k.target 62 60))
    (hlen : b.length = ty.bytes) {pa : Nat} {h : Bool} (hx : (s.part k.part).xlate (bits k.target 47 0) true = .here pa h) :
    ∃ t, packetIn l k (addressIn l k) s = t ∧ t.src k.src = ((s.src k.src).accept k.incarn k.sseq).2.1 ∧
      t.mem = (s.mem.addAt ty pa (leNat b) false).1 := by
  obtain ⟨f, honce, hrun⟩ := addressIn_once l k
  have hx' := (State.performs_xlate (l := l) (k := k) ..).trans hx
  obtain ⟨v, hv, hacc, hvmem⟩ := hub_hubAdd_here (w := whoLink l k.part) (State.performs_filling hf) hx' ty (leNat b)
  have hpos : 0 < ty.bytes := by cases ty <;> decide
  have hall : leAt b 0 ty.bytes = leNat b := by rw [leAt, List.drop_zero, ← hlen, List.take_length]
  have hwork : (s.performs l k).hub (addressWork l k) = (.ok (), v) := by
    simp [addressWork, ht, ← hb, ← hty, hlen, Nat.div_self hpos, hall, hv]
  have hgroup : (s.performs l k).gState k.group ≠ 3 := (s.metBy_gState ..).symm ▸ hg
  rw [honce]
  obtain ⟨t, hexec, hwindow, -, hmem⟩ := packetIn_accessed hdest hlost hok hnew hacc (hrun _ _ hgroup hwork)
  refine ⟨t, hexec, hwindow, ?_⟩
  rw [hmem, hvmem, State.performs, s.metBy_mem]

/-- The add that an ATOMIC or a slot claim makes, at an address that is here (R254, R377). -/
theorem atomicIn_added {p a pa amount : Nat} {ty : AddTy} {h : Bool} (hx : (s.part p).xlate a true = .here pa h)
    (hadd : atomicAdd l k (s.performs l k) = (do return some (← hubAdd (whoLink l p) p a ty amount))) :
    ∃ t, packetIn l k (atomicIn l k) s = t ∧ t.mem = (s.mem.addAt ty pa amount false).1 ∧
      (k.sseq, (s.mem.addAt ty pa amount false).2) ∈ (t.src k.src).atomics := by
  have hx' := (State.performs_xlate (l := l) (k := k) ..).trans hx
  obtain ⟨v, hv, hacc, hvmem⟩ := hub_hubAdd_here (w := whoLink l p) (State.performs_filling hf) hx' ty amount
  have hsame : (s.performs l k).mem = s.mem := s.metBy_mem ..
  rw [hsame] at hv hvmem
  have hrun : (s.performs l k).hub (atomicAdd l k (s.performs l k)) = (.ok (some (s.mem.addAt ty pa amount false).2), v) := by
    rw [hadd]
    simp [hv]
  obtain ⟨t, ht, hmem, hold⟩ := atomicIn_performed hlost hok hnew hacc hrun
  refine ⟨t, ?_, hmem.trans hvmem, hold⟩
  rw [packetIn_here hdest, ht, Option.getD_some]

/-- A slot row lands in the slot's input buffer (R374). -/
theorem slotWriteIn_written (hwf : s.mem.wf) {e : SlotPlace} (he : s.slotPlace (Packet.slot k) = some e)
    (hpage : (s.part e.part).onePage (e.inBase + 64 + Packet.slotRow k * e.pitch + Packet.slotOff k) k.payload.length true) :
    ∃ t, packetIn l k (slotWriteIn l k) s = t ∧ t.src k.src = ((s.src k.src).accept k.incarn k.sseq).2.1 ∧ t.cores = s.cores ∧
      ∀ j c, k.payload[j]? = some c → ∃ pa, (s.part e.part).xlate (e.inBase + 64 + Packet.slotRow k * e.pitch + Packet.slotOff k + j) true =
        .here pa false ∧ t.byteAt pa = [c] := by
  obtain ⟨f, honce, hrun⟩ := slotWriteIn_once l k
  have hwf' : (s.performs l k).mem.wf := (s.metBy_mem l k _).symm ▸ hwf
  obtain ⟨v, hv, hacc, hvwf, hbytes⟩ := hub_hubWr_onePage (w := whoLink l e.part) (State.performs_filling hf) hwf' (State.performs_onePage hpage)
  rw [honce]
  obtain ⟨t, hexec, hwindow, hcores, hmem⟩ := packetIn_accessed hdest hlost hok hnew hacc
    (hrun _ _ _ ((s.metBy_slotPlace l k _ _).trans he) hv)
  refine ⟨t, hexec, hwindow, hcores, fun j c hc => ?_⟩
  obtain ⟨pa, hpa, hbyte⟩ := hbytes j c hc
  refine ⟨pa, (State.performs_xlate ..).symm.trans hpa, ?_⟩
  rw [State.byteAt_eq (hmem ▸ hvwf), hmem, hbyte]

omit hf in
/-- A SYNC_ADD adds to an object that its partition holds, saturating (R231). -/
theorem syncAddIn_counted (hp : k.part < 8) (hheld : s.objHeld k.part (bits k.target 13 0) = true) :
    ∃ t, packetIn l k (syncAddIn k) s = t ∧ t.src k.src = ((s.src k.src).accept k.incarn k.sseq).2.1 ∧
      (t.rd .helmSyncCount 0 (bits k.target 13 0)).toNat =
        min ((s.rd .helmSyncCount 0 (bits k.target 13 0)).toNat + leAt k.payload 0 4) 0xFFFFFFFF := by
  obtain ⟨f, honce, hrun⟩ := syncAddIn_once k
  have hrd : ∀ r b i j, (s.performs l k).rd r b i j = s.rd r b i j := s.metBy_rd l k _
  have hheld' : (s.performs l k).objHeld k.part (bits k.target 13 0) = true := by
    simpa only [State.objHeld, State.fld, hrd] using hheld
  have hdo := hrun _ hheld'
  simp only [State.objHeld, Bool.and_eq_true, decide_eq_true_eq, beq_iff_eq] at hheld'
  obtain ⟨⟨ho, -⟩, hown⟩ := hheld'
  generalize bits k.target 13 0 = o at ho hown hdo ⊢
  obtain ⟨v, hv⟩ : ∃ v, v = if leAt k.payload 0 4 ≠ 0 then (s.performs l k).syncAdd o (leAt k.payload 0 4) else s.performs l k := ⟨_, rfl⟩
  have hfab : v.fabric = (s.performs l k).fabric := by
    rw [hv]
    split
    · exact (State.syncAdd_counted hp ho hown _).booked.fabric
    · rfl
  have hcount : (v.rd .helmSyncCount 0 o).toNat = min ((s.rd .helmSyncCount 0 o).toNat + leAt k.payload 0 4) 0xFFFFFFFF := by
    rw [hv, ← hrd]
    split
    · exact State.syncAdd_count _ ho _
    · next h =>
      have hmax := ((s.performs l k).rd .helmSyncCount 0 o).isLt
      rw [not_not.1 h]
      omega
  have hsent := v.acknowledge_sent k
  have hlow : Reg.addr .helmSyncCount 0 o 0 < Blk.link.base ∧ Reg.addr .helmSyncCount 0 o 0 ≠ Reg.lnkGcnt.addr 0 1 0 := by
    simp only [Reg.addr, Reg.spec, Blk.base]
    omega
  rw [← hv] at hdo
  rw [honce]
  refine ⟨_, packetIn_onceOnly hdest hok hnew hdo (hfab ▸ (s.metBy_lost l k _).trans hlost), ?_, ?_⟩
  · rw [State.src, hsent.srcs_eq, hfab]
    exact s.metBy_src l k _
  · rw [hsent.rd _ _ _ _ hlow.1 hlow.2, hcount]

end

/-! ### What a request that is refused leaves (R330) -/

section
variable {s : State} {l : Nat} {k : Packet} (hdest : k.dest = s.devId) (hlost : s.fabric.lost = []) (hq : k.sseq < 2 ^ 32)
  (hno : ((s.src k.src).accept k.incarn k.sseq).1 = false)
include hdest hlost hq hno

/-- A repeated access changes no memory, and is counted unless it is of an older incarnation. -/
theorem addressIn_refused : ∃ t, packetIn l k (addressIn l k) s = t ∧ t.mem = s.mem ∧
    ((s.src k.src).older k.incarn = false → t.fld .lnkGcnt 0 0 0 31 0 = min (s.fld .lnkGcnt 0 0 0 31 0 + 1) 0xFFFFFFFF) := by
  obtain ⟨f, honce, -⟩ := addressIn_once l k
  rw [honce]
  obtain ⟨t, hexec, hmem, hrd⟩ := packetIn_refused hdest hlost hq hno f
  refine ⟨t, hexec, hmem, fun hnew => ?_⟩
  have hcount := hrd .lnkGcnt 0 0 0 (by decide) (by decide)
  rw [hnew, if_neg Bool.false_ne_true] at hcount
  exact (congrArg (getBits · 31 0) hcount).trans (State.fld_countFld_same s .lnkGcnt 0 0 0 (by decide) 1)

/-- A repeated SYNC_ADD changes no counter of an object. -/
theorem syncAddIn_refused : ∃ t, packetIn l k (syncAddIn k) s = t ∧ ∀ o, o < 16384 → t.rd .helmSyncCount 0 o = s.rd .helmSyncCount 0 o := by
  obtain ⟨f, honce, -⟩ := syncAddIn_once k
  rw [honce]
  obtain ⟨t, hexec, -, hrd⟩ := packetIn_refused hdest hlost hq hno f
  refine ⟨t, hexec, fun o ho => ?_⟩
  have hlow : Reg.addr .helmSyncCount 0 o 0 < Blk.link.base ∧ Reg.addr .helmSyncCount 0 o 0 ≠ Reg.lnkGcnt.addr 0 1 0 ∧
      Reg.addr .helmSyncCount 0 o 0 ≠ Reg.lnkGcnt.addr 0 0 0 := by
    simp only [Reg.addr, Reg.spec, Blk.base]
    omega
  rw [hrd _ _ _ _ hlow.1 hlow.2.1]
  split
  · rfl
  · exact State.rd_wr_other _ _ _ _ _ _ _ _ _ _ hlow.2.2

end

/-- Settles O42: a request that the window takes is one access of the hub between the window's mark and the acknowledgement, which touch
neither memory nor counters; one that it refuses is only counted; and a read moves buffer entries alone. -/
theorem requestPackets : Obligations.RequestPackets := by
  intro l k s hk hdest hg hwf hlost hf r x a ty b once
  obtain ⟨hp, hq⟩ := Packet.fits hk
  refine ⟨fun hok hnew => ⟨fun ht hkind hpage => ?_, fun pa h ht hkind hlen _ hx => ?_, fun pa h ht hkind hal hx => ?_, fun ht hheld => ?_,
    fun e pa h he ht hkind _ hx => ?_, fun e he ht hkind hpage => ?_⟩, fun hno => ⟨fun ht hkind => ?_, fun ht hkind => ?_, fun ht => ?_⟩,
    fun ht => ⟨?_, fun pa h hkind hsrc hlen ha hx hpoison hwc hpa => ?_⟩⟩
  · obtain ⟨t, hexec, hdone⟩ := addressIn_written hdest hlost hf hok hnew hwf hg ht rfl hpage
    exact ⟨t, by rw [exec_writePacket hk ht, writeIn_address hkind, hexec], hdone⟩
  · obtain ⟨t, hexec, hdone⟩ := addressIn_reduced hdest hlost hf hok hnew hg ht rfl rfl hlen hx
    exact ⟨t, by rw [exec_reducePacket hk ht hkind, hexec], hdone⟩
  · obtain ⟨t, hexec, hdone⟩ := atomicIn_added (l := l) hdest hlost hf hok hnew hx (atomicAdd_address _ hkind hal)
    exact ⟨t, by rw [exec_atomicPacket hk ht, hexec], hdone⟩
  · obtain ⟨t, hexec, hdone⟩ := syncAddIn_counted (l := l) hdest hlost hok hnew hp hheld
    exact ⟨t, by rw [exec_syncAddPacket hk ht, hexec], hdone⟩
  · obtain ⟨t, hexec, hdone⟩ := atomicIn_added (l := l) hdest hlost hf hok hnew hx
      (atomicAdd_slot hkind ((s.metBy_slotPlace l k _ _).trans he))
    exact ⟨t, by rw [exec_slotClaim hk ht hkind, hexec], hdone⟩
  · obtain ⟨t, hexec, hdone⟩ := slotWriteIn_written hdest hlost hf hok hnew hwf he hpage
    have hnot : ((0x01 : Nat) == 0x02) = false := rfl
    exact ⟨t, by rw [exec_slotRow hk (.inl ht) hkind, ht, hnot, if_neg Bool.false_ne_true, hexec], hdone⟩
  · obtain ⟨t, hexec, hdone⟩ := addressIn_refused (l := l) hdest hlost hq hno
    exact ⟨t, by rw [exec_writePacket hk ht, writeIn_address hkind, hexec], hdone⟩
  · obtain ⟨t, hexec, hmem, -⟩ := addressIn_refused (l := l) hdest hlost hq hno
    exact ⟨t, by rw [exec_reducePacket hk ht hkind, hexec], hmem⟩
  · obtain ⟨t, hexec, hdone⟩ := syncAddIn_refused (l := l) hdest hlost hq hno
    exact ⟨t, by rw [exec_syncAddPacket hk ht, hexec], hdone⟩
  · refine ⟨packetIn l k (readIn l k) s, fun _ => exec_readPacket hk ht, fun hkind => ?_, fun pa => ?_⟩
    · rw [exec_slotRow hk (.inr ht) hkind, ht, beq_self_eq_true, if_pos rfl]
    · rw [packetIn_here hdest]
      exact readIn_bytes hwf hlost l k pa
  · obtain ⟨t, hread, hout⟩ := readIn_self (l := l) hlost hf hkind hsrc hlen ha hx hpoison hwc hpa
    exact ⟨t, by rw [exec_readPacket hk ht, packetIn_here hdest, hread, Option.getD_some], hout⟩

end Sys2Proof.Machine
end

/-! ## O53: power-on, the steps of a start, and the resets of the whole device (R265, R420, R440, R443 to R448, R452, R472, R473) -/

section
namespace Sys2Proof.Machine
open Sys2Proof

/-! ### Registers that a step leaves -/

/-- Every register with an address in K reads as before. -/
structure State.keepsRegs (K : Nat → Prop) (s t : State) : Prop where
  rd : ∀ r b i j, K (Reg.addr r b i j) → t.rd r b i j = s.rd r b i j

section
variable {K : Nat → Prop}

theorem State.keepsRegs.of_regs {s t : State} (h : t.regs = s.regs) : State.keepsRegs K s t := ⟨fun r b i j _ => by rw [State.rd, h, State.rd]⟩

theorem State.keepsRegs.trans {s t u : State} (h : State.keepsRegs K s t) (k : State.keepsRegs K t u) : State.keepsRegs K s u :=
  ⟨fun r b i j ha => (k.rd r b i j ha).trans (h.rd r b i j ha)⟩

theorem State.keepsRegs.mono {L : Nat → Prop} {s t : State} (h : State.keepsRegs K s t) (hsub : ∀ a, L a → K a) : State.keepsRegs L s t :=
  ⟨fun r b i j ha => h.rd r b i j (hsub _ ha)⟩

theorem State.keepsRegs.fld_eq {s t : State} (h : State.keepsRegs K s t) {r : Reg} {b i j : Nat} (ha : K (Reg.addr r b i j)) (hi lo : Nat) :
    t.fld r b i j hi lo = s.fld r b i j hi lo := congrArg (getBits · hi lo) (h.rd r b i j ha)

theorem State.wr_keepsRegs (s : State) {r : Reg} {b i j : Nat} (h : ¬ K (Reg.addr r b i j)) (v : Word) : State.keepsRegs K s (s.wr r b i j v) :=
  ⟨fun _ _ _ _ ha => State.rd_wr_other _ _ _ _ _ _ _ _ _ _ (fun e => h (e ▸ ha))⟩

theorem State.setFld_keepsRegs (s : State) {r : Reg} {b i j : Nat} (h : ¬ K (Reg.addr r b i j)) (hi lo v : Nat) :
    State.keepsRegs K s (s.setFld r b i j hi lo v) := s.wr_keepsRegs h _

theorem foldl_keepsRegs {α : Type} (l : List α) {f : State → α → State} (h : ∀ (s : State) x, x ∈ l → State.keepsRegs K s (f s x))
    (s : State) : State.keepsRegs K s (l.foldl f s) := by
  induction l generalizing s with
  | nil => exact .of_regs rfl
  | cons x l ih => exact (h s x (List.mem_cons_self ..)).trans (ih (fun s y hy => h s y (List.mem_cons_of_mem _ hy)) _)

end

theorem State.setPhase_phase (s : State) {k : Nat} (hk : k < 16) : (s.setPhase k).phase = k :=
  (s.fld_setFld_same .lcStatus 0 0 0 (by decide) k).trans (Nat.mod_eq_of_lt hk)

/-- Another field of LC_STATUS than PHASE, after the phase is set. -/
theorem State.setPhase_fld (s : State) (k : Nat) {hi lo : Nat} (h : hi < 28) :
    (s.setPhase k).fld .lcStatus 0 0 0 hi lo = s.fld .lcStatus 0 0 0 hi lo :=
  State.fld_setFld_other _ _ _ _ _ (.inr h) _

/-! ### Power-on and the falls of the supplies (R448, R471 to R473) -/

theorem State.strapRegs_straps (s : State) (straps : Nat) : (s.strapRegs straps).straps = straps % 4 ∧
    (s.strapRegs straps).fld .lcStatus 0 0 0 11 11 = if straps % 4 = 3 then 1 else 0 := by
  constructor
  · exact (State.fld_setFld_other _ _ _ _ _ (.inl (by decide)) _).trans (s.fld_setFld_same .lcStatus 0 0 0 (by decide) straps)
  · refine (State.fld_setFld_same _ .lcStatus 0 0 0 (by decide) _).trans ?_
    by_cases h : straps % 4 = 3 <;> simp [h, b2n]

/-- The supplies are good and the resets of the board are released (R472). -/
def State.supplied (s : State) : State :=
  { s with pins := { s.pins with auxPwrgd := true, hubPwrgd := true, mainPwrgd := true, sysRstN := true } }

theorem powerOn_started (straps : Nat) {s : State} (h : s.phase = 0) : (powerOn straps s).phase = 1 ∧ (powerOn straps s).straps = straps % 4 ∧
    (powerOn straps s).fld .lcStatus 0 0 0 11 11 = (if straps % 4 = 3 then 1 else 0) ∧ (powerOn straps s).bmcOn = true ∧
    (powerOn straps s).flash = s.flash ∧ (powerOn straps s).fuses = s.fuses := by
  obtain ⟨u, hu⟩ : ∃ u, u = s.supplied.fuseRegs := ⟨_, rfl⟩
  have hrun : powerOn straps s = (s.supplied.fuseRegs.strapRegs straps).setPhase 1 := by
    have hphase : (s.phase != 0) = false := by simp [h]
    simp only [powerOn, hphase, Bool.false_eq_true, if_false, State.supplied]
  have hpins : u.pins.auxPwrgd = true ∧ u.pins.hubPwrgd = true ∧ u.flash = s.flash ∧ u.fuses = s.fuses := by
    rw [hu]
    exact ⟨rfl, rfl, rfl, rfl⟩
  obtain ⟨haux, hhub, hflash, hfuses⟩ := hpins
  rw [hrun, ← hu]
  have hone := (u.strapRegs straps).setPhase_phase (k := 1) (by decide)
  refine ⟨hone, (State.setPhase_fld _ _ (by decide)).trans (u.strapRegs_straps straps).1,
    (State.setPhase_fld _ _ (by decide)).trans (u.strapRegs_straps straps).2, ?_, hflash, hfuses⟩
  rw [State.bmcOn, hone]
  exact congrArg₂ (fun a b => a && b && ((1 : Nat) != 0)) haux hhub

theorem State.powerUp_phase (s : State) : s.powerUp.phase = 0 := by
  have hlow : Reg.lcStatus.addr 0 0 0 ≠ Reg.lcUidLo.addr 0 0 0 ∧ Reg.lcStatus.addr 0 0 0 ≠ Reg.lcUidHi.addr 0 0 0 := by
    simp only [Reg.addr, Reg.spec]
    decide
  have hfuse : ∀ t : State, t.fuseRegs.phase = t.phase := fun t => by
    rw [State.fuseRegs, State.wr64, State.phase, State.fld, State.rd_wr_other _ _ _ _ _ _ _ _ _ _ hlow.2,
      State.rd_wr_other _ _ _ _ _ _ _ _ _ _ hlow.1]
    exact State.fld_setFld_other _ _ _ _ _ (.inl (by decide)) _
  exact (hfuse _).trans (by decide : getBits (Reg.lcStatus.resetAt 0) 31 28 = 0)

theorem hubPwrgdFall_off (s : State) : (hubPwrgdFall s).phase = 0 ∧ (hubPwrgdFall s).bmcOn = false ∧ (hubPwrgdFall s).flash = s.flash ∧
    (hubPwrgdFall s).fuses = s.fuses ∧ (hubPwrgdFall s).rel.ring = [] ∧ (hubPwrgdFall s).mem = Mem.init ∧ (hubPwrgdFall s).cores = [] ∧
    (hubPwrgdFall s).parts = [] := ⟨s.powerUp_phase, rfl, rfl, rfl, rfl, rfl, rfl, rfl⟩

/-- A record of no partition changes no partition. -/
theorem State.log_parts (s : State) {r : LogRec} (h : ¬ r.part < 8) : (s.log r).parts = s.parts := by
  have hoffer : ∀ (t : State) (q : LogRec), (t.offerBmc q).parts = t.parts := fun t q => by
    simp only [State.offerBmc]
    split <;> rfl
  simp only [State.log, h, if_false]
  split
  · split
    · rfl
    · exact hoffer _ _
  · exact hoffer _ _

theorem State.logFatalRec_parts (s : State) {r : LogRec} (h : ¬ r.part < 8) : (s.logFatalRec r).parts = s.parts := by
  have hlog := s.log_parts (r := { r with flags := r.flags ||| 2 }) h
  rw [State.logFatalRec]
  generalize s.log _ = t at hlog ⊢
  split
  · exact hlog
  · exact hlog

theorem State.haltClocks_parts (s : State) : s.haltClocks.clockHalt = true ∧ s.haltClocks.mem = s.mem ∧ s.haltClocks.parts = s.parts := by
  cases h : s.clockHalt with
  | true => simp [State.haltClocks, h]
  | false =>
    have hhalted := State.haltClocks_halted h
    refine ⟨hhalted.clockHalt, hhalted.mem, ?_⟩
    have hoff := foldl_keepsStacks (List.range 32) (fun s l => s.linkOff l) (fun t l hl => t.linkOff_keepsStacks (List.mem_range.1 hl)) s
    rw [State.haltClocks, h, if_neg Bool.false_ne_true, State.logFatalRec_parts _ (by decide)]
    generalize (List.range 32).foldl (fun s l => s.linkOff l) s = u at hoff ⊢
    exact (congrArg State.parts hoff.same :)

theorem mainPwrgdFall_halted (s : State) : (mainPwrgdFall s).clockHalt = true ∧ (mainPwrgdFall s).pins.mainPwrgd = false ∧
    (mainPwrgdFall s).fld .pwrStatus 0 0 0 0 0 = 1 ∧ (mainPwrgdFall s).mem = s.mem ∧ (mainPwrgdFall s).parts = s.parts := by
  obtain ⟨hclk, hmem, hparts⟩ := s.haltClocks_parts
  rw [mainPwrgdFall]
  generalize s.haltClocks = t at hclk hmem hparts ⊢
  exact ⟨hclk, rfl, State.fld_setFld_same _ .pwrStatus 0 0 0 (by decide) 1, hmem, hparts⟩

/-! ### The choice of an image (R441 to R445) -/

/-- An image that passes the checks names partitions that the device has. -/
theorem State.imageFail_parts {s : State} {m : Image} (h : s.imageFail m = 0) : ∀ y ∈ m.sections.plan, y.part < 8 := by
  have hplan : s.planOk (s.flash.retiredCount m.sections) m.sections = true := by
    by_contra hno
    rw [State.imageFail] at h
    simp only [hno, Bool.not_false, if_true] at h
    split at h <;> [skip; split at h <;> [skip; split at h <;> [skip; split at h]]] <;> exact absurd h (by decide)
  intro y hy
  simp only [State.planOk, Bool.and_eq_true, List.all_eq_true, decide_eq_true_eq] at hplan
  exact (hplan.2 y hy).1

theorem State.pickActive_ok {s : State} {a k : Nat} (h : s.pickActive a = .ok k) : s.slotFail k = 0 := by
  simp only [State.pickActive] at h
  split at h
  · next ha =>
    cases h
    exact beq_iff_eq.1 ha
  · split at h
    · next hb =>
      cases h
      exact beq_iff_eq.1 hb
    · cases h

theorem State.pickNewest_ok {s : State} {k : Nat} (h : s.pickNewest = .ok k) : s.slotFail k = 0 := by
  simp only [State.pickNewest] at h
  split at h
  · next ha hb =>
    have hone : ∀ (c : Prop) [Decidable c], (if c then 1 else 0) = k → k = 0 ∨ k = 1 := fun c _ h => by split at h <;> omega
    rcases hone _ (Except.ok.inj h) with rfl | rfl
    · exact beq_iff_eq.1 ha
    · exact beq_iff_eq.1 hb
  · next ha _ =>
    cases h
    exact beq_iff_eq.1 ha
  · next _ hb =>
    cases h
    exact beq_iff_eq.1 hb
  · cases h

/-- The choice changes LC_STATUS and the directory alone, and what it chooses passes every check. -/
theorem State.chooseSlot_choice (s : State) : (∃ regs dirs, s.chooseSlot.2 = { s with regs := regs, flash := { s.flash with dirs := dirs } }) ∧
    ∀ k, s.chooseSlot.1 = .ok k → s.slotFail k = 0 := by
  have hdir : ∀ a pend, ∃ dirs, s.flash.writeDir a pend = { s.flash with dirs := dirs } := fun a pend => by
    simp only [Flash.writeDir]
    split <;> exact ⟨_, rfl⟩
  simp only [State.chooseSlot]
  split
  · exact ⟨⟨_, _, rfl⟩, fun k h => State.pickNewest_ok h⟩
  · exact ⟨⟨_, _, rfl⟩, fun k h => State.pickActive_ok h⟩
  · next a k _ =>
    split
    · exact ⟨⟨_, _, rfl⟩, fun k h => State.pickActive_ok h⟩
    · split
      · next hk =>
        refine ⟨⟨_, _, rfl⟩, fun j h => ?_⟩
        cases h
        exact beq_iff_eq.1 hk
      · obtain ⟨dirs, hdirs⟩ := hdir a none
        exact ⟨⟨_, dirs, by rw [hdirs]; rfl⟩, fun k h => State.pickActive_ok h⟩

/-- The image of the chosen slot names partitions that the device has. -/
theorem State.chooseSlot_parts {s : State} {k : Nat} {m : Image} (hpick : s.chooseSlot.1 = .ok k)
    (hm : s.chooseSlot.2.flash.slot k = some m) : ∀ y ∈ m.sections.plan, y.part < 8 := by
  obtain ⟨⟨regs, dirs, hstate⟩, hok⟩ := s.chooseSlot_choice
  have hslot : s.flash.slot k = some m := by
    rw [hstate] at hm
    exact hm
  have hfail := hok k hpick
  rw [State.slotFail, hslot] at hfail
  exact State.imageFail_parts hfail

/-- A start that fails stops in PHASE 11 with its code (R447). -/
theorem State.failStart_fails (s : State) (code : Nat) : (s.failStart code).phase = 11 ∧
    (s.failStart code).fld .lcStatus 0 0 0 23 16 = code % 256 ∧ s.byEvents (s.failStart code) := by
  have hsend : ∀ (l : List Nat) (t : State), t.byEvents (l.foldl (fun s k => s.sendMsix (.pf k) 1) t) ∧
      (l.foldl (fun s k => s.sendMsix (.pf k) 1) t).regs = t.regs := by
    intro l
    induction l with
    | nil => exact fun t => ⟨.refl t, rfl⟩
    | cons k l ih => exact fun t => ⟨(t.sendMsix_byEvents ..).trans (ih _).1, (ih _).2.trans (t.sendMsix_regs ..)⟩
  obtain ⟨u, hu⟩ : ∃ u, u = (s.setFld .lcStatus 0 0 0 23 16 code).setPhase 11 := ⟨_, rfl⟩
  have hby : s.byEvents u := by
    rw [hu]
    exact (s.setFld_byEvents ..).trans (State.setFld_byEvents ..)
  have hphase : u.phase = 11 := hu ▸ State.setPhase_phase _ (by decide)
  have hcode : u.fld .lcStatus 0 0 0 23 16 = code % 256 := by
    rw [hu]
    exact (State.setPhase_fld _ _ (by decide)).trans (s.fld_setFld_same .lcStatus 0 0 0 (by decide) code)
  obtain ⟨hevents, hregs⟩ := hsend u.ports u
  have hrun : s.failStart code = u.ports.foldl (fun s k => s.sendMsix (.pf k) 1) u := by rw [hu]; rfl
  rw [hrun]
  refine ⟨?_, ?_, hby.trans hevents⟩
  · rw [State.phase, State.fld, State.rd, hregs]
    exact hphase
  · rw [State.fld, State.rd, hregs]
    exact hcode

/-! ### What the steps of a start leave (R446) -/

/-- The grade, the image, the nonce and the flash are as they were. -/
structure State.boots (s t : State) : Prop where
  grade : t.grade = s.grade
  start : t.start = s.start
  nonce : t.nonce = s.nonce
  flash : t.flash = s.flash

theorem State.boots.refl (s : State) : s.boots s := ⟨rfl, rfl, rfl, rfl⟩

theorem State.boots.trans {s t u : State} (h : s.boots t) (k : t.boots u) : s.boots u :=
  ⟨k.grade.trans h.grade, k.start.trans h.start, k.nonce.trans h.nonce, k.flash.trans h.flash⟩

theorem State.byEvents.boots {s t : State} (h : s.byEvents t) : s.boots t :=
  ⟨by rw [h], by rw [h], by rw [h], by rw [h]⟩

theorem State.byClocks.boots {s t : State} (h : s.byClocks t) : s.boots t :=
  ⟨by rw [h], by rw [h], by rw [h], by rw [h]⟩

theorem State.byRegs.events {s t : State} (h : s.byRegs t) : s.byEvents t := by
  rw [State.byRegs] at h
  rw [State.byEvents, h]

theorem foldl_byEvents {α : Type} (l : List α) {f : State → α → State} (h : ∀ (s : State) x, s.byEvents (f s x)) (s : State) :
    s.byEvents (l.foldl f s) := by
  induction l generalizing s with
  | nil => exact .refl s
  | cons x l ih => exact (h s x).trans (ih _)

theorem State.loadBoard_byEvents (s : State) (x : Sections) : s.byEvents (s.loadBoard x) :=
  (s.setFld_byEvents ..).trans (foldl_byEvents _ (fun t _ => t.setFld_byEvents ..) _)

/-- HELM_PART of a partition of the plan, Resetting. -/
def planWord (y : PlanPart) : Word := w32 (3 * 2 ^ 30 + y.port % 4 * 2 ^ 28 + b2n y.mgmt * 2 ^ 27 + b2n y.deadlock * 2 ^ 26)

theorem planWord_state (y : PlanPart) : getBits (planWord y) 31 30 = 3 := by
  have hbit : ∀ b, b2n b ≤ 1 := fun b => by cases b <;> decide
  have hmgmt := hbit y.mgmt
  have hdead := hbit y.deadlock
  rw [planWord, getBits, bits, w32, BitVec.toNat_ofNat, Nat.shiftRight_eq_div_pow]
  omega

/-- The step of R446 that makes one partition of the plan Resetting. -/
def State.planned (s : State) (y : PlanPart) : State := (s.wr .helmPart 0 y.part 0 (planWord y)).onPart y.part (fun x => { x with plan := some y })

theorem State.onPart_rd (s : State) (p : Nat) (f : Part → Part) (r : Reg) (b i j : Nat) : (s.onPart p f).rd r b i j = s.rd r b i j := rfl

theorem State.planned_resetting (s : State) (y : PlanPart) : (s.planned y).partState y.part = 3 := by
  rw [State.partState, State.fld, State.planned, State.onPart_rd, State.rd_wr_same, planWord_state]

theorem State.planned_other (s : State) {y : PlanPart} {p : Nat} (h : y.part ≠ p) : (s.planned y).partState p = s.partState p := by
  have haddr : Reg.helmPart.addr 0 p 0 ≠ Reg.helmPart.addr 0 y.part 0 := by
    simp only [Reg.addr, Reg.spec]
    omega
  rw [State.partState, State.fld, State.planned, State.onPart_rd, State.rd_wr_other _ _ _ _ _ _ _ _ _ _ haddr, State.partState, State.fld]

theorem State.planned_byEvents (s : State) (y : PlanPart) : s.byEvents (s.planned y) := (s.wr_byEvents ..).trans (State.onPart_byEvents ..)

/-- Step 4 leaves the partitions of the plan Resetting. -/
theorem State.openPlan_opened (s : State) (k : Nat) (m : Image) :
    State.boots { s with start := { s.start with image := some m } } (s.openPlan k m) ∧
      ∀ y ∈ m.sections.plan, (s.openPlan k m).partState y.part = 3 := by
  obtain ⟨u, hu⟩ : ∃ u : State, u = { s with start := { s.start with image := some m } } := ⟨_, rfl⟩
  obtain ⟨v, hv⟩ : ∃ v, v = ((u.loadRegs 0 0x01000000).loadRegs 0x02000000 0x04000000).loadBoard m.sections := ⟨_, rfl⟩
  obtain ⟨x, hx⟩ : ∃ x, x = ((v.setFld .lcStatus 0 0 0 8 8 k).wr .lcImage 0 0 0 (w32 (Image.version m))).setFld .lcReset 0 0 0 6 4
    m.sections.quorum := ⟨_, rfl⟩
  obtain ⟨z, hz⟩ : ∃ z, z = (List.range 8).foldl (fun s p => s.wr .helmPart 0 p 0 0#32)
    { x with parts := x.parts.filter (fun (x : Nat × Part) => m.sections.plan.any (fun y => y.part == x.1)) } := ⟨_, rfl⟩
  have hload : u.byEvents v := by
    rw [hv]
    exact ((u.loadRegs_byRegs ..).events.trans (State.loadRegs_byRegs ..).events).trans (State.loadBoard_byEvents ..)
  have hset : v.byEvents x := by
    rw [hx]
    exact ((v.setFld_byEvents ..).trans (State.wr_byEvents ..)).trans (State.setFld_byEvents ..)
  have hclear : x.byEvents z := by
    rw [hz]
    refine State.byEvents.trans (t := { x with parts := x.parts.filter (fun (x : Nat × Part) => m.sections.plan.any (fun y => y.part == x.1)) })
      rfl (foldl_byEvents _ (fun t _ => t.wr_byEvents ..) _)
  have hrun : s.openPlan k m = m.sections.plan.foldl State.planned z := by rw [hz, hx, hv, hu]; rfl
  rw [hrun, ← hu]
  refine ⟨(((hload.trans hset).trans hclear).trans (foldl_byEvents _ State.planned_byEvents z)).boots, fun y hy => ?_⟩
  refine foldl_reaches (I := fun _ => True) (P := fun t : State => t.partState y.part = 3) (fun _ _ _ _ => trivial) (fun t w _ _ ht => ?_)
    (fun t _ => t.planned_resetting y) hy trivial
  by_cases h : w.part = y.part
  · rw [← h]
    exact t.planned_resetting w
  · exact (t.planned_other h).trans ht

/-! ### Step 5: the clocks (R462, R463, R468, R479) -/

/-- A register other than CLK_CORE of the two dies. -/
def offClkCore (a : Nat) : Prop := a ≠ 0xC0000 ∧ a ≠ 0xC0004

theorem State.clkCore_keepsRegs (s : State) {d : Nat} (hd : d < 2) (hi lo v : Nat) :
    State.keepsRegs offClkCore s (s.setFld .clkCore 0 d 0 hi lo v) := by
  refine s.wr_keepsRegs (fun h => ?_) _
  simp only [offClkCore, Reg.addr, Reg.spec, Blk.base] at h
  omega

theorem State.aim_keepsRegs (s : State) {d : Nat} (hd : d < 2) : State.keepsRegs offClkCore s (s.aim d) := by
  have hthree : State.keepsRegs offClkCore s (((s.setFld .clkCore 0 d 0 14 8 (s.dieTarget d)).setFld .clkCore 0 d 0 19 16 (s.holdCause d)).setFld
      .clkCore 0 d 0 21 21 (b2n (s.linked && s.freq 0 == s.freq 1))) :=
    ((s.clkCore_keepsRegs hd ..).trans (State.clkCore_keepsRegs _ hd ..)).trans (State.clkCore_keepsRegs _ hd ..)
  simp only [State.aim]
  split
  · exact .of_regs rfl
  · split
    · exact hthree.trans (State.clkCore_keepsRegs _ hd ..)
    · split
      · exact hthree.trans (State.clkCore_keepsRegs _ hd ..)
      · exact hthree

theorem State.beginStep_keepsRegs (s : State) {d : Nat} (hd : d < 2) : State.keepsRegs offClkCore s (s.beginStep d) := by
  simp only [State.beginStep]
  split
  · exact .of_regs rfl
  · split
    · exact (s.clkCore_keepsRegs hd ..).trans (.of_regs rfl)
    · split
      · exact (s.clkCore_keepsRegs hd ..).trans (.of_regs rfl)
      · exact .of_regs rfl

theorem State.retarget_keepsRegs (s : State) : State.keepsRegs offClkCore s s.retarget := by
  have haim := (s.aim_keepsRegs (d := 0) (by decide)).trans (State.aim_keepsRegs _ (d := 1) (by decide))
  simp only [State.retarget]
  split
  · exact haim
  · exact (haim.trans (State.beginStep_keepsRegs _ (by decide))).trans (State.beginStep_keepsRegs _ (by decide))

/-- CLK_STATUS as step 5 writes it: every PLL locked, and the references that are there. -/
def State.lockWord (s : State) : Word :=
  let refs (l : List Bool) : Nat := (List.range 4).foldl (fun a i => a + b2n (l.getD i true) * 2 ^ i) 0
  w32 (refs s.pins.sdsRef * 2 ^ 18 + 2 ^ 17 + b2n s.pins.xtal * 2 ^ 16 + (2 ^ s.nStacks - 1) * 16 + b2n (s.pins.pcieRef.getD 0 true) * 8 + 7)

theorem State.lockWord_locked (s : State) : getBits s.lockWord 2 0 = 7 := by
  rw [State.lockWord]
  dsimp only
  generalize (List.range 4).foldl _ 0 = refs
  generalize 2 ^ s.nStacks - 1 = hbms
  rw [getBits, bits, w32, BitVec.toNat_ofNat, Nat.shiftRight_zero]
  omega

/-- Step 5 up to the locks, and up to the frequencies of the dies. -/
def State.locksShown (s : State) : State := State.wr { s with pins := { s.pins with sysRef := true } } .clkStatus 0 0 0 s.lockWord
def State.coresAtFloor (s : State) : State :=
  (List.range 2).foldl (fun t d => (t.setFld .clkCore 0 d 0 6 0 s.floorF).setFld .clkCore 0 d 0 31 22 750)
    (s.onPower (fun x => { x with ceil := s.ceilF }))

theorem State.lockClocks_eq (s : State) : s.lockClocks = s.locksShown.coresAtFloor.retarget := rfl

theorem State.locksShown_locked (s : State) : s.boots s.locksShown ∧ s.locksShown.fld .clkStatus 0 0 0 2 0 = 7 ∧
    State.keepsRegs (fun a => a < 0xC0000) s s.locksShown := by
  rw [State.locksShown]
  generalize hw : s.lockWord = w
  refine ⟨State.boots.trans (t := { s with pins := { s.pins with sysRef := true } }) ⟨rfl, rfl, rfl, rfl⟩ (State.wr_byEvents ..).boots,
    ?_, ?_⟩
  · rw [State.fld, State.rd_wr_same, ← hw]
    exact s.lockWord_locked
  · exact State.keepsRegs.trans (t := { s with pins := { s.pins with sysRef := true } }) (.of_regs rfl)
      (State.wr_keepsRegs (K := fun a => a < 0xC0000) (r := .clkStatus) (b := 0) (i := 0) (j := 0) _ (by decide) w)

theorem State.coresAtFloor_keeps (s : State) : s.boots s.coresAtFloor ∧ State.keepsRegs offClkCore s s.coresAtFloor := by
  constructor
  · exact (foldl_keeps (P := fun t => s.byClocks t) (fun t d ht => (ht.trans (t.setFld_byClocks ..)).trans (State.setFld_byClocks ..)) _
      (s.onPower_byClocks _)).boots
  · refine State.keepsRegs.trans (t := s.onPower (fun x => { x with ceil := s.ceilF })) (.of_regs rfl) (foldl_keepsRegs _ (fun t d hd => ?_) _)
    have hd2 := List.mem_range.1 hd
    exact (t.clkCore_keepsRegs hd2 ..).trans (State.clkCore_keepsRegs _ hd2 ..)

/-- Step 5 locks the PLLs and writes clock registers alone. -/
theorem State.lockClocks_locked (s : State) : s.boots s.lockClocks ∧ s.lockClocks.fld .clkStatus 0 0 0 2 0 = 7 ∧
    State.keepsRegs (fun a => a < 0xC0000) s s.lockClocks := by
  obtain ⟨hboot, hlock, hlow⟩ := s.locksShown_locked
  obtain ⟨hfloor, hcore⟩ := s.locksShown.coresAtFloor_keeps
  have hrest := hcore.trans (State.retarget_keepsRegs _)
  rw [State.lockClocks_eq]
  refine ⟨(hboot.trans hfloor).trans (State.retarget_byClocks _).boots, ?_, hlow.trans (hrest.mono (fun a ha => ?_))⟩
  · exact (hrest.fld_eq (r := .clkStatus) (by simp only [offClkCore]; decide) 2 0).trans hlock
  · simp only [offClkCore]
    omega

/-! ### The Almanac at a start (R417, R420, R422) -/

theorem State.byHistory.boots {s t : State} (h : s.byHistory t) : s.boots t := h.byEvents.boots

theorem State.enterOwed_byHistory (s : State) : s.byHistory s.enterOwed := by
  simp only [State.enterOwed]
  split
  · exact .refl s
  · exact (s.onRel_byHistory _).trans (State.note_byHistory ..)

/-- Reading the Almanac is a change of the fault history, the count of the start, and the incarnation. -/
theorem State.readAlmanac_counted (s : State) : ∃ u, s.byHistory u ∧
    s.readAlmanac = u.programStart.setFld .lnkDevid 0 0 0 27 12 u.programStart.rel.starts := by
  refine ⟨_, ?hist, rfl⟩
  refine State.byHistory.trans (State.byHistory.trans ?_ (State.enterOwed_byHistory _)) (State.onRel_byHistory _ _)
  split <;> exact s.onRel_byHistory _

theorem State.sectors_onSectors (s : State) (f : AlmSectors → AlmSectors) : (s.onSectors f).sectors = f s.sectors :=
  (tabGet_set_same ..).trans rfl

/-- While the sectors have a count word, a start programs one (R420). -/
theorem State.programStart_counted {s : State} {used : Nat} (hu : used = s.sectors.countUsed) (h : used < 16382) :
    s.programStart.rel.starts = s.programStart.rel.base + used + 1 ∧ s.programStart.sectors.countUsed = used + 1 := by
  obtain ⟨v, hv⟩ : ∃ v, v = s.onRel (fun r => { r with base := s.sectors.takeBase }) := ⟨_, rfl⟩
  have hsame : v.sectors.countUsed = used := by rw [hv, hu]; rfl
  have hroom : ¬ v.sectors.countUsed ≥ countWords := by
    rw [hsame, countWords]
    omega
  have hrun : s.programStart = (v.onSectors (fun f =>
      { f with countBase := some (f.countBase.getD v.rel.base), countUsed := v.sectors.countUsed + 1 })).onRel
        (fun r => { r with starts := r.base + (v.sectors.countUsed + 1) }) := by
    rw [State.programStart, ← hv]
    exact if_neg hroom
  have hcount := congrArg AlmSectors.countUsed
    (v.sectors_onSectors (fun f => { f with countBase := some (f.countBase.getD v.rel.base), countUsed := used + 1 }))
  rw [hrun, hsame]
  generalize v.onSectors _ = w at hcount ⊢
  exact ⟨rfl, hcount⟩

theorem State.programStart_same (s : State) : ∃ rel flash, s.programStart = { s with rel := rel, flash := flash } := by
  simp only [State.programStart]
  split <;> exact ⟨_, _, rfl⟩

theorem State.programStart_keeps (s : State) : s.programStart.regs = s.regs ∧ s.programStart.grade = s.grade ∧
    s.programStart.start = s.start ∧ s.programStart.nonce = s.nonce := by
  obtain ⟨rel, flash, h⟩ := s.programStart_same
  rw [h]
  exact ⟨rfl, rfl, rfl, rfl⟩

/-! ### Steps 6 and 7: the links, and the fill (R446) -/

/-- What links and the Meridian do as they begin: nothing below the registers of the links' blocks changes. -/
structure State.byLinks (s t : State) : Prop where
  same : t = { s with regs := t.regs, fabric := t.fabric }
  rd : State.keepsRegs (fun a => a < 0x02000000) s t

theorem State.byLinks.refl (s : State) : s.byLinks s := ⟨rfl, .of_regs rfl⟩

theorem State.byLinks.trans {s t u : State} (h : s.byLinks t) (k : t.byLinks u) : s.byLinks u := by
  refine ⟨?_, h.rd.trans k.rd⟩
  have hs := h.same
  have ks := k.same
  rw [hs] at ks
  exact ks

theorem State.wr_byLinks (s : State) {r : Reg} (h : r.spec.blk = .link ∨ r.spec.blk = .coll) (b i j : Nat) (v : Word) :
    s.byLinks (s.wr r b i j v) := by
  refine ⟨rfl, s.wr_keepsRegs ?_ v⟩
  rcases h with h | h <;> simp only [Reg.addr, h, Blk.base] <;> omega

theorem State.onFabric_byLinks (s : State) (f : Fabric → Fabric) : s.byLinks (s.onFabric f) := ⟨rfl, .of_regs rfl⟩
theorem State.onLink_byLinks (s : State) (l : Nat) (f : Link → Link) : s.byLinks (s.onLink l f) := ⟨rfl, .of_regs rfl⟩

theorem State.merChoose_byLinks (s : State) : s.byLinks s.merChoose := by
  have hmer : ∀ (t : State) (hi lo v : Nat), t.byLinks (t.setFld .collMerStatus 0 0 0 hi lo v) := fun t hi lo v => t.wr_byLinks (.inr rfl) ..
  have hfab := s.onFabric_byLinks (fun f => { f with merPrio := s.merChoice.1.1, merDev := s.merChoice.1.2 })
  simp only [State.merChoose]
  split
  · exact (((hfab.trans (hmer ..)).trans (hmer ..)).trans (hmer ..)).trans (State.onFabric_byLinks ..)
  · next l d _ =>
    have hkeep := ((hfab.trans (hmer _ 29 29 0)).trans (hmer _ 28 24 l)).trans (hmer _ 23 17 d)
    split
    · exact hkeep
    · exact (hkeep.trans (hmer ..)).trans (State.onFabric_byLinks ..)

theorem State.setLinkState_byLinks (s : State) (l st : Nat) : s.byLinks (s.setLinkState l st) := by
  have hstate := s.wr_byLinks (r := .lnkStatus) (.inl rfl) l 0 0 (setBits (s.rd .lnkStatus l) 31 28 st)
  simp only [State.setLinkState]
  split
  · exact hstate
  · exact hstate.trans (State.wr_byLinks _ (.inl rfl) ..)

theorem State.beginLink_byLinks (s : State) (l : Nat) : s.byLinks (s.beginLink l) := by
  have hreason : s.byLinks (s.reason l 0) := s.wr_byLinks (.inl rfl) ..
  simp only [State.beginLink]
  split
  · exact .refl s
  · split
    · exact ((hreason.trans (State.onLink_byLinks ..)).trans (State.setLinkState_byLinks ..)).trans (State.onLink_byLinks ..)
    · exact hreason.trans (State.setLinkState_byLinks ..)

/-- Step 6: the links that are enabled begin. -/
def State.linksBegun (s : State) : State :=
  (List.range 32).foldl (fun s l =>
    let s := s.onLink l (fun x => { x with refLost := !s.pins.sdsRef.getD (l / 8) true })
    if s.linkEnabled l then s.beginLink l else s) ((s.setPhase 7).onFabric (fun f => { f with links := [] })).merChoose

theorem State.linksBegun_begun (s : State) : (s.setPhase 7).byLinks s.linksBegun := by
  have hstart := ((s.setPhase 7).onFabric_byLinks (fun f => { f with links := [] })).trans (State.merChoose_byLinks _)
  refine foldl_keeps (P := fun t => (s.setPhase 7).byLinks t) (fun t l ht => ?_) _ hstart
  have hlink := ht.trans (t.onLink_byLinks l (fun x => { x with refLost := !t.pins.sdsRef.getD (l / 8) true }))
  dsimp only
  split
  · exact hlink.trans (State.beginLink_byLinks ..)
  · exact hlink

theorem Reg.memStatus_inj {a b : Nat} (h : a ≠ b) : Reg.memStatus.addr a 0 0 ≠ Reg.memStatus.addr b 0 0 := by
  rw [Reg.memStatus_addr, Reg.memStatus_addr]
  omega

theorem State.memStatus_other (s : State) {k st : Nat} (h : k ≠ st) (hi lo v hi' lo' : Nat) :
    (s.setFld .memStatus k 0 0 hi lo v).fld .memStatus st 0 0 hi' lo' = s.fld .memStatus st 0 0 hi' lo' :=
  congrArg (getBits · hi' lo') (State.rd_wr_other _ _ _ _ _ _ _ _ _ _ (Reg.memStatus_inj h.symm))

/-- What is done to each of n numbers holds of each of them afterwards. -/
theorem foldl_perStack {f : State → Nat → State} {P : State → Nat → Prop} (hset : ∀ s st, P (f s st) st)
    (hother : ∀ s st k, k ≠ st → P s st → P (f s k) st) {n st : Nat} (h : st < n) (s : State) : P ((List.range n).foldl f s) st := by
  refine foldl_reaches (I := fun _ => True) (P := fun t => P t st) (fun _ _ _ _ => trivial) (fun t k _ _ ht => ?_) (fun t _ => hset t st)
    (List.mem_range.2 h) trivial
  by_cases hk : k = st
  · exact hk ▸ hset t k
  · exact hother t st k hk ht

theorem State.setFld_keepsBelowStacks (s : State) (st hi lo v : Nat) :
    State.keepsRegs (fun a => a < 0x03000000) s (s.setFld .memStatus st 0 0 hi lo v) := by
  refine s.wr_keepsRegs ?_ _
  rw [Reg.memStatus_addr]
  omega

theorem State.setFld_byRegs (s : State) (r : Reg) (b i j hi lo v : Nat) : s.byRegs (s.setFld r b i j hi lo v) := rfl

theorem State.beginFill_eq (s : State) : s.beginFill =
    { (List.range s.linksBegun.nStacks).foldl (fun s st => s.setFld .memStatus st 0 0 2 2 1) s.linksBegun with mem := Mem.init } := rfl

/-- The fill has begun: memory is zero, every stack is initialising, and the registers below the links' blocks but LC_STATUS are as they were. -/
structure State.filled (s t : State) : Prop where
  same : t = { s with regs := t.regs, fabric := t.fabric, mem := Mem.init }
  phase : t.phase = 7
  initialising : ∀ st, st < s.nStacks → t.fld .memStatus st 0 0 2 2 = 1
  rd : State.keepsRegs (fun a => a < 0x02000000 ∧ a ≠ 0xB0000) s t

theorem State.filled.mem_eq {s t : State} (h : s.filled t) : t.mem = Mem.init := (congrArg State.mem h.same :)
theorem State.filled.rel_eq {s t : State} (h : s.filled t) : t.rel = s.rel := (congrArg State.rel h.same :)
theorem State.filled.flash_eq {s t : State} (h : s.filled t) : t.flash = s.flash := (congrArg State.flash h.same :)
theorem State.filled.start_eq {s t : State} (h : s.filled t) : t.start = s.start := (congrArg State.start h.same :)
theorem State.filled.nonce_eq {s t : State} (h : s.filled t) : t.nonce = s.nonce := (congrArg State.nonce h.same :)

theorem State.beginFill_filled (s : State) : s.filled s.beginFill := by
  have hlinks := s.linksBegun_begun
  rw [State.beginFill_eq]
  generalize s.linksBegun = u at hlinks ⊢
  obtain ⟨w, hw⟩ : ∃ w, w = s.setPhase 7 := ⟨_, rfl⟩
  have hphase : w.phase = 7 := hw ▸ s.setPhase_phase (by decide)
  have hset : s.byRegs w := hw ▸ s.setFld_byRegs ..
  have hkept : State.keepsRegs (fun a => a < 0x02000000 ∧ a ≠ 0xB0000) s w := by
    rw [hw]
    refine s.wr_keepsRegs (r := .lcStatus) ?_ _
    simp only [Reg.addr, Reg.spec, Blk.base]
    omega
  rw [← hw] at hlinks
  have hgrade : u.nStacks = s.nStacks := by rw [State.nStacks, hlinks.same, hset, State.nStacks]
  obtain ⟨v, hv⟩ : ∃ v, v = (List.range u.nStacks).foldl (fun s st => s.setFld .memStatus st 0 0 2 2 1) u := ⟨_, rfl⟩
  have hregs : u.byRegs v := hv ▸ foldl_byRegs _ (fun t st => t.setFld_byRegs .memStatus st 0 0 2 2 1) u
  have hlow : State.keepsRegs (fun a => a < 0x03000000) u v := hv ▸ foldl_keepsRegs _ (fun t st _ => t.setFld_keepsBelowStacks st 2 2 1) u
  have hfill : ∀ st, st < s.nStacks → v.fld .memStatus st 0 0 2 2 = 1 := fun st hst => by
    rw [hv]
    exact foldl_perStack (P := fun t st => t.fld .memStatus st 0 0 2 2 = 1) (fun t st => t.fld_setFld_same .memStatus st 0 0 (by decide) 1)
      (fun t st k hne ht => (t.memStatus_other hne ..).trans ht) (hgrade ▸ hst) u
  rw [← hv]
  have hrd : State.keepsRegs (fun a => a < 0x02000000) w v := hlinks.rd.trans (hlow.mono (fun a ha => by omega))
  refine ⟨?_, ?_, hfill, State.keepsRegs.trans (hkept.trans (hrd.mono (fun a ha => ha.1))) (.of_regs rfl)⟩
  · rw [hregs, hlinks.same, hset]
  · exact (hrd.fld_eq (r := .lcStatus) (b := 0) (i := 0) (j := 0) (by decide) 31 28).trans hphase

/-! ### A device start (R420, R443 to R447) -/

/-- The state after step 5, with the Almanac read and the rows mapped. -/
def State.mapped (s : State) : State := s.lockClocks.readAlmanac.loadRowMaps

/-- Steps 5 and the reading of the Almanac: the clocks are locked, partitions stay, and the start is counted (R420). -/
theorem State.mapped_counted (s : State) : s.mapped.grade = s.grade ∧ s.mapped.start = s.start ∧ s.mapped.nonce = s.nonce ∧
    s.mapped.fld .clkStatus 0 0 0 2 0 = 7 ∧ State.keepsRegs (fun a => a < 0x50000) s s.mapped ∧
    (s.sectors.countUsed < 16382 → s.mapped.rel.starts = s.mapped.rel.base + s.sectors.countUsed + 1 ∧
      s.mapped.sectors.countUsed = s.sectors.countUsed + 1) := by
  obtain ⟨hboot, hlock, hlow⟩ := s.lockClocks_locked
  rw [State.mapped]
  generalize s.lockClocks = v at hboot hlock hlow ⊢
  obtain ⟨u, hu, hread⟩ := v.readAlmanac_counted
  obtain ⟨hregs, hgrade, hstart, hnonce⟩ := u.programStart_keeps
  have hub := hboot.trans hu.boots
  have husec : u.sectors = s.sectors := by rw [State.sectors, State.almPlace, hub.flash, hub.start, State.sectors, State.almPlace]
  have hcount := fun h => State.programStart_counted (s := u) (used := s.sectors.countUsed) (by rw [husec]) h
  rw [hread]
  generalize u.programStart = w at hregs hgrade hstart hnonce hcount ⊢
  have hvw : State.keepsRegs (fun a => a ≠ 0x50000) v w := State.keepsRegs.trans ⟨fun r b i j _ => hu.rd_eq r b i j⟩ (.of_regs hregs)
  have hset : w.byRegs (w.setFld .lnkDevid 0 0 0 27 12 w.rel.starts) := State.setFld_byRegs ..
  have hid := w.setFld_keepsRegs (r := .lnkDevid) (b := 0) (i := 0) (j := 0) (K := fun a => a ≠ 0x50000) (by decide) 27 12 w.rel.starts
  generalize w.setFld .lnkDevid 0 0 0 27 12 w.rel.starts = x at hset hid ⊢
  have hkept : State.keepsRegs (fun a => a ≠ 0x50000) v x.loadRowMaps := (hvw.trans hid).trans (.of_regs rfl)
  have hrel : x.rel = w.rel := by rw [hset]
  have hsec : x.loadRowMaps.sectors = w.sectors := by
    have hflash : x.loadRowMaps.flash = w.flash := by rw [hset]; rfl
    have hplace : x.loadRowMaps.start = w.start := by rw [hset]; rfl
    rw [State.sectors, State.almPlace, hflash, hplace, State.sectors, State.almPlace]
  refine ⟨(by rw [hset]; exact hgrade.trans hub.grade), (by rw [hset]; exact hstart.trans hub.start),
    (by rw [hset]; exact hnonce.trans hub.nonce), ?_, ?_, fun h => ?_⟩
  · exact (hkept.fld_eq (r := .clkStatus) (b := 0) (i := 0) (j := 0) (by decide) 2 0).trans hlock
  · exact (hlow.mono (fun a ha => by omega)).trans (hkept.mono (fun a ha => by omega))
  · obtain ⟨hstarts, hused⟩ := hcount h
    rw [hsec]
    refine ⟨?_, hused⟩
    rw [← hrel] at hstarts
    exact hstarts

/-- Steps 5 to 7 of a start, as the facts of the start have them go. -/
def State.bringUp (s : State) (f : StartFacts) : State :=
  if !f.pllOk then s.failStart 9 else
  if (f.stackFail.filter (fun st => decide (st < s.mapped.nStacks))).isEmpty then s.mapped.beginFill
  else s.mapped.failStacks (f.stackFail.filter (fun st => decide (st < s.mapped.nStacks)))

/-- A start with the image that is chosen, or without one. -/
def State.tryImage (s : State) (f : StartFacts) : State := match s.chooseSlot.1 with
  | .error code => State.failStart { s.chooseSlot.2 with start := ⟨none, none⟩ } code
  | .ok k => match s.chooseSlot.2.flash.slot k with
    | none => State.failStart { s.chooseSlot.2 with start := ⟨none, none⟩ } 1
    | some m => (s.chooseSlot.2.openPlan k m).bringUp f

section
variable {s : State} {f : StartFacts} (hclk : s.clockHalt = false) (hphase : s.phase = 1 ∨ s.phase = 2)

/-- The state in which an image is chosen. -/
def State.attempt (s : State) (f : StartFacts) : State := { s with nonce := f.nonce, votes := [] }

theorem deviceStart_idle (h : s.clockHalt = true ∨ s.phase ≠ 1 ∧ s.phase ≠ 2) : deviceStart f s = s := by
  refine if_pos ?_
  rcases h with h | ⟨h1, h2⟩
  · rw [h, Bool.true_or]
  · rw [beq_eq_false_iff_ne.2 h1, beq_eq_false_iff_ne.2 h2, Bool.or_self, Bool.not_false, Bool.or_true]

include hclk hphase in
theorem deviceStart_tries : deviceStart f s = (s.attempt f).tryImage f := by
  have hnow : (s.clockHalt || !(s.phase == 1 || s.phase == 2)) = false := by
    rcases hphase with h | h <;> simp [hclk, h]
  exact if_neg (ne_true_of_eq_false hnow)

theorem State.tryImage_error {code : Nat} (hpick : s.chooseSlot.1 = .error code) :
    s.tryImage f = State.failStart { s.chooseSlot.2 with start := ⟨none, none⟩ } code := by
  simp only [State.tryImage, hpick]

theorem State.tryImage_empty {k : Nat} (hpick : s.chooseSlot.1 = .ok k) (hm : s.chooseSlot.2.flash.slot k = none) :
    s.tryImage f = State.failStart { s.chooseSlot.2 with start := ⟨none, none⟩ } 1 := by
  simp only [State.tryImage, hpick, hm]

theorem State.tryImage_image {k : Nat} {m : Image} (hpick : s.chooseSlot.1 = .ok k) (hm : s.chooseSlot.2.flash.slot k = some m) :
    s.tryImage f = (s.chooseSlot.2.openPlan k m).bringUp f := by
  simp only [State.tryImage, hpick, hm]

end

theorem State.failStacks_fails (s : State) (l : List Nat) : (s.failStacks l).phase = 11 ∧ (s.failStacks l).fld .lcStatus 0 0 0 23 16 = 8 ∧
    s.byEvents (s.failStacks l) := by
  obtain ⟨hphase, hcode, hby⟩ := State.failStart_fails (l.foldl (fun s st => s.setFld .memStatus st 0 0 1 1 1) s) 8
  exact ⟨hphase, hcode, (foldl_byEvents l (fun t st => t.setFld_byEvents .memStatus st 0 0 1 1 1) s).trans hby⟩

section
variable (s : State) (f : StartFacts)

/-- What a start with an image keeps until its end. -/
theorem State.bringUp_keeps : (s.bringUp f).nonce = s.nonce ∧ (s.bringUp f).start = s.start := by
  obtain ⟨-, hstart, hnonce, -⟩ := s.mapped_counted
  rw [State.bringUp]
  generalize s.mapped = d at hstart hnonce ⊢
  split
  · exact ⟨(s.failStart_fails 9).2.2.boots.nonce, (s.failStart_fails 9).2.2.boots.start⟩
  · split
    · exact ⟨d.beginFill_filled.nonce_eq.trans hnonce, d.beginFill_filled.start_eq.trans hstart⟩
    · have hfail := (d.failStacks_fails (f.stackFail.filter (fun st => decide (st < d.nStacks)))).2.2.boots
      exact ⟨hfail.nonce.trans hnonce, hfail.start.trans hstart⟩

theorem State.bringUp_unlocked (h : f.pllOk = false) : (s.bringUp f).phase = 11 ∧ (s.bringUp f).fld .lcStatus 0 0 0 23 16 = 9 := by
  have hrun : s.bringUp f = s.failStart 9 := if_pos (by rw [h]; rfl)
  rw [hrun]
  exact ⟨(s.failStart_fails 9).1, (s.failStart_fails 9).2.1⟩

variable (hpll : f.pllOk = true)
include hpll

theorem State.bringUp_stackFails (h : ∃ st ∈ f.stackFail, st < s.nStacks) : (s.bringUp f).phase = 11 ∧
    (s.bringUp f).fld .lcStatus 0 0 0 23 16 = 8 := by
  obtain ⟨hgrade, -⟩ := s.mapped_counted
  obtain ⟨st, hmem, hst⟩ := h
  have hbad : ¬ (f.stackFail.filter (fun st => decide (st < s.mapped.nStacks))).isEmpty = true := by
    rw [List.isEmpty_iff]
    exact List.ne_nil_of_mem (List.mem_filter.2 ⟨hmem, by rw [State.nStacks, hgrade]; exact decide_eq_true hst⟩)
  have hrun : s.bringUp f = s.mapped.failStacks (f.stackFail.filter (fun st => decide (st < s.mapped.nStacks))) :=
    (if_neg (by rw [hpll]; decide)).trans (if_neg hbad)
  rw [hrun]
  exact ⟨(State.failStacks_fails ..).1, (State.failStacks_fails ..).2.1⟩

/-- A start with an image whose clocks lock and whose stacks train comes to the fill. -/
theorem State.bringUp_fills (h : ∀ st ∈ f.stackFail, s.nStacks ≤ st) : s.mapped.filled (s.bringUp f) := by
  obtain ⟨hgrade, -⟩ := s.mapped_counted
  have hgood : (f.stackFail.filter (fun st => decide (st < s.mapped.nStacks))).isEmpty = true := by
    rw [List.isEmpty_iff, List.filter_eq_nil_iff]
    intro st hmem
    have hle := h st hmem
    rw [State.nStacks, hgrade, decide_eq_true_eq]
    exact Nat.not_lt.2 hle
  have hrun : s.bringUp f = s.mapped.beginFill := (if_neg (by rw [hpll]; decide)).trans (if_pos hgood)
  rw [hrun]
  exact s.mapped.beginFill_filled

end

theorem Mem.init_byteOf (a : Nat) : Mem.init.byteOf a = 0#8 := rfl

/-- What the fill finds, of the state before step 5 (R420, R446). -/
theorem State.filled.started {s t : State} (h : s.mapped.filled t) : t.phase = 7 ∧ (∀ a, t.byteAt a = [0#8]) ∧
    t.fld .clkStatus 0 0 0 2 0 = 7 ∧ (∀ st, st < s.nStacks → t.fld .memStatus st 0 0 2 2 = 1) ∧
    (∀ p, p < 8 → t.partState p = s.partState p) ∧
    (s.sectors.countUsed < 16382 → t.rel.starts = t.rel.base + s.sectors.countUsed + 1 ∧ t.sectors.countUsed = s.sectors.countUsed + 1) := by
  obtain ⟨hgrade, -, -, hlock, hlow, hcount⟩ := s.mapped_counted
  generalize s.mapped = d at h hgrade hlock hlow hcount
  refine ⟨h.phase, fun a => ?_, ?_, fun st hst => ?_, fun p hp => ?_, fun hused => ?_⟩
  · rw [State.byteAt_eq (h.mem_eq ▸ Mem.init_wf), h.mem_eq, Mem.init_byteOf]
  · exact (h.rd.fld_eq (r := .clkStatus) (b := 0) (i := 0) (j := 0) (by decide) 2 0).trans hlock
  · exact h.initialising st (by rw [State.nStacks, hgrade]; exact hst)
  · have haddr : Reg.helmPart.addr 0 p 0 < 0x50000 := by
      simp only [Reg.addr, Reg.spec, Blk.base]
      omega
    exact (h.rd.fld_eq ⟨by omega, by omega⟩ 31 30).trans (hlow.fld_eq haddr 31 30)
  · have hsec : t.sectors = d.sectors := by rw [State.sectors, State.almPlace, h.flash_eq, h.start_eq, State.sectors, State.almPlace]
    rw [h.rel_eq, hsec]
    exact hcount hused

section
variable (s : State) (f : StartFacts)

/-- The state at the end of step 4 with the image of slot k. -/
def State.withImage (k : Nat) (m : Image) : State := (s.attempt f).chooseSlot.2.openPlan k m

/-- The image is in use, and its Almanac is that of the flash before the choice. -/
theorem State.withImage_image (k : Nat) (m : Image) : (s.withImage f k m).start.image = some m ∧ (s.withImage f k m).nonce = f.nonce ∧
    (s.withImage f k m).grade = s.grade ∧ (s.withImage f k m).sectors = s.flash.almanac m.sections.almanacAt ∧
    ∀ y ∈ m.sections.plan, (s.withImage f k m).partState y.part = 3 := by
  obtain ⟨⟨regs, dirs, hchoice⟩, -⟩ := (s.attempt f).chooseSlot_choice
  obtain ⟨hboot, hplan⟩ := (s.attempt f).chooseSlot.2.openPlan_opened k m
  rw [← State.withImage] at hboot hplan
  rw [hchoice] at hboot
  generalize s.withImage f k m = a at hboot hplan ⊢
  refine ⟨congrArg Start.image hboot.start, hboot.nonce, hboot.grade, ?_, hplan⟩
  rw [State.sectors, State.almPlace, hboot.flash, hboot.start]
  rfl

theorem State.tryImage_nonce (u : State) : (u.tryImage f).nonce = u.nonce := by
  obtain ⟨⟨regs, dirs, hchoice⟩, -⟩ := u.chooseSlot_choice
  have hnonce : u.chooseSlot.2.nonce = u.nonce := by rw [hchoice]
  have hfail : ∀ code, (State.failStart { u.chooseSlot.2 with start := ⟨none, none⟩ } code).nonce = u.nonce := fun code =>
    (State.failStart_fails _ code).2.2.boots.nonce.trans hnonce
  cases hpick : u.chooseSlot.1 with
  | error code => rw [State.tryImage_error hpick, hfail]
  | ok k =>
    cases hm : u.chooseSlot.2.flash.slot k with
    | none => rw [State.tryImage_empty hpick hm, hfail]
    | some m => rw [State.tryImage_image hpick hm, (State.bringUp_keeps _ f).1, (State.openPlan_opened _ k m).1.nonce, hnonce]

variable {s f} (hclk : s.clockHalt = false) (hphase : s.phase = 1 ∨ s.phase = 2)
include hclk hphase

theorem deviceStart_image {k : Nat} {m : Image} (hpick : (s.attempt f).chooseSlot.1 = .ok k)
    (hm : (s.attempt f).chooseSlot.2.flash.slot k = some m) : deviceStart f s = (s.withImage f k m).bringUp f :=
  (deviceStart_tries hclk hphase).trans (State.tryImage_image hpick hm)

/-- A start whose clocks lock and whose stacks train comes to the fill, its start counted (R420, R446). -/
theorem deviceStart_fills {k : Nat} {m : Image} (hpick : (s.attempt f).chooseSlot.1 = .ok k)
    (hm : (s.attempt f).chooseSlot.2.flash.slot k = some m) (hpll : f.pllOk = true) (hstacks : ∀ st ∈ f.stackFail, s.nStacks ≤ st) :
    (deviceStart f s).phase = 7 ∧ (∀ a, (deviceStart f s).byteAt a = [0#8]) ∧ (deviceStart f s).fld .clkStatus 0 0 0 2 0 = 7 ∧
      (∀ st, st < s.nStacks → (deviceStart f s).fld .memStatus st 0 0 2 2 = 1) ∧
      (∀ y ∈ m.sections.plan, (deviceStart f s).partState y.part = 3) ∧
      ((s.flash.almanac m.sections.almanacAt).countUsed < 16382 →
        (deviceStart f s).rel.starts = (deviceStart f s).rel.base + (s.flash.almanac m.sections.almanacAt).countUsed + 1 ∧
        (deviceStart f s).sectors.countUsed = (s.flash.almanac m.sections.almanacAt).countUsed + 1) := by
  obtain ⟨-, -, hgrade, hsec, hplan⟩ := s.withImage_image f k m
  have hnum : (s.withImage f k m).nStacks = s.nStacks := by rw [State.nStacks, hgrade, State.nStacks]
  have hfill := State.bringUp_fills (s.withImage f k m) f hpll (by rw [hnum]; exact hstacks)
  obtain ⟨hphase7, hmem, hlock, hinit, hparts, hcount⟩ := hfill.started
  rw [hnum] at hinit
  rw [hsec] at hcount
  rw [deviceStart_image hclk hphase hpick hm]
  exact ⟨hphase7, hmem, hlock, hinit, fun y hy => (hparts _ (State.chooseSlot_parts hpick hm y hy)).trans (hplan y hy), hcount⟩

end

/-! ### Step 9 (R45, R308, R444, R446) -/

/-- A register that an offset names has that offset, and its numbers are in range. -/
theorem Reg.at?_addr {r : Reg} {a : Nat} {x : RegAt} (h : r.at? a = some x) : x.reg.addr x.b x.i x.j = a ∧ x.b < x.reg.spec.blk.count ∧
    x.i < x.reg.spec.n1 ∧ x.j < x.reg.spec.n2 := by
  simp only [Reg.at?, Option.ite_none_left_eq_some, Option.ite_none_right_eq_some, Option.some.injEq] at h
  obtain ⟨hbase, hblock, hplace, rfl⟩ := h
  have hone : (if r.spec.blk.count == 1 then 0 else (a - r.spec.blk.base) / 0x10000) * 0x10000 +
      (if r.spec.blk.count == 1 then a - r.spec.blk.base else (a - r.spec.blk.base) % 0x10000) = a - r.spec.blk.base := by
    split <;> omega
  dsimp only
  generalize (if r.spec.blk.count == 1 then a - r.spec.blk.base else (a - r.spec.blk.base) % 0x10000) = d at *
  generalize (if r.spec.blk.count == 1 then 0 else (a - r.spec.blk.base) / 0x10000) = b at *
  simp only [Bool.or_eq_true, decide_eq_true_eq, not_or, Nat.not_lt, ge_iff_le, Nat.not_le] at hblock
  simp only [Bool.and_eq_true, decide_eq_true_eq, beq_iff_eq] at hplace
  obtain ⟨⟨⟨hi, hj⟩, hstep⟩, -⟩ := hplace
  obtain ⟨hb, hoff⟩ := hblock
  refine ⟨?_, hb, hi, hj⟩
  rw [Reg.addr]
  have hrow := Nat.div_add_mod' (d - r.spec.off) r.spec.s1
  have hcol := Nat.div_add_mod' ((d - r.spec.off) % r.spec.s1) r.spec.s2
  omega

theorem regFind_addr {a : Nat} {x : RegAt} (h : regFind a = some x) : x.reg.addr x.b x.i x.j = a ∧ x.b < x.reg.spec.blk.count ∧
    x.i < x.reg.spec.n1 ∧ x.j < x.reg.spec.n2 := by
  obtain ⟨r, -, hr⟩ := List.exists_of_findSome?_eq_some h
  exact Reg.at?_addr hr

/-- An offset outside the blocks of the cores. -/
def offCores (a : Nat) : Prop := a < 0x01000000 ∨ 0x02000000 ≤ a

theorem State.loadRegs_keepsRegs (s : State) : State.keepsRegs offCores s (s.loadRegs 0x01000000 0x01000000) := by
  simp only [State.loadRegs]
  split
  · exact .of_regs rfl
  · refine foldl_keepsRegs _ (fun t x _ => ?_) s
    split
    · exact .of_regs rfl
    · next hin =>
      split
      · next r hr =>
        refine t.wr_keepsRegs ?_ _
        rw [(regFind_addr hr).1, offCores]
        simp only [ge_iff_le, not_or, Nat.not_lt, Bool.or_eq_true, decide_eq_true_eq] at hin
        omega
      · exact .of_regs rfl

theorem RegAt.codebook_inCores {x : RegAt} (h : x.reg = .convCb4 ∨ x.reg = .convCb8) (hb : x.b < x.reg.spec.blk.count)
    (hi : x.i < x.reg.spec.n1) (hj : x.j < x.reg.spec.n2) : ¬ offCores (x.reg.addr x.b x.i x.j) := by
  rcases h with h | h <;> rw [h] at hb hi hj ⊢ <;> simp only [offCores, Reg.addr, Reg.spec, Blk.base, Blk.count] at * <;> omega

theorem State.loadCodebooks_keepsRegs (s : State) (n : Nat) : State.keepsRegs offCores s (s.loadCodebooks n) := by
  simp only [State.loadCodebooks]
  split
  · exact .of_regs rfl
  · refine foldl_keepsRegs _ (fun t x _ => ?_) s
    split
    · next r hr =>
      split
      · next hbook =>
        obtain ⟨-, hb, hi, hj⟩ := regFind_addr hr
        simp only [Bool.or_eq_true, beq_iff_eq] at hbook
        exact t.wr_keepsRegs (RegAt.codebook_inCores hbook hb hi hj) _
      · exact .of_regs rfl
    · exact .of_regs rfl

/-- Setting frames aside changes a partition alone. -/
theorem State.takeFrames_parts (p n : Nat) : ∀ s : State, ∃ parts, s.takeFrames p n = { s with parts := parts } := by
  induction n with
  | zero => exact fun s => ⟨s.parts, rfl⟩
  | succ n ih =>
    intro s
    simp only [State.takeFrames]
    split
    · next f _ =>
      obtain ⟨parts, h⟩ := ih (s.onPart p (fun x => { x with frames := setAdd x.frames f, freeFrames := setAdd x.freeFrames f }))
      exact ⟨parts, h⟩
    · exact ⟨s.parts, rfl⟩

/-- What step 9 sets up for Helm and the cores: no output, and no register outside the cores' blocks. -/
structure State.furnished (s t : State) : Prop where
  out : t.out = s.out
  rd : State.keepsRegs offCores s t

theorem State.furnished.trans {s t u : State} (h : s.furnished t) (k : t.furnished u) : s.furnished u := ⟨k.out.trans h.out, h.rd.trans k.rd⟩

theorem foldl_furnished {α : Type} (l : List α) {f : State → α → State} (h : ∀ (s : State) x, s.furnished (f s x)) (s : State) :
    s.furnished (l.foldl f s) :=
  foldl_keeps (P := fun t => s.furnished t) (fun _ _ ht => ht.trans (h ..)) l ⟨rfl, .of_regs rfl⟩

theorem State.byRegs.out_eq {s t : State} (h : s.byRegs t) : t.out = s.out := (congrArg State.out h :)

theorem State.takeFrames_furnished (s : State) (p n : Nat) : s.furnished (s.takeFrames p n) := by
  obtain ⟨parts, h⟩ := State.takeFrames_parts p n s
  rw [h]
  exact ⟨rfl, .of_regs rfl⟩

/-- Step 9 up to the state of the partitions. -/
def State.equipped (s : State) : State :=
  let s : State := { s with mem := { s.mem with control := s.helmFrames } }
  let s := (List.range 8).foldl (fun s p => s.takeFrames p (s.quota p PlanPart.frames)) s
  let s := s.loadRegs 0x01000000 0x01000000
  (List.range s.nCores).foldl (fun s n => s.loadCodebooks n) s

theorem State.equipped_furnished (s : State) : s.furnished s.equipped := by
  refine State.furnished.trans (t := { s with mem := { s.mem with control := s.helmFrames } }) ⟨rfl, .of_regs rfl⟩ ?_
  exact ((foldl_furnished _ (fun t p => t.takeFrames_furnished p _) _).trans
    ⟨(State.loadRegs_byRegs ..).out_eq, State.loadRegs_keepsRegs _⟩).trans
    (foldl_furnished _ (fun t n => ⟨(t.loadCodebooks_byRegs n).out_eq, t.loadCodebooks_keepsRegs n⟩) _)

/-- The partitions that were Resetting are Active. -/
def State.activated (s : State) : State :=
  (List.range 8).foldl (fun s p => if s.partState p == 3 then s.setFld .helmPart 0 p 0 31 30 1 else s) s

theorem Reg.helmPart_inj {p q : Nat} (h : p ≠ q) : Reg.helmPart.addr 0 p 0 ≠ Reg.helmPart.addr 0 q 0 := by
  simp only [Reg.addr, Reg.spec]
  omega

theorem State.activated_active (s : State) : s.byRegs s.activated ∧ State.keepsRegs (fun a => 0x10080 ≤ a) s s.activated ∧
    ∀ p, p < 8 → s.partState p = 3 → s.activated.partState p = 1 := by
  have hset : ∀ (t : State) (p : Nat), (t.setFld .helmPart 0 p 0 31 30 1).partState p = 1 := fun t p =>
    t.fld_setFld_same .helmPart 0 p 0 (by decide) 1
  have hother : ∀ (t : State) {p q : Nat}, q ≠ p → (t.setFld .helmPart 0 q 0 31 30 1).partState p = t.partState p := fun t p q h =>
    congrArg (getBits · 31 30) (State.rd_wr_other _ _ _ _ _ _ _ _ _ _ (Reg.helmPart_inj h.symm))
  refine ⟨foldl_byRegs _ (fun t p => ?_) s, foldl_keepsRegs _ (fun t p hp => ?_) s, fun p hp hreset => ?_⟩
  · split
    · exact t.setFld_byRegs ..
    · exact .refl t
  · have hp8 := List.mem_range.1 hp
    split
    · refine t.setFld_keepsRegs ?_ _ _ _
      simp only [Reg.addr, Reg.spec, Blk.base]
      omega
    · exact .of_regs rfl
  · refine foldl_reaches (I := fun t : State => t.partState p = 3 ∨ t.partState p = 1) (P := fun t : State => t.partState p = 1)
      (fun t q _ ht => ?_) (fun t q _ _ ht => ?_) (fun t ht => ?_) (List.mem_range.2 hp) (.inl hreset)
    · by_cases hq : q = p
      · subst hq
        split
        · exact .inr (hset t q)
        · exact ht
      · split
        · rw [hother t hq]
          exact ht
        · exact ht
    · by_cases hq : q = p
      · subst hq
        split
        · exact hset t q
        · exact ht
      · split
        · exact (hother t hq).trans ht
        · exact ht
    · rcases ht with ht | ht
      · rw [if_pos (beq_iff_eq.2 ht)]
        exact hset t p
      · split
        · exact hset t p
        · exact ht

/-- A pending slot that is in use becomes ACTIVE (R444). -/
def State.confirmed (s : State) : State := match s.flash.directory with
  | some (_, _, _, some j) => if j == s.fld .lcStatus 0 0 0 8 8 then { s with flash := s.flash.writeDir (s.fld .lcStatus 0 0 0 8 8) none } else s
  | _ => s

theorem State.confirmed_flash (s : State) : ∃ flash, s.confirmed = { s with flash := flash } := by
  simp only [State.confirmed]
  split
  · split <;> exact ⟨_, rfl⟩
  · exact ⟨s.flash, rfl⟩

/-- FAB_READY_N falls and the phase is that of an operating device. -/
def State.announced (s : State) : State :=
  (State.setFld { s with pins := { s.pins with fabReadyN := false } } .helmCensus 0 0 0 31 31 0).setPhase 10

theorem State.finishStart_eq (s : State) : s.finishStart = s.equipped.activated.confirmed.announced := rfl

/-- What a start that ends leaves: an operating device, and partitions that are Active (R446, R308). -/
structure State.operating (s t : State) : Prop where
  phase : t.phase = 10
  ready : t.pins.fabReadyN = false
  census : t.fld .helmCensus 0 0 0 31 31 = 0
  active : ∀ p, p < 8 → s.partState p = 3 → t.partState p = 1
  out : t.out = s.out
  rd : State.keepsRegs (fun a => 0x02000000 ≤ a) s t

theorem State.announced_operating (s : State) : s.announced.phase = 10 ∧ s.announced.pins.fabReadyN = false ∧
    s.announced.fld .helmCensus 0 0 0 31 31 = 0 ∧ s.announced.out = s.out ∧
    State.keepsRegs (fun a => a ≠ 0x10100 ∧ a ≠ 0xB0000) s s.announced := by
  obtain ⟨u, hu⟩ : ∃ u, u = State.setFld { s with pins := { s.pins with fabReadyN := false } } .helmCensus 0 0 0 31 31 0 := ⟨_, rfl⟩
  have hby : State.byRegs { s with pins := { s.pins with fabReadyN := false } } u := hu ▸ State.setFld_byRegs ..
  have hzero : u.fld .helmCensus 0 0 0 31 31 = 0 := hu ▸ State.fld_setFld_same _ .helmCensus 0 0 0 (by decide) 0
  have hkept : State.keepsRegs (fun a => a ≠ 0x10100 ∧ a ≠ 0xB0000) s u := by
    refine State.keepsRegs.trans (t := { s with pins := { s.pins with fabReadyN := false } }) (.of_regs rfl) ?_
    rw [hu]
    exact State.setFld_keepsRegs _ (r := .helmCensus) (by simp [Reg.addr, Reg.spec, Blk.base]) ..
  have hphase : State.keepsRegs (fun a => a ≠ 0xB0000) u (u.setPhase 10) :=
    u.setFld_keepsRegs (r := .lcStatus) (by simp [Reg.addr, Reg.spec, Blk.base]) ..
  have hpins : u.pins = { s.pins with fabReadyN := false } := (congrArg State.pins hby :)
  rw [State.announced, ← hu]
  refine ⟨u.setPhase_phase (by decide), congrArg Pins.fabReadyN hpins, ?_, hby.out_eq, hkept.trans (hphase.mono (fun a ha => ha.2))⟩
  exact (hphase.fld_eq (r := .helmCensus) (b := 0) (i := 0) (j := 0) (by decide) 31 31).trans hzero

theorem State.finishStart_operating (s : State) : s.operating s.finishStart := by
  obtain ⟨hout, hrd⟩ := s.equipped_furnished
  obtain ⟨hby, hkept, hactive⟩ := s.equipped.activated_active
  obtain ⟨flash, hflash⟩ := s.equipped.activated.confirmed_flash
  obtain ⟨hphase, hready, hcensus, houtA, hrdA⟩ := s.equipped.activated.confirmed.announced_operating
  rw [State.finishStart_eq]
  generalize s.equipped.activated.confirmed.announced = t at *
  generalize s.equipped.activated.confirmed = c at *
  generalize s.equipped.activated = v at *
  generalize s.equipped = u at *
  have hsame : State.keepsRegs (fun _ => True) v c := .of_regs (by rw [hflash])
  have houtC : c.out = v.out := by rw [hflash]
  have hpart : ∀ p, p < 8 → 0x10000 ≤ Reg.helmPart.addr 0 p 0 ∧ Reg.helmPart.addr 0 p 0 < 0x10080 := fun p hp => by
    simp only [Reg.addr, Reg.spec, Blk.base]
    omega
  refine ⟨hphase, hready, hcensus, fun p hp hreset => ?_, ?_, ?_⟩
  · obtain ⟨-, hp2⟩ := hpart p hp
    have hu : u.partState p = 3 := (hrd.fld_eq (.inl (by omega)) 31 30).trans hreset
    have hv := hactive p hp hu
    exact (hrdA.fld_eq ⟨by omega, by omega⟩ 31 30).trans ((hsame.fld_eq trivial 31 30).trans hv)
  · rw [houtA, houtC, hby.out_eq, hout]
  · exact ((hrd.mono (fun a ha => .inr ha)).trans (hkept.mono (fun a ha => by omega))).trans
      ((hsame.mono (fun _ _ => trivial)).trans (hrdA.mono (fun a ha => by omega)))

/-! ### The end of the fill and of the bring-up hold (R265, R446) -/

/-- Every stack is ready. -/
def State.stacksReady (s : State) : State :=
  (List.range s.nStacks).foldl (fun s st => (s.setFld .memStatus st 0 0 2 2 0).setFld .memStatus st 0 0 0 0 1) s

theorem State.stacksReady_ready (s : State) : s.byRegs s.stacksReady ∧ State.keepsRegs (fun a => a < 0x03000000) s s.stacksReady ∧
    ∀ st, st < s.nStacks → s.stacksReady.fld .memStatus st 0 0 2 2 = 0 ∧ s.stacksReady.fld .memStatus st 0 0 0 0 = 1 := by
  refine ⟨foldl_byRegs _ (fun t st => (t.setFld_byRegs ..).trans (State.setFld_byRegs ..)) s,
    foldl_keepsRegs _ (fun t st _ => (t.setFld_keepsBelowStacks ..).trans (State.setFld_keepsBelowStacks ..)) s, fun st hst => ?_⟩
  have hset : ∀ (t : State) (st : Nat), ((t.setFld .memStatus st 0 0 2 2 0).setFld .memStatus st 0 0 0 0 1).fld .memStatus st 0 0 2 2 = 0 ∧
      ((t.setFld .memStatus st 0 0 2 2 0).setFld .memStatus st 0 0 0 0 1).fld .memStatus st 0 0 0 0 = 1 := fun t st =>
    ⟨(State.fld_setFld_other _ .memStatus st 0 0 (.inl (by decide)) 1).trans (t.fld_setFld_same .memStatus st 0 0 (by decide) 0),
      State.fld_setFld_same _ .memStatus st 0 0 (by decide) 1⟩
  exact foldl_perStack (P := fun t st => t.fld .memStatus st 0 0 2 2 = 0 ∧ t.fld .memStatus st 0 0 0 0 = 1) hset
    (fun t st k hne ht => ⟨((State.memStatus_other _ hne ..).trans (t.memStatus_other hne ..)).trans ht.1,
      ((State.memStatus_other _ hne ..).trans (t.memStatus_other hne ..)).trans ht.2⟩) hst s

theorem initialFillDone_waits {s : State} (h : s.clockHalt = true ∨ s.phase ≠ 7) : initialFillDone s = s := by
  refine if_pos ?_
  rcases h with h | h <;> simp [h]

/-- The end of the fill: the stacks are ready, and the start goes on with the hold or to its end. -/
theorem initialFillDone_ready {s : State} (hclk : s.clockHalt = false) (hphase : s.phase = 7) :
    (∀ st, st < s.nStacks → (initialFillDone s).fld .memStatus st 0 0 2 2 = 0 ∧ (initialFillDone s).fld .memStatus st 0 0 0 0 = 1) ∧
    (s.holdEnabled = true → (initialFillDone s).phase = 8) ∧ (s.holdEnabled = false → s.stacksReady.operating (initialFillDone s)) := by
  obtain ⟨hby, -, hready⟩ := s.stacksReady_ready
  have hhold : s.stacksReady.holdEnabled = s.holdEnabled := by rw [State.holdEnabled, hby.events.boots.start, State.holdEnabled]
  have hrun : initialFillDone s = if s.holdEnabled then s.stacksReady.setPhase 8 else s.stacksReady.finishStart := by
    rw [← hhold]
    exact if_neg (by simp [hclk, hphase])
  have haddr : ∀ st, 0x03000000 ≤ Reg.memStatus.addr st 0 0 := fun st => by
    rw [Reg.memStatus_addr]
    omega
  rw [hrun]
  generalize s.stacksReady = u at hready ⊢
  cases h : s.holdEnabled with
  | true =>
    rw [if_pos rfl]
    have hkept : State.keepsRegs (fun a => a ≠ 0xB0000) u (u.setPhase 8) :=
      u.setFld_keepsRegs (r := .lcStatus) (by simp [Reg.addr, Reg.spec, Blk.base]) ..
    have hne : ∀ st, Reg.memStatus.addr st 0 0 ≠ 0xB0000 := fun st => by
      have := haddr st
      omega
    exact ⟨fun st hst => ⟨(hkept.fld_eq (hne st) 2 2).trans (hready st hst).1, (hkept.fld_eq (hne st) 0 0).trans (hready st hst).2⟩,
      fun _ => u.setPhase_phase (by decide), nofun⟩
  | false =>
    rw [if_neg Bool.false_ne_true]
    have hop := u.finishStart_operating
    generalize u.finishStart = t at hop ⊢
    have hle : ∀ st, 0x02000000 ≤ Reg.memStatus.addr st 0 0 := fun st => by
      have := haddr st
      omega
    exact ⟨fun st hst => ⟨(hop.rd.fld_eq (hle st) 2 2).trans (hready st hst).1, (hop.rd.fld_eq (hle st) 0 0).trans (hready st hst).2⟩,
      nofun, fun _ => hop⟩

/-! ### What the aborts of a reset leave (R452) -/

/-- The partitions listed, and those of the groups, are ones that the device has. -/
def State.ranged (s : State) : Prop := (∀ x ∈ s.parts, x.1 < 8) ∧ ∀ x ∈ s.fabric.groups, x.2.part < 8

theorem State.inRange.ranged {s : State} (h : s.inRange) : s.ranged := by
  obtain ⟨hparts, hgroups, -⟩ := h
  exact ⟨fun x hx => (hparts x hx).1, fun x hx => (hgroups x hx).2.1⟩

/-- Flash, fuses and LC_STATUS are as they were. -/
structure State.spares (s t : State) : Prop where
  ranged : t.ranged
  flash : t.flash = s.flash
  fuses : t.fuses = s.fuses
  status : t.rd .lcStatus = s.rd .lcStatus

theorem State.spares.trans {s t u : State} (h : s.spares t) (k : t.spares u) : s.spares u :=
  ⟨k.ranged, k.flash.trans h.flash, k.fuses.trans h.fuses, k.status.trans h.status⟩

theorem foldl_spares {α : Type} (l : List α) {f : State → α → State} (h : ∀ (s : State) x, s.ranged → s.spares (f s x)) {s : State}
    (hs : s.ranged) : s.spares (l.foldl f s) :=
  foldl_keeps (P := fun t => s.spares t) (fun _ _ ht => ht.trans (h _ _ ht.ranged)) l ⟨hs, rfl, rfl, rfl⟩

section
variable {s : State} (hs : s.ranged)
include hs

theorem State.ranged.refl : s.spares s := ⟨hs, rfl, rfl, rfl⟩

theorem State.ranged.gPart (g : Nat) : s.gPart g < 8 := by
  rw [State.gPart, State.group, tabGet]
  cases h : tabFind s.fabric.groups g with
  | none => exact (by decide : Group.init.part < 8)
  | some x => exact hs.2 _ (mem_of_tabFind h)

theorem State.ranged.holder {n p : Nat} (h : s.holder n = some p) : p < 8 := by
  rw [State.holder, Option.map_eq_some_iff] at h
  obtain ⟨x, hx, rfl⟩ := h
  exact hs.1 _ (List.mem_of_find?_eq_some hx)

theorem State.wr_spares {r : Reg} {b i j : Nat} (h : Reg.addr r b i j ≠ 0xB0000) (v : Word) : s.spares (s.wr r b i j v) :=
  ⟨hs, rfl, rfl, State.rd_wr_other _ _ _ _ _ _ _ _ _ _ (fun e => h (e ▸ rfl))⟩

theorem State.coll_spares {r : Reg} (h : r.spec.blk = .coll ∨ r.spec.blk = .core) (b i j : Nat) (v : Word) : s.spares (s.wr r b i j v) :=
  State.wr_spares hs (by rcases h with h | h <;> simp only [Reg.addr, h, Blk.base] <;> omega) v

theorem State.setPart_spares {p : Nat} (hp : p < 8) (x : Part) : s.spares (s.setPart p x) := by
  refine ⟨⟨fun y hy => ?_, hs.2⟩, rfl, rfl, rfl⟩
  rcases mem_tabSet hy with rfl | hy
  · exact hp
  · exact hs.1 y hy

/-- A change of a group that leaves its partition. -/
theorem State.onGroup_spares (g : Nat) {f : Group → Group} (hf : ∀ x, (f x).part = x.part) : s.spares (s.onGroup g f) := by
  refine ⟨⟨hs.1, fun y hy => ?_⟩, rfl, rfl, rfl⟩
  rcases mem_tabSet hy with rfl | hy
  · exact (hf _).trans_lt (hs.gPart g)
  · exact hs.2 y hy

theorem State.sent.spares {t : State} (h : s.sent t) : s.spares t := by
  refine ⟨?_, ?_, ?_, h.rd _ _ _ _ (by decide) (by decide)⟩
  · have hgroups : t.fabric.groups = s.fabric.groups := by rw [h.same]
    exact ⟨h.parts_eq ▸ hs.1, hgroups ▸ hs.2⟩
  · exact (congrArg State.flash h.same :)
  · exact (congrArg State.fuses h.same :)

theorem State.sendMsix_spares (fn : Master) (v : Nat) : s.spares (s.sendMsix fn v) := by
  simp only [State.sendMsix]
  split <;> exact ⟨hs, rfl, rfl, rfl⟩

theorem State.requestVector_spares {p : Nat} (hp : p < 8) (v : Nat) : s.spares (s.requestVector p v) := by
  simp only [State.requestVector]
  split
  · exact State.setPart_spares hs hp _
  · split
    · exact State.sendMsix_spares hs ..
    · have hset := State.setPart_spares hs hp { s.part p with msixHold := setAdd (s.part p).msixHold v }
      exact hset.trans (State.sendMsix_spares hset.ranged ..)

theorem State.setCause_spares {p : Nat} (hp : p < 8) (cause : Nat) : s.spares (s.setCause p cause) := by
  have hor : s.spares (s.orReg .helmIrqStatus 0 p 0 (2 ^ cause)) := State.wr_spares hs (by
    simp only [Reg.addr, Reg.spec, Blk.base]
    omega) _
  simp only [State.setCause]
  split
  · exact hor
  · exact hor.trans (State.requestVector_spares hor.ranged hp _)

theorem State.raise_spares {p : Nat} (hp : p < 8) (cause unit tag value : Nat) : s.spares (s.raise p cause unit tag value) := by
  have hcause := State.setCause_spares hs hp cause
  have hcount := hcause.trans (State.wr_spares hcause.ranged (r := .helmEvqStatus) (b := 0) (i := p) (j := 0) (by
    simp only [Reg.addr, Reg.spec, Blk.base]
    omega) (setBits ((s.setCause p cause).rd .helmEvqStatus 0 p) 31 16
      (min ((s.setCause p cause).fld .helmEvqStatus 0 p 0 31 16 + 1) (2 ^ (31 + 1 - 16) - 1))))
  simp only [State.raise]
  split
  · split
    · exact hcount.trans (State.setCause_spares hcount.ranged hp _)
    · exact hcount
  · have hpart := State.setPart_spares hs hp { s.part p with evq := (s.part p).evq ++ [⟨cause, unit, tag, value⟩] }
    exact hpart.trans (State.setCause_spares hpart.ranged hp _)

end

section
variable {s : State} (hs : s.ranged)
include hs

theorem State.onDest_spares (d : Nat) (f : Dest → Dest) : s.spares (s.onDest d f) := ⟨hs, rfl, rfl, rfl⟩
theorem State.onCore_spares (n : Nat) (f : Core → Core) : s.spares (s.onCore n f) := ⟨hs, rfl, rfl, rfl⟩

/-! Requests (R330, R331) -/

theorem State.answerUnroutable_spares (k : Packet) : s.spares (s.answerUnroutable k) := by
  simp only [State.answerUnroutable]
  split
  · exact hs.refl
  · split
    · exact ⟨hs, rfl, rfl, rfl⟩
    · exact (s.plainPacket_sent ..).spares hs

theorem State.sendRequest_spares (d : Nat) (u : Unacked) : s.spares (s.sendRequest d u) := by
  have hkeep := State.onDest_spares hs d (fun x => { x with unacked := x.unacked ++ [u] })
  have hlaunch := hkeep.trans ((State.launch_sent _ u.pkt).spares hkeep.ranged)
  simp only [State.sendRequest]
  split
  · exact hlaunch
  · exact hlaunch.trans (State.answerUnroutable_spares hlaunch.ranged _)

theorem State.request_spares (typ vc d part group target : Nat) (payload : List Byte) (loc : Option Nat) :
    s.spares (s.request typ vc d part group target payload loc).1 := by
  have hnext := State.onDest_spares hs d (fun x => { x with next := ((s.dest d).next + 1) % 2 ^ 32 })
  simp only [State.request]
  split
  · exact hnext.trans (State.sendRequest_spares hnext.ranged ..)
  · exact hnext.trans ⟨hnext.ranged, rfl, rfl, rfl⟩

omit hs in
theorem State.refill_spares (d n : Nat) : ∀ {s : State}, s.ranged → s.spares (s.refill d n) := by
  induction n with
  | zero => exact fun {s} hs => hs.refl
  | succ n ih =>
    intro s hs
    simp only [State.refill]
    split
    · next u rest _ =>
      split
      · have hwait := State.onDest_spares hs d (fun x => { x with waiting := rest })
        have hsend := hwait.trans (State.sendRequest_spares hwait.ranged d u)
        exact hsend.trans (ih hsend.ranged)
      · exact hs.refl
    · exact hs.refl

theorem State.retireRequest_spares (d q : Nat) : s.spares (s.retireRequest d q) := by
  have hgone := State.onDest_spares hs d (fun x => { x with unacked := x.unacked.filter (fun u => u.pkt.sseq != q) })
  exact hgone.trans (State.refill_spares d 1024 hgone.ranged)

theorem State.sendAborts_spares (g : Nat) : s.spares (s.sendAborts g) := by
  refine foldl_spares _ (fun t m ht => ?_) hs
  split
  · exact ht.refl
  · exact State.request_spares ht ..

/-! Helm's writes, adds and completions (R207, R230, R354) -/

omit hs in
theorem State.poke_spares {p : Nat} (hp : p < 8) (b : List Byte) : ∀ {s : State} (va : Nat), s.ranged → s.spares (s.poke p va b) := by
  have hone : ∀ {s : State} (va : Nat) (x : Byte), s.ranged → s.spares (s.pokeByte p va x) := by
    intro s va x hs
    simp only [State.pokeByte]
    split
    · exact hs.refl
    · next g _ =>
      split
      · next f _ =>
        have hmem : s.spares { s with mem := s.mem.write s.grade (f + (va - g.va)) [x] false } := ⟨hs, rfl, rfl, rfl⟩
        exact hmem.trans ((State.memDo_same s (whoHelm p) (fun m => m.write s.grade (f + (va - g.va)) [x] false)).sent.spares hmem.ranged)
      · exact State.setPart_spares hs hp _
  induction b with
  | nil => exact fun _ hs => hs.refl
  | cons x b ih => exact fun va hs => (hone va x hs).trans (ih _ (hone va x hs).ranged)

theorem State.syncPut_spares (k v : Nat) : s.spares (s.syncPut k v) := by
  have hcount : s.spares ((s.wr .helmSyncCount 0 k 0 (BitVec.ofNat 32 v)).signalCores k v) :=
    (State.wr_spares hs (r := .helmSyncCount) (b := 0) (i := k) (j := 0) (by
      simp only [Reg.addr, Reg.spec, Blk.base]
      omega) (BitVec.ofNat 32 v)).trans ⟨hs, rfl, rfl, rfl⟩
  rw [State.syncPut_eq]
  generalize (s.wr .helmSyncCount 0 k 0 (BitVec.ofNat 32 v)).signalCores k v = t at hcount ⊢
  dsimp only
  split
  · have hor := hcount.trans (State.wr_spares hcount.ranged (r := .helmSyncCtl) (b := 0) (i := k) (j := 0) (by
      simp only [Reg.addr, Reg.spec, Blk.base]
      omega) (t.rd .helmSyncCtl 0 k 0 ||| BitVec.ofNat 32 2))
    exact hor.trans (State.raise_spares hor.ranged (t.part_lt_eight k) ..)
  · exact hcount

theorem State.syncAdd_spares (k amount : Nat) : s.spares (s.syncAdd k amount) := by
  have hput : ∀ {t : State} (v : Nat), s.spares t → s.spares (t.syncPut k v) := fun v ht => ht.trans (State.syncPut_spares ht.ranged k v)
  have hsat : s.spares (s.orReg .helmSyncCtl 0 k 0 4) := State.wr_spares hs (by
    simp only [Reg.addr, Reg.spec, Blk.base]
    omega) _
  simp only [State.syncAdd]
  split
  · have h := hput (min ((s.rd .helmSyncCount 0 k).toNat + amount) 0xFFFFFFFF) hsat
    exact h.trans ⟨h.ranged, rfl, rfl, rfl⟩
  · have h := hput (min ((s.rd .helmSyncCount 0 k).toNat + amount) 0xFFFFFFFF) hs.refl
    exact h.trans ⟨h.ranged, rfl, rfl, rfl⟩

theorem State.complete_spares (n : Nat) (c : Cmd) (cc flags : Nat) : s.spares (s.complete n c cc flags) := by
  have hflags : s.spares (s.orReg .coreFlags n 0 0 flags) := State.coll_spares hs (.inr rfl) ..
  have hsignal : s.spares (s.completeQuiet n c flags) := by
    rw [State.completeQuiet]
    split
    · exact hflags.trans (State.syncAdd_spares hflags.ranged ..)
    · exact hflags
  change s.spares (match (s.completeQuiet n c flags).holder n with
    | some p => if c.irq then (s.completeQuiet n c flags).raise p 0 n c.tag cc else s.completeQuiet n c flags
    | none => s.completeQuiet n c flags)
  split
  · next p hp =>
    split
    · exact hsignal.trans (State.raise_spares hsignal.ranged (hsignal.ranged.holder hp) ..)
    · exact hsignal
  · exact hsignal

theorem State.landFlight_spares (n cc flags : Nat) : s.spares (s.landFlight n cc flags) := by
  simp only [State.landFlight]
  split
  · exact hs.refl
  · have hcore := State.onCore_spares hs n (fun k => { k with stirred := true, flights := k.flights.filter (fun f => f.cc != cc) })
    exact hcore.trans (State.complete_spares hcore.ranged ..)

theorem State.failed_spares (n : Nat) (c : Cmd) (cp cc code flags addr : Nat) : s.spares (s.failed n c cp cc code flags addr) := by
  have hflags : s.spares (s.orReg .coreFlags n 0 0 flags) := State.coll_spares hs (.inr rfl) ..
  exact hflags.trans (State.onCore_spares hflags.ranged n _)

theorem State.failFlight_spares (n cc flags code addr : Nat) : s.spares (s.failFlight n cc flags code addr) := by
  simp only [State.failFlight]
  split
  · exact hs.refl
  · have hcore := State.onCore_spares hs n (fun k => { k with stirred := true, flights := k.flights.filter (fun f => f.cc != cc) })
    exact hcore.trans (State.failed_spares hcore.ranged ..)

/-! Groups that break (R353, R354, R356) -/

theorem State.noteQueue_spares (g : Nat) : s.spares (s.noteQueue g) := by
  have hlen := State.coll_spares hs (r := .collGroupQstat) (.inl rfl) 0 g 0 (setBits (s.rd .collGroupQstat 0 g) 26 16 (s.group g).queue.length)
  exact hlen.trans (State.coll_spares hlen.ranged (.inl rfl) ..)

theorem State.enqueue_spares (g : Nat) (x : Posted) : s.spares (s.enqueue g x) := by
  have hgroup := State.onGroup_spares hs g (f := fun y => { y with
    queue := y.queue ++ [{ x with dseq := y.nextDseq }]
    nextDseq := (y.nextDseq + 1) % 65536 }) (fun _ => rfl)
  exact hgroup.trans (State.noteQueue_spares hgroup.ranged g)

theorem State.unstall_spares (g : Nat) : s.spares (s.unstall g) := by
  simp only [State.unstall]
  split
  · exact hs.refl
  · next d b t _ =>
    split
    · exact hs.refl
    · have hpoke := State.poke_spares (hs.gPart g) b (s.rd64 .collGroupQLo .collGroupQHi 0 g + 64 * ((s.group g).nextDseq % 1024)) hs
      have hgroup := hpoke.trans (State.onGroup_spares hpoke.ranged g (f := fun y => { y with stalled := t }) (fun _ => rfl))
      exact hgroup.trans (State.enqueue_spares hgroup.ranged g d)

theorem State.groupEvent_spares (g : Nat) : s.spares (s.groupEvent g) := by
  simp only [State.groupEvent]
  split
  · exact State.raise_spares hs (hs.gPart g) ..
  · exact hs.refl

theorem State.retireHead_spares (g status : Nat) (hit : Option Nat) : s.spares (s.retireHead g status hit) := by
  simp only [State.retireHead]
  split
  · exact hs.refl
  · next d t _ =>
    have hp : (s.group g).part < 8 := hs.gPart g
    have hgroup := State.onGroup_spares hs g (f := fun y => { y with queue := t, staged := y.staged.filter (fun c => c.dseq != d.dseq) })
      (fun _ => rfl)
    generalize s.onGroup g (fun y => { y with queue := t, staged := y.staged.filter (fun c => c.dseq != d.dseq) }) = a at hgroup ⊢
    have hstatus := hgroup.trans (State.poke_spares hp (leBytes status 4) (d.addr + 48) hgroup.ranged)
    have hentry := hstatus.trans (State.poke_spares hp (leBytes status 4)
      (s.rd64 .collGroupQLo .collGroupQHi 0 g + 64 * (d.dseq % 1024) + 48) hstatus.ranged)
    have hnote := hentry.trans (State.noteQueue_spares hentry.ranged g)
    generalize State.noteQueue _ g = b at hnote ⊢
    have hadd : s.spares (if bit (leAt d.desc 40 4) 31 && b.objHeld (s.group g).part (leAt d.desc 40 4 % 2 ^ 14) then
        b.syncAdd (leAt d.desc 40 4 % 2 ^ 14) (leAt d.desc 44 4) else b) := by
      split
      · exact hnote.trans (State.syncAdd_spares hnote.ranged ..)
      · exact hnote
    generalize (if bit (leAt d.desc 40 4) 31 && b.objHeld (s.group g).part (leAt d.desc 40 4 % 2 ^ 14) then
      b.syncAdd (leAt d.desc 40 4 % 2 ^ 14) (leAt d.desc 44 4) else b) = c at hadd ⊢
    split
    · next a =>
      have hfail := hadd.trans (State.failFlight_spares hadd.ranged d.core d.cc 0 0x44 a)
      exact hfail.trans (State.unstall_spares hfail.ranged g)
    · have hland := hadd.trans (State.landFlight_spares hadd.ranged d.core d.cc 0)
      exact hland.trans (State.unstall_spares hland.ranged g)

omit hs in
theorem State.retireAll_spares (g : Nat) (hit : Option (Nat × Nat)) (l : List Posted) :
    ∀ {s : State} (cause : Nat), s.ranged → s.spares (s.retireAll g hit l cause) := by
  induction l with
  | nil => exact fun _ hs => hs.refl
  | cons d l ih =>
    intro s cause hs
    simp only [State.retireAll]
    split
    · next h _ =>
      have hhead := State.retireHead_spares hs g 4 (some h.2)
      exact hhead.trans (ih 1 hhead.ranged)
    · have hhead := State.retireHead_spares hs g (if d.started then cause else 1) none
      exact hhead.trans (ih 1 hhead.ranged)

theorem State.dropEngines_spares (g : Nat) : s.spares (s.dropEngines g) := by
  have hgroup := State.onGroup_spares hs g (f := fun x => { x with beacons := [], values := [], counts := [] }) (fun _ => rfl)
  have hbeacons := hgroup.trans (foldl_spares (s.group g).beacons (f := fun s b => s.landFlight b.core b.cc 1)
    (fun t b ht => State.landFlight_spares ht ..) hgroup.ranged)
  simp only [State.dropEngines]
  generalize (s.group g).beacons.foldl _ _ = u at hbeacons ⊢
  have hexperts : s.spares (u.onFabric (fun f => { f with experts := f.experts.filter (fun e => e.group != g) })) :=
    hbeacons.trans ⟨hbeacons.ranged, rfl, rfl, rfl⟩
  exact hexperts.trans (foldl_spares _ (fun t e ht => State.landFlight_spares ht ..) hexperts.ranged)

theorem State.breakGroup_spares (g reason status : Nat) (hit : Option (Nat × Nat)) : s.spares (s.breakGroup g reason status hit) := by
  simp only [State.breakGroup]
  split
  · exact hs.refl
  · have hstate := State.coll_spares hs (r := .collGroup) (.inl rfl) 0 g 0 (setBits (s.rd .collGroup 0 g) 31 29 4)
    have hbroken : s.spares (s.setGState g 4 reason) := hstate.trans (State.coll_spares hstate.ranged (.inl rfl) ..)
    generalize s.setGState g 4 reason = a at hbroken ⊢
    have hepoch := hbroken.trans (State.coll_spares hbroken.ranged (r := .collGroupEhi) (.inl rfl) 0 g 0 (w32 ((s.group g).epoch + 1)))
    have hstaged := hepoch.trans (State.onGroup_spares hepoch.ranged g (f := fun y => { y with staged := [] }) (fun _ => rfl))
    have haborts := hstaged.trans (State.sendAborts_spares hstaged.ranged g)
    have hretired := haborts.trans (State.retireAll_spares g hit ((s.group g).queue ++ (s.group g).stalled.map (·.1)) status haborts.ranged)
    have hdropped := hretired.trans (State.dropEngines_spares hretired.ranged g)
    exact hdropped.trans (State.groupEvent_spares hdropped.ranged g)

theorem State.failRequest_spares (d q : Nat) : s.spares (s.failRequest d q) := by
  simp only [State.failRequest]
  split
  · split
    · exact State.breakGroup_spares hs ..
    · exact hs.refl
  · have hretired := State.retireRequest_spares hs d q
    split
    · exact hretired.trans (State.breakGroup_spares hretired.ranged ..)
    · exact hretired

omit hs in
theorem State.drain_spares (n : Nat) : ∀ {s : State}, s.ranged → s.spares (s.drain n) := by
  induction n with
  | zero => exact fun hs => hs.refl
  | succ n ih =>
    intro s hs
    simp only [State.drain]
    split
    · exact hs.refl
    · have hclear : s.spares (s.onFabric (fun f => { f with lost := [] })) := ⟨hs, rfl, rfl, rfl⟩
      have hfail := hclear.trans (foldl_spares s.fabric.lost (f := fun s x => s.failRequest x.1 x.2)
        (fun t x ht => State.failRequest_spares ht ..) hclear.ranged)
      exact hfail.trans (ih hfail.ranged)

/-- The aborts of a reset leave flash, fuses and LC_STATUS (R452). -/
theorem State.abortGroups_spares : s.spares s.abortGroups := by
  have haborts := foldl_spares (s.fabric.groups.filter (fun g => s.gState g.1 == 3)) (f := fun s g => s.sendAborts g.1)
    (fun t g ht => State.sendAborts_spares ht _) hs
  exact haborts.trans (State.drain_spares 300 haborts.ranged)

end

/-! ### Board and warm resets (R448 to R452) -/

/-- The registers with which a reset hands over to start-up: fuses, straps, the step, the cause, and the power brake. -/
def State.rebegun (s : State) (straps step cause brake : Nat) : State :=
  (((s.fuseRegs.strapRegs straps).setPhase step).setFld .lcStatus 0 0 0 3 0 cause).setFld .pwrStatus 0 0 0 4 4 brake

theorem State.rebegun_status (s : State) (straps : Nat) {step : Nat} (hstep : step < 16) (cause brake : Nat) :
    s.byRegs (s.rebegun straps step cause brake) ∧ (s.rebegun straps step cause brake).phase = step ∧
    (s.rebegun straps step cause brake).fld .lcStatus 0 0 0 3 0 = cause % 16 ∧ (s.rebegun straps step cause brake).straps = straps % 4 := by
  have hfuse : s.byRegs s.fuseRegs := rfl
  obtain ⟨u, hu⟩ : ∃ u, u = s.fuseRegs.strapRegs straps := ⟨_, rfl⟩
  have hby : s.byRegs u := by
    rw [hu]
    exact (hfuse.trans (State.setFld_byRegs ..)).trans (State.setFld_byRegs ..)
  have hstraps : u.straps = straps % 4 := hu ▸ (s.fuseRegs.strapRegs_straps straps).1
  have hlast : ∀ (t : State) (hi lo : Nat), (t.setFld .pwrStatus 0 0 0 4 4 brake).fld .lcStatus 0 0 0 hi lo = t.fld .lcStatus 0 0 0 hi lo :=
    fun t hi lo => congrArg (getBits · hi lo) (State.rd_wr_other t .pwrStatus .lcStatus 0 0 0 0 0 0 _ (by decide))
  rw [State.rebegun, ← hu]
  refine ⟨((hby.trans (State.setFld_byRegs ..)).trans (State.setFld_byRegs ..)).trans (State.setFld_byRegs ..), ?_, ?_, ?_⟩
  · exact (hlast _ 31 28).trans ((State.fld_setFld_other _ .lcStatus 0 0 0 (.inl (by decide)) cause).trans (u.setPhase_phase hstep))
  · exact (hlast _ 3 0).trans (State.fld_setFld_same _ .lcStatus 0 0 0 (by decide) cause)
  · exact (hlast _ 13 12).trans ((State.fld_setFld_other _ .lcStatus 0 0 0 (.inl (by decide)) cause).trans
      ((State.setPhase_fld u step (by decide)).trans hstraps))

/-- What a board reset keeps, before start-up begins. -/
def State.boardKept (s : State) : State := { s.powerUp with
  regs := s.regs.filter (fun (x : Nat × Word) => keptByBoard x.1)
  rel := s.rel.logbook
  power := { Power.init with brake := s.power.brake, energyFrac := s.power.energyFrac }
  pins := { s.pins with mainPwrgd := true, sysRstN := true, fabReadyN := true, thermTripN := true, muxRstN := true } }

/-- What a warm reset keeps, before start-up goes on. -/
def State.warmKept (s : State) : State := { s.powerUp with
  regs := s.regs.filter (fun (x : Nat × Word) => keptByWarm x.1)
  rel := s.rel.logbook
  parts := s.parts.foldl (fun (l : Tab Part) (x : Nat × Part) => tabSet l x.1 Part.init x.2.queueOnly) []
  power := { Power.init with brake := s.power.brake, energyFrac := s.power.energyFrac, hotUnits := s.power.hotUnits, missed := s.power.missed }
  start := ⟨s.start.image, none⟩
  pins := { s.pins with fabReadyN := true, muxRstN := true }
  mctpEid := s.mctpEid
  vfHeld := s.vfHeld
  msixTab := s.msixTab }

theorem State.powerUp_empty (s : State) : s.powerUp.cores = [] ∧ s.powerUp.parts = [] ∧ s.powerUp.mem = Mem.init ∧
    s.powerUp.clockHalt = false ∧ s.powerUp.flash = s.flash ∧ s.powerUp.fuses = s.fuses := ⟨rfl, rfl, rfl, rfl, rfl, rfl⟩

theorem State.boardKept_empty (s : State) : s.boardKept.cores = [] ∧ s.boardKept.parts = [] ∧ s.boardKept.mem = Mem.init ∧
    s.boardKept.clockHalt = false ∧ s.boardKept.flash = s.flash ∧ s.boardKept.fuses = s.fuses := by
  have h := s.powerUp_empty
  rw [State.boardKept]
  generalize s.powerUp = t at h ⊢
  exact h

theorem State.warmKept_empty (s : State) : s.warmKept.cores = [] ∧ s.warmKept.mem = Mem.init ∧ s.warmKept.flash = s.flash ∧
    s.warmKept.fuses = s.fuses := by
  obtain ⟨hcores, -, hmem, -, hflash, hfuses⟩ := s.powerUp_empty
  rw [State.warmKept]
  generalize s.powerUp = t at hcores hmem hflash hfuses ⊢
  exact ⟨hcores, hmem, hflash, hfuses⟩

/-- The state in which a warm reset begins: the hosts are told, and the aborts have gone. -/
def State.told (s : State) (cause : Nat) : State :=
  let s := s.ports.foldl (fun s k => s.sendMsix (.pf k) 0) s
  ((List.range 8).foldl (fun s p => if s.partState p == 1 then s.raise p 14 0 0 cause else s) s).abortGroups

theorem State.restart_eq (s : State) (cause : Nat) :
    s.restart cause = (s.told cause).warmKept.rebegun (s.told cause).straps 2 cause (b2n (s.told cause).power.brake) := rfl

theorem State.boardStart_eq (s : State) (straps : Nat) : s.boardStart straps = (if s.clockHalt then s else s.abortGroups).boardKept.rebegun straps 1 1
    (b2n (if s.clockHalt then s else s.abortGroups).power.brake) := rfl

theorem State.told_spares {s : State} (hs : s.ranged) (cause : Nat) : s.spares (s.told cause) := by
  have hports := foldl_spares s.ports (f := fun s k => s.sendMsix (.pf k) 0) (fun t k ht => State.sendMsix_spares ht ..) hs
  simp only [State.told]
  generalize s.ports.foldl _ s = u at hports ⊢
  have hraise : s.spares ((List.range 8).foldl (fun s p => if s.partState p == 1 then s.raise p 14 0 0 cause else s) u) := by
    refine List.foldlRecOn (motive := fun t => s.spares t) (List.range 8) _ hports (fun t ht p hp => ?_)
    split
    · exact ht.trans (State.raise_spares ht.ranged (List.mem_range.1 hp) ..)
    · exact ht
  exact hraise.trans (State.abortGroups_spares hraise.ranged)

theorem State.straps_lt (s : State) : s.straps < 4 := Nat.mod_lt _ (by decide)

/-- A warm reset goes to step 2, and keeps straps, flash and fuses (R448, R452). -/
theorem State.restart_kept {s : State} (hs : s.ranged) (cause : Nat) : (s.restart cause).flash = s.flash ∧ (s.restart cause).fuses = s.fuses ∧
    (s.restart cause).cores = [] ∧ (s.restart cause).mem = Mem.init ∧ (s.restart cause).straps = s.straps := by
  have hspares := State.told_spares hs cause
  rw [State.restart_eq]
  generalize s.told cause = v at hspares ⊢
  obtain ⟨hby, -, -, hstraps⟩ := v.warmKept.rebegun_status v.straps (step := 2) (by decide) cause (b2n v.power.brake)
  obtain ⟨hcores, hmem, hflash, hfuses⟩ := v.warmKept_empty
  generalize v.warmKept.rebegun v.straps 2 cause (b2n v.power.brake) = t at hby hstraps ⊢
  generalize v.warmKept = u at hby hcores hmem hflash hfuses
  refine ⟨hby.events.flash_eq.trans (hflash.trans hspares.flash), hby.events.fuses_eq.trans (hfuses.trans hspares.fuses),
    hby.cores_eq.trans hcores, hby.events.mem_eq.trans hmem, ?_⟩
  have hsame : v.straps = s.straps := congrArg (getBits · 13 12) hspares.status
  rw [hstraps, hsame]
  exact Nat.mod_eq_of_lt s.straps_lt

theorem State.abortGroups_idle {s : State} (hgroups : s.fabric.groups = []) (hlost : s.fabric.lost = []) : s.abortGroups = s := by
  rw [State.abortGroups, hgroups]
  exact State.settled_of_lost hlost

/-- A board reset begins step 1, and keeps flash and fuses (R448). -/
theorem State.boardStart_kept {s : State} (hs : s.ranged) (straps : Nat) : (s.boardStart straps).phase = 1 ∧
    (s.boardStart straps).fld .lcStatus 0 0 0 3 0 = 1 ∧ (s.boardStart straps).straps = straps % 4 ∧ (s.boardStart straps).clockHalt = false ∧
    (s.boardStart straps).cores = [] ∧ (s.boardStart straps).parts = [] ∧ (s.boardStart straps).mem = Mem.init ∧
    (s.boardStart straps).flash = s.flash ∧ (s.boardStart straps).fuses = s.fuses ∧
    (s.clockHalt = true ∨ (s.fabric.groups = [] ∧ s.fabric.lost = []) →
      (s.boardStart straps).rel.ring = s.rel.ring ∧ (s.boardStart straps).rel.fatal = s.rel.fatal) := by
  have hspares : s.spares (if s.clockHalt then s else s.abortGroups) := by
    split
    · exact hs.refl
    · exact State.abortGroups_spares hs
  have hquiet : s.clockHalt = true ∨ (s.fabric.groups = [] ∧ s.fabric.lost = []) → (if s.clockHalt then s else s.abortGroups) = s := by
    rintro (h | ⟨hgroups, hlost⟩)
    · exact if_pos h
    · rw [State.abortGroups_idle hgroups hlost, ite_self]
  rw [State.boardStart_eq]
  generalize (if s.clockHalt then s else s.abortGroups) = v at hspares hquiet ⊢
  obtain ⟨hby, hphase, hcause, hstraps⟩ := v.boardKept.rebegun_status straps (step := 1) (by decide) 1 (b2n v.power.brake)
  obtain ⟨hcores, hparts, hmem, hclk, hflash, hfuses⟩ := v.boardKept_empty
  have hlog : v.boardKept.rel = v.rel.logbook := rfl
  generalize v.boardKept.rebegun straps 1 1 (b2n v.power.brake) = t at hby hphase hcause hstraps ⊢
  generalize v.boardKept = u at hby hcores hparts hmem hclk hflash hfuses hlog
  have hrel : t.rel = u.rel := (congrArg State.rel hby :)
  have hpart : t.parts = u.parts := (congrArg State.parts hby :)
  refine ⟨hphase, hcause, hstraps, hby.events.clockHalt_eq.trans hclk, hby.cores_eq.trans hcores, hpart.trans hparts,
    hby.events.mem_eq.trans hmem, hby.events.flash_eq.trans (hflash.trans hspares.flash),
    hby.events.fuses_eq.trans (hfuses.trans hspares.fuses), fun h => ?_⟩
  rw [hrel, hlog, hquiet h]
  exact ⟨rfl, rfl⟩

theorem boardReset_off {s : State} (straps : Nat) (h : s.bmcOn = false) : boardReset straps s = s := if_neg (ne_true_of_eq_false h)

theorem boardReset_on {s : State} (straps : Nat) (h : s.bmcOn = true) : boardReset straps s = s.boardStart straps := if_pos h

/-- A warm reset by command: at once, or once nothing is left to commit (R452). -/
theorem warmDeviceReset_on {s : State} (hs : s.ranged) (hbmc : s.bmcOn = true) (hclk : s.clockHalt = false) :
    (warmDeviceReset s).flash = s.flash ∧ (warmDeviceReset s).fuses = s.fuses ∧
    (s.rel.writing = none → s.rel.dirty = false → (warmDeviceReset s).phase = 2 ∧ (warmDeviceReset s).fld .lcStatus 0 0 0 3 0 = 2 ∧
      (warmDeviceReset s).cores = [] ∧ (warmDeviceReset s).mem = Mem.init ∧ (warmDeviceReset s).straps = s.straps) ∧
    (s.rel.writing ≠ none ∨ s.rel.dirty = true → (warmDeviceReset s).phase = s.phase ∧
      (warmDeviceReset s).start.resetWait = some (s.start.resetWait.getD 2) ∧ (warmDeviceReset s).cores = s.cores ∧
      (warmDeviceReset s).mem = s.mem) := by
  obtain ⟨u, hu⟩ : ∃ u, u = s.emit (.mgmt 3 true []) := ⟨_, rfl⟩
  have hsame : u = { s with out := u.out } := by rw [hu]; rfl
  have hrun : warmDeviceReset s = u.warmReset 2 := by
    have hon : (!s.bmcOn) = false := by rw [hbmc]; rfl
    have hacc : (!s.clockHalt) = true := by rw [hclk]; rfl
    rw [warmDeviceReset, hon, if_neg Bool.false_ne_true, hacc, hu]
  have hclkU : u.clockHalt = false := by rw [hsame]; exact hclk
  have hrelU : u.rel = s.rel := by rw [hsame]
  have hfar : u.flash = s.flash ∧ u.fuses = s.fuses ∧ u.cores = s.cores ∧ u.mem = s.mem ∧ u.start = s.start ∧ u.phase = s.phase ∧
      u.straps = s.straps := by
    rw [hsame]
    exact ⟨rfl, rfl, rfl, rfl, rfl, rfl, rfl⟩
  obtain ⟨hflash, hfuses, hcores, hmem, hstart, hphase, hstraps⟩ := hfar
  have hranged : u.ranged := by rw [hsame]; exact hs
  rw [hrun, State.warmReset, hclkU, if_neg Bool.false_ne_true, hrelU]
  by_cases hwait : (s.rel.writing.isSome || s.rel.dirty) = true
  · have hwaits : s.rel.writing ≠ none ∨ s.rel.dirty = true := by
      rw [Bool.or_eq_true, Option.isSome_iff_ne_none] at hwait
      exact hwait
    have hno : ¬ (s.rel.writing = none ∧ s.rel.dirty = false) := by
      rintro ⟨h1, h2⟩
      rcases hwaits with h | h
      · exact h h1
      · rw [h2] at h
        cases h
    rw [if_pos hwait]
    cases hpending : u.start.resetWait with
    | some c =>
      rw [Option.isSome_some, if_pos rfl]
      refine ⟨hflash, hfuses, fun h1 h2 => absurd ⟨h1, h2⟩ hno, fun _ => ⟨hphase, ?_, hcores, hmem⟩⟩
      rw [← hstart, hpending, Option.getD_some]
    | none =>
      rw [Option.isSome_none, if_neg Bool.false_ne_true]
      refine ⟨hflash, hfuses, fun h1 h2 => absurd ⟨h1, h2⟩ hno, fun _ => ⟨hphase, ?_, hcores, hmem⟩⟩
      rw [← hstart, hpending, Option.getD_none]
  · obtain ⟨hf, hz, hc, hm, hst⟩ := State.restart_kept hranged 2
    obtain ⟨hp, hl⟩ := u.restart_phase 2
    have hnone : ¬ (s.rel.writing ≠ none ∨ s.rel.dirty = true) := by
      rw [Bool.or_eq_true, Option.isSome_iff_ne_none] at hwait
      exact hwait
    rw [if_neg hwait]
    exact ⟨hf.trans hflash, hz.trans hfuses, fun _ _ => ⟨hp, hl, hc, hm, hst.trans hstraps⟩, fun h => absurd h hnone⟩

/-! ### The obligation -/

/-- The end of a start, as the obligation names it: from a state whose partitions are those of s. -/
theorem State.operating.opens {s u t : State} (h : u.operating t) (hpart : ∀ p, p < 8 → u.partState p = s.partState p) :
    t.phase = 10 ∧ t.pins.fabReadyN = false ∧ t.fld .helmCensus 0 0 0 31 31 = 0 ∧ ∀ p, p < 8 → s.partState p = 3 → t.partState p = 1 :=
  ⟨h.phase, h.ready, h.census, fun p hp hreset => h.active p hp ((hpart p hp).trans hreset)⟩

theorem State.stacksReady_partState (s : State) (p : Nat) (hp : p < 8) : s.stacksReady.partState p = s.partState p :=
  s.stacksReady_ready.2.1.fld_eq (by
    simp only [Reg.addr, Reg.spec, Blk.base]
    omega) 31 30

theorem releaseBringUpHold_refused {s : State} (hbmc : s.bmcOn = true) (h : s.clockHalt = true ∨ s.phase ≠ 8) :
    releaseBringUpHold s = s.emit (.mgmt 4 false []) := by
  have hrefused : (s.clockHalt || s.phase != 8) = true := by
    rcases h with h | h <;> simp [h]
  rw [releaseBringUpHold, hbmc, Bool.not_true, if_neg Bool.false_ne_true, if_pos hrefused]

theorem releaseBringUpHold_ends {s : State} (hbmc : s.bmcOn = true) (hclk : s.clockHalt = false) (hphase : s.phase = 8) :
    releaseBringUpHold s = s.finishStart.emit (.mgmt 4 true []) := by
  have hheld : (s.clockHalt || s.phase != 8) = false := by simp [hclk, hphase]
  rw [releaseBringUpHold, hbmc, Bool.not_true, if_neg Bool.false_ne_true, hheld, if_neg Bool.false_ne_true]

/-- Settles O53: each step of a start and each reset by what its parts leave, the aborts of a reset by `State.spares`. -/
theorem startAndDeviceResets : Obligations.StartAndDeviceResets := by
  intro s hs fails opens
  refine ⟨fun straps => ⟨fun hon => congrArg Host.Outcome.next (if_pos (bne_iff_ne.2 hon)),
      fun hoff => ⟨_, rfl, powerOn_started straps hoff⟩⟩,
    fun f => ?_,
    ⟨fun h => congrArg Host.Outcome.next (initialFillDone_waits h), fun hclk hphase => ⟨_, rfl, ?_⟩⟩,
    ⟨fun h => congrArg Host.Outcome.next (if_pos (by rw [h]; rfl)), fun hbmc h => congrArg Host.Outcome.next (releaseBringUpHold_refused hbmc h),
      fun hbmc hclk hphase => ⟨_, congrArg Host.Outcome.next (releaseBringUpHold_ends hbmc hclk hphase), ?_⟩⟩,
    fun straps => ⟨fun h => congrArg Host.Outcome.next (boardReset_off straps h),
      fun h => ⟨_, congrArg Host.Outcome.next (boardReset_on straps h), State.boardStart_kept hs.ranged straps⟩⟩,
    ⟨fun h => congrArg Host.Outcome.next (if_pos (by rw [h]; rfl)), fun hbmc hclk => ?_,
      fun hbmc hclk => ⟨_, rfl, warmDeviceReset_on hs.ranged hbmc hclk⟩⟩,
    ⟨_, rfl, mainPwrgdFall_halted s⟩, ⟨_, rfl, hubPwrgdFall_off s⟩⟩
  · intro u pick flash
    refine ⟨fun h => congrArg Host.Outcome.next (deviceStart_idle h), fun hclk hphase => ?_⟩
    have htries := deviceStart_tries (f := f) hclk hphase
    refine ⟨_, rfl, (congrArg State.nonce htries).trans (State.tryImage_nonce f _), fun code hpick hcode => ?_, fun k m hpick hm => ?_⟩
    · rw [htries, State.tryImage_error (s := s.attempt f) hpick]
      obtain ⟨hphase11, hfail, -⟩ := State.failStart_fails { (s.attempt f).chooseSlot.2 with start := ⟨none, none⟩ } code
      exact ⟨hphase11, hfail.trans (Nat.mod_eq_of_lt hcode)⟩
    · obtain ⟨himage, -, hgrade, -⟩ := s.withImage_image f k m
      have hrun := deviceStart_image hclk hphase hpick hm
      have hnum : (s.withImage f k m).nStacks = s.nStacks := by rw [State.nStacks, hgrade, State.nStacks]
      refine ⟨?_, fun hpll => hrun ▸ State.bringUp_unlocked _ f hpll, fun hpll hbad => ?_,
        fun hpll hstacks => deviceStart_fills hclk hphase hpick hm hpll hstacks⟩
      · rw [hrun, (State.bringUp_keeps _ f).2, himage]
      · rw [← hnum] at hbad
        exact hrun ▸ State.bringUp_stackFails _ f hpll hbad
  · obtain ⟨hready, hhold, hend⟩ := initialFillDone_ready hclk hphase
    exact ⟨hready, hhold, fun h => (hend h).opens s.stacksReady_partState⟩
  · have hop := s.finishStart_operating
    generalize s.finishStart = t at hop ⊢
    exact ⟨hop.opens (fun _ _ => rfl), congrArg (fun o : List Out => o ++ [.mgmt 4 true []]) hop.out⟩
  · refine congrArg Host.Outcome.next ?_
    rw [warmDeviceReset, hbmc, Bool.not_true, if_neg Bool.false_ne_true, hclk, Bool.not_true]
    exact if_pos hclk

end Sys2Proof.Machine
end
